-- ==== Sys2Proof/Word.lean ====
section
/-! DEFINITION. The word types of R3 (a byte is 8 bits, a halfword 16, a word 32, a doubleword 64)
and the sparse table type in which the state holds numbered things. -/
namespace Sys2Proof

/-- A byte (R3). -/
abbrev Byte := BitVec 8
/-- A halfword (R3). -/
abbrev Half := BitVec 16
/-- A word (R3). -/
abbrev Word := BitVec 32
/-- A doubleword (R3). -/
abbrev Dword := BitVec 64

/-- Numbered things held sparsely: pairs of a number and a value, numbers strictly rising. The
operations over it, and what an absent number stands for, are in Machine/Table.lean. -/
abbrev Tbl (α : Type) := List (Nat × α)

end Sys2Proof
end

