-- ==== Sys2Proof/Config.lean ====
section
/-! DEFINITION. The values the manual leaves open. Each is opaque: it has no body, so nothing can be
proved about it but what holds of every value. -/
namespace Sys2Proof.Config

/-- A fresh open value for each number drawn; State.free is the number of the next one (log entry 5).
Used for the context key of R210 and for the results the manual leaves open on operands. -/
opaque freeValue : Nat → BitVec 64

/-- Which of the results within the bound of R29 an approximate instruction gives: by opcode, format
width and operand bits (log entry 9). -/
opaque approxPick : Nat → Nat → Nat → Nat

/-- Whether firmware bytes carry a valid ML-DSA-65 signature under the fused key digest (R360). The
manual names the algorithm and not its computation (log entry 10). -/
opaque signatureValid : List (BitVec 8) → Bool

/-- The SHAKE256 digest of R360 (log entry 10). -/
opaque shake256 : List (BitVec 8) → BitVec 256

/-- The device's ML-DSA-65 signature over a message (R360; log entry 10). -/
opaque sign : List (BitVec 8) → List (BitVec 8)

/-- The certificate chain of the identity key (R360; log entry 10). -/
opaque certificateChain : List (BitVec 8)

/-- The security version that a firmware image carries (R360; log entry 10). -/
opaque imageVersion : List (BitVec 8) → Nat

/-- Whether an image boots (R360: a bank that fails to boot; log entry 10). -/
opaque imageBoots : List (BitVec 8) → Bool

/-- The boot firmware and the runtime firmware in an image bank: the layout is open (R360; log entry 10). -/
opaque bootStage : List (BitVec 8) → List (BitVec 8)
opaque runtimeStage : List (BitVec 8) → List (BitVec 8)

/-- The boot ROM's bytes (R360; log entry 10). -/
opaque romImage : List (BitVec 8)

/-- The image in both banks at manufacture (R360; log entry 10). -/
opaque factoryImage : List (BitVec 8)

/-- Which of the usable fabric ports carries a request to another package's die, by node die (R357; log entry 49). -/
opaque fabricRoute : Nat → Nat

/-- How many bytes an RDMA frame has, by its operation (0 WRITE, 1 READ, 2 SEND, 3 a READ's answer) and its payload's
bytes (R342, R355; log entry 45). -/
opaque frameBytes : Nat → Nat → Nat

/-- Which of a die's memory links a 64 KiB frame lies behind (R355, R357; log entry 32). -/
opaque linkOf : Nat → Nat

/-- FLOW of a zone at a valve position, by node die, zone and position (R350; log entry 33). -/
opaque flowAt : Nat → Nat → Nat → Nat

/-- How many alarms the latch holds (R358; log entry 34). -/
opaque latchSize : Nat

/-- Package power in W by the time of the reading (R358; log entry 34). -/
opaque packagePower : Nat → Nat

/-- The package's frames, in units of 64 KiB: how much memory is fitted (R284, R340; log entry 37). -/
opaque packageFrames : Nat

end Sys2Proof.Config
end

