-- ==== Sys2Proof/Syntax.lean ====
section
/-! DEFINITION. The syntax: the fields of the 96-bit instruction word (R54) and the one inductive of
all steps of the package, one constructor per row of the table: the 158 Shaoc instructions, which
carry their fields, and the 138 steps of the device's other agents, which carry their operands. -/
namespace Sys2Proof

/-- The type code T (R63); r14 and r15 are the reserved codes. -/
inductive Ty where
  | b32 | s32 | b64 | s64 | f32 | f16 | bf16 | h2 | bh2 | b8 | s8 | b16 | s16 | b128 | r14 | r15
  deriving DecidableEq, Repr

/-- The retain code RT (R59). -/
inductive Retain where
  | none | sa | sb | sc
  deriving DecidableEq, Repr

/-- The fields of an instruction word other than OP (R54). -/
structure Fields where
  w   : Bool
  x   : Bool
  gn  : Bool
  gp  : BitVec 4
  d   : BitVec 9
  sa  : BitVec 9
  sb  : BitVec 9
  sc  : BitVec 9
  rt  : Retain
  i   : Bool
  t   : Ty
  sub : BitVec 6
  imm : Word
  deriving DecidableEq, Repr

/-- The registers a REGISTER_WRITE step names: those of the management window by their offset (R273),
those of a queue interface (R259), and a leaf of the residency firmware. -/
inductive RegName where
  /-- A management-window register by its offset. -/
  | window (offset : Nat)
  /-- Entry `idx` of an interface's PASID table (R259). -/
  | pasid (iface idx : Nat)
  /-- Entry `idx` of an interface's interrupt remap table (R259). -/
  | remap (iface idx : Nat)
  /-- The partition and link an interface is assigned to (R258, R259). -/
  | iface (iface : Nat)
  deriving DecidableEq, Repr

/-- A link or port (R355). -/
inductive PortName where
  | memoryLink (i : Nat) | fabric (i : Nat) | ethernet (i : Nat)
  deriving DecidableEq, Repr

/-- What an uncorrectable error in shared state struck (R359). -/
inductive SharedState where
  /-- Orrery or queue-scheduler entries of one partition. -/
  | partitionEntries (part : Nat)
  /-- Home-slice directories, translation caches' shared state, or a governor. -/
  | package
  deriving DecidableEq, Repr

/-- The protected structures of R359. -/
inductive Structure where
  | l1Data | l1Instr | homeSlice | hartCache | fetchLine | storeRecord | registerFile | scratchpad
  | accumulator | weightPlane | mainMemory
  /-- Orrery and queue-scheduler entries of one partition. -/
  | partitionEntries
  /-- Home-slice directories, translation caches' shared state, and the governor. -/
  | sharedState
  deriving DecidableEq, Repr

/-- The type-2 sensors of R358. -/
inductive Sensor where
  | zone (die zone : Nat) | die (die : Nat) | packagePower | errors (die : Nat) (what : Structure)
  | port (port : PortName)
  deriving DecidableEq, Repr

/-- The AMO operations of a hart (R334 names AMO; the operations are RISC-V's, log entry 8). -/
inductive AmoOp where
  | swap | add | xor | and | or | min | max | minu | maxu
  deriving DecidableEq, Repr

/-- The RDMA operations of R355. -/
inductive RdmaOp where
  | write | read | send
  deriving DecidableEq, Repr

/-- Every step of the package. -/
inductive Instr where
  /-- NOP (R81): Has no effect; only its W and X bits act. -/
  | nop (f : Fields)
  /-- MOV (R81): Writes the source value unchanged to the destination register. -/
  | mov (f : Fields)
  /-- SEL (R81): Writes v[SA] where p[SC] is 1 and the second source where it is 0. -/
  | sel (f : Fields)
  /-- IADD (R74): Integer addition, wrapped or saturated. -/
  | iadd (f : Fields)
  /-- ISUB (R74): Integer subtraction, wrapped or saturated. -/
  | isub (f : Fields)
  /-- IMUL (R74): Writes the low n bits of the integer product. -/
  | imul (f : Fields)
  /-- IMULH (R74): Writes the high half of the exact 2n-bit product. -/
  | imulh (f : Fields)
  /-- IMAD (R74): Writes (a × b + c) wrapped once to the type width. -/
  | imad (f : Fields)
  /-- IDIV (R74): Integer quotient per R21 as a long-latency result. -/
  | idiv (f : Fields)
  /-- IREM (R74): Integer remainder per R21 as a long-latency result. -/
  | irem (f : Fields)
  /-- IMIN (R74): Writes the lesser of two integers, signed or unsigned by type. -/
  | imin (f : Fields)
  /-- IMAX (R74): Writes the greater of two integers, signed or unsigned by type. -/
  | imax (f : Fields)
  /-- IABS (R75): Writes the absolute value, wrapped or saturated. -/
  | iabs (f : Fields)
  /-- INEG (R75): Writes the negation, wrapped or saturated. -/
  | ineg (f : Fields)
  /-- IADDC (R76): Adds with carry-in predicate and writes a carry-out predicate. -/
  | iaddc (f : Fields)
  /-- LEA (R77): Forms a 64-bit address from a base pair and a shifted 32-bit index. -/
  | lea (f : Fields)
  /-- AND (R74): Bitwise AND. -/
  | and (f : Fields)
  /-- OR (R74): Bitwise OR. -/
  | or (f : Fields)
  /-- XOR (R74): Bitwise exclusive OR. -/
  | xor (f : Fields)
  /-- ANDN (R74): Writes a AND NOT b. -/
  | andn (f : Fields)
  /-- NOT (R75): Writes the bitwise complement. -/
  | not (f : Fields)
  /-- SHL (R74): Shifts left by the count modulo the width, filling with zeros. -/
  | shl (f : Fields)
  /-- SHR (R74): Shifts right logically by the count modulo the width. -/
  | shr (f : Fields)
  /-- SAR (R74): Shifts right arithmetically by the count modulo the width. -/
  | sar (f : Fields)
  /-- ROTL (R74): Rotates left by the count modulo the width. -/
  | rotl (f : Fields)
  /-- POPC (R75): Writes the number of set bits as a 32-bit count. -/
  | popc (f : Fields)
  /-- CLZ (R75): Writes the number of leading zero bits. -/
  | clz (f : Fields)
  /-- CTZ (R75): Writes the number of trailing zero bits. -/
  | ctz (f : Fields)
  /-- BREV (R75): Writes the operand with its bits reversed. -/
  | brev (f : Fields)
  /-- BFX (R79): Extracts a bit field given by position and length. -/
  | bfx (f : Fields)
  /-- BFI (R79): Inserts a bit field into v[SC] at a given position and length. -/
  | bfi (f : Fields)
  /-- PRMT (R80): Builds each result byte from eight candidates under a control byte. -/
  | prmt (f : Fields)
  /-- ICMP (R82): Compares integers and writes a predicate, optionally combined with another. -/
  | icmp (f : Fields)
  /-- PSET (R83): Writes a predicate from a 4-bit truth table over two predicates. -/
  | pset (f : Fields)
  /-- PGET (R84): Copies the 16-bit predicate word into a register. -/
  | pget (f : Fields)
  /-- PPUT (R84): Sets masked predicates from register bits. -/
  | pput (f : Fields)
  /-- IDOT4 (R78): Four-way 8-bit dot product plus accumulator, wrapped or saturated. -/
  | idot4 (f : Fields)
  /-- BRA (R85): Branches per lane to an IMM target, possibly splitting the batch. -/
  | bra (f : Fields)
  /-- BRX (R85): Branches per lane to a target held in a register pair. -/
  | brx (f : Fields)
  /-- CALL (R85): Writes the link and transfers to an IMM target. -/
  | call (f : Fields)
  /-- CALLX (R85): Writes the link and transfers to a register target. -/
  | callx (f : Fields)
  /-- RET (R85): Returns to the target in a register pair. -/
  | ret (f : Fields)
  /-- YIELD (R87): Ends the run so other ready batches of the group run first. -/
  | yield (f : Fields)
  /-- FADD (R90): Correctly rounded float addition. -/
  | fadd (f : Fields)
  /-- FSUB (R90): Correctly rounded float subtraction. -/
  | fsub (f : Fields)
  /-- FMUL (R90): Correctly rounded float multiplication. -/
  | fmul (f : Fields)
  /-- FFMA (R90): Fused multiply-add rounded once. -/
  | ffma (f : Fields)
  /-- FMIN (R90): IEEE minimumNumber of two operands. -/
  | fmin (f : Fields)
  /-- FMAX (R90): IEEE maximumNumber of two operands. -/
  | fmax (f : Fields)
  /-- FCMP (R91): Quiet float comparison writing a predicate. -/
  | fcmp (f : Fields)
  /-- FCLASS (R92): Writes a predicate when the operand's class is in the mask. -/
  | fclass (f : Fields)
  /-- FRCP (R93): Approximate reciprocal within 1 ulp. -/
  | frcp (f : Fields)
  /-- FRSQ (R93): Approximate reciprocal square root within 1 ulp. -/
  | frsq (f : Fields)
  /-- FSQRT (R93): Correctly rounded square root as a long-latency result. -/
  | fsqrt (f : Fields)
  /-- FDIV (R93): Correctly rounded division as a long-latency result. -/
  | fdiv (f : Fields)
  /-- FEXP2 (R93): Approximate base-2 exponential. -/
  | fexp2 (f : Fields)
  /-- FLOG2 (R93): Approximate base-2 logarithm. -/
  | flog2 (f : Fields)
  /-- FSIN (R93): Approximate sine in radians. -/
  | fsin (f : Fields)
  /-- FCOS (R93): Approximate cosine in radians. -/
  | fcos (f : Fields)
  /-- FTANH (R93): Approximate hyperbolic tangent. -/
  | ftanh (f : Fields)
  /-- FSIGM (R93): Approximate logistic sigmoid. -/
  | fsigm (f : Fields)
  /-- FFRAC (R93): Fractional part a − floor(a), rounded in rm. -/
  | ffrac (f : Fields)
  /-- FRND (R93): Rounds to an integral value in direction rm. -/
  | frnd (f : Fields)
  /-- FDOT2 (R90): Two-element dot product plus f32 accumulator, rounded once. -/
  | fdot2 (f : Fields)
  /-- FSCALE (R90): Multiplies by 2 to an integer power, rounded once. -/
  | fscale (f : Fields)
  /-- CVTF (R95): Converts between f32, f16 and bf16. -/
  | cvtf (f : Fields)
  /-- CVTFI (R95): Converts a float to an integer with rounding and invalid handling. -/
  | cvtfi (f : Fields)
  /-- CVTIF (R95): Converts an integer to a float in rm. -/
  | cvtif (f : Fields)
  /-- CVTN (R96): Converts two f32 values into narrow elements of a word through a slot. -/
  | cvtn (f : Fields)
  /-- CVTW (R96): Widens one narrow element to its exact f32 value. -/
  | cvtw (f : Fields)
  /-- QNT_COMPUTED (R98): Quantises blocks of lanes with a scale computed over each block. -/
  | qntComputed (f : Fields)
  /-- QNT_GIVEN (R98): Quantises each lane's value with a given scale byte. -/
  | qntGiven (f : Fields)
  /-- DQNT (R99): Dequantises one element with its scale and tensor scale to f32. -/
  | dqnt (f : Fields)
  /-- CMPR (R100): Keeps the two largest of four elements with 2:4 metadata. -/
  | cmpr (f : Fields)
  /-- DPWE (R96): Encodes an f32 value into a DPW8 byte of a word. -/
  | dpwe (f : Fields)
  /-- SCALEQ (R97): Computes the E5M3 block scale for a given blockmax. -/
  | scaleq (f : Fields)
  /-- QSWZ (R102): Swizzles values among the four lanes of a quad. -/
  | qswz (f : Fields)
  /-- QBCAST (R102): Broadcasts one quad lane's value to the quad. -/
  | qbcast (f : Fields)
  /-- QRED (R102): Reduces the four values of a quad in fixed order. -/
  | qred (f : Fields)
  /-- GSHFL (R105): Masked group shuffle arrival, writing lane-selected values on completion. -/
  | gshfl (f : Fields)
  /-- GVOTE (R106): Masked group vote or gather arrival. -/
  | gvote (f : Fields)
  /-- GRED (R107): Masked group reduction arrival with fixed tree order. -/
  | gred (f : Fields)
  /-- GSCAN (R107): Masked group prefix scan arrival. -/
  | gscan (f : Fields)
  /-- GBAR (R108): Masked group barrier arrival; completion orders local writes. -/
  | gbar (f : Fields)
  /-- GMATCH (R105): Masked group match arrival returning equal-value masks. -/
  | gmatch (f : Fields)
  /-- GELECT (R106): Elects the lowest lane of the mask. -/
  | gelect (f : Fields)
  /-- LD (R120): Loads from record, caches, home or memory, or scratchpad after presence. -/
  | ld (f : Fields)
  /-- ST (R121): Stores into the store record or directly into scratchpad or accumulator. -/
  | st (f : Fields)
  /-- ATOM (R123): Atomic read-modify-write returning the old value. -/
  | atom (f : Fields)
  /-- ATOMCAS (R124): Atomic compare-and-swap returning the old value. -/
  | atomcas (f : Fields)
  /-- RED (R123): Atomic reduction with no result. -/
  | red (f : Fields)
  /-- REL (R125): Release fence: parks until the fibre's older accesses are performed. -/
  | rel (f : Fields)
  /-- ACQ (R126): Acquire fence invalidating unowned L1 words. -/
  | acq (f : Fields)
  /-- SYNCF (R126): Release followed by acquire. -/
  | syncf (f : Fields)
  /-- SPTEST (R128): Tests a pointer's window and writes a predicate. -/
  | sptest (f : Fields)
  /-- SPCAST (R129): Builds or converts a generic pointer or extracts its offset. -/
  | spcast (f : Fields)
  /-- OBJQ (R130): Reads a field of an object table entry. -/
  | objq (f : Fields)
  /-- OBJPTR (R130): Forms the pointer of an object access. -/
  | objptr (f : Fields)
  /-- RECDRN (R131): Asks the core to drain the context's record entries soon. -/
  | recdrn (f : Fields)
  /-- RECST (R131): Reads the context's record usage. -/
  | recst (f : Fields)
  /-- PFCH (R132): Prefetches a line into L1 and home or home only. -/
  | pfch (f : Fields)
  /-- CDROP (R132): Drops a line from L1 and optionally from its home. -/
  | cdrop (f : Fields)
  /-- PRSTEST (R132): Tests scratchpad line presence without parking. -/
  | prstest (f : Fields)
  /-- FSPAWN (R135): Creates fibres in empty lanes of the block. -/
  | fspawn (f : Fields)
  /-- FEND (R137): Ends fibres, turning their lanes into helper lanes. -/
  | fend (f : Fields)
  /-- FID (R138): Writes a lane, group, block, span or tag identifier. -/
  | fid (f : Fields)
  /-- FSTAT (R139): Writes a batch, guard, live or count status word. -/
  | fstat (f : Fields)
  /-- CVSET (R142): Arms a convergence register with a round size. -/
  | cvset (f : Fields)
  /-- CVSIGN (R144): Signs a convergence round with no operation. -/
  | cvsign (f : Fields)
  /-- CVWAIT (R144): Waits for the fibre's last signed round to issue or be discarded. -/
  | cvwait (f : Fields)
  /-- BLKBAR (R140): Barrier arrival over every live fibre of the block. -/
  | blkbar (f : Fields)
  /-- SGJOIN (R148): Joins or creates a named group into a handle. -/
  | sgjoin (f : Fields)
  /-- SGLEAVE (R149): Leaves a named group, arriving if not yet arrived. -/
  | sgleave (f : Fields)
  /-- SGARRIVE (R149): Arrives at the member's next phase and returns a phase token. -/
  | sgarrive (f : Fields)
  /-- SGWAIT (R150): Waits for a phase token's phase to complete. -/
  | sgwait (f : Fields)
  /-- SGBAR (R150): Arrives and waits for the phase arrived at. -/
  | sgbar (f : Fields)
  /-- SGVOTE (R151): Arrives with a vote and receives the phase's vote result. -/
  | sgvote (f : Fields)
  /-- SGRED (R151): Arrives with a value and receives the phase's reduction. -/
  | sgred (f : Fields)
  /-- SGBCAST (R151): Arrives and receives the value of the lowest supplying member. -/
  | sgbcast (f : Fields)
  /-- SGQUERY (R152): Reads members, phase, lost count or NEXT at the orrery. -/
  | sgquery (f : Fields)
  /-- SGCLOSE (R152): Marks the group's name closing. -/
  | sgclose (f : Fields)
  /-- MCFG (R162): Signs a round setting the array shape, 2:4 mode and slots. -/
  | mcfg (f : Fields)
  /-- MLDW (R164): Signs a round loading the shadow weight plane. -/
  | mldw (f : Fields)
  /-- MSWAP (R165): Signs a round exchanging active and shadow planes. -/
  | mswap (f : Fields)
  /-- MSTR (R166): Signs a round streaming activation rows into accumulator rows. -/
  | mstr (f : Fields)
  /-- MRDA_F32 (R168): Signs a round reading an accumulator row as f32. -/
  | mrdaF32 (f : Fields)
  /-- MRDA_SLOT (R168): Signs a round reading an accumulator row converted through a slot. -/
  | mrdaSlot (f : Fields)
  /-- MWRA (R169): Signs a round writing four columns of an accumulator row. -/
  | mwra (f : Fields)
  /-- MCLRA (R169): Signs a round clearing accumulator rows. -/
  | mclra (f : Fields)
  /-- MSYNC (R170): Signs and parks until the pier's earlier operations complete. -/
  | msync (f : Fields)
  /-- MQUERY (R171): Signs and parks until its round issues, then reads quadrant state. -/
  | mquery (f : Fields)
  /-- SHDEF (R176): Defines a shape slot from a register image. -/
  | shdef (f : Fields)
  /-- CPT (R178): Issues a shaped copy job between spaces. -/
  | cpt (f : Fields)
  /-- CPCHAIN (R180): Issues a chain of transfer records as one job. -/
  | cpchain (f : Fields)
  /-- CPSEAL (R183): Seals the fibre's unsealed jobs into a numbered batch. -/
  | cpseal (f : Fields)
  /-- CPWAIT (R183): Waits until at most n sealed batches are unfinished. -/
  | cpwait (f : Fields)
  /-- GTH (R178): Issues an indexed gather job. -/
  | gth (f : Fields)
  /-- SCT (R178): Issues an indexed scatter job. -/
  | sct (f : Fields)
  /-- CLJOB (R182): Issues a collective job described by a job card. -/
  | cljob (f : Fields)
  /-- CPQUERY (R184): Reads the status of one of the fibre's batches. -/
  | cpquery (f : Fields)
  /-- CPFILL (R178): Issues a fill job writing a value to every element of a shape. -/
  | cpfill (f : Fields)
  /-- DLSET (R201): Opens or closes the block's step record. -/
  | dlset (f : Fields)
  /-- DLPROG (R201): Adds progress units to the open step. -/
  | dlprog (f : Fields)
  /-- DLEND (R201): Closes the block's step record. -/
  | dlend (f : Fields)
  /-- BSTQ (R203): Reads the die's boost state. -/
  | bstq (f : Fields)
  /-- CNTRD (R204): Reads a block or fibre counter. -/
  | cntrd (f : Fields)
  /-- TMRD (R204): Reads the package nanosecond timer. -/
  | tmrd (f : Fields)
  /-- ZONEQ (R204): Reads state of the executing cluster's coolant zone. -/
  | zoneq (f : Fields)
  /-- TRAP (R193): Raises the TRAP cause with value n. -/
  | trap (f : Fields)
  /-- BRK (R193): Raises BREAKPOINT after issue. -/
  | brk (f : Fields)
  /-- RTE (R192): Returns lanes from handler mode to TRAPPC. -/
  | rte (f : Fields)
  /-- SYSRD (R194): Reads a system register into a pair. -/
  | sysrd (f : Fields)
  /-- SYSWR (R194): Writes a pair into a system register in ascending lane order. -/
  | syswr (f : Fields)
  /-- DBGMB (R199): Posts one outbox word per lane to the die's eyepiece. -/
  | dbgmb (f : Fields)
  /-- WFE (R200): Waits for the group's event flag and clears it. -/
  | wfe (f : Fields)
  /-- SEV (R200): Sets the event flag of every group of the block. -/
  | sev (f : Fields)
  /-- HALT (R197): Sets the issuing group's HALTMASK bit. -/
  | halt (f : Fields)
  /-- UDF (R66): Always raises ILLEGAL_OPCODE. -/
  | udf (f : Fields)
  /-- ISSUE_SCHEDULER_PICK (R219): An idle issue scheduler picks a group and batch, merges batches and runs up to 24 instructions. -/
  | issueSchedulerPick (pier sched : Nat)
  /-- LINE_REFETCH_RETURN (R50): A refetched line after a parity mismatch returns and issue proceeds or faults. -/
  | lineRefetchReturn (pier sched : Nat)
  /-- L1_FILL_RETURN (R231): A fill returns to an L1 and installs eligible words. -/
  | l1FillReturn (pier k : Nat)
  /-- LOAD_RETURN (R120): A load's value returns and its destination is written. -/
  | loadReturn (k : Nat)
  /-- L_RESULT_WRITE (R56): A long-latency result is written and W-parked groups may resume. -/
  | lResultWrite (k : Nat)
  /-- PRESENCE_TIMEOUT (R122): A park on an absent line reaches 2^24 cycles. -/
  | presenceTimeout (blk grp : Nat)
  /-- GROUP_DEMOTE (R217): An active group parked 64 cycles moves to the pending set. -/
  | groupDemote (blk grp : Nat)
  /-- GROUP_PROMOTE (R217): A pending group ready for 4,096 cycles replaces the oldest active group. -/
  | groupPromote (blk grp : Nat)
  /-- STORE_RECORD_DRAIN (R230): A record entry meeting its conditions drains at its home. -/
  | storeRecordDrain (core entry : Nat)
  /-- OWNERSHIP_REQUEST (R229): A home serves an ownership request, records the owner and sends revokes. -/
  | ownershipRequest (core entry word : Nat)
  /-- REVOKE_RECEIVED (R229): A core receives a revoke and drains or cedes, then acknowledges. -/
  | revokeReceived (k : Nat)
  /-- ACK_RECEIVED (R229): An acknowledgement lowers the entry's ACKS. -/
  | ackReceived (k : Nat)
  /-- ATOMIC_PERFORM (R124): An atomic or reduction is performed at its home or scratchpad port. -/
  | atomicPerform (k : Nat)
  /-- HOST_ATOMIC_COMPLETE (R124): The host completes a PCIe AtomicOp, possibly with error status. -/
  | hostAtomicComplete (k : Nat) (err : Bool)
  /-- HOST_WRITE_COMPLETE (R234): The host completes a CXL.cache write of a drained host entry. -/
  | hostWriteComplete (core entry : Nat)
  /-- HOST_CXL_READ (R234): A host CXL.mem read is performed at the word's home. -/
  | hostCxlRead (addr size : Nat) (cache : Bool)
  /-- HOST_CXL_WRITE (R234): A host CXL.mem write is performed at the home after revoking owners. -/
  | hostCxlWrite (addr : Nat) (bytes : List Byte)
  /-- SG_JOIN_HANDLED (R245): The home orrery handles a join, creating or joining a group. -/
  | sgJoinHandled (k : Nat)
  /-- SG_ARRIVAL_HANDLED (R150): The orrery records an arrival and completes the phase when all have arrived. -/
  | sgArrivalHandled (k : Nat)
  /-- MATRIX_OP_ISSUE (R155): An operation at the head of the pier's queue is checked and started. -/
  | matrixOpIssue (pier : Nat)
  /-- FUSED_STREAM_START (R163): A fused stream starts once all paired MSTRs reach their queue heads. -/
  | fusedStreamStart (pier : Nat)
  /-- MATRIX_OP_COMPLETE (R158): A matrix operation completes its reads and writes. -/
  | matrixOpComplete (pier : Nat)
  /-- COPY_JOB_START (R178): A job starts after its release conditions and footprint ordering hold. -/
  | copyJobStart (job : Nat)
  /-- COPY_JOB_COMPLETE (R179): A job completes, sets its presence bits and counts toward its batch. -/
  | copyJobComplete (job : Nat)
  /-- COPY_JOB_FAIL (R181): A per-element fault fails the job and reports COPY_FAILED. -/
  | copyJobFail (job : Nat)
  /-- COPY_PRESENCE_TIMEOUT (R179): A job's wait for presence reaches 2^24 cycles and the job fails. -/
  | copyPresenceTimeout (job : Nat)
  /-- CHAIN_RECORD_START (R180): The engine reads and checks the next chain record and starts it. -/
  | chainRecordStart (job : Nat)
  /-- CHAIN_RECORD_FINISH (R180): A chain record finishes; CTL and completion word are written. -/
  | chainRecordFinish (job : Nat)
  /-- COLLECTIVE_RENDEZVOUS (R182): P ranks of one name meet at the orrery and the instance starts. -/
  | collectiveRendezvous (job : Nat)
  /-- COLLECTIVE_COMPLETE (R182): A collective instance completes and writes completion words. -/
  | collectiveComplete (die k : Nat)
  /-- SPAN_DISPATCH (R213): A span's blocks are dispatched together into one cluster. -/
  | spanDispatch (tag die cluster first : Nat)
  /-- LEASE_PIN_COMPLETE (R282): All lease pages of a launch are resident and pinned, so dispatch may begin. -/
  | leasePinComplete (tag : Nat)
  /-- DOORBELL_TAIL (R262): A TAIL doorbell write advances the queue's TAIL. -/
  | doorbellTail (iface size : Nat) (value : Dword)
  /-- DOORBELL_EVHEAD (R262): An EVHEAD doorbell write records consumed events. -/
  | doorbellEvhead (iface size : Nat) (value : Dword)
  /-- QUEUE_MAP (R261): The queue scheduler maps a ready queue onto a hardware slot. -/
  | queueMap (queue : Nat)
  /-- QUEUE_UNMAP (R261): A mapped queue is unmapped and its state written back. -/
  | queueUnmap (queue : Nat)
  /-- REQUEST_ACCEPT (R265): The device accepts and checks the next request packet. -/
  | requestAccept (queue : Nat)
  /-- LAUNCH (R269): A LAUNCH packet starts a launch after record checks. -/
  | launch (queue : Nat)
  /-- WAITVAL (R266): A WAITVAL holds the queue until its memory condition holds. -/
  | waitval (queue : Nat)
  /-- WAITVAL_POLL (R266): A WAITVAL re-reads its word at most every 1 µs. -/
  | waitvalPoll (queue : Nat)
  /-- WRITEVAL (R266): A WRITEVAL writes its value at the home or host. -/
  | writeval (queue : Nat)
  /-- COPYJOB (R264): A COPYJOB runs a chain or card on a die's engine complex. -/
  | copyjob (queue : Nat)
  /-- MARKER (R264): A MARKER packet marks a point in the queue. -/
  | marker (queue : Nat)
  /-- TIMESTAMP (R264): A TIMESTAMP packet writes the TMRD timer to memory. -/
  | timestamp (queue : Nat)
  /-- EVENT_WRITE (R267): The device writes an event record when the event ring has room. -/
  | eventWrite (queue : Nat)
  /-- LAUNCH_COMPLETE (R292): A launch completes and its fault record and COMPLETE event are written. -/
  | launchComplete (tag : Nat)
  /-- TAG_RELEASE (R296): A quarantined tag's requests have drained and FREE is set. -/
  | tagRelease (tag : Nat)
  /-- LAUNCH_TERMINATE (R292): A launch is terminated across the node. -/
  | launchTerminate (tag : Nat)
  /-- TERMINATION_OVERDUE (R306): A launch still terminating after 10 ms triggers tenant capture. -/
  | terminationOverdue (tag : Nat)
  /-- SLICE_END (R297): A time slice ends and clusters are chosen for pre-emption. -/
  | sliceEnd (part : Nat)
  /-- PREEMPT_REQUEST (R298): A cluster chooses drain, save or discard for each launch. -/
  | preemptRequest (die cluster : Nat) (evac : Bool)
  /-- PREEMPT_DEADLINE_EXPIRY (R298): An unfinished drain becomes a save at the deadline. -/
  | preemptDeadlineExpiry (die cluster tag : Nat)
  /-- CONTEXT_SAVE (R300): A block is saved into its image slot. -/
  | contextSave (blk : Nat)
  /-- CONTEXT_RESTORE (R304): A saved block is restored onto a pier and issues again. -/
  | contextRestore (tag span die cluster first : Nat)
  /-- EVACUATION_ABANDON (R305): An evacuation save unfinished after 1 ms is abandoned with EVACUATED. -/
  | evacuationAbandon (tag : Nat)
  /-- TENANT_RESET (R306): A partition is frozen, captured and reset. -/
  | tenantReset (part : Nat)
  /-- APPLY (R340): Puts a partition entry's fields into effect or refuses them. -/
  | apply (part : Nat)
  /-- PARTITION_RESET (R339): Writing RESET starts capture and reset of the partition. -/
  | partitionReset (part : Nat)
  /-- FORCE (R344): FORCE makes a waiting shrink save displaced cooperative launches. -/
  | force (part : Nat) (on : Bool)
  /-- CFGERR_CLEAR (R339): Writing 1 clears CFGERR. -/
  | cfgerrClear (part : Nat)
  /-- RDONE_CLEAR (R339): Writing 1 clears RDONE. -/
  | rdoneClear (part : Nat)
  /-- PIER_RELEASE (R344): A removed pier with nothing resident and an empty record is cleared and released. -/
  | pierRelease (pier : Nat)
  /-- BUDGET_PERIOD (R343): At each 10 µs period boundary budget use restarts and waiting operations are admitted. -/
  | budgetPeriod
  /-- L1CTL_WRITE (R309): A write of L1CTL powers a pier's L1 caches off or on. -/
  | l1ctlWrite (pier : Nat) (value : Dword)
  /-- SLICECTL_DROP (R341): DROP invalidates every clean copy in the slice. -/
  | slicectlDrop (pier : Nat)
  /-- SLICECTL_POWER (R341): OFF or WAYOFF powers the slice's data array or ways on or off. -/
  | slicectlPower (pier : Nat) (value : Dword)
  /-- HALTMASK_WRITE (R197): Setting a group's HALTMASK bit halts it at the end of its run. -/
  | haltmaskWrite (blk : Nat) (value : Dword)
  /-- EYEST_ACK (R330): A write of EYEST INCNT removes the oldest inbox words. -/
  | eyestAck (die count : Nat)
  /-- XLFENCE_GO (R281): Starts a translation fence, by SYSWR or the management mirror. -/
  | xlfenceGo
  /-- XLFENCE_COMPLETE (R281): Every translation using invalidated entries has completed and the fence ends. -/
  | xlfenceComplete (k : Nat)
  /-- REGISTER_WRITE (R194): A write to a register with no behaviour of its own. -/
  | registerWrite (reg : RegName) (value : Dword)
  /-- INBOX_WRITE (R198): The host writes an eyepiece inbox word, placed or refused. -/
  | inboxWrite (die : Nat) (word : Dword)
  /-- OUTBOX_READ (R273): A management read returns and removes the oldest outbox entry. -/
  | outboxRead (die : Nat)
  /-- MIGRATION_GO (R286): Starts a physical frame copy in a die's migration block. -/
  | migrationGo (die : Nat)
  /-- MIGRATION_COMPLETE (R288): The migration copy ends and BUSY clears. -/
  | migrationComplete (die : Nat)
  /-- PAGE_REQUEST_RESPONSE (R271): A PRI response arrives and is applied or dropped as stale. -/
  | pageRequestResponse (part : Nat) (gen : BitVec 4) (pasid page : Nat) (ok : Bool)
  /-- HOST_INVALIDATION (R270): A host invalidation of a leased page is completed at once. -/
  | hostInvalidation (pasid page : Nat)
  /-- HOST_LINK_DOWN (R258): A host link fails to train or goes down and its interfaces stop. -/
  | hostLinkDown (link : Nat)
  /-- GOVERNOR_INTERVAL (R316): At each 10 µs boundary the governor chooses steps, cadences and permits. -/
  | governorInterval (die : Nat)
  /-- SUPPLY_SETTLED (R313): A raised supply settles and the cluster's bias and clock change. -/
  | supplySettled (die : Nat)
  /-- CANARY_WARNING (R314): A canary warning raises the die's supply offset. -/
  | canaryWarning (die : Nat)
  /-- CANARY_DECAY (R314): Each millisecond without a warning lowers the offset. -/
  | canaryDecay (die : Nat)
  /-- DROOP_WARNING (R315): The current limiter forces CADENCE 16 in the cluster. -/
  | droopWarning (die cluster : Nat)
  /-- LIMITER_RESTORE (R315): After 2 µs without warning the limiter restores the governor's cadence. -/
  | limiterRestore (die cluster : Nat)
  /-- GOVSTAT_RISK_CLEAR (R323): Writing 1 clears GOVSTAT.RISK. -/
  | govstatRiskClear (die : Nat)
  /-- GOVSTAT_CANARY_CLEAR (R323): Writing 1 clears GOVSTAT.CANARY. -/
  | govstatCanaryClear (die : Nat)
  /-- GATE_COMMIT (R320): A requested gate commits once the cluster's records are empty. -/
  | gateCommit (die cluster : Nat)
  /-- CLUSTER_WAKE (R320): A gated cluster wakes after 2 µs and takes the pending dispatch. -/
  | clusterWake (die cluster : Nat)
  /-- CALLOC_WRITE (R347): A coolant allocation write takes effect at the next boundary or is refused. -/
  | callocWrite (part : Nat) (value : Dword)
  /-- ZONE_BOUNDARY (R349): At each 10 µs boundary a zone recomputes CAP, HEATOK and valve position. -/
  | zoneBoundary (die zone : Nat)
  /-- ZONE_TRAP (R351): A sensor condition held 100 µs raises its zone trap. -/
  | zoneTrap (die zone bit : Nat)
  /-- ZONE_DRY (R352): Low DP with a fast temperature rise for 2 ms makes a zone DRY and starts evacuation. -/
  | zoneDry (die zone : Nat)
  /-- PRIMING_STEP (R352): A priming valve phase of 50 ms or 200 ms expires and the check runs. -/
  | primingStep (die zone : Nat)
  /-- ZONE_CLOSE (R352): ZCTL CMD 1 closes a WET zone. -/
  | zoneClose (die zone : Nat)
  /-- ZONE_PRIME (R352): ZCTL CMD 2 primes a CLOSED or FAILED zone. -/
  | zonePrime (die zone : Nat)
  /-- ZONE_CMD_RESERVED (R348): ZCTL CMD 3 is ignored and sets CSTAT.CERR. -/
  | zoneCmdReserved (die zone : Nat)
  /-- ZSTAT_TRAP_CLEAR (R348): Writing 1 clears a zone TRAP bit. -/
  | zstatTrapClear (die zone : Nat) (mask : BitVec 4)
  /-- ZSTAT_ALARM_CLEAR (R348): Writing 1 clears a zone ALARM bit. -/
  | zstatAlarmClear (die zone : Nat)
  /-- CSTAT_CERR_CLEAR (R353): Writing 1 clears CSTAT.CERR. -/
  | cstatCerrClear
  /-- MOISTURE (R353): The leak sensor fires; clusters slow, dispatch stops and SHUTREQ is asserted. -/
  | moisture
  /-- FLIT_CRC_RETRY (R357): A flit failing its CRC is retried. -/
  | flitCrcRetry (port : PortName)
  /-- LINK_RETRAIN (R357): A link not recovered within 1 ms retrains. -/
  | linkRetrain (port : PortName)
  /-- MEMORY_LINK_LOST (R357): A memory link down 10 ms has its frames poisoned and raises an alarm. -/
  | memoryLinkLost (link : Nat)
  /-- NODE_MEMBER_LOST (R357): A package unreachable for 10 ms causes warm resets of the others. -/
  | nodeMemberLost (package : Nat)
  /-- UNCORRECTABLE_SHARED_STATE (R359): An uncorrectable error in shared state triggers a warm reset or tenant capture. -/
  | uncorrectableSharedState (what : SharedState)
  /-- PATROL_SCRUB (R359): A patrol scrub reads and corrects every memory chunk once per 24 h. -/
  | patrolScrub (chunk : Nat)
  /-- WARM (R361): A package warm reset freezes, captures, resets and resumes the package. -/
  | warm
  /-- POWER_ON (R360): Power-on runs the verified boot chain and measurements. -/
  | powerOn
  /-- FIRMWARE_WATCHDOG (R361): The firmware watchdog expires and starts a warm reset with cause 4. -/
  | firmwareWatchdog
  /-- ALARM_LATCH_READ (R358): A management read of the alarm latch completes and clears it. -/
  | alarmLatchRead
  /-- PLDM_MONITORING (R358): A PLDM type 2 request reads sensors or controls the platform. -/
  | pldmMonitoring (sensor : Sensor)
  /-- PLDM_FIRMWARE_UPDATE (R360): A PLDM type 5 update writes and verifies the inactive image bank. -/
  | pldmFirmwareUpdate (image : List Byte)
  /-- GET_VERSION (R360): SPDM GET_VERSION request. -/
  | getVersion
  /-- GET_CAPABILITIES (R360): SPDM GET_CAPABILITIES request. -/
  | getCapabilities
  /-- NEGOTIATE_ALGORITHMS (R360): SPDM NEGOTIATE_ALGORITHMS request with ML-DSA-65 and SHAKE256. -/
  | negotiateAlgorithms (mldsa65 shake256 : Bool)
  /-- GET_DIGESTS (R360): SPDM GET_DIGESTS request. -/
  | getDigests
  /-- GET_CERTIFICATE (R360): SPDM GET_CERTIFICATE returns the identity certificate chain. -/
  | getCertificate
  /-- CHALLENGE (R360): SPDM CHALLENGE request. -/
  | challenge (nonce : List Byte)
  /-- GET_MEASUREMENTS (R360): SPDM GET_MEASUREMENTS returns signed measurements. -/
  | getMeasurements (index : Nat) (nonce : List Byte)
  /-- HART_LR (R334): A hart LR reads, requests ownership and sets a reservation. -/
  | hartLr (hart rd addr size : Nat) (aq : Bool)
  /-- HART_SC (R334): A hart SC succeeds only if the word is owned and reserved. -/
  | hartSc (hart rd rs addr size : Nat) (rl : Bool)
  /-- HART_AMO (R334): A hart AMO is performed at the word's home. -/
  | hartAmo (hart rd rs addr size : Nat) (op : AmoOp) (aq rl : Bool)
  /-- HART_FENCE_I (R334): FENCE.I invalidates the hart's instruction cache after its record drains. -/
  | hartFenceI (hart : Nat)
  /-- CBO_CLEAN (R334): Drains the hart's record entries in the block. -/
  | cboClean (hart addr : Nat)
  /-- CBO_FLUSH (R334): Drains the block's entries and drops its copies. -/
  | cboFlush (hart addr : Nat)
  /-- CBO_INVAL (R334): Drains the block's entries and drops its copies, never discarding store data. -/
  | cboInval (hart addr : Nat)
  /-- CBO_ZERO (R334): Writes 64 zero bytes through the record. -/
  | cboZero (hart addr : Nat)
  /-- HART_ACCESS_FAULT (R336): A hart access outside its partition raises a precise access fault. -/
  | hartAccessFault (hart addr : Nat)
  /-- SOFT_ERROR (R359): A soft error strikes a protected structure and is corrected and counted, or leaves the data poisoned. -/
  | softError (what : Structure) (at_ : Nat) (idx : Nat) (correctable : Bool)
  /-- MATRIX_PRESENCE_TIMEOUT (R159): The matrix engine's wait for an absent scratchpad line reaches 2^24 cycles and the operation fails with PRESENCE_TIMEOUT, deferred. -/
  | matrixPresenceTimeout (pier : Nat)
  /-- RETRAIN_COMPLETE (R357): A memory link or fabric port finishes retraining and the requests waiting on it proceed. -/
  | retrainComplete (port : PortName)
  /-- HOST_LINK_TRAINED (R258): A host link that had failed to train or gone down trains again, so its interfaces can carry traffic again. -/
  | hostLinkTrained (link : Nat)
  /-- POWER_REMOVAL (R353): The host board removes the package's power, for instance after SHUTREQ, and all volatile state is lost. -/
  | powerRemoval
  /-- PAGE_AGE_UPDATE (R285): Every 1 ms the residency firmware reads and clears each U bit and updates the page ages. -/
  | pageAgeUpdate (part : Nat)
  /-- HART_LOAD (R334): A hart load reads from its record, its caches, the home or memory. -/
  | hartLoad (hart rd addr size : Nat) (signed : Bool)
  /-- HART_STORE (R334): A hart store enters the hart's store record and requests ownership of its words. -/
  | hartStore (hart rs addr size : Nat)
  /-- HART_FENCE (R334): A hart FENCE acts as the acquire or release of R334. -/
  | hartFence (hart : Nat) (acquire release : Bool)
  /-- ETHERNET_FRAME (R355): An Ethernet port receives an RDMA over Converged Ethernet frame (RDMA WRITE, READ or SEND) for a partition's queue pair. -/
  | ethernetFrame (port part : Nat) (op : RdmaOp) (addr size : Nat) (bytes : List Byte)
  deriving DecidableEq, Repr

end Sys2Proof
end

