-- ==== Sys2Proof/Machine/Encoding.lean ====
section
/-! DEFINITION. The encoding tables of R65, R72, R89, R94, R101, R103, R117, R134, R147, R156, R174 and
R188 as data: one row per major opcode, and the operand widths of R60. -/
namespace Sys2Proof

/-- How a field of the instruction word is used (R60, R61). -/
inductive FieldKind where
  /-- Unused: must be zero. -/
  | zero
  /-- A register index. -/
  | reg
  /-- A number in the low `n` bits; the higher bits must be zero. -/
  | low (n : Nat)
  /-- A literal object index, 0 to 511 (R115). -/
  | obj
  deriving DecidableEq, Repr

/-- What IMM may hold when I = 1 (R62). -/
inductive ImmRule where
  /-- I = 1 raises RESERVED_FIELD. -/
  | never
  /-- IMM replaces SB as R62 states for the type. -/
  | byType
  /-- IMM is a 32-bit value as written. -/
  | word
  /-- A scale code in bits 31:24, bits 23:0 zero (R94). -/
  | scale
  deriving DecidableEq, Repr

/-- One row of the encoding tables. -/
structure EncRow where
  d : FieldKind := .zero
  a : FieldKind := .zero
  b : FieldKind := .zero
  c : FieldKind := .zero
  i : ImmRule := .never
  /-- The types allowed; T = 0 alone where the opcode takes no type. -/
  types : List Ty := [.b32]
  /-- The SUB bits that may be non-zero. -/
  sub : BitVec 6 := 0
  /-- The IMM bits that may be non-zero when I = 0. -/
  imm : Word := 0
  /-- Reserved values and the conditions that tie fields to each other. -/
  ok : Fields → Bool := fun _ => true

def Ty.code : Ty → BitVec 4
  | .b32 => 0 | .s32 => 1 | .b64 => 2 | .s64 => 3 | .f32 => 4 | .f16 => 5 | .bf16 => 6 | .h2 => 7
  | .bh2 => 8 | .b8 => 9 | .s8 => 10 | .b16 => 11 | .s16 => 12 | .b128 => 13 | .r14 => 14 | .r15 => 15

def Ty.ofCode (c : BitVec 4) : Ty :=
  match c.toNat with
  | 0 => .b32 | 1 => .s32 | 2 => .b64 | 3 => .s64 | 4 => .f32 | 5 => .f16 | 6 => .bf16 | 7 => .h2
  | 8 => .bh2 | 9 => .b8 | 10 => .s8 | 11 => .b16 | 12 => .s16 | 13 => .b128 | 14 => .r14 | _ => .r15

def Retain.code : Retain → BitVec 2
  | .none => 0 | .sa => 1 | .sb => 2 | .sc => 3

def Retain.ofCode (c : BitVec 2) : Retain :=
  match c.toNat with
  | 0 => .none | 1 => .sa | 2 => .sb | _ => .sc

/-- The width of a type in bits (R63). -/
def Ty.bits : Ty → Nat
  | .b8 | .s8 => 8
  | .b16 | .s16 | .f16 | .bf16 => 16
  | .b64 | .s64 => 64
  | .b128 => 128
  | _ => 32

/-- The number of registers an operand of a type takes (R60). -/
def Ty.regs : Ty → Nat
  | .b64 | .s64 => 2
  | .b128 => 4
  | _ => 1

/-- Signed integer types (R19). -/
def Ty.signed : Ty → Bool
  | .s8 | .s16 | .s32 | .s64 => true
  | _ => false

def tyInt : List Ty := [.b8, .s8, .b16, .s16, .b32, .s32, .b64, .s64]
def tyWide : List Ty := [.b32, .s32, .b64, .s64]
def tyBits : List Ty := [.b32, .b64]
def tyF5 : List Ty := [.f32, .f16, .bf16, .h2, .bh2]
def tyF3 : List Ty := [.f32, .f16, .bf16]
def tyMem : List Ty := [.b8, .s8, .b16, .s16, .b32, .b64, .b128]
def tyRed : List Ty := [.b32, .s32, .b64, .s64, .f32]

namespace Fields

/-- SUB bits `hi`:`lo` as numbered in the instruction word (R54: SUB is bits 37:32). -/
def subBits (f : Fields) (hi lo : Nat) : Nat := (f.sub.toNat >>> (lo - 32)) % 2 ^ (hi - lo + 1)

/-- IMM bits `hi`:`lo`. -/
def immBits (f : Fields) (hi lo : Nat) : Nat := (f.imm.toNat >>> lo) % 2 ^ (hi - lo + 1)

/-- The ordering code of the memory class (R64). -/
def ord (f : Fields) : Nat := f.subBits 37 36
/-- The memory mode (R64): true for an object access. -/
def mode1 (f : Fields) : Bool := f.subBits 35 35 == 1
/-- The cache hint (R64, R118). -/
def hint (f : Fields) : Nat := f.subBits 34 32

end Fields

/-- The op codes of R101 that a type admits. -/
def redOpOk (op : Nat) (t : Ty) : Bool := op ≤ 2 || (op ≤ 5 && t != .f32)

/-- SC is 0 in memory mode 0 (R117). -/
def memOk (f : Fields) (ords hints : List Nat) : Bool :=
  (f.mode1 || f.sc == 0) && ords.contains f.ord && hints.contains f.hint

/-- The listed system registers that SYSRD may name (R194). -/
def sysReadable (i : Nat) : Bool :=
  [0x000, 0x010, 0x011, 0x020, 0x021, 0x022, 0x023, 0x100, 0x101, 0x102, 0x103, 0x104,
   0x800, 0x801, 0x802, 0x803, 0x804, 0x808, 0x809, 0x80A, 0x80B, 0x810, 0x811, 0x812, 0x813, 0x814,
   0x815, 0x816, 0x817, 0x818, 0x820, 0x821, 0x830, 0x831, 0x840].contains i

/-- The system registers that SYSWR may write (R194). -/
def sysWritable (i : Nat) : Bool :=
  [0x000, 0x101, 0x800, 0x801, 0x802, 0x803, 0x804, 0x808, 0x809, 0x80A, 0x80B, 0x810, 0x820, 0x821,
   0x830, 0x831, 0x840].contains i

/-- The system registers of the trap handler (R194). -/
def sysHandler (i : Nat) : Bool := 0x100 ≤ i && i ≤ 0x104

/-- The row of a major opcode (R65); none for a byte that R65 does not list (R66). -/
def encRow (op : Nat) : Option EncRow :=
  let alu3 : EncRow := { d := .reg, a := .reg, b := .reg, i := .byType }
  let alu2 : EncRow := { d := .reg, a := .reg }
  let mem : EncRow := { a := .reg, c := .obj, sub := 0x3F, imm := 0xFFFF_FFFF }
  match op with
  -- R72
  | 0x00 => some {}
  | 0x01 => some { d := .reg, b := .reg, i := .byType, types := tyWide }
  | 0x02 => some { alu3 with c := .low 4, types := tyBits }
  | 0x03 | 0x04 => some { alu3 with types := tyInt, sub := 0x01 }
  | 0x05 => some { alu3 with types := tyInt }
  | 0x06 => some { alu3 with types := tyWide }
  | 0x07 => some { alu3 with c := .reg, types := tyWide }
  | 0x08 | 0x09 => some { alu3 with types := tyWide }
  | 0x0A | 0x0B => some { alu3 with types := tyInt }
  | 0x0C | 0x0D => some { alu2 with types := [.s8, .s16, .s32, .s64], sub := 0x01 }
  | 0x0E => some { alu3 with c := .low 4, types := tyBits, sub := 0x1F,
                             ok := fun f => f.subBits 36 36 == 1 || f.sc == 0 }
  | 0x0F => some { alu3 with i := .word, types := [.b64, .s64], sub := 0x07 }
  | 0x10 | 0x11 | 0x12 | 0x13 => some { alu3 with types := tyBits }
  | 0x14 => some { alu2 with types := tyBits }
  | 0x15 | 0x16 | 0x18 => some { alu3 with types := [.b8, .b16, .b32, .b64] }
  | 0x17 => some { alu3 with types := [.s8, .s16, .s32, .s64] }
  | 0x19 | 0x1A | 0x1B | 0x1C => some { alu2 with types := tyBits }
  | 0x1D => some { alu3 with types := tyWide }
  | 0x1E => some { alu3 with c := .reg, types := tyBits }
  | 0x1F => some { alu3 with c := .reg }
  | 0x20 => some { alu3 with d := .low 4, c := .low 4, types := tyInt, sub := 0x1F,
                             ok := fun f => f.subBits 34 32 ≤ 5 && (f.subBits 36 35 != 0 || f.sc == 0) }
  | 0x21 => some { d := .low 4, a := .low 4, b := .low 4, sub := 0x0F }
  | 0x22 => some { d := .reg }
  | 0x23 => some { a := .reg, imm := 0xFFFF }
  | 0x24 => some { alu3 with c := .reg, types := [.b32, .s32], sub := 0x01 }
  | 0x30 => some { imm := 0xFFFF_FFFF }
  | 0x31 => some { a := .reg }
  | 0x32 => some { d := .reg, imm := 0xFFFF_FFFF }
  | 0x33 => some { d := .reg, a := .reg }
  | 0x34 => some { a := .reg }
  | 0x35 => some {}
  -- R89
  | 0x40 | 0x41 | 0x42 => some { alu3 with types := tyF5, sub := 0x07 }
  | 0x43 => some { alu3 with c := .reg, types := tyF5, sub := 0x07 }
  | 0x44 | 0x45 => some { alu3 with types := tyF5, sub := 0x04 }
  | 0x46 => some { alu3 with d := .low 4, c := .low 4, types := tyF3, sub := 0x3F,
                             ok := fun f => f.subBits 33 32 != 0 || f.sc == 0 }
  | 0x47 => some { d := .low 4, a := .reg, types := tyF3, sub := 0x04, imm := 0x3FF }
  | 0x48 | 0x49 | 0x4C | 0x4D | 0x4E | 0x4F | 0x50 | 0x51 => some { alu2 with types := tyF5, sub := 0x04 }
  | 0x4A => some { alu2 with types := tyF5, sub := 0x07 }
  | 0x4B => some { alu3 with types := tyF5, sub := 0x07 }
  | 0x52 | 0x53 => some { alu2 with types := tyF5, sub := 0x07 }
  | 0x54 => some { alu3 with c := .reg, types := [.h2, .bh2], sub := 0x07 }
  | 0x55 => some { alu3 with i := .word, types := tyF5, sub := 0x07 }
  -- R94
  | 0x58 => some { alu2 with types := tyF3, sub := 0x1F, ok := fun f => f.subBits 36 35 ≤ 2 }
  | 0x59 => some { alu2 with types := tyWide, sub := 0x1F, ok := fun f => f.subBits 36 35 ≤ 2 }
  | 0x5A => some { alu2 with types := tyF3, sub := 0x3B, ok := fun f => f.subBits 37 35 ≤ 3 }
  | 0x5B => some { d := .reg, a := .reg, b := .reg, c := .reg, sub := 0x1F }
  | 0x5C => some { alu2 with sub := 0x3F }
  | 0x5D => some { d := .reg, a := .reg, b := .reg, i := .scale, sub := 0x0F,
                   ok := fun f => f.subBits 35 35 == 1 || (!f.i && f.sb == 0 && f.rt != .sb) }
  | 0x5E => some { d := .reg, a := .reg, b := .reg, i := .scale, sub := 0x3F }
  | 0x5F => some { alu2 with types := [.f16, .bf16, .b8], sub := 0x0F,
                             ok := fun f => if f.t == .b8 then f.subBits 35 35 == 1 else f.sub == 0 }
  | 0x60 => some { d := .reg, a := .reg, c := .reg, sub := 0x1F }
  | 0x61 => some { alu2 with sub := 0x07 }
  -- R101
  | 0x68 => some { alu2 with types := tyBits, imm := 0xFF }
  | 0x69 => some { alu2 with types := tyBits, imm := 0x3 }
  | 0x6A => some { alu2 with types := [.b32, .s32, .f32], sub := 0x0F,
                             ok := fun f => redOpOk (f.subBits 35 32) f.t }
  -- R103
  | 0x70 => some { alu3 with i := .word, c := .reg, types := tyBits, sub := 0x03 }
  | 0x71 => some { d := .reg, a := .low 4, b := .reg, i := .word, sub := 0x03,
                   ok := fun f => f.subBits 33 32 == 3 || f.d.toNat < 16 }
  | 0x72 => some { alu3 with i := .word, types := tyRed, sub := 0x0F,
                             ok := fun f => redOpOk (f.subBits 35 32) f.t }
  | 0x73 => some { alu3 with i := .word, types := tyRed, sub := 0x1F,
                             ok := fun f => redOpOk (f.subBits 35 32) f.t }
  | 0x74 => some { b := .reg, i := .word }
  | 0x75 => some { alu3 with i := .word, types := tyBits }
  | 0x76 => some { d := .low 4, b := .reg, i := .word }
  -- R117
  | 0x80 => some { mem with d := .reg, types := tyMem, ok := fun f => memOk f [0, 1] [0, 1, 2, 3] }
  | 0x81 => some { mem with b := .reg, types := tyMem, ok := fun f => memOk f [0, 1] [0, 1, 2, 3] }
  | 0x82 => some { mem with d := .reg, b := .reg, types := tyRed,
                            ok := fun f => memOk f [0, 1, 2] [0, 1, 2, 3] &&
                              (redOpOk (f.immBits 31 28) f.t || f.immBits 31 28 == 6) }
  | 0x83 => some { mem with d := .reg, b := .reg, types := tyBits,
                            ok := fun f => memOk f [0, 1, 2] [0, 1, 2, 3] }
  | 0x84 => some { mem with b := .reg, types := tyRed,
                            ok := fun f => memOk f [0, 1] [0, 1, 2, 3] && redOpOk (f.immBits 31 28) f.t }
  | 0x85 | 0x86 | 0x87 => some {}
  | 0x88 => some { d := .low 4, a := .reg, sub := 0x07, ok := fun f => f.subBits 34 32 ≤ 6 }
  | 0x89 => some { d := .reg, a := .reg, sub := 0x07, imm := 0x3,
                   ok := fun f => f.subBits 34 32 ≤ 5 && (f.subBits 34 32 == 3 || f.imm == 0) }
  | 0x8A => some { d := .reg, c := .obj, sub := 0x03, ok := fun f => f.subBits 33 32 ≤ 2 }
  | 0x8B => some { d := .reg, a := .reg, c := .obj, imm := 0xFFFF_FFFF }
  | 0x8C => some {}
  | 0x8D => some { d := .reg }
  | 0x8E | 0x8F => some { mem with ok := fun f => memOk f [0] [0, 2] }
  | 0x90 => some { mem with d := .low 4, ok := fun f => memOk f [0] [0] }
  -- R134
  | 0xA0 => some { d := .low 4, a := .reg, b := .reg, c := .reg, sub := 0x03, imm := 0xFFFF_FFFF,
                   ok := fun f => let n := f.subBits 33 32
                     (n ≥ 1 || f.sa == 0) && (n ≥ 2 || f.sb == 0) && (n ≥ 3 || f.sc == 0) &&
                     (match f.rt with | .none => true | .sa => n ≥ 1 | .sb => n ≥ 2 | .sc => n ≥ 3) }
  | 0xA1 => some {}
  | 0xA2 => some { d := .reg, sub := 0x0F, ok := fun f => f.subBits 35 32 ≤ 8 }
  | 0xA3 => some { d := .reg, sub := 0x03 }
  | 0xA4 => some { d := .low 3, b := .reg, i := .word, ok := fun f => !f.i || f.imm.toNat ≤ 1024 }
  | 0xA5 => some { d := .low 3 }
  | 0xA6 => some { d := .low 4, a := .low 3 }
  | 0xA7 => some {}
  -- R147
  | 0xB0 => some { d := .reg, b := .reg, i := .word, c := .low 3 }
  | 0xB1 => some { c := .low 3 }
  | 0xB2 => some { d := .reg, c := .low 3 }
  | 0xB3 => some { d := .low 4, a := .reg, c := .low 3 }
  | 0xB4 => some { d := .low 4, c := .low 3 }
  | 0xB5 => some { d := .low 4, a := .low 4, c := .low 3, sub := 0x03, ok := fun f => f.subBits 33 32 ≤ 2 }
  | 0xB6 => some { d := .reg, a := .reg, c := .low 3, types := tyRed, sub := 0x0F, imm := 0xF,
                   ok := fun f => redOpOk (f.subBits 35 32) f.t }
  | 0xB7 => some { d := .reg, a := .reg, b := .low 4, c := .low 3, types := tyBits }
  | 0xB8 => some { d := .reg, c := .low 3, sub := 0x03 }
  | 0xB9 => some { c := .low 3 }
  -- R156
  | 0xC0 => some { sub := 0x3F, imm := 0x77 }
  | 0xC1 => some { a := .reg, b := .reg, c := .reg, sub := 0x1F,
                   ok := fun f => (f.subBits 35 35 == 1 || (f.sb == 0 && f.rt != .sb)) &&
                     (f.subBits 36 36 == 1 || (f.sc == 0 && f.rt != .sc)) }
  | 0xC2 => some { sub := 0x07 }
  | 0xC3 => some { a := .reg, b := .reg, c := .reg, sub := 0x1F,
                   ok := fun f => f.subBits 36 36 == 1 || (f.sc == 0 && f.rt != .sc) }
  | 0xC4 => some { d := .reg, a := .reg, types := [.f32, .b32], sub := 0x3F,
                   ok := fun f => f.t != .f32 || f.subBits 37 35 == 0 }
  | 0xC5 => some { a := .reg, b := .reg, sub := 0x07 }
  | 0xC6 => some { a := .reg, sub := 0x07 }
  | 0xC7 => some { sub := 0x07 }
  | 0xC8 => some { d := .reg, sub := 0x1F }
  -- R174
  | 0xD0 => some { d := .low 4, a := .reg }
  | 0xD1 => some { d := .reg, a := .reg, c := .low 2, sub := 0x3F, imm := 0xFF }
  | 0xD2 => some { a := .reg, c := .low 2 }
  | 0xD3 => some { d := .reg }
  | 0xD4 => some { imm := 0x1F, ok := fun f => f.imm.toNat ≤ 16 }
  | 0xD5 | 0xD6 => some { d := .reg, a := .reg, b := .reg, c := .low 2, sub := 0x3F, imm := 0x0FFF_FFFF,
                          ok := fun f => f.immBits 23 0 != 0 && f.immBits 26 24 ≤ 4 }
  | 0xD7 => some { a := .reg, c := .low 2 }
  | 0xD8 => some { d := .reg, a := .reg }
  | 0xD9 => some { d := .reg, a := .reg, c := .low 2, sub := 0x38, imm := 0xF }
  -- R188
  | 0xE0 => some { a := .reg, b := .reg }
  | 0xE1 => some { b := .reg, i := .word }
  | 0xE2 => some {}
  | 0xE3 => some { d := .reg }
  | 0xE4 => some { d := .reg, sub := 0x03 }
  | 0xE5 => some { d := .reg }
  | 0xE6 => some { d := .reg, sub := 0x03 }
  | 0xF0 => some { imm := 0xFF }
  | 0xF1 => some {}
  | 0xF2 => some { sub := 0x01 }
  | 0xF3 => some { d := .reg, imm := 0xFFF, ok := fun f => sysReadable f.imm.toNat }
  | 0xF4 => some { a := .reg, imm := 0xFFF, ok := fun f => sysWritable f.imm.toNat }
  | 0xF5 => some { d := .reg, a := .reg }
  | 0xF6 | 0xF7 | 0xF8 => some {}
  | _ => none

/-- A field holds what its kind allows (R54, R61). -/
def FieldKind.ok (k : FieldKind) (v : BitVec 9) : Bool :=
  match k with
  | .zero => v == 0
  | .reg => true
  | .low n => v.toNat < 2 ^ n
  | .obj => true

/-- IMM breaks no "must" of R62 for the type. -/
def immTypeOk (t : Ty) (imm : Word) : Bool :=
  match t with
  | .b8 => imm.toNat < 2 ^ 8
  | .b16 | .f16 | .bf16 => imm.toNat < 2 ^ 16
  | .s8 => (BitVec.ofNat 8 imm.toNat).signExtend 32 == imm
  | .s16 => (BitVec.ofNat 16 imm.toNat).signExtend 32 == imm
  | _ => true

/-- RT names a source that the row reads as a register, and not one that IMM replaces (R59). -/
def retainOk (r : EncRow) (f : Fields) : Bool :=
  match f.rt with
  | .none => true
  | .sa => r.a == .reg
  | .sb => r.b == .reg && !f.i
  | .sc => r.c == .reg

/-- No field check of R54, R59, R61 to R64 fails (order 5 of R67). -/
def fieldsOk (r : EncRow) (f : Fields) : Bool :=
  r.d.ok f.d && r.a.ok f.sa && (if f.i then f.sb == 0 else r.b.ok f.sb) && r.c.ok f.sc &&
  retainOk r f && r.types.contains f.t && f.sub &&& ~~~r.sub == 0 &&
  (if f.i then
    (match r.i with
     | .never => false
     | .byType => immTypeOk f.t f.imm
     | .word => true
     | .scale => f.imm.toNat % 2 ^ 24 == 0)
   else f.imm &&& ~~~r.imm == 0) && r.ok f

/-- The register operands of an instruction as pairs of an index and a count of registers (R60), in
the order D, SA, SB, SC. `blk64` says whether the slot that QNT names has BLK 64 (R98), `wide` whether
the slot that MRDA names is BF16 or F16 (R168). -/
def regOperands (op : Nat) (f : Fields) (blk64 wide : Bool) : List (Nat × Nat) :=
  let d := f.d.toNat; let a := f.sa.toNat; let b := f.sb.toNat; let c := f.sc.toNat
  let n := f.t.regs
  let srcB (k : Nat) : List (Nat × Nat) := if f.i then [] else [(b, k)]
  match op with
  | 0x01 => [(d, n)] ++ srcB n
  | 0x02 | 0x03 | 0x04 | 0x05 | 0x06 | 0x08 | 0x09 | 0x0A | 0x0B | 0x0E | 0x10 | 0x11 | 0x12 | 0x13 =>
    [(d, n), (a, n)] ++ srcB n
  | 0x07 => [(d, n), (a, n)] ++ srcB n ++ [(c, n)]
  | 0x0C | 0x0D | 0x14 | 0x1C => [(d, n), (a, n)]
  | 0x0F => [(d, 2), (a, 2)] ++ srcB 1
  | 0x15 | 0x16 | 0x17 | 0x18 | 0x1D => [(d, n), (a, n)] ++ srcB 1
  | 0x19 | 0x1A | 0x1B => [(d, 1), (a, n)]
  | 0x1E => [(d, n), (a, n)] ++ srcB 1 ++ [(c, n)]
  | 0x1F | 0x24 => [(d, 1), (a, 1)] ++ srcB 1 ++ [(c, 1)]
  | 0x20 => [(a, n)] ++ srcB n
  | 0x22 => [(d, 1)]
  | 0x23 => [(a, 1)]
  | 0x31 | 0x34 => [(a, 2)]
  | 0x32 => [(d, 2)]
  | 0x33 => [(d, 2), (a, 2)]
  | 0x40 | 0x41 | 0x42 | 0x44 | 0x45 | 0x4B | 0x55 => [(d, 1), (a, 1)] ++ srcB 1
  | 0x43 | 0x54 => [(d, 1), (a, 1)] ++ srcB 1 ++ [(c, 1)]
  | 0x46 => [(a, 1)] ++ srcB 1
  | 0x47 => [(a, 1)]
  | 0x48 | 0x49 | 0x4A | 0x4C | 0x4D | 0x4E | 0x4F | 0x50 | 0x51 | 0x52 | 0x53 => [(d, 1), (a, 1)]
  | 0x58 => [(d, 1), (a, 1)]
  | 0x59 => [(d, n), (a, 1)]
  | 0x5A => [(d, 1), (a, if f.subBits 37 35 ≥ 2 then 2 else 1)]
  | 0x5B => [(d, 1), (a, 1), (b, 1), (c, 1)]
  | 0x5C => [(d, 1), (a, 1)]
  | 0x5D => if f.subBits 35 35 == 1 then [(d, 1), (a, 1)] ++ srcB 1
            else [(d, 1), (a, if blk64 then 2 else 1)]
  | 0x5E => [(d, 1), (a, 1)] ++ srcB 1
  | 0x5F => [(d, 2), (a, if f.t == .b8 then 1 else 2)]
  | 0x60 => [(d, 1), (a, 1), (c, 1)]
  | 0x61 => [(d, 1), (a, 1)]
  | 0x68 | 0x69 | 0x6A => [(d, n), (a, n)]
  | 0x70 => [(d, n), (a, n)] ++ srcB 1 ++ [(c, 1)]
  | 0x71 => (if f.subBits 33 32 == 3 then [(d, 2)] else []) ++ srcB 1
  | 0x72 | 0x73 => [(d, n), (a, n)] ++ srcB 1
  | 0x74 | 0x76 => srcB 1
  | 0x75 => [(d, 1), (a, n)] ++ srcB 1
  | 0x80 => [(d, n), (a, if f.mode1 then 1 else 2)]
  | 0x81 => [(a, if f.mode1 then 1 else 2), (b, n)]
  | 0x82 => [(d, n), (a, if f.mode1 then 1 else 2), (b, n)]
  | 0x83 => [(d, n), (a, if f.mode1 then 1 else 2), (b, 2 * n)]
  | 0x84 => [(a, if f.mode1 then 1 else 2), (b, n)]
  | 0x8E | 0x8F | 0x90 => [(a, if f.mode1 then 1 else 2)]
  | 0x88 => [(a, 2)]
  | 0x89 => [(d, 2), (a, if f.subBits 34 32 == 0 || f.subBits 34 32 == 5 then 2 else 1)]
  | 0x8A => [(d, if f.subBits 33 32 == 2 then 1 else 2)]
  | 0x8B => [(d, 2), (a, 1)]
  | 0x8D => [(d, 1)]
  | 0xA0 => let k := f.subBits 33 32
            (if k ≥ 1 then [(a, 1)] else []) ++ (if k ≥ 2 then [(b, 1)] else []) ++
            (if k ≥ 3 then [(c, 1)] else [])
  | 0xA2 | 0xA3 => [(d, 1)]
  | 0xA4 => srcB 1
  | 0xB0 => [(d, 2)] ++ srcB 1
  | 0xB2 | 0xB8 => [(d, 1)]
  | 0xB3 => [(a, 1)]
  | 0xB6 | 0xB7 => [(d, n), (a, n)]
  | 0xC1 => [(a, 1)] ++ (if f.subBits 35 35 == 1 then [(b, 1)] else []) ++
            (if f.subBits 36 36 == 1 then [(c, 1)] else [])
  | 0xC3 => [(a, 1), (b, 1)] ++ (if f.subBits 36 36 == 1 then [(c, 1)] else [])
  | 0xC4 => [(d, if f.t == .f32 then 4 else if wide then 2 else 1), (a, 1)]
  | 0xC5 => [(a, 1), (b, 4)]
  | 0xC6 => [(a, 1)]
  | 0xC8 => [(d, 1)]
  | 0xD0 => [(a, 2)]
  | 0xD1 => [(d, 2), (a, 2)]
  | 0xD2 | 0xD7 => [(a, 2)]
  | 0xD3 => [(d, 1)]
  | 0xD5 | 0xD6 => [(d, 2), (a, 2), (b, 2)]
  | 0xD8 => [(d, 1), (a, 1)]
  | 0xD9 => [(d, 2), (a, 1)]
  | 0xE0 => [(a, 1), (b, 1)]
  | 0xE1 => srcB 1
  | 0xE3 | 0xE6 => [(d, 1)]
  | 0xE4 | 0xE5 => [(d, 2)]
  | 0xF3 => [(d, 2)]
  | 0xF4 => [(a, 2)]
  | 0xF5 => [(d, 1), (a, 2)]
  | _ => []

/-- An opcode whose results are long-latency (the L marks of R65). -/
def longLatency (op : Nat) : Bool :=
  [0x08, 0x09, 0x4A, 0x4B, 0x5D, 0x70, 0x72, 0x73, 0x75, 0x80, 0x82, 0x83, 0xB0, 0xB2, 0xB5, 0xB6, 0xB7,
   0xB8, 0xC4].contains op

/-- A control transfer in the sense of the PAIR rule of R48. -/
def controlTransfer (op : Nat) : Bool :=
  [0x30, 0x31, 0x32, 0x33, 0x34, 0x35, 0xA1, 0xF0, 0xF1, 0xF2, 0xF8].contains op

/-- A supervisor-only instruction (R66): HALT, and SYSRD or SYSWR with an index of 0x800 or above. -/
def supervisorOnly (op : Nat) (f : Fields) : Bool :=
  op == 0xF8 || ((op == 0xF3 || op == 0xF4) && f.imm.toNat % 4096 ≥ 0x800)

/-- The major opcode (R65) and the fields of a Shaoc instruction; none for a step of another agent. -/
def Instr.opFields : Instr → Option (Nat × Fields)
  | .nop f => some (0x00, f)
  | .mov f => some (0x01, f)
  | .sel f => some (0x02, f)
  | .iadd f => some (0x03, f)
  | .isub f => some (0x04, f)
  | .imul f => some (0x05, f)
  | .imulh f => some (0x06, f)
  | .imad f => some (0x07, f)
  | .idiv f => some (0x08, f)
  | .irem f => some (0x09, f)
  | .imin f => some (0x0A, f)
  | .imax f => some (0x0B, f)
  | .iabs f => some (0x0C, f)
  | .ineg f => some (0x0D, f)
  | .iaddc f => some (0x0E, f)
  | .lea f => some (0x0F, f)
  | .and f => some (0x10, f)
  | .or f => some (0x11, f)
  | .xor f => some (0x12, f)
  | .andn f => some (0x13, f)
  | .not f => some (0x14, f)
  | .shl f => some (0x15, f)
  | .shr f => some (0x16, f)
  | .sar f => some (0x17, f)
  | .rotl f => some (0x18, f)
  | .popc f => some (0x19, f)
  | .clz f => some (0x1A, f)
  | .ctz f => some (0x1B, f)
  | .brev f => some (0x1C, f)
  | .bfx f => some (0x1D, f)
  | .bfi f => some (0x1E, f)
  | .prmt f => some (0x1F, f)
  | .icmp f => some (0x20, f)
  | .pset f => some (0x21, f)
  | .pget f => some (0x22, f)
  | .pput f => some (0x23, f)
  | .idot4 f => some (0x24, f)
  | .bra f => some (0x30, f)
  | .brx f => some (0x31, f)
  | .call f => some (0x32, f)
  | .callx f => some (0x33, f)
  | .ret f => some (0x34, f)
  | .yield f => some (0x35, f)
  | .fadd f => some (0x40, f)
  | .fsub f => some (0x41, f)
  | .fmul f => some (0x42, f)
  | .ffma f => some (0x43, f)
  | .fmin f => some (0x44, f)
  | .fmax f => some (0x45, f)
  | .fcmp f => some (0x46, f)
  | .fclass f => some (0x47, f)
  | .frcp f => some (0x48, f)
  | .frsq f => some (0x49, f)
  | .fsqrt f => some (0x4A, f)
  | .fdiv f => some (0x4B, f)
  | .fexp2 f => some (0x4C, f)
  | .flog2 f => some (0x4D, f)
  | .fsin f => some (0x4E, f)
  | .fcos f => some (0x4F, f)
  | .ftanh f => some (0x50, f)
  | .fsigm f => some (0x51, f)
  | .ffrac f => some (0x52, f)
  | .frnd f => some (0x53, f)
  | .fdot2 f => some (0x54, f)
  | .fscale f => some (0x55, f)
  | .cvtf f => some (0x58, f)
  | .cvtfi f => some (0x59, f)
  | .cvtif f => some (0x5A, f)
  | .cvtn f => some (0x5B, f)
  | .cvtw f => some (0x5C, f)
  | .qntComputed f => some (0x5D, f)
  | .qntGiven f => some (0x5D, f)
  | .dqnt f => some (0x5E, f)
  | .cmpr f => some (0x5F, f)
  | .dpwe f => some (0x60, f)
  | .scaleq f => some (0x61, f)
  | .qswz f => some (0x68, f)
  | .qbcast f => some (0x69, f)
  | .qred f => some (0x6A, f)
  | .gshfl f => some (0x70, f)
  | .gvote f => some (0x71, f)
  | .gred f => some (0x72, f)
  | .gscan f => some (0x73, f)
  | .gbar f => some (0x74, f)
  | .gmatch f => some (0x75, f)
  | .gelect f => some (0x76, f)
  | .ld f => some (0x80, f)
  | .st f => some (0x81, f)
  | .atom f => some (0x82, f)
  | .atomcas f => some (0x83, f)
  | .red f => some (0x84, f)
  | .rel f => some (0x85, f)
  | .acq f => some (0x86, f)
  | .syncf f => some (0x87, f)
  | .sptest f => some (0x88, f)
  | .spcast f => some (0x89, f)
  | .objq f => some (0x8A, f)
  | .objptr f => some (0x8B, f)
  | .recdrn f => some (0x8C, f)
  | .recst f => some (0x8D, f)
  | .pfch f => some (0x8E, f)
  | .cdrop f => some (0x8F, f)
  | .prstest f => some (0x90, f)
  | .fspawn f => some (0xA0, f)
  | .fend f => some (0xA1, f)
  | .fid f => some (0xA2, f)
  | .fstat f => some (0xA3, f)
  | .cvset f => some (0xA4, f)
  | .cvsign f => some (0xA5, f)
  | .cvwait f => some (0xA6, f)
  | .blkbar f => some (0xA7, f)
  | .sgjoin f => some (0xB0, f)
  | .sgleave f => some (0xB1, f)
  | .sgarrive f => some (0xB2, f)
  | .sgwait f => some (0xB3, f)
  | .sgbar f => some (0xB4, f)
  | .sgvote f => some (0xB5, f)
  | .sgred f => some (0xB6, f)
  | .sgbcast f => some (0xB7, f)
  | .sgquery f => some (0xB8, f)
  | .sgclose f => some (0xB9, f)
  | .mcfg f => some (0xC0, f)
  | .mldw f => some (0xC1, f)
  | .mswap f => some (0xC2, f)
  | .mstr f => some (0xC3, f)
  | .mrdaF32 f => some (0xC4, f)
  | .mrdaSlot f => some (0xC4, f)
  | .mwra f => some (0xC5, f)
  | .mclra f => some (0xC6, f)
  | .msync f => some (0xC7, f)
  | .mquery f => some (0xC8, f)
  | .shdef f => some (0xD0, f)
  | .cpt f => some (0xD1, f)
  | .cpchain f => some (0xD2, f)
  | .cpseal f => some (0xD3, f)
  | .cpwait f => some (0xD4, f)
  | .gth f => some (0xD5, f)
  | .sct f => some (0xD6, f)
  | .cljob f => some (0xD7, f)
  | .cpquery f => some (0xD8, f)
  | .cpfill f => some (0xD9, f)
  | .dlset f => some (0xE0, f)
  | .dlprog f => some (0xE1, f)
  | .dlend f => some (0xE2, f)
  | .bstq f => some (0xE3, f)
  | .cntrd f => some (0xE4, f)
  | .tmrd f => some (0xE5, f)
  | .zoneq f => some (0xE6, f)
  | .trap f => some (0xF0, f)
  | .brk f => some (0xF1, f)
  | .rte f => some (0xF2, f)
  | .sysrd f => some (0xF3, f)
  | .syswr f => some (0xF4, f)
  | .dbgmb f => some (0xF5, f)
  | .wfe f => some (0xF6, f)
  | .sev f => some (0xF7, f)
  | .halt f => some (0xF8, f)
  | .udf f => some (0xFF, f)
  | .issueSchedulerPick _ _ => none
  | .lineRefetchReturn _ _ => none
  | .l1FillReturn _ _ => none
  | .loadReturn _ => none
  | .lResultWrite _ => none
  | .presenceTimeout _ _ => none
  | .groupDemote _ _ => none
  | .groupPromote _ _ => none
  | .storeRecordDrain _ _ => none
  | .ownershipRequest _ _ _ => none
  | .revokeReceived _ => none
  | .ackReceived _ => none
  | .atomicPerform _ => none
  | .hostAtomicComplete _ _ => none
  | .hostWriteComplete _ _ => none
  | .hostCxlRead _ _ _ => none
  | .hostCxlWrite _ _ => none
  | .sgJoinHandled _ => none
  | .sgArrivalHandled _ => none
  | .matrixOpIssue _ => none
  | .fusedStreamStart _ => none
  | .matrixOpComplete _ => none
  | .copyJobStart _ => none
  | .copyJobComplete _ => none
  | .copyJobFail _ => none
  | .copyPresenceTimeout _ => none
  | .chainRecordStart _ => none
  | .chainRecordFinish _ => none
  | .collectiveRendezvous _ => none
  | .collectiveComplete _ _ => none
  | .spanDispatch _ _ _ _ => none
  | .leasePinComplete _ => none
  | .doorbellTail _ _ _ => none
  | .doorbellEvhead _ _ _ => none
  | .queueMap _ => none
  | .queueUnmap _ => none
  | .requestAccept _ => none
  | .launch _ => none
  | .waitval _ => none
  | .waitvalPoll _ => none
  | .writeval _ => none
  | .copyjob _ => none
  | .marker _ => none
  | .timestamp _ => none
  | .eventWrite _ => none
  | .launchComplete _ => none
  | .tagRelease _ => none
  | .launchTerminate _ => none
  | .terminationOverdue _ => none
  | .sliceEnd _ => none
  | .preemptRequest _ _ _ => none
  | .preemptDeadlineExpiry _ _ _ => none
  | .contextSave _ => none
  | .contextRestore _ _ _ _ _ => none
  | .evacuationAbandon _ => none
  | .tenantReset _ => none
  | .apply _ => none
  | .partitionReset _ => none
  | .force _ _ => none
  | .cfgerrClear _ => none
  | .rdoneClear _ => none
  | .pierRelease _ => none
  | .budgetPeriod => none
  | .l1ctlWrite _ _ => none
  | .slicectlDrop _ => none
  | .slicectlPower _ _ => none
  | .haltmaskWrite _ _ => none
  | .eyestAck _ _ => none
  | .xlfenceGo => none
  | .xlfenceComplete _ => none
  | .registerWrite _ _ => none
  | .inboxWrite _ _ => none
  | .outboxRead _ => none
  | .migrationGo _ => none
  | .migrationComplete _ => none
  | .pageRequestResponse _ _ _ _ _ => none
  | .hostInvalidation _ _ => none
  | .hostLinkDown _ => none
  | .governorInterval _ => none
  | .supplySettled _ => none
  | .canaryWarning _ => none
  | .canaryDecay _ => none
  | .droopWarning _ _ => none
  | .limiterRestore _ _ => none
  | .govstatRiskClear _ => none
  | .govstatCanaryClear _ => none
  | .gateCommit _ _ => none
  | .clusterWake _ _ => none
  | .callocWrite _ _ => none
  | .zoneBoundary _ _ => none
  | .zoneTrap _ _ _ => none
  | .zoneDry _ _ => none
  | .primingStep _ _ => none
  | .zoneClose _ _ => none
  | .zonePrime _ _ => none
  | .zoneCmdReserved _ _ => none
  | .zstatTrapClear _ _ _ => none
  | .zstatAlarmClear _ _ => none
  | .cstatCerrClear => none
  | .moisture => none
  | .flitCrcRetry _ => none
  | .linkRetrain _ => none
  | .memoryLinkLost _ => none
  | .nodeMemberLost _ => none
  | .uncorrectableSharedState _ => none
  | .patrolScrub _ => none
  | .warm => none
  | .powerOn => none
  | .firmwareWatchdog => none
  | .alarmLatchRead => none
  | .pldmMonitoring _ => none
  | .pldmFirmwareUpdate _ => none
  | .getVersion => none
  | .getCapabilities => none
  | .negotiateAlgorithms _ _ => none
  | .getDigests => none
  | .getCertificate => none
  | .challenge _ => none
  | .getMeasurements _ _ => none
  | .hartLr _ _ _ _ _ => none
  | .hartSc _ _ _ _ _ _ => none
  | .hartAmo _ _ _ _ _ _ _ _ => none
  | .hartFenceI _ => none
  | .cboClean _ _ => none
  | .cboFlush _ _ => none
  | .cboInval _ _ => none
  | .cboZero _ _ => none
  | .hartAccessFault _ _ => none
  | .softError _ _ _ _ => none
  | .matrixPresenceTimeout _ => none
  | .retrainComplete _ => none
  | .hostLinkTrained _ => none
  | .powerRemoval => none
  | .pageAgeUpdate _ => none
  | .hartLoad _ _ _ _ _ => none
  | .hartStore _ _ _ _ => none
  | .hartFence _ _ _ => none
  | .ethernetFrame _ _ _ _ _ _ => none

/-- The instruction that a major opcode and fields make: QNT by SUB bit 35 (R94), MRDA by T (R156). -/
def mkInstr (op : Nat) (f : Fields) : Option Instr :=
  match op with
  | 0x00 => some (.nop f)
  | 0x01 => some (.mov f)
  | 0x02 => some (.sel f)
  | 0x03 => some (.iadd f)
  | 0x04 => some (.isub f)
  | 0x05 => some (.imul f)
  | 0x06 => some (.imulh f)
  | 0x07 => some (.imad f)
  | 0x08 => some (.idiv f)
  | 0x09 => some (.irem f)
  | 0x0A => some (.imin f)
  | 0x0B => some (.imax f)
  | 0x0C => some (.iabs f)
  | 0x0D => some (.ineg f)
  | 0x0E => some (.iaddc f)
  | 0x0F => some (.lea f)
  | 0x10 => some (.and f)
  | 0x11 => some (.or f)
  | 0x12 => some (.xor f)
  | 0x13 => some (.andn f)
  | 0x14 => some (.not f)
  | 0x15 => some (.shl f)
  | 0x16 => some (.shr f)
  | 0x17 => some (.sar f)
  | 0x18 => some (.rotl f)
  | 0x19 => some (.popc f)
  | 0x1A => some (.clz f)
  | 0x1B => some (.ctz f)
  | 0x1C => some (.brev f)
  | 0x1D => some (.bfx f)
  | 0x1E => some (.bfi f)
  | 0x1F => some (.prmt f)
  | 0x20 => some (.icmp f)
  | 0x21 => some (.pset f)
  | 0x22 => some (.pget f)
  | 0x23 => some (.pput f)
  | 0x24 => some (.idot4 f)
  | 0x30 => some (.bra f)
  | 0x31 => some (.brx f)
  | 0x32 => some (.call f)
  | 0x33 => some (.callx f)
  | 0x34 => some (.ret f)
  | 0x35 => some (.yield f)
  | 0x40 => some (.fadd f)
  | 0x41 => some (.fsub f)
  | 0x42 => some (.fmul f)
  | 0x43 => some (.ffma f)
  | 0x44 => some (.fmin f)
  | 0x45 => some (.fmax f)
  | 0x46 => some (.fcmp f)
  | 0x47 => some (.fclass f)
  | 0x48 => some (.frcp f)
  | 0x49 => some (.frsq f)
  | 0x4A => some (.fsqrt f)
  | 0x4B => some (.fdiv f)
  | 0x4C => some (.fexp2 f)
  | 0x4D => some (.flog2 f)
  | 0x4E => some (.fsin f)
  | 0x4F => some (.fcos f)
  | 0x50 => some (.ftanh f)
  | 0x51 => some (.fsigm f)
  | 0x52 => some (.ffrac f)
  | 0x53 => some (.frnd f)
  | 0x54 => some (.fdot2 f)
  | 0x55 => some (.fscale f)
  | 0x58 => some (.cvtf f)
  | 0x59 => some (.cvtfi f)
  | 0x5A => some (.cvtif f)
  | 0x5B => some (.cvtn f)
  | 0x5C => some (.cvtw f)
  | 0x5D => some (if f.subBits 35 35 == 1 then .qntGiven f else .qntComputed f)
  | 0x5E => some (.dqnt f)
  | 0x5F => some (.cmpr f)
  | 0x60 => some (.dpwe f)
  | 0x61 => some (.scaleq f)
  | 0x68 => some (.qswz f)
  | 0x69 => some (.qbcast f)
  | 0x6A => some (.qred f)
  | 0x70 => some (.gshfl f)
  | 0x71 => some (.gvote f)
  | 0x72 => some (.gred f)
  | 0x73 => some (.gscan f)
  | 0x74 => some (.gbar f)
  | 0x75 => some (.gmatch f)
  | 0x76 => some (.gelect f)
  | 0x80 => some (.ld f)
  | 0x81 => some (.st f)
  | 0x82 => some (.atom f)
  | 0x83 => some (.atomcas f)
  | 0x84 => some (.red f)
  | 0x85 => some (.rel f)
  | 0x86 => some (.acq f)
  | 0x87 => some (.syncf f)
  | 0x88 => some (.sptest f)
  | 0x89 => some (.spcast f)
  | 0x8A => some (.objq f)
  | 0x8B => some (.objptr f)
  | 0x8C => some (.recdrn f)
  | 0x8D => some (.recst f)
  | 0x8E => some (.pfch f)
  | 0x8F => some (.cdrop f)
  | 0x90 => some (.prstest f)
  | 0xA0 => some (.fspawn f)
  | 0xA1 => some (.fend f)
  | 0xA2 => some (.fid f)
  | 0xA3 => some (.fstat f)
  | 0xA4 => some (.cvset f)
  | 0xA5 => some (.cvsign f)
  | 0xA6 => some (.cvwait f)
  | 0xA7 => some (.blkbar f)
  | 0xB0 => some (.sgjoin f)
  | 0xB1 => some (.sgleave f)
  | 0xB2 => some (.sgarrive f)
  | 0xB3 => some (.sgwait f)
  | 0xB4 => some (.sgbar f)
  | 0xB5 => some (.sgvote f)
  | 0xB6 => some (.sgred f)
  | 0xB7 => some (.sgbcast f)
  | 0xB8 => some (.sgquery f)
  | 0xB9 => some (.sgclose f)
  | 0xC0 => some (.mcfg f)
  | 0xC1 => some (.mldw f)
  | 0xC2 => some (.mswap f)
  | 0xC3 => some (.mstr f)
  | 0xC4 => some (if f.t == .f32 then .mrdaF32 f else .mrdaSlot f)
  | 0xC5 => some (.mwra f)
  | 0xC6 => some (.mclra f)
  | 0xC7 => some (.msync f)
  | 0xC8 => some (.mquery f)
  | 0xD0 => some (.shdef f)
  | 0xD1 => some (.cpt f)
  | 0xD2 => some (.cpchain f)
  | 0xD3 => some (.cpseal f)
  | 0xD4 => some (.cpwait f)
  | 0xD5 => some (.gth f)
  | 0xD6 => some (.sct f)
  | 0xD7 => some (.cljob f)
  | 0xD8 => some (.cpquery f)
  | 0xD9 => some (.cpfill f)
  | 0xE0 => some (.dlset f)
  | 0xE1 => some (.dlprog f)
  | 0xE2 => some (.dlend f)
  | 0xE3 => some (.bstq f)
  | 0xE4 => some (.cntrd f)
  | 0xE5 => some (.tmrd f)
  | 0xE6 => some (.zoneq f)
  | 0xF0 => some (.trap f)
  | 0xF1 => some (.brk f)
  | 0xF2 => some (.rte f)
  | 0xF3 => some (.sysrd f)
  | 0xF4 => some (.syswr f)
  | 0xF5 => some (.dbgmb f)
  | 0xF6 => some (.wfe f)
  | 0xF7 => some (.sev f)
  | 0xF8 => some (.halt f)
  | 0xFF => some (.udf f)
  | _ => none

end Sys2Proof
end

