-- ==== Sys2Proof/WellFormed.lean ====
section
/-! DEFINITION. Well-formedness: which field values are an encoding of the instruction (R54 to R66), and which
operands name a part of the device (R8, R9, R260, R331, R338, R355). -/
namespace Sys2Proof

/-- The port exists (R355). -/
def PortName.ok : PortName → Bool
  | .memoryLink i => i < 32
  | .fabric i => i < 8
  | .ethernet i => i < 16

/-- The register exists. -/
def RegName.ok : RegName → Bool
  | .window o => o < 0x400_0000 && o % 8 == 0
  | .pasid i k => i < 1024 && k < 32
  | .remap i k => i < 1024 && k < 64
  | .iface i => i < 1024

/-- The sensor exists (R358). -/
def Sensor.ok : Sensor → Bool
  | .zone d z => d < 32 && z < 20
  | .die d => d < 32
  | .packagePower => true
  | .errors d _ => d < 32
  | .port p => p.ok

/-- An instruction word's fields break no rule of R54 to R66 for its opcode. -/
def shaocWf (op : Nat) (f : Fields) : Bool :=
  match encRow op with
  | some r => fieldsOk r f
  | none => false

/-- An instruction is one that the encoding tables give, or a step whose operands name parts of the device. -/
def Instr.wf : Instr → Bool
  | .nop f => shaocWf 0x00 f
  | .mov f => shaocWf 0x01 f
  | .sel f => shaocWf 0x02 f
  | .iadd f => shaocWf 0x03 f
  | .isub f => shaocWf 0x04 f
  | .imul f => shaocWf 0x05 f
  | .imulh f => shaocWf 0x06 f
  | .imad f => shaocWf 0x07 f
  | .idiv f => shaocWf 0x08 f
  | .irem f => shaocWf 0x09 f
  | .imin f => shaocWf 0x0A f
  | .imax f => shaocWf 0x0B f
  | .iabs f => shaocWf 0x0C f
  | .ineg f => shaocWf 0x0D f
  | .iaddc f => shaocWf 0x0E f
  | .lea f => shaocWf 0x0F f
  | .and f => shaocWf 0x10 f
  | .or f => shaocWf 0x11 f
  | .xor f => shaocWf 0x12 f
  | .andn f => shaocWf 0x13 f
  | .not f => shaocWf 0x14 f
  | .shl f => shaocWf 0x15 f
  | .shr f => shaocWf 0x16 f
  | .sar f => shaocWf 0x17 f
  | .rotl f => shaocWf 0x18 f
  | .popc f => shaocWf 0x19 f
  | .clz f => shaocWf 0x1A f
  | .ctz f => shaocWf 0x1B f
  | .brev f => shaocWf 0x1C f
  | .bfx f => shaocWf 0x1D f
  | .bfi f => shaocWf 0x1E f
  | .prmt f => shaocWf 0x1F f
  | .icmp f => shaocWf 0x20 f
  | .pset f => shaocWf 0x21 f
  | .pget f => shaocWf 0x22 f
  | .pput f => shaocWf 0x23 f
  | .idot4 f => shaocWf 0x24 f
  | .bra f => shaocWf 0x30 f
  | .brx f => shaocWf 0x31 f
  | .call f => shaocWf 0x32 f
  | .callx f => shaocWf 0x33 f
  | .ret f => shaocWf 0x34 f
  | .yield f => shaocWf 0x35 f
  | .fadd f => shaocWf 0x40 f
  | .fsub f => shaocWf 0x41 f
  | .fmul f => shaocWf 0x42 f
  | .ffma f => shaocWf 0x43 f
  | .fmin f => shaocWf 0x44 f
  | .fmax f => shaocWf 0x45 f
  | .fcmp f => shaocWf 0x46 f
  | .fclass f => shaocWf 0x47 f
  | .frcp f => shaocWf 0x48 f
  | .frsq f => shaocWf 0x49 f
  | .fsqrt f => shaocWf 0x4A f
  | .fdiv f => shaocWf 0x4B f
  | .fexp2 f => shaocWf 0x4C f
  | .flog2 f => shaocWf 0x4D f
  | .fsin f => shaocWf 0x4E f
  | .fcos f => shaocWf 0x4F f
  | .ftanh f => shaocWf 0x50 f
  | .fsigm f => shaocWf 0x51 f
  | .ffrac f => shaocWf 0x52 f
  | .frnd f => shaocWf 0x53 f
  | .fdot2 f => shaocWf 0x54 f
  | .fscale f => shaocWf 0x55 f
  | .cvtf f => shaocWf 0x58 f
  | .cvtfi f => shaocWf 0x59 f
  | .cvtif f => shaocWf 0x5A f
  | .cvtn f => shaocWf 0x5B f
  | .cvtw f => shaocWf 0x5C f
  | .qntComputed f => shaocWf 0x5D f && f.subBits 35 35 == 0
  | .qntGiven f => shaocWf 0x5D f && f.subBits 35 35 == 1
  | .dqnt f => shaocWf 0x5E f
  | .cmpr f => shaocWf 0x5F f
  | .dpwe f => shaocWf 0x60 f
  | .scaleq f => shaocWf 0x61 f
  | .qswz f => shaocWf 0x68 f
  | .qbcast f => shaocWf 0x69 f
  | .qred f => shaocWf 0x6A f
  | .gshfl f => shaocWf 0x70 f
  | .gvote f => shaocWf 0x71 f
  | .gred f => shaocWf 0x72 f
  | .gscan f => shaocWf 0x73 f
  | .gbar f => shaocWf 0x74 f
  | .gmatch f => shaocWf 0x75 f
  | .gelect f => shaocWf 0x76 f
  | .ld f => shaocWf 0x80 f
  | .st f => shaocWf 0x81 f
  | .atom f => shaocWf 0x82 f
  | .atomcas f => shaocWf 0x83 f
  | .red f => shaocWf 0x84 f
  | .rel f => shaocWf 0x85 f
  | .acq f => shaocWf 0x86 f
  | .syncf f => shaocWf 0x87 f
  | .sptest f => shaocWf 0x88 f
  | .spcast f => shaocWf 0x89 f
  | .objq f => shaocWf 0x8A f
  | .objptr f => shaocWf 0x8B f
  | .recdrn f => shaocWf 0x8C f
  | .recst f => shaocWf 0x8D f
  | .pfch f => shaocWf 0x8E f
  | .cdrop f => shaocWf 0x8F f
  | .prstest f => shaocWf 0x90 f
  | .fspawn f => shaocWf 0xA0 f
  | .fend f => shaocWf 0xA1 f
  | .fid f => shaocWf 0xA2 f
  | .fstat f => shaocWf 0xA3 f
  | .cvset f => shaocWf 0xA4 f
  | .cvsign f => shaocWf 0xA5 f
  | .cvwait f => shaocWf 0xA6 f
  | .blkbar f => shaocWf 0xA7 f
  | .sgjoin f => shaocWf 0xB0 f
  | .sgleave f => shaocWf 0xB1 f
  | .sgarrive f => shaocWf 0xB2 f
  | .sgwait f => shaocWf 0xB3 f
  | .sgbar f => shaocWf 0xB4 f
  | .sgvote f => shaocWf 0xB5 f
  | .sgred f => shaocWf 0xB6 f
  | .sgbcast f => shaocWf 0xB7 f
  | .sgquery f => shaocWf 0xB8 f
  | .sgclose f => shaocWf 0xB9 f
  | .mcfg f => shaocWf 0xC0 f
  | .mldw f => shaocWf 0xC1 f
  | .mswap f => shaocWf 0xC2 f
  | .mstr f => shaocWf 0xC3 f
  | .mrdaF32 f => shaocWf 0xC4 f && f.t == .f32
  | .mrdaSlot f => shaocWf 0xC4 f && f.t == .b32
  | .mwra f => shaocWf 0xC5 f
  | .mclra f => shaocWf 0xC6 f
  | .msync f => shaocWf 0xC7 f
  | .mquery f => shaocWf 0xC8 f
  | .shdef f => shaocWf 0xD0 f
  | .cpt f => shaocWf 0xD1 f
  | .cpchain f => shaocWf 0xD2 f
  | .cpseal f => shaocWf 0xD3 f
  | .cpwait f => shaocWf 0xD4 f
  | .gth f => shaocWf 0xD5 f
  | .sct f => shaocWf 0xD6 f
  | .cljob f => shaocWf 0xD7 f
  | .cpquery f => shaocWf 0xD8 f
  | .cpfill f => shaocWf 0xD9 f
  | .dlset f => shaocWf 0xE0 f
  | .dlprog f => shaocWf 0xE1 f
  | .dlend f => shaocWf 0xE2 f
  | .bstq f => shaocWf 0xE3 f
  | .cntrd f => shaocWf 0xE4 f
  | .tmrd f => shaocWf 0xE5 f
  | .zoneq f => shaocWf 0xE6 f
  | .trap f => shaocWf 0xF0 f
  | .brk f => shaocWf 0xF1 f
  | .rte f => shaocWf 0xF2 f
  | .sysrd f => shaocWf 0xF3 f
  | .syswr f => shaocWf 0xF4 f
  | .dbgmb f => shaocWf 0xF5 f
  | .wfe f => shaocWf 0xF6 f
  | .sev f => shaocWf 0xF7 f
  | .halt f => shaocWf 0xF8 f
  | .udf _ => true
  | .issueSchedulerPick pier sched => pier < 2048 && sched < 4
  | .lineRefetchReturn pier sched => pier < 2048 && sched < 4
  | .l1FillReturn pier _ => pier < 2048
  | .loadReturn _ => true
  | .lResultWrite _ => true
  | .presenceTimeout blk grp => blk < 2 ^ 48 && grp < 32
  | .groupDemote blk grp => blk < 2 ^ 48 && grp < 32
  | .groupPromote blk grp => blk < 2 ^ 48 && grp < 32
  | .storeRecordDrain core _ => core < 2560
  | .ownershipRequest core _ word => core < 2560 && word < 16
  | .revokeReceived _ => true
  | .ackReceived _ => true
  | .atomicPerform _ => true
  | .hostAtomicComplete _ _ => true
  | .hostWriteComplete core _ => core < 2560
  | .hostCxlRead addr size _ => addr < 2 ^ 46 && [1, 2, 4, 8, 16, 32, 64].contains size
  | .hostCxlWrite addr bytes => addr < 2 ^ 46 && bytes.length ≤ 64
  | .sgJoinHandled _ => true
  | .sgArrivalHandled _ => true
  | .matrixOpIssue pier => pier < 2048
  | .fusedStreamStart pier => pier < 2048
  | .matrixOpComplete pier => pier < 2048
  | .copyJobStart _ => true
  | .copyJobComplete _ => true
  | .copyJobFail _ => true
  | .copyPresenceTimeout _ => true
  | .chainRecordStart _ => true
  | .chainRecordFinish _ => true
  | .collectiveRendezvous _ => true
  | .collectiveComplete die _ => die < 32
  | .spanDispatch tag die cluster first => tag < 2 ^ 16 && die < 32 && cluster < 16 && first < 4
  | .leasePinComplete tag => tag < 2 ^ 16
  | .doorbellTail iface _ _ => iface < 1024
  | .doorbellEvhead iface _ _ => iface < 1024
  | .queueMap queue => queue < 4096
  | .queueUnmap queue => queue < 4096
  | .requestAccept queue => queue < 4096
  | .launch queue => queue < 4096
  | .waitval queue => queue < 4096
  | .waitvalPoll queue => queue < 4096
  | .writeval queue => queue < 4096
  | .copyjob queue => queue < 4096
  | .marker queue => queue < 4096
  | .timestamp queue => queue < 4096
  | .eventWrite queue => queue < 4096
  | .launchComplete tag => tag < 2 ^ 16
  | .tagRelease tag => tag < 2 ^ 16
  | .launchTerminate tag => tag < 2 ^ 16
  | .terminationOverdue tag => tag < 2 ^ 16
  | .sliceEnd part => part < 64
  | .preemptRequest die cluster _ => die < 32 && cluster < 16
  | .preemptDeadlineExpiry die cluster tag => die < 32 && cluster < 16 && tag < 2 ^ 16
  | .contextSave blk => blk < 2 ^ 48
  | .contextRestore tag span die cluster first => tag < 2 ^ 16 && span < 2 ^ 32 && die < 32 && cluster < 16 && first < 256
  | .evacuationAbandon tag => tag < 2 ^ 16
  | .tenantReset part => part < 64
  | .apply part => part < 64
  | .partitionReset part => part < 64
  | .force part _ => part < 64
  | .cfgerrClear part => part < 64
  | .rdoneClear part => part < 64
  | .pierRelease pier => pier < 2048
  | .budgetPeriod => true
  | .l1ctlWrite pier _ => pier < 2048
  | .slicectlDrop pier => pier < 2048
  | .slicectlPower pier _ => pier < 2048
  | .haltmaskWrite blk _ => blk < 2 ^ 48
  | .eyestAck die _ => die < 32
  | .xlfenceGo => true
  | .xlfenceComplete _ => true
  | .registerWrite reg _ => reg.ok
  | .inboxWrite die _ => die < 32
  | .outboxRead die => die < 32
  | .migrationGo die => die < 32
  | .migrationComplete die => die < 32
  | .pageRequestResponse part _ pasid page _ => part < 64 && pasid < 2 ^ 20 && page < 2 ^ 44
  | .hostInvalidation pasid page => pasid < 65 * 2 ^ 20 && page < 2 ^ 44
  | .hostLinkDown link => link < 2
  | .governorInterval die => die < 32
  | .supplySettled die => die < 32
  | .canaryWarning die => die < 32
  | .canaryDecay die => die < 32
  | .droopWarning die cluster => die < 32 && cluster < 16
  | .limiterRestore die cluster => die < 32 && cluster < 16
  | .govstatRiskClear die => die < 32
  | .govstatCanaryClear die => die < 32
  | .gateCommit die cluster => die < 32 && cluster < 16
  | .clusterWake die cluster => die < 32 && cluster < 16
  | .callocWrite part _ => part < 64
  | .zoneBoundary die zone => die < 32 && zone < 20
  | .zoneTrap die zone bit => die < 32 && zone < 20 && bit < 4
  | .zoneDry die zone => die < 32 && zone < 20
  | .primingStep die zone => die < 32 && zone < 20
  | .zoneClose die zone => die < 32 && zone < 20
  | .zonePrime die zone => die < 32 && zone < 20
  | .zoneCmdReserved die zone => die < 32 && zone < 20
  | .zstatTrapClear die zone _ => die < 32 && zone < 20
  | .zstatAlarmClear die zone => die < 32 && zone < 20
  | .cstatCerrClear => true
  | .moisture => true
  | .flitCrcRetry port => port.ok
  | .linkRetrain port => port.ok
  | .memoryLinkLost link => link < 32
  | .nodeMemberLost package => package < 8
  | .uncorrectableSharedState what => (match what with | .partitionEntries p => p < 64 | .package => true)
  | .patrolScrub chunk => chunk < 2 ^ 40
  | .warm => true
  | .powerOn => true
  | .firmwareWatchdog => true
  | .alarmLatchRead => true
  | .pldmMonitoring sensor => sensor.ok
  | .pldmFirmwareUpdate _ => true
  | .getVersion => true
  | .getCapabilities => true
  | .negotiateAlgorithms _ _ => true
  | .getDigests => true
  | .getCertificate => true
  | .challenge _ => true
  | .getMeasurements _ _ => true
  | .hartLr hart rd addr size _ => hart < 512 && rd < 32 && addr < 2 ^ 48 && (size == 4 || size == 8) && addr % size == 0
  | .hartSc hart rd rs addr size _ => hart < 512 && rd < 32 && rs < 32 && addr < 2 ^ 48 && (size == 4 || size == 8) && addr % size == 0
  | .hartAmo hart rd rs addr size _ _ _ => hart < 512 && rd < 32 && rs < 32 && addr < 2 ^ 48 && (size == 4 || size == 8) && addr % size == 0
  | .hartFenceI hart => hart < 512
  | .cboClean hart addr => hart < 512 && addr < 2 ^ 48
  | .cboFlush hart addr => hart < 512 && addr < 2 ^ 48
  | .cboInval hart addr => hart < 512 && addr < 2 ^ 48
  | .cboZero hart addr => hart < 512 && addr < 2 ^ 48
  | .hartAccessFault hart addr => hart < 512 && addr < 2 ^ 48
  | .softError _ at_ _ _ => at_ < 2 ^ 48
  | .matrixPresenceTimeout pier => pier < 2048
  | .retrainComplete port => port.ok
  | .hostLinkTrained link => link < 2
  | .powerRemoval => true
  | .pageAgeUpdate part => part < 64
  | .hartLoad hart rd addr size _ => hart < 512 && rd < 32 && addr < 2 ^ 48 && [1, 2, 4, 8].contains size && addr % size == 0
  | .hartStore hart rs addr size => hart < 512 && rs < 32 && addr < 2 ^ 48 && [1, 2, 4, 8].contains size && addr % size == 0
  | .hartFence hart _ _ => hart < 512
  | .ethernetFrame port part _ _ _ _ => port < 16 && part < 64

end Sys2Proof
end

