-- ==== Sys2Proof/Decode.lean ====
section
/-! DEFINITION. The decoder of instruction words (R47, R54, R65 to R67), total on any bytes and refusing by
name, and the encoder written from the same tables. -/
namespace Sys2Proof

/-- Why bytes are no instruction. -/
inductive DecodeError where
  /-- Fewer than the 12 bytes of an instruction (R47). -/
  | tooShort
  /-- The OP byte is not listed (R66). -/
  | illegalOpcode (op : Nat)
  /-- A field, type, SUB or IMM check fails (R54, R59, R61 to R64). -/
  | reservedField
  deriving DecidableEq, Repr

/-- The bit `n` of a word, as a flag. -/
def bitAt {w : Nat} (x : BitVec w) (n : Nat) : Bool := x.getLsbD n

/-- The OP byte (R54). -/
def wordOp (w : BitVec 96) : Nat := (w.extractLsb' 88 8).toNat

/-- The fields of a word other than OP (R54). -/
def wordFields (w : BitVec 96) : Fields where
  w := bitAt w 87
  x := bitAt w 86
  gn := bitAt w 85
  gp := w.extractLsb' 81 4
  d := w.extractLsb' 72 9
  sa := w.extractLsb' 63 9
  sb := w.extractLsb' 54 9
  sc := w.extractLsb' 45 9
  rt := Retain.ofCode (w.extractLsb' 43 2)
  i := bitAt w 42
  t := Ty.ofCode (w.extractLsb' 38 4)
  sub := w.extractLsb' 32 6
  imm := w.extractLsb' 0 32

/-- Decode one instruction word: order 3 and order 5 of R67. UDF needs no field check (R66). -/
def decodeWord (w : BitVec 96) : Except DecodeError Instr :=
  let op := wordOp w
  let f := wordFields w
  if op == 0xFF then .ok (.udf f)
  else match encRow op with
    | none => .error (.illegalOpcode op)
    | some r =>
      if fieldsOk r f then
        match mkInstr op f with
        | some i => .ok i
        | none => .error (.illegalOpcode op)
      else .error .reservedField

/-- A little-endian number of bytes (R1). -/
def leNat : List Byte → Nat
  | [] => 0
  | b :: bs => b.toNat + 256 * leNat bs

/-- The `n` bytes of a number, lowest first (R1). -/
def leBytes (n : Nat) (v : Nat) : List Byte :=
  match n with
  | 0 => []
  | k + 1 => BitVec.ofNat 8 v :: leBytes k (v / 256)

/-- Decode the instruction at the start of the bytes; answers it with the bytes after it. -/
def decode (bytes : List Byte) : Except DecodeError (Instr × List Byte) :=
  if bytes.length < 12 then .error .tooShort
  else match decodeWord (BitVec.ofNat 96 (leNat (bytes.take 12))) with
    | .ok i => .ok (i, bytes.drop 12)
    | .error e => .error e

/-- The instruction word of an opcode and its fields (R54). -/
def joinWord (op : Nat) (f : Fields) : BitVec 96 :=
  BitVec.ofNat 96 (f.imm.toNat + 2 ^ 32 * (f.sub.toNat + 2 ^ 6 * (f.t.code.toNat + 2 ^ 4 * (f.i.toNat +
    2 * (f.rt.code.toNat + 2 ^ 2 * (f.sc.toNat + 2 ^ 9 * (f.sb.toNat + 2 ^ 9 * (f.sa.toNat + 2 ^ 9 *
    (f.d.toNat + 2 ^ 9 * (f.gp.toNat + 2 ^ 4 * (f.gn.toNat + 2 * (f.x.toNat + 2 * (f.w.toNat +
    2 * op)))))))))))))

/-- The word of a Shaoc instruction; none for a step of another agent. -/
def encode (i : Instr) : Option (BitVec 96) :=
  match i.opFields with
  | some (op, f) => some (joinWord op f)
  | none => none

/-- The instruction the decoder reads from the table's bits: the first bits lie lowest. -/
def decodeTableWord (nbits w : Nat) : Option Instr :=
  if nbits ≤ 96 then
    match decode (leBytes 12 (w % 2 ^ nbits)) with
    | .ok (i, _) => some i
    | .error _ => none
  else none

end Sys2Proof
end

