-- ==== Sys2Proof/Machine/State.lean ====
section
/-! DEFINITION. The state of the package as plain data: fibres, groups and blocks, cores with their store
records, dies with what they share, launches, queues, partitions, application cores and the fleet's parts.
Numbered things are sparse tables; what an absent number stands for is the type's default, which is its
value at reset. Numbers: a pier is 64 × node die + die-local index (R9); a core is a pier number, or 2,048 +
mhartid for an application core; a block is 2^32 × launch tag + block index; a cluster is 16 × node die +
cluster. -/
namespace Sys2Proof.Machine

/-- Why the model itself stops. No fault of the spec is among these: faults of the spec are next states. -/
inductive Fault where
  /-- Raised by `step` alone: the agenda's next turn names an operand outside the ranges of
  `Instr.wf`, so it names no part of the device. Safe: no such turn happens on the device. -/
  | illFormedTurn
  deriving DecidableEq, Repr

/-- Why the model has no meaning to give. -/
inductive Refusal where
  /-- Raised by an arm of `exec` for an instruction that has no meaning yet. Safe. -/
  | notModelled (mnemonic : String)
  deriving DecidableEq, Repr

/-! ## Fibres and groups -/

/-- A handle register (R146). `joining` says that a join's result is outstanding (R148). -/
structure Handle where
  live    : Bool := false
  joining : Bool := false
  die     : Nat := 0
  idx     : Nat := 0
  gen     : BitVec 16 := 0
  member  : Nat := 0
  next    : Word := 0
  deriving DecidableEq, Repr

/-- What became of a round that a fibre signed (R141, R144). -/
inductive RoundState where
  | never | pending | issued | discarded
  deriving DecidableEq, Repr

/-- A fibre's last signed round on a convergence register (R141, R303). -/
structure Signed where
  round : Word := 0
  st    : RoundState := .never
  deriving DecidableEq, Repr

/-- Why one lane waits. -/
inductive Park where
  /-- It does not wait. -/
  | run
  /-- In a masked group instance (R104). -/
  | masked
  /-- At a BLKBAR (R140). -/
  | blkbar
  /-- CVWAIT on register `cv`, to write predicate `d` (R144). -/
  | cvwait (cv d : Nat)
  /-- MSYNC: until its round on `cv` has issued or been discarded (R170). -/
  | msync (cv : Nat)
  /-- MSYNC: until every operation numbered below `upto` is complete (R170). -/
  | msyncOps (upto : Nat)
  /-- MQUERY: until its round on `cv` issues; then value `f` goes to register `d` (R171). -/
  | mquery (cv f d : Nat)
  /-- The last signer, until the operation queue has room (R155). -/
  | mqFull
  /-- SGWAIT on handle `h` for phase `tok`, to write predicate `d` (R150). -/
  | sgwait (h : Nat) (tok : Word) (d : Nat) (pc : Dword)
  /-- SGBAR on handle `h` for phase `tok`, to write predicate `d` (R150). -/
  | sgbar (h : Nat) (tok : Word) (d : Nat) (pc : Dword)
  /-- Until the outstanding join of handle `h` is written; the instruction then issues again (R148). -/
  | joinHeld (h : Nat)
  /-- CPWAIT `n` (R183). -/
  | cpwait (n : Nat)
  /-- Until the pier has a free job place; the instruction then issues again (R175). -/
  | jobSlots
  /-- WFE (R200). -/
  | wfe
  /-- Its SGWAIT or SGBAR ended while its block was saved: `v` goes to predicate `d` at the restore (R255). -/
  | given (d : Nat) (v : Bool)
  /-- It holds a pending trap cause (R190). -/
  | trapPending
  /-- Its line cannot be fetched: the launch is being terminated (R50, R51). -/
  | stopped
  deriving DecidableEq, Repr

/-- A shape (R176): element bytes and, from the innermost, extent and stride of each dimension. -/
structure Shape where
  esz  : Nat := 0
  dims : List (Nat × Nat) := []
  deriving DecidableEq, Repr

/-- What an outstanding memory operation is. -/
inductive MemKind where
  | load | atom | cas | red
  /-- An acquire whose read is done (R126). -/
  | acq
  /-- A store to a scratchpad, cluster-shared or accumulator window that its core holds back. -/
  | st
  deriving DecidableEq, Repr

/-- An access of a fibre to a scratchpad, cluster-shared or accumulator window: performed when it issues, or held back by
its core until its order admits it (R121, R122, R126, R238). -/
structure LocalOp where
  /-- Its order number. -/
  id   : Nat
  kind : MemKind
  ptr  : Dword
  t    : Ty
  d    : Nat
  op   : Nat := 0
  /-- The operand words of an atomic. -/
  b    : List Word := []
  /-- The bytes of a store, and whether they are poisoned. -/
  bytes : List Byte := []
  bad  : Bool := false
  acquire : Bool := false
  /-- Accumulator words whose value a matrix operation has replaced meanwhile (R122). -/
  lost : List Nat := []
  pc   : Dword
  deriving DecidableEq, Repr

/-- What an instruction reads its operands from: registers, predicates, handles, signed rounds and the block's shape
slots. For the second slot of a pair they stand as before the pair (R58). -/
structure Src where
  regs    : Tbl Word := []
  preds   : BitVec 16 := 0x8000
  handles : Tbl Handle := []
  signed  : Tbl Signed := []
  shapes  : Tbl Shape := []
  /-- What the second slot of a pair reads of the core, where it is a SYSRD, FSTAT, CNTRD or RECST. -/
  seen    : Option Dword := .none
  deriving DecidableEq, Repr

/-- The operands of a pair's second slot that waits to issue again, with its slot and handler mode (R58). -/
structure Held where
  pc   : Dword
  hm   : Bool
  src  : Src
  deriving DecidableEq, Repr

/-- One fibre slot (R18, R303). -/
structure Lane where
  live    : Bool := false
  used    : Bool := false
  hmode   : Bool := false
  /-- Counts the fibres the lane has held, so that a job finds its own. -/
  fib     : Nat := 0
  pc      : Dword := 0
  preds   : BitVec 16 := 0x8000
  fpstat  : BitVec 5 := 0
  /-- Registers v0 to v511; an absent one holds 0 (R210). -/
  regs    : Tbl Word := []
  handles : Tbl Handle := []
  signed  : Tbl Signed := []
  /-- CNTRD.inst (R204). -/
  inst    : Dword := 0
  park    : Park := .run
  /-- The first issue is still to come: the entry is checked then (R53). -/
  entering : Bool := false
  /-- RTE.skip holds for the next issue (R192). -/
  skip    : Bool := false
  /-- When its batch's last run ended, or its fibre was spawned, as an order number; 0 for a fibre of the first
  dispatch that has not run (R219, log entry 78). -/
  lastRun : Nat := 0
  /-- Handles, with their instructions, that a reclaim made stale while its block was saved (R252). -/
  stale   : List (Nat × Dword) := []
  /-- Operands that its instruction keeps while it waits to issue again. -/
  held    : Option Held := .none
  /-- A STEP or DEADLINE_RISK to take, with its TRAPVAL, before it issues anything else (R197, R202). -/
  due     : Option (BitVec 8 × Dword) := .none
  /-- The fibre's last sealed batch number (R183). -/
  sealed  : Word := 0
  /-- Batch numbers ever sealed, to tell the 64 most recent (R184). -/
  sealCount : Nat := 0
  /-- The batches kept: number, unfinished jobs, ERR (R183, R184). -/
  batches : List (Word × Nat × Bool) := []
  /-- Jobs issued and not sealed yet: finished or not, failed or not (R183). -/
  unsealed : Nat := 0
  unsealedDone : Nat := 0
  unsealedErr : Bool := false
  /-- Record entries whose bytes it took from another fibre (R232). -/
  tracked : List Nat := []
  /-- Accesses that its core holds back, in program order (R126, R238). -/
  localOps : List LocalOp := []
  deriving DecidableEq, Repr

/-- Why a group waits as a whole. The instruction at the batch's pc issues when the wait is over. -/
inductive GPark where
  | none
  /-- A W mark (R56). -/
  | wmark
  /-- The release conditions of R125 for the lanes of `lanes`. -/
  | release (lanes : Word)
  /-- A free entry of the store record (R121). -/
  | recordSpace
  /-- Absent lines (R122): lane, pointer, block and line of each; cycles waited, in hundredths. -/
  | presence (lines : List (Nat × Dword × Nat × Nat)) (waited : Nat)
  /-- Room in the eyepiece outbox, inside DBGMB: the lanes still to post, with word and D of each (R199). -/
  | outbox (rest : List (Nat × Dword × Nat))
  /-- Fewer than 16 sealed unfinished batches in the lanes of `lanes` (R183). -/
  | sealLimit (lanes : Word)
  /-- Translation fence `k`, started by the lanes of `lanes`, which stand at their SYSWR (R281). -/
  | fence (k : Nat) (lanes : Word)
  deriving DecidableEq, Repr

/-- One participant's arrival at a masked instance: its operands as read on arrival (R104). -/
structure Arrival where
  a    : Dword := 0
  c    : Word := 0
  p    : Bool := false
  d    : Nat := 0
  pc   : Dword := 0
  deriving DecidableEq, Repr

/-- A masked group instance (R104). -/
structure Instance where
  mask : Word
  op   : Nat
  t    : Ty
  sub  : BitVec 6
  arrivals : Tbl Arrival
  deriving DecidableEq, Repr

/-- A pending trap cause (R190), with whether it was raised before or after issue. -/
structure Cause where
  code : BitVec 8
  pc   : Dword
  val  : Dword
  mask : Word
  deriving DecidableEq, Repr

/-- A group (R18, R217). -/
structure Group where
  sched   : Nat := 0
  active  : Bool := false
  /-- Order number of its dispatch, which a restore keeps (R219), and of its dispatch or last restore. -/
  born    : Nat := 0
  placed  : Nat := 0
  /-- Order number of its entry into the active set. -/
  entered : Nat := 0
  /-- When its last run ended; 0 for never (R219). -/
  lastRun : Nat := 0
  /-- How long every batch has been parked or halted, and how long one has been ready, in hundredths of a
  cycle (R217). -/
  parkedFor : Nat := 0
  readyFor  : Nat := 0
  /-- CNTRD.park in hundredths of a cycle (R204). -/
  parkTotal : Nat := 0
  event   : Bool := false
  park    : GPark := .none
  /-- The trap registers (R190, R194). -/
  trap    : Cause := { code := 0, pc := 0, val := 0, mask := 0 }
  /-- Pending causes, oldest first. -/
  pending : List Cause := []
  /-- HALT_REQ is still to be delivered (R197). -/
  haltReq : Bool := false
  /-- It has issued its one step since the stepping conditions came to hold (R197). -/
  stepped : Bool := false
  insts   : List Instance := []
  deriving DecidableEq, Repr

/-! ## Blocks -/

/-- The first signature of a round (R143). -/
structure Signature where
  op     : Nat
  bits   : BitVec 96
  vals   : List Dword
  fields : Fields
  lane   : Nat
  pc     : Dword
  deriving DecidableEq, Repr

/-- A convergence register (R141). -/
structure Cv where
  count  : Nat := 0
  signed : Nat := 0
  first  : Option Signature := .none
  round  : Word := 0
  /-- The lanes that signed the open round with the register each MRDA or MQUERY writes. -/
  signers : List (Nat × Nat) := []
  /-- The order number of its first signature, and that of each lane's (R159). -/
  since  : Nat := 0
  signed_ : List (Nat × Nat) := []
  deriving DecidableEq, Repr

/-- A byte of a scratchpad as it stood before a write that came while a matrix operation of the block was signed or
queued: its offset, whether it was poisoned, the order numbers of the write's performance and of its instruction, and the
lane of the block that wrote (R159). -/
structure OldByte where
  off : Nat
  val : Byte
  bad : Bool
  at_ : Nat
  inst : Nat
  lane : Option Nat
  deriving DecidableEq, Repr

/-- A matrix configuration (R154). -/
structure MCfg where
  set   : Bool := false
  shape : Nat := 0
  sp    : Bool := false
  wslot : Nat := 0
  aslot : Nat := 0
  deriving DecidableEq, Repr

/-- A weight plane (R154): weight bytes by physical row and column, metadata and scales as loaded. -/
structure Plane where
  loaded  : Bool := false
  cfg     : MCfg := {}
  weights : List Byte := []
  meta_   : List Byte := []
  scales  : List Byte := []
  /-- Columns whose loaded bytes are poisoned (R172). -/
  poison  : List Nat := []
  deriving DecidableEq, Repr

/-- An accepted matrix operation (R155). -/
structure MOp where
  id     : Nat
  sig    : Signature
  cv     : Nat
  round  : Word
  /-- The signers with the register of each (MRDA). -/
  signers : List (Nat × Nat)
  /-- The last signing lane. -/
  last : Nat := 0
  started : Bool := false
  /-- An MRDA has read its row: its results are outstanding (R168). -/
  read : Bool := false
  /-- The absent line it waits for, as block and line, and for how many hundredths of a cycle (R159). -/
  waitOn : Option (Nat × Nat) := .none
  waited : Nat := 0
  /-- Its arrival at the die's task scheduler (R185). -/
  arrival : Nat := 0
  /-- The order number of its round's first signature, and that of each lane's (R159). -/
  since   : Nat := 0
  signed_ : List (Nat × Nat) := []
  deriving DecidableEq, Repr

/-- The step record (R201). -/
structure StepRec where
  deadline : Nat := 0
  total    : Nat := 0
  done     : Nat := 0
  opened   : Bool := false
  /-- Units that DLPROG added since the last interval boundary (R201, R316). -/
  fresh    : Nat := 0
  /-- Units in DONE whose DLPROG came at a boundary that the governor had not handled: they count at the next (R325). -/
  ahead    : Nat := 0
  /-- The step was decided at risk (R318). -/
  atRisk   : Bool := false
  deriving DecidableEq, Repr

/-- What the governor remembers of a block's step (R316): the interval in which R was measured, as its units,
its injected and all its cycles in hundredths (f0 and the whole of a follow from them), and c0; and the projected
finish at the last boundary (R298). -/
structure GovMem where
  known  : Bool := false
  units  : Nat := 0
  inj    : Nat := 0
  cycles : Nat := 1
  c0     : Nat := 1
  finish : Option Nat := .none
  deriving DecidableEq, Repr

/-- One store's bytes in a record entry. -/
structure Contribution where
  lane : Nat
  /-- The fibre of the lane, by its count (R232). -/
  fib  : Nat := 0
  seq  : Nat
  be   : BitVec 64
  data : BitVec 512
  /-- The bytes are poisoned (R359). -/
  poison : Bool := false
  /-- The cache policy of its store; none for the page's (R118). -/
  pol  : Option Nat := .none
  deriving DecidableEq, Repr

/-- A write of a launch's fault record on its way to its home (R293 to R295). -/
structure FrWrite where
  tag   : Nat
  part  : Nat
  ptr   : Dword
  bytes : List Byte
  deriving DecidableEq, Repr

/-- A host's access to device memory that waits at the owning die, with its order number (R287, R343, R357). -/
structure CxlReq where
  id    : Nat
  addr  : Nat
  /-- The bytes of a write; none for a read of `size` bytes. -/
  bytes : Option (List Byte)
  size  : Nat
  /-- The host keeps a copy of the line that it reads. -/
  cache : Bool := false
  deriving DecidableEq, Repr

/-- A grant of a word to an entry (R229, R281): the physical word, and the leaf that translated it. -/
structure Grant where
  word : Nat
  /-- The leaf's address and its value but for U; 0 and 0 where no page-table entry was used. -/
  pte  : Nat := 0
  val  : Nat := 0
  deriving DecidableEq, Repr

/-- A store-record entry (R228). DATA and BE are what its contributions give in order. -/
structure Entry where
  id     : Nat
  /-- The context: a block, or 2^60 + mhartid for an application core. -/
  ctx    : Nat
  tag    : Nat := 0
  /-- Generic pointer of the chunk; a private chunk by its backing address. -/
  chunk  : Dword
  stores : List Contribution
  age    : BitVec 16 := 0
  rel    : Bool := false
  relLane : Nat := 0
  relSeq : Nat := 0
  acks   : Nat := 0
  /-- Words with an ownership request outstanding. -/
  requested : BitVec 16 := 0
  /-- What the entry's own requests were granted, by word number. -/
  grants : Tbl Grant := []
  /-- Its drain is under way: it is not open. -/
  draining : Bool := false
  deriving DecidableEq, Repr

/-- Where a block stands. -/
inductive Place where
  /-- Not dispatched, or retired, or discarded. -/
  | nowhere
  | resident (pier : Nat)
  /-- Asked to save, still resident (R300). -/
  | saving (pier : Nat)
  /-- In its image slot (R300). -/
  | saved
  /-- Retired; its accepted matrix operations go on in the quadrant of the pier (R137). -/
  | retired (pier : Nat)
  deriving DecidableEq, Repr

/-- A block (R18). -/
structure Block where
  tag     : Nat := 0
  idx     : Nat := 0
  place   : Place := .nowhere
  groups  : Nat := 0
  window  : Nat := 0
  scratchSize : Nat := 0
  accRows : Nat := 0
  origin  : Nat := 0
  spos    : Nat := 0
  privSlot : Option Nat := .none
  ctxKey  : BitVec 12 := 0
  lanes   : Tbl Lane := []
  grps    : Tbl Group := []
  /-- The scratchpad allocation; an absent byte is 0 (R210). -/
  scratch : Tbl Byte := []
  /-- Absent lines with the jobs that cleared them (R179). -/
  absent  : Tbl (List Nat) := []
  scratchPoison : List Nat := []
  /-- What scratchpad writes replaced while a matrix operation was signed or queued, oldest first (R159). -/
  older   : List OldByte := []
  /-- Accumulator words by 128 × row + column; an absent one is +0.0 (R154). -/
  acc     : Tbl Word := []
  accPoison : List Nat := []
  /-- Registers by 512 × lane + index whose word is poisoned (R359). -/
  regPoison : List Nat := []
  cfg     : MCfg := {}
  plane0  : Plane := {}
  plane1  : Plane := {}
  /-- True when plane 1 is active. -/
  sel     : Bool := false
  mq      : List MOp := []
  /-- Operations whose round completed while the queue was full (R155). -/
  mqFull  : List MOp := []
  /-- A failed operation stopped the queue (R155). -/
  mqDead  : Bool := false
  /-- MSTRs performed since the current configuration (R163). -/
  mstrs   : Nat := 0
  cvs     : Tbl Cv := []
  shapes  : Tbl Shape := []
  chans   : Tbl Dword := []
  step    : StepRec := {}
  gov     : GovMem := {}
  slack   : BitVec 64 := 0
  /-- Pending DEADLINE_RISKs with their lateness, oldest first: one for each step at most (R202, R328). -/
  risk    : List Dword := []
  haltMask : Word := 0
  stepGrp : Word := 0
  /-- CNTRD.cyc in hundredths of a cycle, and CNTRD.cpb (R204). -/
  cyc     : Nat := 0
  cpb     : Dword := 0
  /-- Cycles in which the quadrant injected rows in this interval, in hundredths (R316). -/
  injected : Nat := 0
  /-- The image slot (R300). -/
  image   : Nat := 0
  /-- A save is owed by this time, 0 for none (R298, R305). -/
  saveBy  : Nat := 0
  evac    : Bool := false
  /-- The block drains for a pre-emption: it must retire by this time (R298). -/
  drainBy : Nat := 0
  /-- An orrery asked for its restore: the order number of the request, 0 for none (R251). -/
  wanted  : Nat := 0
  /-- It is discarded, and waits for its started jobs (R299). -/
  dropping : Bool := false
  /-- The 10-µs interval in which the block was saved, as its number plus 1 (R326). -/
  savedAt : Nat := 0
  /-- The record entries of a saved block (R233), and AGE of the next entry (R228, R311). -/
  savedRec : List Entry := []
  age     : BitVec 16 := 0
  deriving DecidableEq, Repr

/-! ## Cores: store record, ownership, L1 -/

/-- A fill outstanding (R231). -/
structure Fill where
  /-- Its order number. -/
  id   : Nat := 0
  line : Nat
  /-- The launch it is charged to and translated for. -/
  tag  : Nat := 0
  /-- Words drained or revoked since the request. -/
  excluded : List Nat := []
  /-- An acquire completed since the request, or the cache was dropped. -/
  dropped : Bool := false
  /-- Its cache policy; none for the page's (R118). -/
  pol  : Option Nat := .none
  /-- It installs in the L1; a `PFCH.home` does not (R132). -/
  l1   : Bool := true
  /-- Its read has been admitted and charged (R343). -/
  paid : Bool := false
  deriving DecidableEq, Repr

/-- A core: a pier's, or an application core's (R10, R333). Words are keyed as `wordKey` says. -/
structure Core where
  /-- The data cache, and the instruction cache, have no power (R16). -/
  off    : Bool := false
  ioff   : Bool := false
  record : List Entry := []
  /-- Owned words, each with its physical word (R229, R231). -/
  owned  : Tbl Nat := []
  /-- Words whose L1 copies are marked owned (R230, R231). -/
  l1Owned : List Nat := []
  /-- Valid words of the L1 data cache. -/
  l1     : Tbl Word := []
  /-- Valid words of an application core's L2 (R333). -/
  l2     : Tbl Word := []
  /-- Lines marked first for replacement (R118). -/
  strm   : List Nat := []
  fills  : List Fill := []
  /-- AGE of the next entry of an application core's record (R228). -/
  age    : BitVec 16 := 0
  /-- Lines of the L1 instruction cache: 64 bytes each, as filled (R51). -/
  l1i    : Tbl (List Byte) := []
  deriving DecidableEq, Repr

/-- A run in progress on an issue scheduler (R219). -/
structure Run where
  /-- Its order number, by which its fetches wait for a budget (R343). -/
  id    : Nat := 0
  blk   : Nat
  grp   : Nat
  lanes : Word
  count : Nat := 0
  /-- It issues one instruction or pair of a halted group (R197). -/
  single : Bool := false
  /-- It waits for its line, which is fetched once more (R50). -/
  refetch : Bool := false
  deriving DecidableEq, Repr

/-- A pier's registers (R194, R341) and its home slice. -/
structure Pier where
  l1ctl   : BitVec 2 := 0
  wayOff  : BitVec 16 := 0
  sliceOff : Bool := false
  /-- Lines of which the home slice holds a clean copy, by physical line number, each with its way; the least recently
  used first (R226, R341). -/
  slice   : List (Nat × Nat) := []
  dbgctl  : BitVec 9 := 0
  bpa     : Tbl Dword := []
  wpa     : Tbl Dword := []
  wpl     : Tbl Dword := []
  /-- Cycles, in hundredths (R204). -/
  cycles  : Nat := 0
  /-- The same at the last governor boundary (R316). -/
  cycAt   : Nat := 0
  deriving DecidableEq, Repr

/-! ## Outstanding work -/

/-- An outstanding load, atomic, reduction or acquire of a fibre (R56, R120, R123, R126). -/
structure MemOp where
  id   : Nat
  core : Nat
  blk  : Nat
  lane : Nat
  kind : MemKind
  seq  : Nat
  /-- The effective pointer; a private one by its backing address. -/
  ptr  : Dword
  t    : Ty := .b32
  d    : Nat := 0
  op   : Nat := 0
  b    : List Word := []
  acquire : Bool := false
  release : Bool := false
  /-- Its cache policy; none for the page's (R118). -/
  pol  : Option Nat := .none
  pc   : Dword := 0
  /-- Its fibre has ended: it is performed, and no result is written (R137). -/
  dead : Bool := false
  deriving DecidableEq, Repr

/-- An outstanding L result, ready to be written (R56). -/
structure LRes where
  id    : Nat
  blk   : Nat
  lane  : Nat
  regs  : List (Nat × Word) := []
  pred  : Option (Nat × Bool) := .none
  handle : Option (Nat × Handle) := .none
  flags : BitVec 5 := 0
  /-- The words come from poisoned data. -/
  poison : Bool := false
  /-- The MRDA it belongs to, by its operation's number; 0 for none (R168). -/
  mop   : Nat := 0
  /-- It completes a phase: when it is written its fibre acquires, at the order number and instruction of its arrival
  (R150). -/
  acq   : Option (Nat × Dword) := .none
  deriving DecidableEq, Repr

/-- An MRDA signed and not complete: its result is outstanding (R155). -/
structure MrdaOut where
  blk  : Nat
  lane : Nat
  cv   : Nat
  round : Word
  deriving DecidableEq, Repr

/-- A revoke on its way (R229): to `core`, for physical word `word`; `reply` is the new owner and its
entry. -/
structure Revoke where
  id    : Nat
  core  : Nat
  word  : Nat
  reply : Nat × Nat
  deriving DecidableEq, Repr

/-- An acknowledgement on its way to entry `entry` of `core` (R229). -/
structure Ack where
  id    : Nat
  core  : Nat
  entry : Nat
  deriving DecidableEq, Repr

/-- What a named-group request asks (R148 to R152). -/
inductive SgKind where
  | join (name : Word)
  | arrive | bar | leave
  | vote (mode : Nat) (v : Bool)
  | red (op : Nat) (t : Ty) (v : Dword)
  | bcast (wide : Bool) (supply : Bool) (v : Dword)
  | query (f : Nat)
  | close
  /-- A lost member's notice (R249). -/
  | lost
  deriving DecidableEq, Repr

/-- A named-group request on its way to the orrery, or held at the core (R149, R153). -/
structure SgReq where
  id   : Nat
  seq  : Nat
  blk  : Nat
  lane : Nat
  h    : Nat
  hnd  : Handle
  kind : SgKind
  d    : Nat := 0
  /-- The status predicate of SGRED. -/
  ps   : Nat := 15
  phase : Word := 0
  part : Nat := 0
  pc   : Dword := 0
  /-- The instruction that made it: its first lane's order number. -/
  inst : Nat := 0
  /-- Its fibre has ended (R137, R249). -/
  dead : Bool := false
  fib  : Nat := 0
  deriving DecidableEq, Repr

/-- An arrival recorded at the orrery that waits for its phase (R151). -/
structure SgArr where
  member : Nat
  phase : Word
  req   : SgReq
  deriving DecidableEq, Repr

/-- A member of a group (R244, R247): the phases it belongs to are `from` to `upto`, and `arrived` is the
number of phases from `from` on that it has arrived at. -/
structure Member where
  blk   : Nat := 0
  lane  : Nat := 0
  h     : Nat := 0
  first : Word := 0
  /-- The next phase to arrive at as the orrery knows it. -/
  next  : Word := 0
  /-- It has left: it is a member of no phase at or after `next`. -/
  left  : Bool := false
  deriving DecidableEq, Repr

/-- A group entry of an orrery (R244). -/
structure SgEntry where
  used  : Bool := false
  name  : Word := 0
  nsid  : BitVec 16 := 0
  gen   : BitVec 16 := 0
  closing : Bool := false
  phase : Word := 0
  /-- A phase has completed. -/
  done  : Bool := false
  members : Tbl Member := []
  arrivals : List SgArr := []
  /-- LOST by phase number (R249). -/
  lost  : Tbl Nat := []
  deriving DecidableEq, Repr

/-- The kinds of engine job (R294). -/
inductive JobKind where
  | cpt | chain | gth | sct | fill | coll
  deriving DecidableEq, Repr

/-- A job's progress. -/
inductive JobSt where
  | waiting | running
  /-- A collective: at the orrery, not met yet. -/
  | meeting
  deriving DecidableEq, Repr

/-- A job card (R182). -/
structure Card where
  kind : Nat := 0
  ty   : Nat := 0
  op   : Nat := 0
  p    : Nat := 0
  rank : Nat := 0
  n    : Nat := 0
  send : Dword := 0
  recv : Dword := 0
  name : Word := 0
  cwp  : Dword := 0
  cval : Word := 0
  deriving DecidableEq, Repr

/-- A job of the copy and collective engine complex (R174 to R187). -/
structure Job where
  id    : Nat
  kind  : JobKind
  die   : Nat
  part  : Nat
  tag   : Nat := 0
  /-- The issuing block and lane; none for a COPYJOB packet. -/
  blk   : Option Nat := .none
  lane  : Nat := 0
  fib   : Nat := 0
  /-- The pier that accepted it (R175). -/
  pier  : Nat := 0
  chan  : Nat := 0
  /-- Its place in the fibre's program order and in arrival at the die. -/
  seq   : Nat := 0
  pc    : Dword := 0
  /-- The batch it will belong to (R181). -/
  batch : Word := 0
  st    : JobSt := .waiting
  dsp   : Nat := 0
  ssp   : Nat := 0
  dst   : Dword := 0
  src   : Dword := 0
  idx   : Dword := 0
  i64   : Bool := false
  wshape : Shape := {}
  rshape : Shape := {}
  value : List Byte := []
  /-- Elements done, each with the byte offset it was written at. -/
  done  : List (Nat × Nat) := []
  /-- Bytes from an indexed base to the end of its window or allocation (R178). -/
  room  : Nat := 0
  /-- The absent lines its elements wait for: block, line, and hundredths of a cycle waited (R179). -/
  waits : List (Nat × Nat × Nat) := []
  /-- Bytes that a chain's finished records moved (R204). -/
  moved : Nat := 0
  /-- A chain: when its current record became current, as an order number. -/
  recSeq : Nat := 0
  /-- A chain has no further record. -/
  chainEnd : Bool := false
  /-- The record a chain is at, its copied fields, and whether it is being walked. -/
  recPtr : Dword := 0
  recCtl : Dword := 0
  recCwp : Dword := 0
  recNext : Dword := 0
  recLive : Bool := false
  /-- The current record or the job met a fault: code and address. -/
  failed : Option (BitVec 8 × Dword) := .none
  /-- Lines it cleared: block and line (R179). -/
  cleared : List (Nat × Nat) := []
  card  : Card := {}
  /-- The instance a collective takes part in, 0 for none. -/
  inst  : Nat := 0
  /-- The queue and SEQ of a COPYJOB packet, with its PASID. -/
  packet : Option (Nat × Word) := .none
  pasid : Nat := 0
  deriving DecidableEq, Repr

/-- A collective instance at the orrery of die `die` (R182). -/
structure Coll where
  id    : Nat
  die   : Nat
  part  : Nat
  name  : Word
  jobs  : List Nat
  /-- All ranks have arrived. -/
  started : Bool := false
  deriving DecidableEq, Repr

/-- A translation fence in progress (R281): the accesses that must complete. -/
structure Fence where
  id      : Nat
  /-- Record entries with a word granted at its start: core and entry. -/
  entries : List (Nat × Nat)
  /-- Started by the mirror of the management window. -/
  mirror  : Bool
  deriving DecidableEq, Repr

/-! ## Launches, queues, partitions -/

/-- The launch record (R268). -/
structure LaunchRec where
  entry    : Dword := 0
  handler  : Dword := 0
  maxBlk   : Nat := 0
  lanes    : Nat := 0
  window   : Nat := 0
  scratch  : Nat := 0
  accRows  : Nat := 0
  span     : Nat := 1
  coop     : Bool := false
  idem     : Bool := false
  supv     : Bool := false
  heat     : Nat := 0
  privBase : Dword := 0
  privSize : Nat := 0
  privSlots : Nat := 0
  objBase  : Dword := 0
  objCount : Nat := 0
  nLease   : Nat := 0
  frptr    : Dword := 0
  deadline : Nat := 0
  work     : Nat := 0
  slots    : List Dword := []
  leases   : List (Dword × Nat) := []
  deriving DecidableEq, Repr

/-- A launch, by its tag (R18). -/
structure Launch where
  used     : Bool := false
  rec_     : LaunchRec := {}
  part     : Nat := 0
  queue    : Nat := 0
  seq      : Word := 0
  pasid    : Nat := 0
  iface    : Nat := 0
  evt      : Bool := false
  irq      : Bool := false
  /-- Its packet has started (R266). -/
  started  : Bool := false
  pinned   : Bool := false
  /-- The next span to dispatch (R214). -/
  nextSpan : Nat := 0
  /-- Discarded blocks to dispatch afresh (R299). -/
  again    : List Nat := []
  retired  : Nat := 0
  privUsed : List Nat := []
  /-- The bytes of its object table as they stood at submission (R116). -/
  objs     : List Byte := []
  terminating : Bool := false
  termAt   : Nat := 0
  /-- The steps of termination are done (R292). -/
  stopped  : Bool := false
  complete : Bool := false
  /-- The fault record (R293). -/
  count    : Nat := 0
  written  : Nat := 0
  first    : BitVec 8 := 0
  tFirst   : Nat := 0
  tDone    : Nat := 0
  hcount   : Nat := 0
  anyDef   : Bool := false
  late     : Bool := false
  termBit  : Bool := false
  free     : Bool := false
  deriving DecidableEq, Repr

/-- An accepted request packet (R264). -/
structure Packet where
  type  : Nat
  flags : BitVec 8
  seq   : Word
  pasid : Nat
  /-- Bytes 63:16. -/
  payload : List Byte
  started : Bool := false
  /-- The launch tag or the job it became. -/
  tag   : Nat := 0
  job   : Nat := 0
  /-- The time a WAITVAL last read its word (R266). -/
  polled : Option Nat := .none
  /-- Its order number, by which it waits for a budget (R343). -/
  id    : Nat := 0
  deriving DecidableEq, Repr

/-- An event waiting to be written (R267). -/
structure Event where
  kind   : Nat
  status : Nat
  rseq   : Word
  tag    : Nat
  fcode  : BitVec 8
  fsum   : BitVec 8
  irq    : Bool
  /-- Its order number, by which it waits for a budget (R343). -/
  id     : Nat := 0
  deriving DecidableEq, Repr

/-- A queue (R260 to R267). -/
structure Queue where
  mapped  : Bool := false
  /-- The descriptor as loaded: RING, EVRING, CTL. -/
  ring    : Dword := 0
  evring  : Dword := 0
  ctl     : Dword := 0
  lastAcc : Word := 0
  lastEmit : Word := 0
  tail    : Word := 0
  evHead  : Word := 0
  packets : List Packet := []
  events  : List Event := []
  descErr : Bool := false
  linkDown : Bool := false
  /-- The order number at which its next request came to be the next, by which it waits for a budget (R343). -/
  since   : Nat := 0
  /-- The next request's slot was not yet written: the queue waits for a doorbell (R265). -/
  resting : Bool := false
  deriving DecidableEq, Repr

/-- A page request to the host that has no response yet (R271): the function and its generation, the space (R270) and
the page. -/
structure PageReq where
  part  : Nat
  gen   : BitVec 4
  space : Nat
  page  : Nat
  deriving DecidableEq, Repr

/-- An eviction under way (R285): the page's partition, global address and size, its frame, what its leaf held but for
ADDR, V and U, where its entry lies, the locator that stands there now, and the fence that must end. -/
structure Evict where
  part    : Nat
  addr    : Nat
  shift   : Nat
  frame   : Nat
  attrs   : Nat
  entry   : Nat
  locator : Dword
  fence   : Nat
  deriving DecidableEq, Repr

/-- A page in the backing store (R278, R285): of the eviction that put it there, with its bytes and its poisoned chunks
as offsets. -/
structure Backed where
  page   : Evict
  cells  : List Host.Cell
  poison : List Nat
  deriving DecidableEq, Repr

/-- A queue interface (R259). -/
structure Iface where
  assigned : Bool := false
  /-- A virtual function's partition, or none for the physical function. -/
  vf      : Option Nat := .none
  link    : Nat := 0
  pasids  : Tbl Nat := []
  remap   : Tbl Dword := []
  errors  : Nat := 0
  deriving DecidableEq, Repr

/-- The fields of a partition entry that APPLY puts into effect (R338). -/
structure PartFields where
  v       : Bool := false
  nsid    : BitVec 16 := 0
  piers   : BitVec 256 := 0
  harts   : BitVec 64 := 0
  framesG : Nat := 0
  framesB : Nat := 0
  slice   : Nat := 0
  pdead   : Nat := 0
  slots   : Nat := 0
  quota   : Nat := 256
  saveBase : Nat := 0
  saveSize : Nat := 0
  capBase : Nat := 0
  ways    : BitVec 16 := 0
  limits  : List Nat := []
  /-- The doublewords last written with a reserved bit non-zero (R340). -/
  bad     : List Nat := []
  deriving DecidableEq, Repr

/-- A partition (R338 to R345, R347). -/
structure Part where
  written : PartFields := {}
  inForce : PartFields := {}
  gen     : BitVec 4 := 0
  cfgErr  : Bool := false
  shrinking : Bool := false
  force   : Bool := false
  reset   : Bool := false
  rdone   : Bool := false
  /-- Piers being released (R344). -/
  releasing : List Nat := []
  /-- The period that `use` and what follows belong to: the ones before it are settled (R343). -/
  period  : Nat := 0
  /-- Use of each activity in this period; what waits, as activity and order number, oldest first; and the
  activities that made something wait in this period (R342, R343). -/
  use     : Tbl Nat := []
  waited  : List (Nat × Nat) := []
  stalled : List Nat := []
  stall   : Tbl Word := []
  /-- CALLOC SHARE and MAXHEAT in force and as written (R347). -/
  share   : Nat := 0
  maxHeat : Nat := 0
  shareW  : Nat := 0
  maxHeatW : Nat := 0
  stale   : Nat := 0
  /-- Page ages by page address, and the last millisecond handled (R285). -/
  ages    : Tbl Nat := []
  ageAt   : Nat := 0
  /-- A capture and reset is due for this reason (R306, R307), detected at `since`; 0 for none. -/
  reason  : Nat := 0
  since   : Nat := 0
  /-- Its steps 1 to 5 are done; the events of step 6 are being written. -/
  cleared : Bool := false
  /-- The queue last mapped at each priority (R261). -/
  turn    : Tbl Nat := []
  capUsed : Nat := 0
  capTrunc : Bool := false
  deriving DecidableEq, Repr

/-! ## Dies -/

/-- A coolant zone (R348). -/
structure Zone where
  man    : Bool := false
  vpos   : Nat := 15
  flow   : Nat := 0
  valve  : Nat := 15
  dp     : Nat := 0
  temp   : BitVec 16 := 0
  trap   : BitVec 4 := 0
  alarm  : Bool := false
  tries  : Nat := 0
  cap    : Nat := 5
  heatOk : Nat := 3
  st     : Nat := 0
  dpMax  : Nat := 2000
  dpMin  : Nat := 200
  tLim   : BitVec 16 := 960
  slope  : Nat := 32
  /-- Since when each trap condition, and the dry condition, has held; 0 for not. -/
  since  : Tbl Nat := []
  drySince : Nat := 0
  /-- TEMP at the last reading and its time. -/
  lastTemp : BitVec 16 := 0
  lastAt : Nat := 0
  /-- How far TEMP rose between the last two readings that lay apart, and the ns between them (R352). -/
  rise   : Int := 0
  riseNs : Nat := 0
  /-- Priming: the valve is open, and when the phase ends. -/
  opened : Bool := false
  phaseEnd : Nat := 0
  /-- The close or dry sequence runs: 0 no, 1 dry, 2 close (R352). -/
  seqRuns : Nat := 0
  /-- The number of the last boundary handled (R349). -/
  boundary : Nat := 0
  deriving DecidableEq, Repr

/-- A cluster's power state (R320, R324). -/
structure Cluster where
  st     : Nat := 2
  step   : Nat := 0
  held   : Nat := 0
  fall   : Bool := false
  /-- A boost step was held in this interval (R319). -/
  boosted : Bool := false
  /-- Cadence the governor chose for each quadrant. -/
  cad0   : Nat := 16
  cad1   : Nat := 16
  cad2   : Nat := 16
  cad3   : Nat := 16
  /-- The limiter holds CADENCE 16 until this time; 0 for not (R315). -/
  limit  : Nat := 0
  /-- The step whose clock is in effect: STEP's own, but while the supply rises (R313). -/
  clk    : Nat := 0
  /-- No resident block since the last boundary. -/
  idle   : Bool := true
  wakeAt : Nat := 0
  /-- When each launch's slice started: tag and time (R297). -/
  slices : Tbl Nat := []
  deriving DecidableEq, Repr

/-- A die's eyepiece (R198). -/
structure Eyepiece where
  outSeq  : Word := 0
  outbox  : List (Dword × Word × Nat) := []
  inbox   : List Dword := []
  refused : Nat := 0
  deriving DecidableEq, Repr

/-- A migration block (R286). -/
structure Migration where
  src : Dword := 0
  dst : Dword := 0
  size : Nat := 0
  refused : Bool := false
  poisoned : Bool := false
  busy : Bool := false
  /-- What the copy that runs was started with: source, destination and size. -/
  run : Nat × Nat × Nat := (0, 0, 0)
  deriving DecidableEq, Repr

/-- A die (R12). -/
structure Die where
  root    : Dword := 0
  eye     : Eyepiece := {}
  mig     : Migration := {}
  orrery  : Tbl SgEntry := []
  zones   : Tbl Zone := []
  clusters : Tbl Cluster := []
  /-- GOVCTL: RISKIE, GATEEN, STEPCAP; as written and in force at the next boundary (R322). -/
  riskIe  : Bool := false
  gateEn  : Bool := true
  stepCap : Nat := 5
  riskIeW : Bool := false
  gateEnW : Bool := true
  stepCapW : Nat := 5
  riskCnt : Word := 0
  offset  : Nat := 0
  supHi   : Bool := false
  risk    : Bool := false
  canary  : Bool := false
  pool    : Nat := 64
  /-- When the supply settles, 0 for settled (R313), and when the offset decays (R314). -/
  settleAt : Nat := 0
  decayAt : Nat := 0
  /-- The number of the last boundary handled (R312). -/
  boundary : Nat := 0
  /-- Firmware interrupts raised. -/
  irqs    : Nat := 0
  /-- Error counts: structure code × 2 + (1 for uncorrectable) (R358). -/
  errors  : Tbl Word := []
  deriving DecidableEq, Repr

/-- An operation of an application core that may have to wait (R334). -/
inductive HartOp where
  | load (rd addr size : Nat) (signed : Bool)
  | store (rs addr size : Nat)
  | lr (rd addr size : Nat) (aq : Bool)
  | sc (rd rs addr size : Nat) (rl : Bool)
  | amo (rd rs addr size : Nat) (op : AmoOp) (aq rl : Bool)
  | fence (acquire release : Bool)
  | fenceI
  | clean (addr : Nat) | flush (addr : Nat) | inval (addr : Nat) | zero (addr : Nat)
  | sfence
  deriving DecidableEq, Repr

/-- The privilege modes of an application core (R331). -/
inductive HartMode where
  | m | s | u | vs | vu
  deriving DecidableEq, Repr

/-- An application core (R331 to R336). -/
structure Hart where
  regs    : Tbl Dword := []
  /-- Its program counter, its mode, and its control and status registers by number (log entry 116). -/
  pc      : Dword := 0
  mode    : HartMode := .m
  csrs    : Tbl Dword := []
  /-- The reservation: address and size (R334). -/
  resv    : Option (Nat × Nat) := .none
  /-- The last access fault delivered: its address (R336). -/
  fault   : Option Nat := .none
  /-- The virtual address of the access under way: the model's own working field. -/
  via     : Option Dword := .none
  /-- RAS interrupts taken, and the addresses of its poisoned loads and fetches since its partition's last capture
  (R336). -/
  ras     : Nat := 0
  rasLog  : List Nat := []
  frozen  : Bool := false
  /-- The operation that it stands at until its conditions hold, and its order number. -/
  held    : Option HartOp := .none
  heldAt  : Nat := 0
  /-- The partition that it was last removed from, which its entries are charged to until it is reset (R342, R344). -/
  was     : Nat := 0
  /-- Interrupts pending in its IMSIC: file and identity (R331). -/
  imsic   : List (Nat × Nat) := []
  /-- Interrupts enabled in it, the files that deliver, and each file's threshold. -/
  enabled : List (Nat × Nat) := []
  delivering : List Nat := []
  threshold : Tbl Nat := []
  /-- The address at which its instruction fetch waits, and the fetch's order number (R343). -/
  fetching : Option (Nat × Nat) := .none
  deriving DecidableEq, Repr

/-! ## Fleet -/

/-- A link or port (R355, R357). -/
structure Port where
  up      : Bool := true
  training : Bool := false
  /-- When it went down, and its retry count. -/
  downAt  : Nat := 0
  retries : Word := 0
  lost    : Bool := false
  /-- The rate that its training or its setting gave it, in Gb/s; 0 before (R355). -/
  rate    : Nat := 0
  /-- A fabric port: NODEPOS of the package at its far end, as that package announces it (R356). -/
  peer    : Option Nat := .none
  deriving DecidableEq, Repr

/-- The zone or port that an alarm names (R358). -/
inductive AlarmAt where
  | zone (z : Nat) | memoryLink (i : Nat) | package (n : Nat)
  deriving DecidableEq, Repr

/-- Why a fleet alarm was raised (R351, R352, R357, R361). -/
inductive AlarmCause where
  | dpHigh | flowLow | primingFailed | memoryLinkLost | nodeMemberLost
  deriving DecidableEq, Repr

/-- A fleet alarm (R358). -/
structure Alarm where
  pkgid : Nat
  die   : Nat
  place : AlarmAt
  cause : AlarmCause
  deriving DecidableEq, Repr

/-- Firmware and identity (R360). -/
structure Boot where
  stopped : Bool := false
  bank0   : List Byte := []
  bank1   : List Byte := []
  active  : Nat := 0
  pendingUpdate : Bool := false
  /-- The update ended during a warm reset: the next one activates it (R362). -/
  updateHeld : Bool := false
  failReported : Bool := false
  fused   : Nat := 0
  m1 : BitVec 256 := 0
  m2 : BitVec 256 := 0
  m3 : BitVec 256 := 0
  m4 : BitVec 256 := 0
  deriving DecidableEq, Repr

/-- A management response sent (R358, R360). -/
inductive Response where
  | bytes (kind : Nat) (data : List Byte)
  | sensor (values : List Nat)
  | event (a : Alarm)
  | alarms (latched : List Alarm) (dropped : Nat)
  | outbox (word : Dword) (seq : Word) (tag : Nat) (valid : Bool)
  /-- Data that a host read and that is poisoned (R359). -/
  | poison
  /-- The update in an image bank failed to boot (R360). -/
  | updateFailed (bank : Nat)
  /-- An RDMA frame that a partition sends (R355). -/
  | frame (port part : Nat) (op : RdmaOp) (data : List Byte)
  | value (v : Dword)
  deriving DecidableEq, Repr

/-- An RDMA request that is not finished (R355): its order number, and what is left of it. -/
structure RdmaReq where
  id    : Nat
  part  : Nat
  /-- A READ, else a WRITE. -/
  read  : Bool
  /-- A frame that the partition sends through this port for its own queue pairs, with its operation. -/
  out   : Option (Nat × RdmaOp) := .none
  addr  : Nat
  size  : Nat
  bytes : List Byte
  deriving DecidableEq, Repr

/-- The package's own registers (R353, R356, R361). -/
structure Package where
  pkgid   : Nat := 0
  nodePos : Nat := 0
  nPkg    : Nat := 0
  pkgidW  : Nat := 0
  nodePosW : Nat := 0
  nPkgW   : Nat := 0
  rstCount : Nat := 0
  rstCause : Nat := 0
  /-- PKGRST.WARM: a warm reset has started, with its cause and time, and not ended (R361). -/
  warm    : Option (Nat × Nat) := .none
  /-- MOISTURE stopped it (R362). -/
  warmStopped : Bool := false
  cerr    : Bool := false
  shutReq : Bool := false
  moisture : Bool := false
  qdbase  : Dword := 0
  /-- Positions of the node at which no package trains, by position, as the fabric last reported them, and those that the
  node formed without (R356). -/
  absent  : List Nat := []
  left    : List Nat := []
  /-- The node formed without this package: another one holds its NODEPOS (R356). -/
  alone   : Bool := false
  deriving DecidableEq, Repr

/-- The batch that is issuing (R58): its block and lanes, the slot that issues, the slot after it, and for the
second slot of a pair the lanes' operands as they stood before the pair. The model's own
working field (log entry 4). -/
structure Cur where
  pier  : Nat := 0
  sched : Nat := 0
  blk   : Nat := 0
  grp   : Nat := 0
  lanes : Word := 0
  pc    : Dword := 0
  next  : Dword := 0
  /-- Operand snapshot of the lanes of the group. -/
  snap  : Option (List (Nat × Src)) := .none
  /-- The convergence registers as before the pair, until the second slot writes one. -/
  cvs   : Option (Tbl Cv) := .none
  /-- While the first slot of a pair issues: both snapshots for the second. -/
  pend  : Option (List (Nat × Src) × Tbl Cv) := .none
  /-- Lanes for which RTE.skip held at this issue (R192). -/
  skips : Word := 0
  /-- The run must end after this instruction (R57). -/
  ended : Bool := false
  /-- Lanes that go back to the slot to issue it again. -/
  again : Word := 0
  deriving DecidableEq, Repr

/-- Which agent moves next (log entry 4). -/
inductive Turn where
  /-- A step of the table, with its operands. -/
  | event (i : Instr)
  /-- A scheduler that executes a run issues its next slot or pair. -/
  | issue (pier sched : Nat)
  /-- Time passes. -/
  | advance (ns : Nat)
  /-- The host driver writes a notify page, at any offset, or reads it (R262). -/
  | notifyWrite (iface off size : Nat) (value : Dword)
  | notifyRead (iface off : Nat)
  /-- A physical function's driver reads the management window (R273). -/
  | windowRead (off : Nat)
  /-- An RDMA request that waits is tried again (R343, R355). -/
  | rdmaServe (k : Nat)
  /-- An application core fetches instructions from an address (R333), or from where its program counter is. -/
  | hartFetch (hart addr : Nat)
  | hartFetchPc (hart : Nat)
  /-- An application core performs an operation at a virtual address (R331, R334). -/
  | hartVirtual (hart : Nat) (op : HartOp)
  /-- An instruction of an application core's profile ends: an integer register and the program counter follow (log entry
  116). -/
  | hartExec (hart rd : Nat) (value pc : Dword)
  /-- It reads a control and status register, and writes it; or it writes one of its IMSIC's files by its selector (R331). -/
  | hartCsr (hart rd csr : Nat) (value : Option Dword)
  | hartImsic (hart file sel : Nat) (value : Dword)
  /-- MRET, or SRET (R331). -/
  | hartReturn (hart : Nat) (machine : Bool)
  /-- An exception of its own arises, or an interrupt that is pending and enabled is taken (R331, R334). -/
  | hartTrap (hart cause : Nat) (value : Dword)
  | hartInterrupt (hart : Nat)
  /-- SFENCE.VMA or HFENCE (R335). -/
  | hartSfence (hart : Nat)
  /-- The device asks the host for a page that a launch's leases name (R270, R271). -/
  | pageRequest (tag page : Nat)
  /-- The residency firmware works for an evicted page that a launch's leases touch: it brings the page back, or chooses
  a victim for its frame (R282, R285). -/
  | bringPage (tag addr : Nat)
  /-- The residency firmware has a free frame of 2^`shift` bytes, or holds the contents of a page that is not resident in
  the backing store (R278, R285). -/
  | poolFrame (pa shift : Nat)
  | backPage (part addr shift attrs : Nat) (cells : List Host.Cell)
  /-- An eviction's fence has ended: its frame is copied to the backing store and freed (R285). -/
  | evictEnd (part addr : Nat)
  /-- The host answers an ATS translation request of the device: the page of a space translates (R270). -/
  | atsAnswer (space page : Nat)
  /-- A core performs the first of the local accesses that it holds back for a fibre (R126, R238). -/
  | localAccess (blk lane : Nat)
  /-- A write of a launch's fault record reaches its home (R295). -/
  | recordWrite (tag : Nat)
  /-- The U bit of a leaf that a translation cache has installed is set at its home (R278). -/
  | useMark (addr : Nat)
  /-- A host's access that waits is tried again (R287, R343, R357). -/
  | cxlServe (k : Nat)
  /-- A running job does its element `i` (R178). -/
  | jobProgress (job i : Nat)
  /-- A host completes access `n` of element `i` of a job with an error (R181). -/
  | jobHostError (job i n : Nat)
  /-- A core's L1 data cache, or its L1 instruction cache, loses a line: it is replaced or dropped (R16). -/
  | cacheDrop (core line : Nat)
  | instrDrop (core line : Nat)
  /-- A home slice loses a line (R16). -/
  | sliceLose (pier line : Nat)
  /-- A core's data cache, or its instruction cache, is powered off or on, other than by L1CTL (R16). -/
  | cachePower (core : Nat) (data on : Bool)
  /-- A zone's sensors read these values. -/
  | sense (die zone : Nat) (temp : BitVec 16) (dp flow : Nat)
  /-- A link or port goes down; its rate is set, at training or by its setting (R355). -/
  | portDown (port : PortName)
  | portRate (port : PortName) (rate : Nat)
  /-- The package at a fabric port's far end announces its NODEPOS; the fabric reports the positions of the node at which
  no package trains (R356). -/
  | fabricPeer (port : Nat) (pos : Option Nat)
  | nodeReport (absent : List Nat)
  /-- A queue pair of a partition sends a frame: of `size` bytes at an address (R355). -/
  | ethernetSend (port part : Nat) (op : RdmaOp) (addr size : Nat)
  deriving DecidableEq, Repr

/-- The machine. -/
structure State where
  powered  : Bool
  /-- TMRD, ns (R204). -/
  now      : Nat
  mem      : List Host.Cell
  /-- Poisoned 64-B chunks of main memory, by address / 64. -/
  memPoison : List Nat
  /-- Host memory by space × 2^56 + host virtual address; a space is a PASID of a function (R270). -/
  hostMem  : List Host.Cell
  /-- Host pages that translate, by space × 2^44 + address / 4,096. -/
  hostPages : List Nat
  /-- The owner of a physical word (R229). -/
  dir      : Tbl Nat
  /-- Lines the host caches, and lines each application core caches, by physical line (R234, R333). -/
  hostLines : List Nat
  blocks   : Tbl Block
  cores    : Tbl Core
  piers    : Tbl Pier
  runs     : Tbl Run
  memops   : List MemOp
  lres     : List LRes
  mrdas    : List MrdaOut
  revokes  : List Revoke
  acks     : List Ack
  sgreqs   : List SgReq
  jobs     : List Job
  colls    : List Coll
  fences   : List Fence
  /-- The host's accesses that wait (R287, R343, R357). -/
  cxlReqs  : List CxlReq
  /-- Fault-record writes under way, in order (R295), and leaves whose U bit is still to be set (R278). -/
  frWrites : List FrWrite
  uses     : List Nat
  /-- Evictions under way, pages in the backing store, and the frames that evictions freed, as physical address and
  size (R285). -/
  evicts   : List Evict
  backing  : List Backed
  freeFrames : List (Nat × Nat)
  /-- Page requests outstanding (R271). -/
  pageReqs : List PageReq
  launches : Tbl Launch
  queues   : Tbl Queue
  ifaces   : Tbl Iface
  parts    : Tbl Part
  dies     : Tbl Die
  harts    : Tbl Hart
  linkUp   : BitVec 2
  memLinks : Tbl Port
  fabric   : Tbl Port
  ethernet : Tbl Port
  package  : Package
  boot     : Boot
  latch    : List Alarm
  latchLost : Nat
  sent     : List Response
  /-- MSI-X messages sent: interface and remap entry (R267). -/
  msix     : List (Nat × Dword)
  /-- RDMA requests received, by partition (R355). -/
  rdma     : List (Nat × RdmaOp × Nat × List Byte)
  /-- RDMA reads and writes that wait (R343, R355). -/
  rdmaReqs : List RdmaReq
  /-- The last period boundary handled (R343). -/
  period   : Nat
  /-- Order numbers given (log entry 4). -/
  seq      : Nat
  /-- Free values drawn (log entry 5). -/
  free     : Nat
  cur      : Cur
  agenda   : List Turn
  deriving DecidableEq, Repr

/-! ## Measurements (R360) -/

/-- A stage's digest is extended into a measurement register. -/
def extend (m : BitVec 256) (stage : List Byte) : BitVec 256 :=
  Config.shake256 (leBytes 32 m.toNat ++ leBytes 32 (Config.shake256 stage).toNat)

/-- The fields of an entry in force, as bytes: what measurement 4 covers (R360). -/
def fieldBytes (x : PartFields) : List Byte :=
  leBytes 8 ((if x.v then 1 else 0) + x.nsid.toNat * 2 ^ 24) ++ leBytes 32 x.piers.toNat ++ leBytes 8 x.harts.toNat ++
  leBytes 4 x.framesG ++ leBytes 4 x.framesB ++
  leBytes 8 (x.slice + x.pdead * 2 ^ 16 + x.slots * 2 ^ 32 + x.quota * 2 ^ 40) ++
  leBytes 8 x.saveBase ++ leBytes 8 x.saveSize ++ leBytes 8 x.capBase ++ leBytes 8 x.ways.toNat ++
  (List.range 7).flatMap (fun k => leBytes 4 (x.limits.getD k 0)) ++ leBytes 132 0

/-- Measurement 4 covers the partition table and the coolant allocation table as last applied (R360). -/
def tableDigest (part : Nat → Part) : BitVec 256 :=
  Config.shake256 ((List.range 64).flatMap (fun p => fieldBytes (part p).inForce) ++
    (List.range 64).flatMap (fun p => leBytes 8 ((part p).share + (part p).maxHeat * 2 ^ 11)))

/-- The package has booted the image of its manufacture: each stage was measured before it ran (R360, log entry 10). -/
def Boot.factory : Boot :=
  { bank0 := Config.factoryImage, bank1 := Config.factoryImage, m1 := extend 0 Config.romImage,
    m2 := extend 0 (Config.bootStage Config.factoryImage), m3 := extend 0 (Config.runtimeStage Config.factoryImage),
    m4 := tableDigest (fun _ => {}) }

/-- The machine right after reset. Tables are empty: everything in them stands at its reset value. -/
def State.reset : State where
  powered := true
  now := 0
  mem := []
  memPoison := []
  hostMem := []
  hostPages := []
  dir := []
  hostLines := []
  blocks := []
  cores := []
  piers := []
  runs := []
  memops := []
  lres := []
  mrdas := []
  revokes := []
  acks := []
  sgreqs := []
  jobs := []
  colls := []
  fences := []
  cxlReqs := []
  frWrites := []
  uses := []
  evicts := []
  backing := []
  freeFrames := []
  pageReqs := []
  launches := []
  queues := []
  ifaces := []
  parts := []
  dies := []
  harts := []
  linkUp := 3
  memLinks := []
  fabric := []
  ethernet := []
  package := {}
  boot := Boot.factory
  latch := []
  latchLost := 0
  sent := []
  msix := []
  rdma := []
  rdmaReqs := []
  period := 0
  seq := 1
  free := 0
  cur := {}
  agenda := []

end Sys2Proof.Machine
end

