-- ==== Sys2Proof/Machine/Table.lean ====
section
/-! DEFINITION. The operations over sparse tables and over byte memories, the accessors of the state's tables,
and lane masks. -/
namespace Sys2Proof.Machine

section Tables
variable {α : Type}

/-- The first value under a number. -/
def tfind (k : Nat) : Tbl α → Option α
  | [] => none
  | (j, v) :: r => if j = k then some v else tfind k r

/-- The value under a number; `d` where there is none. -/
def tget (d : α) (t : Tbl α) (k : Nat) : α := (tfind k t).getD d

/-- Put a value in its place in rising order, over an earlier one. -/
def tins (k : Nat) (v : α) : Tbl α → Tbl α
  | [] => [(k, v)]
  | (j, u) :: r =>
    if j < k then (j, u) :: tins k v r else if j = k then (k, v) :: r else (k, v) :: (j, u) :: r

/-- Remove a number. -/
def tdel (k : Nat) : Tbl α → Tbl α
  | [] => []
  | (j, u) :: r => if j = k then tdel k r else (j, u) :: tdel k r

/-- Write a value; the default is not listed. -/
def tput [DecidableEq α] (d : α) (t : Tbl α) (k : Nat) (v : α) : Tbl α :=
  if v = d then tdel k t else tins k v t

/-- Numbers strictly rising from above `lo`, and no value the default. -/
def tsorted [DecidableEq α] (d : α) (lo : Nat) : Tbl α → Bool
  | [] => true
  | (j, v) :: r => lo ≤ j && v ≠ d && tsorted d (j + 1) r

end Tables

/-! ## Byte memories -/

/-- A byte memory in its canonical form: addresses strictly rising, no listed byte equal to the 0 that an
unlisted one reads as (log entry 3). -/
def Memory.wf (m : List Host.Cell) : Bool := tsorted (0 : Byte) 0 m

def rdByte (m : List Host.Cell) (a : Nat) : Byte := tget 0 m a
def wrByte (m : List Host.Cell) (a : Nat) (b : Byte) : List Host.Cell := tput 0 m a b

def rdBytes (m : List Host.Cell) (a : Nat) : Nat → List Byte
  | 0 => []
  | n + 1 => rdByte m a :: rdBytes m (a + 1) n

def wrBytes (m : List Host.Cell) (a : Nat) : List Byte → List Host.Cell
  | [] => m
  | b :: bs => wrBytes (wrByte m a b) (a + 1) bs

/-- Little-endian numbers in a memory (R1). -/
def rdNat (m : List Host.Cell) (a n : Nat) : Nat := leNat (rdBytes m a n)
def wrNat (m : List Host.Cell) (a n v : Nat) : List Host.Cell := wrBytes m a (leBytes n v)

/-! ## Lane masks -/

def allLanes : List Nat := List.range 32

/-- The lane numbers of a mask, ascending. -/
def maskLanes (m : Word) : List Nat := allLanes.filter (fun j => m.getLsbD j)

/-- The mask of a list of lane numbers below 32. -/
def laneMask (ls : List Nat) : Word := ls.foldl (fun m j => m ||| BitVec.ofNat 32 (2 ^ j)) 0

/-! ## The state's tables -/

namespace State

def block (s : State) (b : Nat) : Block := tget {} s.blocks b
def setBlock (s : State) (b : Nat) (x : Block) : State := { s with blocks := tput {} s.blocks b x }
def core (s : State) (c : Nat) : Core := tget {} s.cores c
def setCore (s : State) (c : Nat) (x : Core) : State := { s with cores := tput {} s.cores c x }
def pier (s : State) (p : Nat) : Pier := tget {} s.piers p
def setPier (s : State) (p : Nat) (x : Pier) : State := { s with piers := tput {} s.piers p x }
def die (s : State) (d : Nat) : Die := tget {} s.dies d
def setDie (s : State) (d : Nat) (x : Die) : State := { s with dies := tput {} s.dies d x }
def launch (s : State) (t : Nat) : Launch := tget {} s.launches t
def setLaunch (s : State) (t : Nat) (x : Launch) : State := { s with launches := tput {} s.launches t x }
def queue (s : State) (q : Nat) : Queue := tget {} s.queues q
def setQueue (s : State) (q : Nat) (x : Queue) : State := { s with queues := tput {} s.queues q x }
def iface (s : State) (i : Nat) : Iface := tget {} s.ifaces i
def setIface (s : State) (i : Nat) (x : Iface) : State := { s with ifaces := tput {} s.ifaces i x }
def part (s : State) (p : Nat) : Part := tget {} s.parts p
def setPart (s : State) (p : Nat) (x : Part) : State := { s with parts := tput {} s.parts p x }
def hart (s : State) (h : Nat) : Hart := tget {} s.harts h
def setHart (s : State) (h : Nat) (x : Hart) : State := { s with harts := tput {} s.harts h x }
def run? (s : State) (p sc : Nat) : Option Run := tfind (4 * p + sc) s.runs

def updBlock (s : State) (b : Nat) (f : Block → Block) : State := s.setBlock b (f (s.block b))
def updCore (s : State) (c : Nat) (f : Core → Core) : State := s.setCore c (f (s.core c))
def updPier (s : State) (p : Nat) (f : Pier → Pier) : State := s.setPier p (f (s.pier p))
def updDie (s : State) (d : Nat) (f : Die → Die) : State := s.setDie d (f (s.die d))
def updLaunch (s : State) (t : Nat) (f : Launch → Launch) : State := s.setLaunch t (f (s.launch t))
def updQueue (s : State) (q : Nat) (f : Queue → Queue) : State := s.setQueue q (f (s.queue q))
def updPart (s : State) (p : Nat) (f : Part → Part) : State := s.setPart p (f (s.part p))

end State

/-! ## Parts of a block -/

namespace Block

def lane (b : Block) (l : Nat) : Lane := tget {} b.lanes l
def setLane (b : Block) (l : Nat) (x : Lane) : Block := { b with lanes := tput {} b.lanes l x }
def updLane (b : Block) (l : Nat) (f : Lane → Lane) : Block := b.setLane l (f (b.lane l))
def grp (b : Block) (g : Nat) : Group := tget {} b.grps g
def setGrp (b : Block) (g : Nat) (x : Group) : Block := { b with grps := tput {} b.grps g x }
def updGrp (b : Block) (g : Nat) (f : Group → Group) : Block := b.setGrp g (f (b.grp g))
def cv (b : Block) (n : Nat) : Cv := tget {} b.cvs n
def setCv (b : Block) (n : Nat) (x : Cv) : Block := { b with cvs := tput {} b.cvs n x }

/-- The pier it is resident on (R211). -/
def onPier (b : Block) : Option Nat :=
  match b.place with
  | .resident p => some p
  | .saving p => some p
  | .nowhere => none
  | .saved => none
  | .retired _ => none

end Block

namespace State

def updLane (s : State) (b l : Nat) (f : Lane → Lane) : State := s.updBlock b (fun x => x.updLane l f)
def lane (s : State) (b l : Nat) : Lane := (s.block b).lane l
def updGrp (s : State) (b g : Nat) (f : Group → Group) : State := s.updBlock b (fun x => x.updGrp g f)
def grp (s : State) (b g : Nat) : Group := (s.block b).grp g

/-- A partition is frozen: its capture and reset are due (R306, step 1), or a warm reset of the package has started
(R361). -/
def frozen (s : State) (p : Nat) : Bool := (s.part p).reason != 0 || s.package.warm.isSome

/-- A fresh order number. -/
def tick (s : State) : State := { s with seq := s.seq + 1 }
/-- A fresh free value (log entry 5). -/
def drawFree (s : State) : BitVec 64 × State := (Config.freeValue s.free, { s with free := s.free + 1 })

end State

/-! ## Registers -/

namespace Lane

def reg (l : Lane) (n : Nat) : Word := tget 0 l.regs n
def setReg (l : Lane) (n : Nat) (v : Word) : Lane := { l with regs := tput 0 l.regs n v }
/-- A write to p15 is ignored (R61). -/
def setPred (l : Lane) (n : Nat) (v : Bool) : Lane :=
  if n = 15 then l
  else { l with preds := if v then l.preds ||| BitVec.ofNat 16 (2 ^ n) else l.preds &&& ~~~ BitVec.ofNat 16 (2 ^ n) }
def handle (l : Lane) (h : Nat) : Handle := tget {} l.handles h
def setHandle (l : Lane) (h : Nat) (x : Handle) : Lane := { l with handles := tput {} l.handles h x }
def sign (l : Lane) (c : Nat) : Signed := tget {} l.signed c
def setSign (l : Lane) (c : Nat) (x : Signed) : Lane := { l with signed := tput {} l.signed c x }

/-- The fibre has a scratchpad, cluster-shared or accumulator store, or a reduction there, older than `q` that its core
holds back (R125). -/
def owesStore (l : Lane) (q : Nat) : Bool := l.localOps.any (fun o => o.id < q && (o.kind == .st || o.kind == .red))
/-- It has any. -/
def owesAny (l : Lane) : Bool := l.localOps.any (fun o => o.kind == .st || o.kind == .red)

/-- Write the words from register `n` on. -/
def setRegs (l : Lane) (n : Nat) : List Word → Lane
  | [] => l
  | w :: ws => (l.setReg n w).setRegs (n + 1) ws

end Lane

/-- p15 is always 1 (R55). -/
def predBit (p : BitVec 16) (n : Nat) : Bool := n == 15 || p.getLsbD n

/-- Two's-complement words of a value, lowest first (R60). -/
def wordsOf (n : Nat) (v : Nat) : List Word :=
  match n with
  | 0 => []
  | k + 1 => BitVec.ofNat 32 v :: wordsOf k (v / 2 ^ 32)

/-- The number that words make, lowest first (R60). -/
def natOf : List Word → Nat
  | [] => 0
  | w :: ws => w.toNat + 2 ^ 32 * natOf ws

end Sys2Proof.Machine
end

