-- ==== Sys2Proof/Machine/Memory.lean ====
section
/-! DEFINITION. Generic pointers (R109, R111), device translation and leases (R275 to R282), poison of main memory
(R359), and the reads and writes performed at a home. -/
namespace Sys2Proof.Machine

/-! ## Generic pointers -/

/-- The windows of R109. -/
inductive Window where
  | global | priv | scratch | cluster | acc | host | reserved
  deriving DecidableEq, Repr

/-- The window that the upper bits name, whatever the other bits (R109). -/
def windowOf (p : Dword) : Window :=
  match (p.toNat >>> 60) with
  | 8 => .priv
  | 9 => .scratch
  | 10 => .cluster
  | 11 => .acc
  | 12 => .host
  | 13 | 14 | 15 => .reserved
  | _ => .global

def ptrDie (p : Dword) : Nat := (p.toNat >>> 56) % 128
def ptrOff56 (p : Dword) : Nat := p.toNat % 2 ^ 56
def ptrOff24 (p : Dword) : Nat := p.toNat % 2 ^ 24
def ptrOff32 (p : Dword) : Nat := p.toNat % 2 ^ 32

/-- The bits that R109 requires to be 0 are 0. -/
def ptrZeroOk (p : Dword) : Bool :=
  let v := p.toNat
  match windowOf p with
  | .global => true
  | .priv => (v >>> 32) % 2 ^ 28 == 0
  | .scratch => (v >>> 53) % 2 ^ 7 == 0 && (v >>> 24) % 2 ^ 16 == 0
  | .cluster => (v >>> 42) % 2 ^ 18 == 0 && (v >>> 24) % 2 ^ 16 == 0
  | .acc => (v >>> 24) % 2 ^ 36 == 0
  | .host => (v >>> 56) % 16 == 0
  | .reserved => false

/-- The origin of a scratchpad pointer as a pier number (R109). -/
def ptrOrigin (p : Dword) : Nat := 64 * ((p.toNat >>> 48) % 32) + (p.toNat >>> 40) % 256
def ptrPierIdx (p : Dword) : Nat := (p.toNat >>> 40) % 256
def ptrSpos (p : Dword) : Nat := (p.toNat >>> 40) % 4

/-- A pointer of the global window. -/
def globalPtr (die off : Nat) : Dword := BitVec.ofNat 64 (die * 2 ^ 56 + off)
/-- A scratchpad pointer with an origin (R109). -/
def scratchPtr (origin off : Nat) : Dword :=
  BitVec.ofNat 64 (9 * 2 ^ 60 + (origin / 64) * 2 ^ 48 + (origin % 64) * 2 ^ 40 + off)
def clusterPtr (k off : Nat) : Dword := BitVec.ofNat 64 (10 * 2 ^ 60 + k * 2 ^ 40 + off)
def accPtr (off : Nat) : Dword := BitVec.ofNat 64 (11 * 2 ^ 60 + off)
def privPtr (off : Nat) : Dword := BitVec.ofNat 64 (8 * 2 ^ 60 + off)

/-- The positions of the packages that formed the node (R9, R356): this package's, and with it those at which one trained;
a package that formed none is by itself. -/
def nodeMembers (s : State) : List Nat :=
  let k := s.package
  if k.alone then [k.nodePos]
  else (List.range 8).filter (fun p => p == k.nodePos || (p ≤ k.nPkg && !k.left.contains p))

/-- How many dies the node has (R243). -/
def nodeDies (s : State) : Nat := 4 * (nodeMembers s).length

/-- A node die is one of the node's. -/
def dieExists (s : State) (d : Nat) : Bool := (nodeMembers s).contains (d / 4)

/-- The node's dies, counted from 0 in rising order (log entry 1). -/
def memberDie (s : State) (i : Nat) : Nat := 4 * (nodeMembers s).getD (i / 4) 0 + i % 4

/-- The backing address of byte `o` of the private window of lane `n` (R111). -/
def privBacking (r : LaunchRec) (q n o : Nat) : Dword :=
  BitVec.ofNat 64 (r.privBase.toNat + (q * 1024 + n) * r.privSize + o)

/-- The key of the word at a record-window pointer: host words by PASID too. -/
def wordKey (p : Dword) (pasid : Nat) : Nat :=
  (if windowOf p = .host then (pasid + 1) * 2 ^ 64 else 0) / 4 + p.toNat / 4

/-! ## Page tables -/

/-- A leaf as the walker found it (R278). -/
structure Leaf where
  frame : Nat
  addr  : Nat
  w     : Bool
  a     : Bool
  p     : Bool
  m     : Bool
  pol   : Nat
  /-- The page is 2^shift bytes. -/
  shift : Nat := 16
  /-- A table line read was poisoned (R279, order 7). -/
  bad   : Bool
  deriving DecidableEq, Repr

/-- The outcome of a translation check: a physical address, a deferred fault with its cause (R279), or a wait
for a migration (R287). -/
inductive Xlat where
  | ok (pa : Nat) (leaf : Leaf)
  | fault (code : BitVec 8) (cause : Nat)
  | waits
  deriving DecidableEq, Repr

def codeLease : BitVec 8 := 0x16
def codePoison : BitVec 8 := 0x17

/-- The die that a physical address lies on (R275). -/
def paDie (pa : Nat) : Nat := (pa >>> 41) % 32

/-- The memory link that serves a frame of this package: which frames of a die lie behind which of its eight links
is open (log entry 32). -/
def linkAt (s : State) (pa : Nat) : Port :=
  if paDie pa / 4 = s.package.nodePos then
    tget {} s.memLinks (8 * (paDie pa % 4) + Config.linkOf (pa / 65536) % 8)
  else {}

/-- A frame behind a lost link is poisoned (R357). -/
def frameLost (s : State) (pa : Nat) : Bool := !s.memLinks.isEmpty && (linkAt s pa).lost
/-- The fabric port that carries a request to another package's die: one of those that are not down for good (R357; log
entry 49). -/
def fabricPort (s : State) (die : Nat) : Option Port :=
  let us := ((List.range 8).map (fun i => (tget {} s.fabric i : Port))).filter (fun p => p.up || p.training)
  us[Config.fabricRoute die % us.length]?

/-- A request to another package's die finds its port retraining, or no port left. -/
def fabricWaits (s : State) (die : Nat) : Bool :=
  !s.fabric.isEmpty && die / 4 != s.package.nodePos && (match fabricPort s die with | some p => p.training | none => true)

/-- Requests through a memory link that is down, or through a fabric port that retrains, wait (R357). -/
def linkWaits (s : State) (pa : Nat) : Bool :=
  (!s.memLinks.isEmpty && !(linkAt s pa).up && !(linkAt s pa).lost) || fabricWaits s (paDie pa)

def chunkPoisoned (s : State) (pa : Nat) : Bool := s.memPoison.contains (pa / 64) || frameLost s pa

/-- A page-table entry's ADDR (R278). -/
def pteAddr (e : Nat) : Nat := ((e >>> 12) % 2 ^ 34) * 2 ^ 12

/-- A leaf entry's value but for U. -/
def pteNoU (e : Nat) : Nat := e - (if e.testBit 9 then 512 else 0)

/-- Walk from the table at `tbl` of level `lvl` (R277, R278, R279 orders 2 to 4): `res` says that an entry walked had a
reserved bit or value, `off_` that a table lies on another die, `bad` that a table line was poisoned. Every V counts
before any reserved bit, and those before any table's place. -/
def walk (s : State) (die off : Nat) : Nat → Nat → Bool → Bool → Bool → Xlat
  | 0, _, _, _, _ => .fault codeLease 2
  | lvl + 1, tbl, res, off_, bad =>
    let shift := match lvl + 1 with | 4 => 39 | 3 => 30 | 2 => 21 | _ => 16
    let idx := (off >>> shift) % (if lvl = 0 then 32 else 512)
    let at_ := tbl + 8 * idx
    let e := rdNat s.mem at_ 8
    let bad' := bad || chunkPoisoned s at_
    let addr := pteAddr e
    let off' := off_ || paDie addr != die
    let res' := res || e >>> 46 != 0 || (e >>> 10) % 4 != 0
    if !e.testBit 0 then .fault codeLease 1
    else if e.testBit 1 || lvl = 0 then
      if res' || !e.testBit 1 || lvl = 3 || e.testBit 4 || (e >>> 5) % 4 == 3 || addr % 2 ^ shift != 0 then
        .fault codeLease 2
      else if off' then .fault codeLease 5
      else .ok (addr + off % 2 ^ shift)
        { frame := addr, addr := at_, w := e.testBit 2, a := e.testBit 3, p := e.testBit 7,
          m := e.testBit 8, pol := (e >>> 5) % 4, shift := shift, bad := bad' }
    else walk s die off lvl addr (res' || (e >>> 2) % 256 != 0) off' bad'

/-- Walk from the root of a partition on the owning die (R276). -/
def walkRoot (s : State) (die part off : Nat) : Xlat :=
  let at_ := (s.die die).root.toNat + 8 * part
  let e := rdNat s.mem at_ 8
  if off >>> 48 != 0 then .fault codeLease 4
  else if !e.testBit 0 then .fault codeLease 1
  else walk s die off 4 (pteAddr e) (e >>> 46 != 0 || (e >>> 1) % 2 ^ 11 != 0)
    (paDie at_ != die || paDie (pteAddr e) != die) (chunkPoisoned s at_)

/-- The leaves under a table of level `lvl` that pass the checks of the tables and of their place (R279 orders 2 to 4), each
with the offset that it maps (R277, R278); `res`, `off_` and `bad` as for `walk`. -/
def leavesAt (s : State) (die : Nat) : Nat → Nat → Nat → Bool → Bool → Bool → List (Nat × Leaf)
  | 0, _, _, _, _, _ => []
  | lvl + 1, tbl, base, res, off_, bad =>
    let shift := match lvl + 1 with | 4 => 39 | 3 => 30 | 2 => 21 | _ => 16
    (List.range (if lvl = 0 then 32 else 512)).flatMap (fun i =>
      let here := tbl + 8 * i
      let e := rdNat s.mem here 8
      let at_ := base + i * 2 ^ shift
      if !e.testBit 0 then []
      else
        let addr := pteAddr e
        let bad' := bad || chunkPoisoned s here
        let off' := off_ || paDie addr != die
        let res' := res || e >>> 46 != 0 || (e >>> 10) % 4 != 0
        if e.testBit 1 || lvl = 0 then
          (if res' || off' || !e.testBit 1 || lvl = 3 || e.testBit 4 || (e >>> 5) % 4 == 3 || addr % 2 ^ shift != 0 then []
           else [(at_, { frame := addr, addr := here, w := e.testBit 2, a := e.testBit 3, p := e.testBit 7,
                         m := e.testBit 8, pol := (e >>> 5) % 4, shift := shift, bad := bad' })])
        else leavesAt s die lvl addr at_ (res' || (e >>> 2) % 256 != 0) off' bad')

/-- The resident pages of a partition, by global address (R276). -/
def partLeaves (s : State) (part : Nat) : List (Nat × Leaf) :=
  ((List.range (nodeDies s)).map (memberDie s)).flatMap (fun d =>
    let at_ := (s.die d).root.toNat + 8 * part
    let e := rdNat s.mem at_ 8
    if e.testBit 0 then
      (leavesAt s d 4 (pteAddr e) 0 (e >>> 46 != 0 || (e >>> 1) % 2 ^ 11 != 0)
        (paDie at_ != d || paDie (pteAddr e) != d) (chunkPoisoned s at_)).map (fun x => (d * 2 ^ 56 + x.1, x.2))
    else [])

/-- The partition that owns an application core (R331, R338). -/
def hartPart (s : State) (h : Nat) : Option Nat :=
  (s.parts.find? (fun p => p.2.inForce.v && h / 64 == s.package.nodePos && p.2.inForce.harts.getLsbD (h % 64))).map (·.1)

/-- The page of a partition that holds a physical address: the frames recorded as the partition's are those that its
tables map (R332; log entry 38). -/
def frameOf (s : State) (p pa : Nat) : Option Leaf :=
  ((partLeaves s p).find? (fun x => x.2.frame ≤ pa && pa < x.2.frame + 2 ^ x.2.shift)).map (·.2)

/-- The page of a hart's partition that holds a physical address. -/
def hartLeaf (s : State) (h pa : Nat) : Option Leaf := (hartPart s h).bind (fun p => frameOf s p pa)

/-- The same for what the hart's core has under way: a hart that was removed drains for its old partition (R344). -/
def hartOldLeaf (s : State) (h pa : Nat) : Option Leaf := frameOf s ((hartPart s h).getD (s.hart h).was) pa

/-- What an access does to its bytes (R279, order 6). -/
inductive AccKind where
  | read | write | atomic
  deriving DecidableEq, Repr

/-- A byte lies in a lease range (R282). -/
def inLease (r : LaunchRec) (a : Nat) : Bool :=
  (r.leases.take r.nLease).any (fun l => l.1.toNat ≤ a && a < l.1.toNat + l.2)

/-- Every one of `n` bytes lies in a lease range. -/
def leased (r : LaunchRec) (a : Nat) : Nat → Bool
  | 0 => true
  | n + 1 => inLease r a && leased r (a + 1) n

/-- The space that a PASID of a queue interface names: stage one is the PASID's, stage two the function's, a virtual one
by its partition (R270). A launch, a packet and a job keep their space as their `pasid`. -/
def hostSpace (s : State) (iface pasid : Nat) : Nat :=
  pasid + 2 ^ 20 * (match (s.iface iface).vf with | some v => v + 1 | none => 0)

/-- The key of a host page (R270). -/
def hostPageKey (pasid a : Nat) : Nat := pasid * 2 ^ 44 + a / 4096
/-- The key of a host byte. -/
def hostByteKey (pasid a : Nat) : Nat := pasid * 2 ^ 56 + a

/-- Check and translate an access of the global window by the launch's partition; `r` is the launch record
whose leases bound it, none for work without a lease (R279). -/
def xlatGlobal (s : State) (part : Nat) (r : Option LaunchRec) (p : Dword) (n : Nat) (k : AccKind) : Xlat :=
  match walkRoot s (ptrDie p) part (ptrOff56 p) with
  | .ok pa lf =>
    if !(match r with | some r => leased r p.toNat n | none => true) then .fault codeLease 6
    else if (k == .write && !lf.w) || (k == .atomic && !(lf.w && lf.a)) then .fault codeLease 3
    else if lf.bad then .fault codePoison 7
    else if lf.p || frameLost s pa then .fault codePoison 8
    else if linkWaits s pa then .waits
    else if lf.m && k != .read then .waits
    else .ok pa lf
  | x => x

/-- Every page of a host range is present. -/
def hostPagesOk (s : State) (pasid a n : Nat) : Bool :=
  (List.range ((a % 4096 + n + 4095) / 4096)).all (fun i => s.hostPages.contains (hostPageKey pasid (a + 4096 * i)))

/-- The lease and presence checks of a host-window access (R270, R272, R282). -/
def hostCheck (s : State) (pasid : Nat) (r : Option LaunchRec) (p : Dword) (n : Nat) : Option (BitVec 8 × Nat) :=
  if !(match r with | some r => leased r p.toNat n | none => true) then some (codeLease, 6)
  else if hostPagesOk s pasid (ptrOff56 p) n then none else some (codeLease, 1)

/-! ## At the home -/

/-- Insert a number into a list without repeats. -/
def addTo (x : Nat) (l : List Nat) : List Nat := if l.contains x then l else l ++ [x]

/-- The 64-B lines that `n` bytes from `pa` touch. -/
def chunksOf (pa n : Nat) : List Nat := (List.range ((pa % 64 + n + 63) / 64)).map (fun i => pa / 64 + i)

/-- An application core's caches lose the 64-B lines that a test names. -/
def Core.loseLines (gone : Nat → Bool) (x : Core) : Core :=
  { x with l1 := x.l1.filter (fun w => !gone (w.1 / 16)), l2 := x.l2.filter (fun w => !gone (w.1 / 16)),
           l1i := x.l1i.filter (fun l => !gone l.1) }

/-- No sharer keeps a stale copy of the 64-B lines that a test names: a write at their home invalidates the application
cores' copies (R333), and the host's (R234). -/
def dropLines (s : State) (gone : Nat → Bool) : State :=
  { s with hostLines := s.hostLines.filter (fun l => !gone l),
           cores := s.cores.map (fun c => if 2048 ≤ c.1 then (c.1, c.2.loseLines gone) else c) }

/-- The sharers' copies of the lines of `n` bytes. -/
def dropSharers (s : State) (pa n : Nat) : State := dropLines s (fun l => (chunksOf pa n).contains l)

/-- The sharers' copies of a range of whole lines. -/
def dropRange (s : State) (pa n : Nat) : State := dropLines s (fun l => pa / 64 ≤ l && l < (pa + n) / 64)

/-- A write performed at the home of its bytes (R226): the clean copy and memory change together. A write that
supplies a whole poisoned chunk clears its poison (R359); `poison` writes poisoned bytes. -/
def homeWrite (s : State) (pa : Nat) (bs : List Byte) (poison : Bool := false) : State :=
  let s := dropSharers s pa bs.length
  { s with mem := wrBytes s.mem pa bs,
           memPoison := if poison then (chunksOf pa bs.length).foldl (fun l c => addTo c l) s.memPoison
                        else s.memPoison.filter (fun c => !(decide (pa ≤ 64 * c) && decide (64 * c + 64 ≤ pa + bs.length))) }

/-- A translation cache installs a leaf: its U bit is to be set at the entry's home (R278), which the turn `useMark`
does. -/
def setU (s : State) (lf : Leaf) : State :=
  if (rdByte s.mem (lf.addr + 1)).getLsbD 1 then s else { s with uses := addTo lf.addr s.uses }

/-- The bytes set in `be` of a chunk, written at the home in one event (R230). -/
def homeWriteMasked (s : State) (pa : Nat) (be : BitVec 64) (data : BitVec 512) (poison : Bool) : State :=
  let s := dropSharers s pa 64
  let ch := pa / 64
  let mem := (List.range 64).foldl (fun m i =>
    if be.getLsbD i then wrByte m (pa + i) (BitVec.ofNat 8 (data.toNat >>> (8 * i))) else m) s.mem
  { s with mem := mem,
           memPoison := if poison then addTo ch s.memPoison
                        else if be == BitVec.allOnes 64 then s.memPoison.filter (· != ch) else s.memPoison }

end Sys2Proof.Machine
end

