-- ==== Sys2Proof/Machine/Ops.lean ====
section
/-! DEFINITION. The shared operations: the issuing batch and its guards (R55, R58), the launch fault record (R293
to R296), taking a trap and returning from one (R189 to R192), and termination's first step (R292). -/
namespace Sys2Proof.Machine

/-! ## Fault codes (R290) -/

namespace Code
def illegalOpcode : BitVec 8 := 0x01
def reservedField : BitVec 8 := 0x02
def badTarget : BitVec 8 := 0x03
def lineParity : BitVec 8 := 0x04
def windowRange : BitVec 8 := 0x05
def operandAlign : BitVec 8 := 0x06
def privilege : BitVec 8 := 0x07
def maskMismatch : BitVec 8 := 0x08
def cvMismatch : BitVec 8 := 0x09
def formatSlot : BitVec 8 := 0x0A
def misaligned : BitVec 8 := 0x10
def spaceInvalid : BitVec 8 := 0x11
def spaceForeign : BitVec 8 := 0x12
def objectInvalid : BitVec 8 := 0x13
def objectBounds : BitVec 8 := 0x14
def objectRights : BitVec 8 := 0x15
def outOfLease : BitVec 8 := 0x16
def poison : BitVec 8 := 0x17
def presenceTimeout : BitVec 8 := 0x18
def shapeInvalid : BitVec 8 := 0x20
def copySpace : BitVec 8 := 0x21
def copyFailed : BitVec 8 := 0x22
def matrixConfig : BitVec 8 := 0x23
def matrixState : BitVec 8 := 0x24
def sgHandle : BitVec 8 := 0x30
def trap : BitVec 8 := 0x40
def breakpoint : BitVec 8 := 0x41
def watchpoint : BitVec 8 := 0x42
def step : BitVec 8 := 0x43
def deadlineRisk : BitVec 8 := 0x44
def haltReq : BitVec 8 := 0x45
def saveLost : BitVec 8 := 0x50
def tenantReset : BitVec 8 := 0x51
def evacuated : BitVec 8 := 0x52
end Code

/-- The causes routed to the handler (R189). -/
def routed (c : BitVec 8) : Bool :=
  [Code.trap, Code.breakpoint, Code.watchpoint, Code.step, Code.misaligned, Code.spaceForeign,
   Code.spaceInvalid, Code.deadlineRisk, Code.haltReq].contains c

/-- Whether a recorded fault's fate is the launch's termination (R290). -/
def terminates (c : BitVec 8) (cause : Nat) : Bool := c != Code.copyFailed || cause == 0x16

/-! ## The launch fault record -/

/-- The 64 bytes of the header (R293). -/
def frHeader (tag : Nat) (l : Launch) : List Byte :=
  let bit (b : Bool) (n : Nat) : Nat := if b then 2 ^ n else 0
  leBytes 4 l.count ++ leBytes 2 l.written ++ [l.first] ++
  leBytes 1 (bit l.complete 0 + bit l.termBit 1 + bit (l.count > 126) 2 + bit l.late 3 + bit l.free 4 +
    bit l.anyDef 5) ++
  leBytes 2 tag ++ leBytes 2 l.hcount ++ leBytes 4 0 ++ leBytes 8 l.tFirst ++ leBytes 8 l.tDone ++ leBytes 32 0

/-- Bytes of the fault record, `off` from FRPTR, go to their home, in the order in which they are written (R295). -/
def frWrite (s : State) (tag off : Nat) (bs : List Byte) : State :=
  let l := s.launch tag
  { s with frWrites := s.frWrites ++
      [{ tag := tag, part := l.part, ptr := BitVec.ofNat 64 (l.rec_.frptr.toNat + off), bytes := bs }] }

/-- Write the header as it stands. -/
def putHeader (s : State) (tag : Nat) : State := frWrite s tag 0 (frHeader tag (s.launch tag))

/-- FSUM of an event (R267). -/
def fsumOf (l : Launch) : BitVec 8 :=
  BitVec.ofNat 8 (min l.count 15 + (if l.anyDef then 16 else 0) + (if l.hcount != 0 then 32 else 0))

/-- An event of a queue, to be written in its turn (R267). -/
def pushEvent (s : State) (q : Nat) (e : Event) : State :=
  s.tick.updQueue q (fun x => { x with events := x.events ++ [{ e with id := s.seq }] })

/-- A fault to record (R294). -/
structure Report where
  code  : BitVec 8
  cause : Nat := 0
  deferred : Bool := true
  job   : Bool := false
  jobk  : Nat := 0
  lane  : Nat := 0xFFFF
  block : Nat := 0
  aux   : Nat := 0
  pc    : Dword := 0
  addr  : Dword := 0
  deriving DecidableEq, Repr

/-- The 32 bytes of an entry (R294). -/
def frEntry (tag : Nat) (r : Report) (after term : Bool) : List Byte :=
  [r.code] ++ leBytes 1 r.cause ++
  leBytes 1 ((if r.deferred then 1 else 0) + (if after then 2 else 0) + (if term then 4 else 0) +
    (if r.job then 8 else 0)) ++
  leBytes 1 r.jobk ++ leBytes 2 tag ++ leBytes 2 r.lane ++ leBytes 4 r.block ++ leBytes 4 r.aux ++
  leBytes 8 r.pc.toNat ++ leBytes 8 r.addr.toNat

/-- Record a fault of a launch (R293 to R296) and, where its fate says so, mark the launch terminating
(R292, step 1). -/
def report (s : State) (tag : Nat) (r : Report) : State :=
  let l := s.launch tag
  if !l.used then s else
  let term := terminates r.code r.cause && !l.terminating && !l.complete
  let s1 := if l.written < 126 then frWrite s tag (64 + 32 * l.written) (frEntry tag r l.complete term) else s
  let s2 := s1.updLaunch tag (fun l =>
    { l with count := min (l.count + 1) (2 ^ 32 - 1), written := min (l.written + 1) 126,
             first := if l.count = 0 then r.code else l.first,
             tFirst := if l.count = 0 then s.now else l.tFirst,
             anyDef := l.anyDef || r.deferred, late := l.late || l.complete,
             terminating := l.terminating || term, termBit := l.termBit || term,
             termAt := if term then s.now else l.termAt })
  let s3 := putHeader s2 tag
  if l.complete then
    pushEvent s3 l.queue { kind := 4, status := 0, rseq := l.seq, tag := tag, fcode := (s3.launch tag).first,
                           fsum := fsumOf (s3.launch tag), irq := false }
  else s3

/-! ## The issuing batch -/

namespace State

def curBlock (s : State) : Block := s.block s.cur.blk
def curTag (s : State) : Nat := s.curBlock.tag
def curLaunch (s : State) : Launch := s.launch s.curTag
def curRec (s : State) : LaunchRec := s.curLaunch.rec_
def curGrp (s : State) : Group := s.grp s.cur.blk s.cur.grp

/-- Lanes of the issuing batch, as lanes of the block, ascending. -/
def curLanes (s : State) : List Nat := (maskLanes s.cur.lanes).map (fun j => 32 * s.cur.grp + j)

/-- The operands of lane `l` of a block as they stand. -/
def liveSrc (x : Block) (l : Nat) : Src :=
  let y := x.lane l
  { regs := y.regs, preds := y.preds, handles := y.handles, signed := y.signed, shapes := x.shapes }

/-- The operands that a lane kept for the slot that issues. -/
def heldSrc (s : State) (l : Nat) : Option Src :=
  match (s.lane s.cur.blk l).held with
  | some h => if h.pc == s.cur.pc && h.hm == (s.lane s.cur.blk l).hmode then some h.src else none
  | none => none

/-- Convergence register `cv` as the issuing slot finds it: the second slot of a pair finds it as before the pair, until
it has written it itself (R58). -/
def curCv (s : State) (cv : Nat) : Cv :=
  match s.cur.cvs with
  | some t => tget {} t cv
  | none => s.curBlock.cv cv

/-- The issuing slot writes a convergence register. -/
def setCurCv (s : State) (cv : Nat) (c : Cv) : State :=
  { s.updBlock s.cur.blk (fun x => x.setCv cv c) with cur := { s.cur with cvs := none } }

/-- Where lane `l` reads its operands (R58). -/
def src (s : State) (l : Nat) : Src :=
  match s.cur.snap with
  | some sn => ((sn.find? (fun e => e.1 == l)).map (·.2)).getD (liveSrc (s.block s.cur.blk) l)
  | none => (s.heldSrc l).getD (liveSrc (s.block s.cur.blk) l)

def updCurBlock (s : State) (f : Block → Block) : State := s.updBlock s.cur.blk f
def updCurLane (s : State) (l : Nat) (f : Lane → Lane) : State := s.updLane s.cur.blk l f
def updCurGrp (s : State) (f : Group → Group) : State := s.updGrp s.cur.blk s.cur.grp f

/-- The run ends after this instruction (R57). -/
def endRun (s : State) : State := { s with cur := { s.cur with ended := true } }

end State

/-- One register of a source. -/
def Src.reg (x : Src) (n : Nat) : Word := tget 0 x.regs n
/-- A predicate of a source. -/
def Src.pred (x : Src) (n : Nat) : Bool := predBit x.preds n
/-- A handle of a source. -/
def Src.handle (x : Src) (h : Nat) : Handle := tget {} x.handles h
/-- A signed round of a source. -/
def Src.sign (x : Src) (c : Nat) : Signed := tget {} x.signed c
/-- `n` registers from `i` on, as words, lowest first. -/
def Src.words (x : Src) (i : Nat) : Nat → List Word
  | 0 => []
  | n + 1 => x.reg i :: x.words (i + 1) n
/-- The number in `n` registers from `i` on (R60). -/
def Src.nat (x : Src) (i n : Nat) : Nat := natOf (x.words i n)
/-- A 64-bit pair (R60). -/
def Src.pair (x : Src) (i : Nat) : Dword := BitVec.ofNat 64 (x.nat i 2)

/-- The guard of a lane (R55). -/
def guardOn (f : Fields) (x : Src) : Bool := x.pred f.gp.toNat != f.gn

/-- The lanes of the batch whose guard is 1, ascending. -/
def activeLanes (f : Fields) (s : State) : List Nat := s.curLanes.filter (fun l => guardOn f (s.src l))

/-- Change some lanes of a block, in order. -/
def overLanes (b : Block) (ls : List Nat) (g : Nat → Lane → Lane) : Block :=
  ls.foldl (fun b l => b.updLane l (g l)) b

/-- An instruction that changes only the lanes with guard 1, each from its own operands (R5). -/
def perLane (f : Fields) (s : State) (g : Src → Lane → Lane) : State :=
  s.updCurBlock (fun b => overLanes b (activeLanes f s) (fun l => g (s.src l)))

/-! ## Traps -/

/-- A batch of the group is in handler mode (R190). -/
def inHandler (b : Block) (g : Nat) : Bool :=
  allLanes.any (fun j => let l := b.lane (32 * g + j); l.live && l.hmode)

/-- The lanes of `m` stop where they stand: the launch is being terminated (R291, R292). -/
def stopLanes (b : Block) (g : Nat) (m : Word) : Block :=
  overLanes b ((maskLanes m).map (32 * g + ·)) (fun _ l => { l with park := .stopped })

/-- The fibres of the cause's set enter handler mode at the handler entry (R190). -/
def enterHandler (s : State) (b g : Nat) (c : Cause) : State :=
  let h := (s.launch (s.block b).tag).rec_.handler
  let s1 := s.updBlock b (fun x =>
    (overLanes x ((maskLanes c.mask).map (32 * g + ·)) (fun _ l =>
      { l with hmode := true, pc := h, entering := true, park := .run, skip := false, due := none })).updGrp g
      (fun y => { y with trap := c, stepped := false }))
  let s2 := s1.updLaunch (s.block b).tag (fun l => { l with hcount := min (l.hcount + 1) 65535 })
  putHeader s2 (s.block b).tag

/-- A precise or routed cause arises in a set of lanes of one batch (R189 to R191). `at_` is the instruction
that the fault record names. `c.pc` and `c.val` are TRAPPC and TRAPVAL. -/
def raiseCause (s : State) (b g : Nat) (c : Cause) (at_ : Dword) (cause : Nat := 0) : State :=
  let blk := s.block b
  let l := s.launch blk.tag
  let lanes := (maskLanes c.mask).map (32 * g + ·)
  let fatal : State :=
    report (s.updBlock b (fun x => stopLanes x g c.mask)) blk.tag
      { code := c.code, cause := cause, deferred := false,
        lane := (match lanes with | [x] => x | _ => 0xFFFF), block := blk.idx, pc := at_, addr := c.val }
  let s' :=
    if c.mask == 0 then s
    else if !routed c.code || l.rec_.handler == 0 then fatal
    else if lanes.any (fun x => (blk.lane x).hmode) then fatal
    else if inHandler blk g then
      s.updBlock b (fun x => (overLanes x lanes (fun _ y => { y with park := .trapPending })).updGrp g
        (fun y => { y with pending := y.pending ++ [c] }))
    else enterHandler s b g c
  if c.mask == 0 then s' else s'.endRun

/-- When no fibre of the group is in handler mode any more, the oldest pending cause is delivered
(R190, R192). -/
def deliverPending (s : State) (b g : Nat) : State :=
  let blk := s.block b
  if inHandler blk g then s
  else match (blk.grp g).pending with
    | [] => s
    | c :: cs =>
      let live := laneMask ((maskLanes c.mask).filter (fun j =>
        (blk.lane (32 * g + j)).live && (blk.lane (32 * g + j)).park == .trapPending))
      let s1 := s.updGrp b g (fun y => { y with pending := cs })
      if live == 0 then s1 else enterHandler s1 b g { c with mask := live }

/-- A precise fault of one lane. `open_` says that the manual states no TRAPVAL for it: it is a free value
(log entry 5). -/
structure LaneFault where
  lane : Nat
  code : BitVec 8
  val  : Dword := 0
  cause : Nat := 0
  open_ : Bool := false
  deriving DecidableEq, Repr

/-- The codes of the faults, each once, in order of the lowest lane. -/
def faultCodes (fs : List LaneFault) : List (BitVec 8) := (fs.map (·.code)).eraseDups

/-- Raise the precise faults of an instruction: the lanes that take one cause form the set M, and TRAPVAL is
that of its lowest lane (R190, R206). Faulting lanes return to the slot `pc`. -/
def raiseFaults (s : State) (fs : List LaneFault) (pc at_ : Dword) : State :=
  (faultCodes fs).foldl (fun s c =>
    let m := fs.filter (fun x => x.code == c)
    let s' := s.updCurBlock (fun b => overLanes b (m.map (·.lane)) (fun _ l => { l with pc := pc }))
    let s0 := if pc == s.cur.pc then
        { s' with cur := { s'.cur with again := s'.cur.again ||| laneMask (m.map (fun x => x.lane % 32)) } } else s'
    let d := if m.any (·.open_) then s0.drawFree else ((m.head?.map (·.val)).getD 0, s0)
    let s1 := d.2
    raiseCause s1 s.cur.blk s.cur.grp
      { code := c, pc := pc, val := d.1,
        mask := laneMask (m.map (fun x => x.lane % 32)) } at_ ((m.head?.map (·.cause)).getD 0)) s

/-- Faults at the issuing slot. -/
def raiseHere (s : State) (fs : List LaneFault) : State := raiseFaults s fs s.cur.pc s.cur.pc

/-- An instruction whose lanes each act or fault: a lane that faults performs nothing (R5, R291). -/
def perLaneF (f : Fields) (s : State) (g : Nat → Src → Except LaneFault (Lane → Lane)) : State :=
  let ls := activeLanes f s
  let fs := ls.filterMap (fun l => match g l (s.src l) with | .error e => some e | .ok _ => none)
  let s1 := s.updCurBlock (fun b => overLanes b ls (fun l x =>
    match g l (s.src l) with | .ok h => h x | .error _ => x))
  raiseHere s1 fs

/-- A lane goes back to the issuing slot: RTE.skip still holds (R192). The second slot of a pair keeps its operands
(R58), and its program counter was compared with the breakpoints before the pair (R197). -/
def Lane.back (s : State) (l : Nat) (y : Lane) : Lane :=
  { y with pc := s.cur.pc, skip := s.cur.skips.getLsbD (l % 32) || s.cur.snap.isSome, due := none,
           held := if s.cur.snap.isSome then some { pc := s.cur.pc, hm := y.hmode, src := s.src l } else y.held }

/-- Some lanes go back to the issuing slot, to issue it again when their own wait is over. -/
def retryLanes (s : State) (ls : List Nat) (p : Park) : State :=
  let s1 := s.updCurBlock (fun b => overLanes b ls (fun l y => { y.back s l with park := p }))
  { s1 with cur := { s1.cur with again := s1.cur.again ||| laneMask (ls.map (· % 32)) } }

/-- Some lanes go back to the issuing slot, and their group waits. -/
def retrySome (s : State) (ls : List Nat) (p : GPark) : State :=
  let s1 := (retryLanes s ls .run).updCurGrp (fun g => { g with park := p })
  s1.endRun

/-- The batch goes back to the issuing slot, to issue it again when its group's wait is over. -/
def retryGroup (s : State) (p : GPark) : State := retrySome s s.curLanes p

/-- The batch goes back to the issuing slot, and its run goes on there. -/
def stayHere (s : State) : State := retryLanes s s.curLanes .run

/-- RTE for the lanes `ls`: they leave handler mode and continue at TRAPPC (R192). -/
def returnLanes (s : State) (ls : List Nat) (skip : Bool) : State :=
  let t := (s.curGrp).trap.pc
  let s1 := s.updCurBlock (fun b => overLanes b ls (fun _ l => { l with hmode := false, pc := t, skip := skip }))
  (deliverPending s1 s.cur.blk s.cur.grp).endRun

end Sys2Proof.Machine
end

