-- ==== Sys2Proof/Machine/Flags.lean ====
section
/-! DEFINITION. Float formats (R23, R32), their values, the one rounding of R25 and R26, and the flags of R30. -/
namespace Sys2Proof.Machine

/-- FPSTAT bits (R30). -/
abbrev Flags := BitVec 5
def fNV : Flags := 1
def fDZ : Flags := 2
def fOF : Flags := 4
def fUF : Flags := 8
def fNX : Flags := 16

/-- A binary format: exponent and fraction bits, bias, and the code of the largest finite value. `inf` says
whether the top exponent holds infinities and NaNs. -/
structure Fmt where
  eb   : Nat
  mb   : Nat
  bias : Nat
  maxCode : Nat
  inf  : Bool
  nan  : Nat
  deriving DecidableEq, Repr

def fmtF32 : Fmt := ⟨8, 23, 127, 0x7F7F_FFFF, true, 0x7FC0_0000⟩
def fmtF16 : Fmt := ⟨5, 10, 15, 0x7BFF, true, 0x7E00⟩
def fmtBF16 : Fmt := ⟨8, 7, 127, 0x7F7F, true, 0x7FC0⟩
def fmtE4M3 : Fmt := ⟨4, 3, 7, 0x7E, false, 0x7F⟩
def fmtE5M2 : Fmt := ⟨5, 2, 15, 0x7B, true, 0x7E⟩
def fmtE2M1 : Fmt := ⟨2, 1, 1, 0x7, false, 0⟩

def Fmt.width (f : Fmt) : Nat := 1 + f.eb + f.mb

/-- A float value: a finite one is (−1)^neg × m × 2^e exactly. -/
inductive FVal where
  | nan (signalling : Bool)
  | inf (neg : Bool)
  | fin (neg : Bool) (m : Nat) (e : Int)
  deriving DecidableEq, Repr

def FVal.isNaN : FVal → Bool
  | .nan _ => true
  | _ => false
def FVal.isSNaN : FVal → Bool
  | .nan b => b
  | _ => false
def FVal.isInf : FVal → Bool
  | .inf _ => true
  | _ => false
def FVal.isZero : FVal → Bool
  | .fin _ m _ => m == 0
  | _ => false
def FVal.neg : FVal → Bool
  | .nan _ => false
  | .inf b => b
  | .fin b _ _ => b
def FVal.negate : FVal → FVal
  | .nan b => .nan b
  | .inf b => .inf (!b)
  | .fin b m e => .fin (!b) m e

/-- The value of a code (R23, R32). -/
def Fmt.dec (f : Fmt) (code : Nat) : FVal :=
  let neg := code.testBit (f.eb + f.mb)
  let e := (code >>> f.mb) % 2 ^ f.eb
  let m := code % 2 ^ f.mb
  if f.inf && e == 2 ^ f.eb - 1 then
    (if m == 0 then .inf neg else .nan (!m.testBit (f.mb - 1)))
  else if f == fmtE4M3 && code % 128 == 0x7F then .nan false
  else if e == 0 then .fin neg m (1 - (f.bias : Int) - f.mb)
  else .fin neg (m + 2 ^ f.mb) ((e : Int) - f.bias - f.mb)

/-- The value of a code with FTZ: a subnormal reads as a zero of its sign (R26). -/
def Fmt.decZ (f : Fmt) (ftz : Bool) (code : Nat) : FVal :=
  match f.dec code with
  | .fin n m e => if ftz && m < 2 ^ f.mb then .fin n 0 e else .fin n m e
  | x => x

/-- The sign bit of a format. -/
def Fmt.sgn (f : Fmt) (neg : Bool) : Nat := if neg then 2 ^ (f.eb + f.mb) else 0
def Fmt.infCode (f : Fmt) (neg : Bool) : Nat := f.sgn neg + (2 ^ f.eb - 1) * 2 ^ f.mb
def Fmt.maxOf (f : Fmt) (neg : Bool) : Nat := f.sgn neg + f.maxCode

/-- m × 2^(−k) rounded to an integer in a mode, with whether it was exact (R24). -/
def roundShift (mode : Nat) (neg : Bool) (m k : Nat) : Nat × Bool :=
  let q := m >>> k
  let r := m % 2 ^ k
  let up :=
    if r == 0 then false
    else match mode with
      | 0 => 2 * r > 2 ^ k || (2 * r == 2 ^ k && q % 2 == 1)
      | 1 => false
      | 2 => neg
      | _ => !neg
  (if up then q + 1 else q, r == 0)

/-- m × 2^e rounded to a multiple of 2^q: the multiple, and whether it is exact. -/
def roundTo (mode : Nat) (neg : Bool) (m : Nat) (e q : Int) : Nat × Bool :=
  if q ≤ e then (m * 2 ^ (e - q).toNat, true) else roundShift mode neg m (q - e).toNat

/-- The least exponent of a normal value. -/
def Fmt.emin (f : Fmt) : Int := 1 - (f.bias : Int)

/-- A rounded magnitude: `n` × 2^`q`, whether exact, whether its precision-rounded value with unbounded
exponent exceeds the largest finite one, and whether the delivered magnitude is tiny (R26, in R35's words). -/
structure Rounded where
  n : Nat
  q : Int
  exact : Bool
  big : Bool
  tiny : Bool
  deriving DecidableEq, Repr

/-- n × 2^q compared with the largest finite value of a format. -/
def Fmt.exceeds (f : Fmt) (n : Nat) (q : Int) : Bool :=
  match f.dec f.maxCode with
  | .fin _ m e => if q ≤ e then n > m * 2 ^ (e - q).toNat else n * 2 ^ (q - e).toNat > m
  | _ => false

/-- Round a non-zero magnitude once to the precision of a format. -/
def Fmt.round (f : Fmt) (mode : Nat) (neg : Bool) (m : Nat) (e : Int) : Rounded :=
  let top : Int := (Nat.log2 m : Int) + e
  let qu : Int := top - f.mb
  let qb : Int := if qu < f.emin - f.mb then f.emin - f.mb else qu
  let b := roundTo mode neg m e qb
  { n := b.1, q := qb, exact := b.2, big := f.exceeds b.1 qb,
    tiny := decide (b.1 = 0) || decide (((Nat.log2 b.1 : Int) + qb) < f.emin) }

/-- The code of a rounded magnitude that is not beyond the largest finite value. -/
def Fmt.pack (f : Fmt) (neg : Bool) (n : Nat) (q : Int) : Nat :=
  if n == 0 then f.sgn neg
  else if n < 2 ^ f.mb then f.sgn neg + n
  else if n == 2 ^ (f.mb + 1) then
    f.sgn neg + ((q + f.mb + 1 + f.bias).toNat) * 2 ^ f.mb
  else f.sgn neg + ((q + f.mb + f.bias).toNat) * 2 ^ f.mb + (n - 2 ^ f.mb)

/-- A code with the flags that making it sets. -/
abbrev FRes := Nat × Flags

/-- What an overflow gives in a mode (R25). -/
def Fmt.overflow (f : Fmt) (mode : Nat) (neg : Bool) : FRes :=
  (match mode with
   | 0 => f.infCode neg
   | 1 => f.maxOf neg
   | 2 => if neg then f.infCode neg else f.maxOf neg
   | _ => if neg then f.maxOf neg else f.infCode neg, fOF ||| fNX)

/-- The exact value rounded once to f32, f16 or bf16 (R25, R26). -/
def Fmt.fin (f : Fmt) (mode : Nat) (ftz : Bool) (neg : Bool) (m : Nat) (e : Int) : FRes :=
  if m == 0 then (f.sgn neg, 0)
  else
    let r := f.round mode neg m e
    if r.big then f.overflow mode neg
    else if ftz && r.n != 0 && r.n < 2 ^ f.mb then (f.sgn neg, fUF ||| fNX)
    else (f.pack neg r.n r.q, if r.exact then 0 else if r.tiny then fUF ||| fNX else fNX)

/-- A canonical NaN with the invalid flag (R27). -/
def Fmt.invalid (f : Fmt) : FRes := (f.nan, fNV)

/-- The canonical NaN that NaN operands give (R27). -/
def Fmt.nanOf (f : Fmt) (xs : List FVal) : FRes := (f.nan, if xs.any (·.isSNaN) then fNV else 0)

/-- A sum of signed dyadics: sign, magnitude and exponent. -/
def addDy (an : Bool) (am : Nat) (ae : Int) (bn : Bool) (bm : Nat) (be : Int) : Bool × Nat × Int :=
  let e := min ae be
  let a := am * 2 ^ (ae - e).toNat
  let b := bm * 2 ^ (be - e).toNat
  if an == bn then (an, a + b, e)
  else if a ≥ b then (an, a - b, e) else (bn, b - a, e)

/-- The sign of an exact zero sum (IEEE 754-2019): the common sign of zero operands, else +0, or −0 under RDN. -/
def zeroSign (mode : Nat) (signs : List Bool) : Bool :=
  if signs.all (·) then true else if signs.all (!·) then false else mode == 2

/-- a + b. -/
def Fmt.add (f : Fmt) (mode : Nat) (ftz : Bool) (x y : FVal) : FRes :=
  match x, y with
  | .nan _, _ | _, .nan _ => f.nanOf [x, y]
  | .inf a, .inf b => if a == b then (f.infCode a, 0) else f.invalid
  | .inf a, .fin _ _ _ => (f.infCode a, 0)
  | .fin _ _ _, .inf b => (f.infCode b, 0)
  | .fin an am ae, .fin bn bm be =>
    let r := addDy an am ae bn bm be
    if r.2.1 == 0 then (f.sgn (if am == 0 && bm == 0 then zeroSign mode [an, bn] else mode == 2), 0)
    else f.fin mode ftz r.1 r.2.1 r.2.2

/-- The exact product of two values; none for an invalid operation. -/
def mulVal (x y : FVal) : Option FVal :=
  match x, y with
  | .nan a, .nan b => some (.nan (a || b))
  | .nan a, _ => some (.nan a)
  | _, .nan b => some (.nan b)
  | .inf a, .inf b => some (.inf (a != b))
  | .inf a, .fin b m _ => if m == 0 then none else some (.inf (a != b))
  | .fin a m _, .inf b => if m == 0 then none else some (.inf (a != b))
  | .fin a m e, .fin b n k => some (.fin (a != b) (m * n) (e + k))

/-- a × b. -/
def Fmt.mul (f : Fmt) (mode : Nat) (ftz : Bool) (x y : FVal) : FRes :=
  if x.isNaN || y.isNaN then f.nanOf [x, y]
  else match mulVal x y with
    | none => f.invalid
    | some (.inf a) => (f.infCode a, 0)
    | some (.fin n m e) => f.fin mode ftz n m e
    | some (.nan _) => f.invalid

/-- a × b + c, rounded once (R25). -/
def Fmt.fma (f : Fmt) (mode : Nat) (ftz : Bool) (x y z : FVal) : FRes :=
  let inv := !x.isNaN && !y.isNaN && (mulVal x y).isNone
  if inv then f.invalid
  else if x.isNaN || y.isNaN || z.isNaN then f.nanOf [x, y, z]
  else match mulVal x y with
    | some p => f.add mode ftz p z
    | none => f.invalid

/-- a / b with sticky bits enough for one rounding. -/
def Fmt.div (f : Fmt) (mode : Nat) (ftz : Bool) (x y : FVal) : FRes :=
  match x, y with
  | .nan _, _ | _, .nan _ => f.nanOf [x, y]
  | .inf _, .inf _ => f.invalid
  | .inf a, .fin b _ _ => (f.infCode (a != b), 0)
  | .fin a _ _, .inf b => (f.sgn (a != b), 0)
  | .fin a m e, .fin b n k =>
    if n == 0 then (if m == 0 then f.invalid else (f.infCode (a != b), fDZ))
    else if m == 0 then (f.sgn (a != b), 0)
    else
      let sh : Nat := 64 + Nat.log2 n
      let q := (m * 2 ^ sh) / n
      let st := if (m * 2 ^ sh) % n == 0 then 0 else 1
      f.fin mode ftz (a != b) (2 * q + st) (e - k - (sh : Int) - 1)

/-- The floor of a square root, bit by bit from 2^i down. -/
def isqrtAux (n : Nat) : Nat → Nat → Nat
  | 0, r => if (r + 1) * (r + 1) ≤ n then r + 1 else r
  | i + 1, r => let c := r + 2 ^ (i + 1); isqrtAux n i (if c * c ≤ n then c else r)

def isqrt (n : Nat) : Nat := isqrtAux n (Nat.log2 n / 2 + 1) 0

/-- √a. -/
def Fmt.sqrt (f : Fmt) (mode : Nat) (ftz : Bool) (x : FVal) : FRes :=
  match x with
  | .nan _ => f.nanOf [x]
  | .inf a => if a then f.invalid else (f.infCode false, 0)
  | .fin a m e =>
    if m == 0 then (f.sgn a, 0)
    else if a then f.invalid
    else
      let odd := e % 2 != 0
      let m1 := if odd then 2 * m else m
      let e1 : Int := if odd then e - 1 else e
      let sh : Nat := 64
      let n := m1 * 2 ^ (2 * sh)
      let r := isqrt n
      let st := if r * r == n then 0 else 1
      f.fin mode ftz false (2 * r + st) (e1 / 2 - (sh : Int) - 1)

/-- Exact order of two finite or infinite values: −1, 0 or 1. -/
def cmpVal (x y : FVal) : Int :=
  match x, y with
  | .inf a, .inf b => if a == b then 0 else if a then -1 else 1
  | .inf a, _ => if a then -1 else 1
  | _, .inf b => if b then 1 else -1
  | .fin an am ae, .fin bn bm be =>
    let e := min ae be
    let a : Int := (if an then -1 else 1) * (am * 2 ^ (ae - e).toNat : Nat)
    let b : Int := (if bn then -1 else 1) * (bm * 2 ^ (be - e).toNat : Nat)
    if a < b then -1 else if b < a then 1 else 0
  | _, _ => 0

/-- minimumNumber and maximumNumber of two codes (R28): −0 is less than +0. -/
def Fmt.minmax (f : Fmt) (isMax : Bool) (ftz : Bool) (a b : Nat) : FRes :=
  let x := f.decZ ftz a
  let y := f.decZ ftz b
  let ca := match x with | .fin n 0 _ => f.sgn n | _ => a
  let cb := match y with | .fin n 0 _ => f.sgn n | _ => b
  let nv : Flags := if x.isSNaN || y.isSNaN then fNV else 0
  if x.isNaN && y.isNaN then (f.nan, nv)
  else if x.isNaN then (cb, nv)
  else if y.isNaN then (ca, nv)
  else
    let c := cmpVal x y
    let aLess := c < 0 || (c == 0 && x.isZero && y.isZero && x.neg && !y.neg)
    ((if aLess != isMax then ca else cb), nv)

/-- Add flags to a lane's FPSTAT; they only ever set (R30). -/
def Lane.flag (l : Lane) (f : Flags) : Lane := { l with fpstat := l.fpstat ||| f }

end Sys2Proof.Machine
end

