-- ==== Sys2Proof/Machine/Approx.lean ====
section
/-! DEFINITION. The approximate instructions of R93: the exact result to 576 fraction bits, and the results
within the bound of R29, of which the opaque pick gives one (log entry 9). -/
namespace Sys2Proof.Machine

/-- Fraction bits of the fixed-point values below. -/
def fxBits : Nat := 576
def fxOne : Nat := 2 ^ fxBits
/-- π, ln 2 and 1 / ln 2 in fixed point. -/
def fxPi : Nat := 0x3243F6A8885A308D313198A2E03707344A4093822299F31D0082EFA98EC4E6C89452821E638D01377BE5466CF34E90C6CC0AC29B7C97C50DD3F84D5B5B54709179216D5D98979FB1B
def fxLn2 : Nat := 0xB17217F7D1CF79ABC9E3B39803F2F6AF40F343267298B62D8A0D175B8BAAFA2BE7B876206DEBAC98559552FB4AFA1B10ED2EAE35C138214427573B291169B8253E96CA16224AE8C5
def fxLog2e : Nat := 0x171547652B82FE1777D0FFDA0D23A7D11D6AEF551BAD2B4B1164A2CD9A342648FBC3887EEAA2ED9AC49B25EEB82D7C167D52173CC1895213F897F5E06A7BE73665FC529264C2FB3AB

def fxMul (a b : Nat) : Nat := (a * b) / fxOne

/-- A dyadic magnitude m × 2^e in fixed point. -/
def fxOf (m : Nat) (e : Int) : Nat :=
  if 0 ≤ e + fxBits then m * 2 ^ (e + fxBits).toNat else m / 2 ^ (-(e + fxBits)).toNat

/-- Terms of e^r from the k-th on, `n` of them. -/
def expTerms (r : Nat) : Nat → Nat → Nat → Nat → Nat
  | 0, _, _, acc => acc
  | n + 1, k, t, acc => let t' := fxMul t r / k; expTerms r n (k + 1) t' (acc + t')

/-- 2^r for r in [0, 1). -/
def fxExp2 (r : Nat) : Nat := expTerms (fxMul r fxLn2) 120 1 fxOne fxOne

/-- e^(−t) for t ≥ 0. -/
def fxExpNeg (t : Nat) : Nat :=
  let u := fxMul t fxLog2e
  let n := u / fxOne
  let r := u % fxOne
  if n > 2 * fxBits then 0
  else if r = 0 then fxOne / 2 ^ n else fxExp2 (fxOne - r) / 2 ^ (n + 1)

/-- Terms of the series of atanh z. -/
def atanhTerms (z2 : Nat) : Nat → Nat → Nat → Nat → Nat
  | 0, _, _, acc => acc
  | n + 1, k, t, acc => let t' := fxMul t z2; atanhTerms z2 n (k + 2) t' (acc + t' / (k + 2))

/-- log₂ of x in [1, 2). -/
def fxLog2 (x : Nat) : Nat :=
  let z := ((x - fxOne) * fxOne) / (x + fxOne)
  fxMul (2 * atanhTerms (fxMul z z) 190 1 z z) fxLog2e

/-- Terms of sin (from r) or cos (from 1), alternating: the positive and the negative sums. -/
def trigTerms (r2 : Nat) : Nat → Nat → Nat → Bool → Nat × Nat → Nat × Nat
  | 0, _, _, _, acc => acc
  | n + 1, k, t, plus, acc =>
    let t' := fxMul t r2 / (k * (k + 1))
    trigTerms r2 n (k + 2) t' (!plus) (if plus then (acc.1 + t', acc.2) else (acc.1, acc.2 + t'))

def fxSin (r : Nat) : Nat :=
  let p := trigTerms (fxMul r r) 75 2 r false (r, 0)
  p.1 - p.2
def fxCos (r : Nat) : Nat :=
  let p := trigTerms (fxMul r r) 75 1 fxOne false (fxOne, 0)
  p.1 - p.2

/-- sin (or cos) of the fixed-point angle: sign and magnitude. -/
def fxTrig (cos : Bool) (x : Nat) : Bool × Nat :=
  let h := fxPi / 2
  let q := (x / h + (if cos then 1 else 0)) % 4
  let r := x % h
  (q ≥ 2, if q % 2 = 0 then fxSin r else fxCos r)

/-- The magnitude of a finite code as a fixed-point number (rounded down). -/
def Fmt.fx (f : Fmt) (code : Nat) : Nat :=
  match f.dec code with
  | .fin _ m e => fxOf m e
  | _ => 2 ^ (f.bias + 1) * fxOne

/-- A result outside the tables of R93 with its flags: it is inexact, a tiny one underflows (log entry 50), and
FTZ replaces it by a zero (R26); one beyond the largest finite value overflows. -/
def Fmt.inexact (f : Fmt) (ftz neg : Bool) (code : Nat) : FRes :=
  if code > f.maxCode then (f.infCode neg, fOF ||| fNX)
  else if code < 2 ^ f.mb then (f.sgn neg + (if ftz then 0 else code), fUF ||| fNX)
  else (f.sgn neg + code, fNX)

/-- A result within `bound` ulp of the exact magnitude `y`: the code that the pick names when it lies within
the bound, else the code at or below `y` (R29). Flags by R26; `key` is the operand. -/
def approxResult (f : Fmt) (ftz : Bool) (op bound key : Nat) (neg : Bool) (y : Nat) : FRes :=
  let top : Int := (Nat.log2 y : Int) - fxBits
  let q : Int := if y = 0 ∨ top < f.emin then f.emin - f.mb else top - f.mb
  let n := y / 2 ^ (q + fxBits).toNat
  let base := f.pack false n q
  let c := (base : Int) + (Config.approxPick op f.width key % 9 : Nat) - 4
  let cand := c.toNat
  let d := if f.fx cand ≥ y then f.fx cand - y else y - f.fx cand
  let code := if 0 ≤ c && cand ≤ f.maxCode + 1 && d ≤ bound * 2 ^ (q + fxBits).toNat then cand else base
  f.inexact ftz neg code

/-- An exact result m × 2^e; one that the format cannot hold exactly is rounded as R25 and R26 state. -/
def exactPow (f : Fmt) (ftz neg : Bool) (m : Nat) (e : Int) : FRes := f.fin 0 ftz neg m e

/-- A power of two: its exponent. -/
def powExp (m : Nat) (e : Int) : Option Int :=
  if m = 2 ^ Nat.log2 m then some ((Nat.log2 m : Int) + e) else none

def fRcp (f : Fmt) (ftz : Bool) (code : Nat) : FRes :=
  match f.decZ ftz code with
  | .nan s => f.nanOf [.nan s]
  | .inf n => (f.sgn n, 0)
  | .fin n m e =>
    if m = 0 then (f.infCode n, fDZ)
    else match powExp m e with
      | some k => exactPow f ftz n 1 (-k)
      | none => approxResult f ftz 0x48 1 code n (2 ^ ((fxBits : Int) - e).toNat / m)

def fRsq (f : Fmt) (ftz : Bool) (code : Nat) : FRes :=
  match f.decZ ftz code with
  | .nan s => f.nanOf [.nan s]
  | .inf n => if n then f.invalid else (0, 0)
  | .fin n m e =>
    if m = 0 then (f.infCode n, fDZ)
    else if n then f.invalid
    else match powExp m e with
      | some k => if k % 2 = 0 then exactPow f ftz false 1 (-(k / 2))
                  else approxResult f ftz 0x49 1 code false (isqrt (2 ^ (2 * (fxBits : Int) - e).toNat / m))
      | none => approxResult f ftz 0x49 1 code false (isqrt (2 ^ (2 * (fxBits : Int) - e).toNat / m))

/-- A finite value as an integer when it is one. -/
def intVal (neg : Bool) (m : Nat) (e : Int) : Option Int :=
  let s : Int := if neg then -1 else 1
  if 0 ≤ e then some (s * (m * 2 ^ e.toNat : Nat))
  else if m % 2 ^ (-e).toNat = 0 then some (s * (m / 2 ^ (-e).toNat : Nat)) else none

def fExp2 (f : Fmt) (ftz : Bool) (code : Nat) : FRes :=
  match f.decZ ftz code with
  | .nan s => f.nanOf [.nan s]
  | .inf n => (if n then 0 else f.infCode false, 0)
  | .fin n m e =>
    if m = 0 then exactPow f ftz false 1 0
    else
      let big := 2 ^ 11 ≤ m / 2 ^ (-e).toNat || (0 < e && 2 ^ 11 ≤ m * 2 ^ (min e.toNat 64))
      if big then
        (if n then approxResult f ftz 0x4C 2 code false 0 else (f.infCode false, fOF ||| fNX))
      else match intVal n m e with
        | some k => exactPow f ftz false 1 k
        | none =>
          let x := fxOf m e
          let y :=
            if n then
              (let i := x / fxOne; let r := x % fxOne
               if r = 0 then fxOne / 2 ^ i else fxExp2 (fxOne - r) / 2 ^ (i + 1))
            else fxExp2 (x % fxOne) * 2 ^ (x / fxOne)
          if y ≥ 2 ^ (f.bias + 1) * fxOne then (f.infCode false, fOF ||| fNX)
          else approxResult f ftz 0x4C 2 code false y

def fLog2 (f : Fmt) (ftz : Bool) (code : Nat) : FRes :=
  match f.decZ ftz code with
  | .nan s => f.nanOf [.nan s]
  | .inf n => if n then f.invalid else (f.infCode false, 0)
  | .fin n m e =>
    if m = 0 then (f.infCode true, fDZ)
    else if n then f.invalid
    else match powExp m e with
      | some k => exactPow f ftz (k < 0) k.natAbs 0
      | none =>
        let k : Int := (Nat.log2 m : Int) + e
        let fr := fxLog2 (m * fxOne / 2 ^ Nat.log2 m)
        if 0 ≤ k then approxResult f ftz 0x4D 2 code false (k.toNat * fxOne + fr)
        else approxResult f ftz 0x4D 2 code true ((-k).toNat * fxOne - fr)

/-- Some value in [−1, 1] (R29), with FTZ and the flags of an inexact result. -/
def unitPick (f : Fmt) (ftz : Bool) (op code : Nat) : FRes :=
  let k := Config.approxPick op f.width code
  f.inexact ftz (k % 2 = 1) ((k / 2) % (f.bias * 2 ^ f.mb + 1))

def fTrig (cos : Bool) (f : Fmt) (ftz : Bool) (code : Nat) : FRes :=
  let op := if cos then 0x4F else 0x4E
  match f.decZ ftz code with
  | .nan s => f.nanOf [.nan s]
  | .inf _ => f.invalid
  | .fin n m e =>
    if m = 0 then (if cos then (f.bias * 2 ^ f.mb, 0) else (f.sgn n, 0))
    else if cmpVal (.fin false m e) (.fin false 1 20) > 0 then unitPick f ftz op code
    else
      let r := fxTrig cos (fxOf m e)
      approxResult f ftz op 2 code (if cos then r.1 else r.1 != n) r.2

def fTanh (f : Fmt) (ftz : Bool) (code : Nat) : FRes :=
  match f.decZ ftz code with
  | .nan s => f.nanOf [.nan s]
  | .inf n => (f.sgn n + f.bias * 2 ^ f.mb, 0)
  | .fin n m e =>
    if m = 0 then (f.sgn n, 0)
    else
      let ee := if cmpVal (.fin false m e) (.fin false 1 8) > 0 then 1 else fxExpNeg (2 * fxOf m e)
      approxResult f ftz 0x50 2 code n ((fxOne - ee) * fxOne / (fxOne + ee))

def fSigm (f : Fmt) (ftz : Bool) (code : Nat) : FRes :=
  match f.decZ ftz code with
  | .nan s => f.nanOf [.nan s]
  | .inf n => (if n then 0 else f.bias * 2 ^ f.mb, 0)
  | .fin n m e =>
    if m = 0 then ((f.bias - 1) * 2 ^ f.mb, 0)
    else
      let ee := if cmpVal (.fin false m e) (.fin false 1 8) > 0 then 1 else fxExpNeg (fxOf m e)
      if n then approxResult f ftz 0x51 2 code false (ee * fxOne / (fxOne + ee))
      else approxResult f ftz 0x51 2 code false (fxOne * fxOne / (fxOne + ee))

/-- a − ⌊a⌋, rounded in `mode`. -/
def fFrac (f : Fmt) (mode : Nat) (ftz : Bool) (code : Nat) : FRes :=
  match f.decZ ftz code with
  | .nan s => f.nanOf [.nan s]
  | .inf _ => f.invalid
  | .fin n m e =>
    if 0 ≤ e then (0, 0)
    else
      let k := (-e).toNat
      let r := m % 2 ^ k
      if r = 0 then (0, 0) else f.fin mode ftz false (if n then 2 ^ k - r else r) e

/-- a rounded to an integral value in a direction. -/
def fRnd (f : Fmt) (mode : Nat) (ftz : Bool) (code : Nat) : FRes :=
  match f.decZ ftz code with
  | .nan s => f.nanOf [.nan s]
  | .inf n => (f.infCode n, 0)
  | .fin n m e =>
    if 0 ≤ e then ((f.fin 0 ftz n m e).1, 0)
    else ((f.fin 0 ftz n (roundShift mode n m (-e).toNat).1 0).1, 0)

end Sys2Proof.Machine
end

