-- ==== Sys2Proof/Machine/Operands.lean ====
section
/-! DEFINITION. Operand forms: sources by type and immediates (R19, R60, R62), results by type, the integer
functions of R20 to R22 and R74 to R80, and long-latency results (R56). -/
namespace Sys2Proof.Machine

/-- Two's-complement reading of the low `n` bits. -/
def toInt (n v : Nat) : Int := (BitVec.ofNat n v).toInt

/-- The `n`-bit pattern of an integer (R19). -/
def ofInt (n : Nat) (v : Int) : Nat := (BitVec.ofInt n v).toNat

/-- The operand of type `t` at register `i`: its bits, unsigned (R19, R60). -/
def rdT (x : Src) (t : Ty) (i : Nat) : Nat := x.nat i t.regs % 2 ^ t.bits

/-- IMM as the second source (R62): bits of the type. -/
def immT (t : Ty) (imm : Word) : Nat :=
  match t with
  | .s64 => ofInt 64 (toInt 32 imm.toNat)
  | _ => imm.toNat % 2 ^ t.bits

/-- The second source: IMM or SB (R62). -/
def rdB (f : Fields) (x : Src) (t : Ty) : Nat := if f.i then immT t f.imm else rdT x t f.sb.toNat

/-- A 32-bit second source, IMM as written (R72, R103). -/
def rdB32 (f : Fields) (x : Src) : Word := if f.i then f.imm else x.reg f.sb.toNat

/-- A bit pattern of a type as the number it means (R19). -/
def valT (t : Ty) (v : Nat) : Int := if t.signed then toInt t.bits v else (v : Int)

/-- A result of a type extended to whole registers (R19). -/
def extT (t : Ty) (v : Nat) : Nat :=
  if t.bits < 32 && t.signed then ofInt 32 (toInt t.bits v) else v % 2 ^ t.bits

/-- The words a result of type `t` puts into registers (R19, R60). -/
def resT (t : Ty) (v : Nat) : List Word := wordsOf t.regs (extT t v)

/-- Write a result of type `t` to register `d`. -/
def Lane.wrT (l : Lane) (t : Ty) (d v : Nat) : Lane := l.setRegs d (resT t v)

/-- Clamp to the range of a type (R20). -/
def satT (t : Ty) (v : Int) : Nat :=
  let n := t.bits
  if t.signed then ofInt n (max (-(2 ^ (n - 1) : Nat)) (min v ((2 ^ (n - 1) : Nat) - 1)))
  else (max 0 (min v ((2 ^ n : Nat) - 1))).toNat

/-- IADD, ISUB (R74, R20). -/
def addSub (sub sat : Bool) (t : Ty) (a b : Nat) : Nat :=
  let v := if sub then valT t a - valT t b else valT t a + valT t b
  if sat then satT t v else ofInt t.bits v

/-- IMULH (R74). -/
def mulHigh (t : Ty) (a b : Nat) : Nat :=
  let p := valT t a * valT t b
  ofInt t.bits (p / (2 ^ t.bits : Nat))

/-- IDIV, IREM (R21). -/
def divRem (rem : Bool) (t : Ty) (a b : Nat) : Nat :=
  let n := t.bits
  if b == 0 then (if rem then a else 2 ^ n - 1)
  else if t.signed then
    (if rem then ofInt n (Int.tmod (valT t a) (valT t b)) else ofInt n (Int.tdiv (valT t a) (valT t b)))
  else if rem then a % b else a / b

/-- IMIN, IMAX (R74). -/
def minMaxT (isMax : Bool) (t : Ty) (a b : Nat) : Nat :=
  if (decide (valT t a ≤ valT t b)) != isMax then a else b

/-- SHL, SHR, SAR, ROTL by a count taken modulo the width (R22). -/
def shiftT (op : Nat) (t : Ty) (a c : Nat) : Nat :=
  let n := t.bits
  let k := c % n
  match op with
  | 0x15 => (a <<< k) % 2 ^ n
  | 0x16 => a >>> k
  | 0x17 => ofInt n (toInt n a >>> k)
  | _ => ((a <<< k) ||| (a >>> (n - k))) % 2 ^ n

/-- The low `n` bits complemented. -/
def notT (n a : Nat) : Nat := 2 ^ n - 1 - a % 2 ^ n

/-- The number of set bits among the low `n`. -/
def popc (n a : Nat) : Nat := (List.range n).foldl (fun k i => if a.testBit i then k + 1 else k) 0

/-- Zero bits above the highest set bit of `n` (R75). -/
def clz (n a : Nat) : Nat := if a == 0 then n else n - 1 - Nat.log2 a

/-- Zero bits below the lowest set bit of `n` (R75). -/
def ctz (n a : Nat) : Nat := ((List.range n).find? (fun i => a.testBit i)).getD n

/-- A number from its bits. -/
def ofBits (n : Nat) (g : Nat → Bool) : Nat := (List.range n).foldl (fun v i => if g i then v + 2 ^ i else v) 0

/-- BREV (R75). -/
def brev (n a : Nat) : Nat := ofBits n (fun i => a.testBit (n - 1 - i))

/-- BFX (R79). -/
def bfx (t : Ty) (a : Nat) (c : Word) : Nat :=
  let n := t.bits
  let pos := c.toNat % 256
  let len := min ((c.toNat >>> 8) % 256) n
  let bitOf (i : Nat) : Bool := if pos + i < n then a.testBit (pos + i) else t.signed && a.testBit (n - 1)
  if len == 0 then 0
  else
    let v := ofBits len bitOf
    if t.signed then ofInt n (toInt len v) else v

/-- BFI (R79). -/
def bfi (n a r : Nat) (c : Word) : Nat :=
  let pos := c.toNat % 256
  let len := min ((c.toNat >>> 8) % 256) n
  ofBits n (fun j => if pos ≤ j && j < pos + len then a.testBit (j - pos) else r.testBit j)

/-- Byte `i` of a number. -/
def byteAt (v i : Nat) : Nat := (v >>> (8 * i)) % 256

/-- PRMT (R80). -/
def prmt (a b c : Nat) : Nat :=
  (List.range 4).foldl (fun v i =>
    let k := byteAt c i
    let x := if k % 8 < 4 then byteAt a (k % 8) else byteAt b (k % 8 - 4)
    let x := if k.testBit 4 then (if x.testBit 7 then 255 else 0) else x
    let x := if k.testBit 3 then 0 else x
    let x := if k.testBit 5 then 255 - x else x
    v + x * 2 ^ (8 * i)) 0

/-- IDOT4, which R72 and R78 let saturate (log entry 136). -/
def dot4 (sat : Bool) (t : Ty) (a b c : Nat) : Nat :=
  let e (v i : Nat) : Int := if t.signed then toInt 8 (byteAt v i) else (byteAt v i : Int)
  let sum := (List.range 4).foldl (fun s i => s + e a i * e b i) (valT t c)
  if sat then satT t sum else ofInt 32 sum

/-- The condition of ICMP (R82). -/
def icond (cond : Nat) (a b : Int) : Bool :=
  match cond with
  | 0 => a == b
  | 1 => a != b
  | 2 => a < b
  | 3 => a ≤ b
  | 4 => b < a
  | _ => b ≤ a

/-- Combine a condition with a predicate (R82). -/
def combine (comb : Nat) (c p : Bool) : Bool :=
  match comb with
  | 0 => c
  | 1 => c && p
  | 2 => c || p
  | _ => c != p

/-! ## Float operands -/

/-- The format of a float type; of each element for a packed one (R23). -/
def tyFmt : Ty → Fmt
  | .f16 | .h2 => fmtF16
  | .bf16 | .bh2 => fmtBF16
  | _ => fmtF32

def tyPacked : Ty → Bool
  | .h2 | .bh2 => true
  | _ => false

/-- Element `k` of a float operand (R23). -/
def felem (t : Ty) (v k : Nat) : Nat :=
  if tyPacked t then (v >>> (16 * k)) % 2 ^ 16 else v % 2 ^ (tyFmt t).width

/-- Apply to each element; the word written and the flags of all elements (R23). -/
def mapElems (t : Ty) (g : Nat → FRes) : Nat × Flags :=
  if tyPacked t then
    let r0 := g 0
    let r1 := g 1
    (r0.1 + 2 ^ 16 * r1.1, r0.2 ||| r1.2)
  else g 0

/-! ## Reductions -/

/-- One step of a reduction (R101, R123): f32 addition keeps subnormals and rounds to nearest. -/
def redOp (op : Nat) (t : Ty) (a b : Nat) : FRes :=
  if t == .f32 then
    (match op with
     | 0 => fmtF32.add 0 false (fmtF32.dec a) (fmtF32.dec b)
     | 1 => fmtF32.minmax false false a b
     | _ => fmtF32.minmax true false a b)
  else
    (match op with
     | 0 => (a + b) % 2 ^ t.bits
     | 1 => minMaxT false t a b
     | 2 => minMaxT true t a b
     | 3 => Nat.land a b
     | 4 => Nat.lor a b
     | _ => Nat.xor a b, 0)

/-- The identity of a reduction (R107). -/
def redIdent (op : Nat) (t : Ty) : Nat :=
  let n := t.bits
  match op with
  | 0 => 0
  | 1 => if t == .f32 then 0x7F80_0000 else if t.signed then 2 ^ (n - 1) - 1 else 2 ^ n - 1
  | 2 => if t == .f32 then 0xFF80_0000 else if t.signed then 2 ^ (n - 1) else 0
  | 3 => 2 ^ n - 1
  | _ => 0

/-! ## Long-latency results -/

/-- Pair registers from `d` on with words. -/
def regPairs (d : Nat) : List Word → List (Nat × Word)
  | [] => []
  | w :: ws => (d, w) :: regPairs (d + 1) ws

/-- An L result is outstanding from now on (R56). -/
def pushL (s : State) (r : LRes) : State :=
  let s1 := s.tick
  { s1 with lres := s1.lres ++ [{ r with id := s.seq }] }

/-- An instruction whose lanes with guard 1 each have an L result. -/
def perLaneL (f : Fields) (s : State) (g : Src → Nat × Flags) (t : Ty) : State :=
  (activeLanes f s).foldl (fun st l =>
    let r := g (s.src l)
    pushL st { id := 0, blk := s.cur.blk, lane := l, regs := regPairs f.d.toNat (resT t r.1), flags := r.2 }) s

/-- An interlocked instruction that writes a register of type `t` from each lane's own operands (R74). -/
def aluT (f : Fields) (s : State) (t : Ty) (g : Src → Nat) : State :=
  perLane f s (fun x l => l.wrT t f.d.toNat (g x))

/-- The same with flags (R90). -/
def aluF (f : Fields) (s : State) (t : Ty) (g : Src → Nat × Flags) : State :=
  perLane f s (fun x l => let r := g x; (l.wrT t f.d.toNat r.1).flag r.2)

/-- An instruction that writes a predicate from each lane's own operands. -/
def aluP (f : Fields) (s : State) (g : Src → Bool) : State :=
  perLane f s (fun x l => l.setPred f.d.toNat (g x))

end Sys2Proof.Machine
end

