-- ==== Sys2Proof/Machine/Integer.lean ====
section
/-! DEFINITION. The integer and predicate instructions (R71 to R84). -/
namespace Sys2Proof.Machine

/-- The outcome type of a meaning. -/
abbrev Out := Host.Outcome State Fault Refusal

def execNop (_ : Fields) (s : State) : Out := .next s

def execMov (f : Fields) (s : State) : Out := .next (aluT f s f.t (fun x => rdB f x f.t))

def execSel (f : Fields) (s : State) : Out :=
  .next (aluT f s f.t (fun x => if x.pred f.sc.toNat then rdT x f.t f.sa.toNat else rdB f x f.t))

/-- A two-source instruction of R74. -/
def alu2 (f : Fields) (s : State) (g : Nat → Nat → Nat) : State :=
  aluT f s f.t (fun x => g (rdT x f.t f.sa.toNat) (rdB f x f.t))

def execIadd (f : Fields) (s : State) : Out := .next (alu2 f s (addSub false (f.sub.getLsbD 0) f.t))
def execIsub (f : Fields) (s : State) : Out := .next (alu2 f s (addSub true (f.sub.getLsbD 0) f.t))
def execImul (f : Fields) (s : State) : Out := .next (alu2 f s (fun a b => a * b % 2 ^ f.t.bits))
def execImulh (f : Fields) (s : State) : Out := .next (alu2 f s (mulHigh f.t))

def execImad (f : Fields) (s : State) : Out :=
  .next (aluT f s f.t (fun x =>
    (rdT x f.t f.sa.toNat * rdB f x f.t + rdT x f.t f.sc.toNat) % 2 ^ f.t.bits))

def execIdiv (f : Fields) (s : State) : Out :=
  .next (perLaneL f s (fun x => (divRem false f.t (rdT x f.t f.sa.toNat) (rdB f x f.t), 0)) f.t)

def execIrem (f : Fields) (s : State) : Out :=
  .next (perLaneL f s (fun x => (divRem true f.t (rdT x f.t f.sa.toNat) (rdB f x f.t), 0)) f.t)

def execImin (f : Fields) (s : State) : Out := .next (alu2 f s (minMaxT false f.t))
def execImax (f : Fields) (s : State) : Out := .next (alu2 f s (minMaxT true f.t))

/-- |a| and −a, wrapped or saturated: R72 and R75 give the `.sat` forms, which R20's last sentence does not count (log entry
136). -/
def execIabs (f : Fields) (s : State) : Out :=
  .next (aluT f s f.t (fun x =>
    let v : Int := (valT f.t (rdT x f.t f.sa.toNat)).natAbs
    if f.sub.getLsbD 0 then satT f.t v else ofInt f.t.bits v))

/-- −a, as `execIabs` has |a| (R75; log entry 136). -/
def execIneg (f : Fields) (s : State) : Out :=
  .next (aluT f s f.t (fun x =>
    let v : Int := -(valT f.t (rdT x f.t f.sa.toNat))
    if f.sub.getLsbD 0 then satT f.t v else ofInt f.t.bits v))

/-- The carry-out predicate is written after the sum (R76). -/
def execIaddc (f : Fields) (s : State) : Out :=
  .next (perLane f s (fun x l =>
    let cin := f.subBits 36 36 == 1 && x.pred f.sc.toNat
    let v := rdT x f.t f.sa.toNat + rdB f x f.t + cin.toNat
    (l.wrT f.t f.d.toNat (v % 2 ^ f.t.bits)).setPred (f.subBits 35 32) (decide (2 ^ f.t.bits ≤ v))))

def execLea (f : Fields) (s : State) : Out :=
  .next (aluT f s f.t (fun x =>
    let b := (rdB32 f x).toNat
    let v := if f.t == .s64 then ofInt 64 (toInt 32 b) else b
    (rdT x f.t f.sa.toNat + v * 2 ^ f.subBits 34 32) % 2 ^ 64))

def execAnd (f : Fields) (s : State) : Out := .next (alu2 f s Nat.land)
def execOr (f : Fields) (s : State) : Out := .next (alu2 f s Nat.lor)
def execXor (f : Fields) (s : State) : Out := .next (alu2 f s Nat.xor)
def execAndn (f : Fields) (s : State) : Out := .next (alu2 f s (fun a b => Nat.land a (notT f.t.bits b)))
def execNot (f : Fields) (s : State) : Out :=
  .next (aluT f s f.t (fun x => notT f.t.bits (rdT x f.t f.sa.toNat)))

/-- A shift or rotate: the count is a 32-bit source (R72). -/
def shiftBy (op : Nat) (f : Fields) (s : State) : State :=
  aluT f s f.t (fun x => shiftT op f.t (rdT x f.t f.sa.toNat) (rdB32 f x).toNat)

def execShl (f : Fields) (s : State) : Out := .next (shiftBy 0x15 f s)
def execShr (f : Fields) (s : State) : Out := .next (shiftBy 0x16 f s)
def execSar (f : Fields) (s : State) : Out := .next (shiftBy 0x17 f s)
def execRotl (f : Fields) (s : State) : Out := .next (shiftBy 0x18 f s)

/-- A 32-bit count of a one-source instruction (R75). -/
def count1 (f : Fields) (s : State) (g : Nat → Nat → Nat) : State :=
  aluT f s .b32 (fun x => g f.t.bits (rdT x f.t f.sa.toNat))

def execPopc (f : Fields) (s : State) : Out := .next (count1 f s popc)
def execClz (f : Fields) (s : State) : Out := .next (count1 f s clz)
def execCtz (f : Fields) (s : State) : Out := .next (count1 f s ctz)
def execBrev (f : Fields) (s : State) : Out :=
  .next (aluT f s f.t (fun x => brev f.t.bits (rdT x f.t f.sa.toNat)))

def execBfx (f : Fields) (s : State) : Out :=
  .next (aluT f s f.t (fun x => bfx f.t (rdT x f.t f.sa.toNat) (rdB32 f x)))

def execBfi (f : Fields) (s : State) : Out :=
  .next (aluT f s f.t (fun x =>
    bfi f.t.bits (rdT x f.t f.sa.toNat) (rdT x f.t f.sc.toNat) (rdB32 f x)))

def execPrmt (f : Fields) (s : State) : Out :=
  .next (aluT f s .b32 (fun x =>
    prmt (x.reg f.sa.toNat).toNat (rdB32 f x).toNat (x.reg f.sc.toNat).toNat))

def execIcmp (f : Fields) (s : State) : Out :=
  .next (aluP f s (fun x =>
    combine (f.subBits 36 35) (icond (f.subBits 34 32) (valT f.t (rdT x f.t f.sa.toNat)) (valT f.t (rdB f x f.t)))
      (x.pred f.sc.toNat)))

def execPset (f : Fields) (s : State) : Out :=
  .next (aluP f s (fun x =>
    (f.subBits 35 32).testBit (2 * (x.pred f.sa.toNat).toNat + (x.pred f.sb.toNat).toNat)))

def execPget (f : Fields) (s : State) : Out :=
  .next (aluT f s .b32 (fun x => x.preds.toNat ||| 0x8000))

/-- PPUT never writes p15 (R84). -/
def execPput (f : Fields) (s : State) : Out :=
  .next (perLane f s (fun x l =>
    let m : BitVec 16 := BitVec.ofNat 16 (f.imm.toNat % 2 ^ 15)
    let v : BitVec 16 := BitVec.ofNat 16 (x.reg f.sa.toNat).toNat
    { l with preds := (l.preds &&& ~~~ m) ||| (v &&& m) }))

def execIdot4 (f : Fields) (s : State) : Out :=
  .next (aluT f s .b32 (fun x =>
    dot4 (f.sub.getLsbD 0) f.t (x.reg f.sa.toNat).toNat (rdB32 f x).toNat (x.reg f.sc.toNat).toNat))

end Sys2Proof.Machine
end

