-- ==== Sys2Proof/Machine/Float.lean ====
section
/-! DEFINITION. Float arithmetic (R88 to R93). -/
namespace Sys2Proof.Machine

/-- rm and ftz (R24). -/
def rmOf (f : Fields) : Nat := f.subBits 33 32
def ftzOf (f : Fields) : Bool := f.subBits 34 34 == 1

/-- A two-operand float instruction, element by element (R23, R90). -/
def float2 (f : Fields) (s : State) (g : Fmt → Nat → Nat → FRes) : State :=
  aluF f s f.t (fun x =>
    let a := rdT x f.t f.sa.toNat
    let b := rdB f x f.t
    mapElems f.t (fun k => g (tyFmt f.t) (felem f.t a k) (felem f.t b k)))

/-- A one-operand float result, element by element. -/
def float1Val (f : Fields) (g : Fmt → Nat → FRes) (x : Src) : Nat × Flags :=
  let a := rdT x f.t f.sa.toNat
  mapElems f.t (fun k => g (tyFmt f.t) (felem f.t a k))

def float1 (f : Fields) (s : State) (g : Fmt → Nat → FRes) : State := aluF f s f.t (float1Val f g)

def execFadd (f : Fields) (s : State) : Out :=
  .next (float2 f s (fun m a b => m.add (rmOf f) (ftzOf f) (m.decZ (ftzOf f) a) (m.decZ (ftzOf f) b)))

def execFsub (f : Fields) (s : State) : Out :=
  .next (float2 f s (fun m a b => m.add (rmOf f) (ftzOf f) (m.decZ (ftzOf f) a) (m.decZ (ftzOf f) b).negate))

def execFmul (f : Fields) (s : State) : Out :=
  .next (float2 f s (fun m a b => m.mul (rmOf f) (ftzOf f) (m.decZ (ftzOf f) a) (m.decZ (ftzOf f) b)))

def execFfma (f : Fields) (s : State) : Out :=
  .next (aluF f s f.t (fun x =>
    let z := ftzOf f
    let m := tyFmt f.t
    let a := rdT x f.t f.sa.toNat
    let b := rdB f x f.t
    let c := rdT x f.t f.sc.toNat
    mapElems f.t (fun k =>
      m.fma (rmOf f) z (m.decZ z (felem f.t a k)) (m.decZ z (felem f.t b k)) (m.decZ z (felem f.t c k)))))

def execFmin (f : Fields) (s : State) : Out := .next (float2 f s (fun m a b => m.minmax false (ftzOf f) a b))
def execFmax (f : Fields) (s : State) : Out := .next (float2 f s (fun m a b => m.minmax true (ftzOf f) a b))

/-- The conditions of R91. -/
def fcond (cond : Nat) (x y : FVal) : Bool :=
  let un := x.isNaN || y.isNaN
  let c := cmpVal x y
  match cond with
  | 0 => !un && c == 0
  | 1 => un || c != 0
  | 2 => !un && decide (c < 0)
  | 3 => !un && decide (c ≤ 0)
  | 4 => !un && decide (0 < c)
  | 5 => !un && decide (0 ≤ c)
  | 6 => !un
  | _ => un

def execFcmp (f : Fields) (s : State) : Out :=
  .next (perLane f s (fun x l =>
    let m := tyFmt f.t
    let a := m.decZ (ftzOf f) (rdT x f.t f.sa.toNat)
    let b := m.decZ (ftzOf f) (rdB f x f.t)
    let c := fcond (f.subBits 37 35) a b
    (l.setPred f.d.toNat (combine (f.subBits 33 32) c (x.pred f.sc.toNat))).flag
      (if a.isSNaN || b.isSNaN then fNV else 0)))

/-- The class bit of R92. -/
def fclass (m : Fmt) (ftz : Bool) (code : Nat) : Nat :=
  match m.decZ ftz code with
  | .nan s => if s then 0 else 1
  | .inf n => if n then 2 else 9
  | .fin n k _ =>
    if k == 0 then (if n then 5 else 6)
    else if k < 2 ^ m.mb then (if n then 4 else 7)
    else (if n then 3 else 8)

def execFclass (f : Fields) (s : State) : Out :=
  .next (aluP f s (fun x => f.imm.toNat.testBit (fclass (tyFmt f.t) (ftzOf f) (rdT x f.t f.sa.toNat))))

def execFrcp (f : Fields) (s : State) : Out := .next (float1 f s (fun m a => fRcp m (ftzOf f) a))
def execFrsq (f : Fields) (s : State) : Out := .next (float1 f s (fun m a => fRsq m (ftzOf f) a))

/-- FSQRT and FDIV write L results with their flags (R31, R88). -/
def execFsqrt (f : Fields) (s : State) : Out :=
  .next (perLaneL f s (float1Val f (fun m a => m.sqrt (rmOf f) (ftzOf f) (m.decZ (ftzOf f) a))) f.t)

def execFdiv (f : Fields) (s : State) : Out :=
  .next (perLaneL f s (fun x =>
    let z := ftzOf f
    let m := tyFmt f.t
    let a := rdT x f.t f.sa.toNat
    let b := rdB f x f.t
    mapElems f.t (fun k => m.div (rmOf f) z (m.decZ z (felem f.t a k)) (m.decZ z (felem f.t b k)))) f.t)

def execFexp2 (f : Fields) (s : State) : Out := .next (float1 f s (fun m a => fExp2 m (ftzOf f) a))
def execFlog2 (f : Fields) (s : State) : Out := .next (float1 f s (fun m a => fLog2 m (ftzOf f) a))
def execFsin (f : Fields) (s : State) : Out := .next (float1 f s (fun m a => fTrig false m (ftzOf f) a))
def execFcos (f : Fields) (s : State) : Out := .next (float1 f s (fun m a => fTrig true m (ftzOf f) a))
def execFtanh (f : Fields) (s : State) : Out := .next (float1 f s (fun m a => fTanh m (ftzOf f) a))
def execFsigm (f : Fields) (s : State) : Out := .next (float1 f s (fun m a => fSigm m (ftzOf f) a))
def execFfrac (f : Fields) (s : State) : Out := .next (float1 f s (fun m a => fFrac m (rmOf f) (ftzOf f) a))
def execFrnd (f : Fields) (s : State) : Out := .next (float1 f s (fun m a => fRnd m (rmOf f) (ftzOf f) a))

/-- The exact sum of finite values and infinities, rounded once to `m` (R25, R90). -/
def Fmt.sumOf (m : Fmt) (mode : Nat) (ftz : Bool) (xs : List FVal) : FRes :=
  let infs := xs.filter (·.isInf)
  match infs with
  | i :: _ => if infs.all (fun y => y.neg == i.neg) then (m.infCode i.neg, 0) else m.invalid
  | [] =>
    let r := xs.foldl (fun acc x =>
      match x with
      | .fin n k e => addDy acc.1 acc.2.1 acc.2.2 n k e
      | _ => acc) (false, 0, 0)
    if r.2.1 == 0 then
      (m.sgn (if xs.all (·.isZero) then zeroSign mode (xs.map (·.neg)) else mode == 2), 0)
    else m.fin mode ftz r.1 r.2.1 r.2.2

/-- a0 × b0 + a1 × b1 + c, rounded once to f32 (R90). A quiet NaN operand beside infinities of opposite sign gives NaN without NV
(log entry 138). -/
def dot2 (m : Fmt) (mode : Nat) (ftz : Bool) (a b : Nat → Nat) (c : Nat) : FRes :=
  let a0 := m.decZ ftz (a 0)
  let a1 := m.decZ ftz (a 1)
  let b0 := m.decZ ftz (b 0)
  let b1 := m.decZ ftz (b 1)
  let cv := fmtF32.decZ ftz c
  match mulVal a0 b0, mulVal a1 b1 with
  | some p, some q =>
    if [a0, a1, b0, b1, cv].any (·.isNaN) then fmtF32.nanOf [a0, a1, b0, b1, cv]
    else fmtF32.sumOf mode ftz [p, q, cv]
  | _, _ => fmtF32.invalid

def execFdot2 (f : Fields) (s : State) : Out :=
  .next (aluF f s .f32 (fun x =>
    let a := rdT x f.t f.sa.toNat
    let b := rdB f x f.t
    dot2 (tyFmt f.t) (rmOf f) (ftzOf f) (felem f.t a) (felem f.t b) (x.reg f.sc.toNat).toNat))

/-- a × 2^b; beyond ±1,000 an exponent gives what ±1,000 gives in each of the formats. -/
def fscale (m : Fmt) (mode : Nat) (ftz : Bool) (code : Nat) (b : Int) : FRes :=
  match m.decZ ftz code with
  | .nan n => m.nanOf [.nan n]
  | .inf n => (m.infCode n, 0)
  | .fin n k e => m.fin mode ftz n k (e + max (-1000) (min b 1000))

/-- b is always s32 (R88). -/
def execFscale (f : Fields) (s : State) : Out :=
  .next (aluF f s f.t (fun x =>
    let a := rdT x f.t f.sa.toNat
    mapElems f.t (fun k => fscale (tyFmt f.t) (rmOf f) (ftzOf f) (felem f.t a k) (rdB32 f x).toInt)))

end Sys2Proof.Machine
end

