-- ==== Sys2Proof/Machine/Narrow.lean ====
section
/-! DEFINITION. The narrow formats, DPW8, the E5M3 scale, format slots, and conversion into a slot's format
(R32 to R44). -/
namespace Sys2Proof.Machine

/-! ## Format slots (R42) -/

/-- FMT of a slot; r8 stands for the reserved codes. -/
inductive SFmt where
  | f32 | bf16 | f16 | e4m3 | e5m2 | e2m1 | dpw8 | int8 | r8
  deriving DecidableEq, Repr

structure Slot where
  fmt : SFmt
  /-- The block size in elements, 0 for none. -/
  blk : Nat
  scf : Nat
  rnd : Nat
  sat : Bool
  tscale : Nat
  deriving DecidableEq, Repr

def slotFmtOf (c : Nat) : SFmt :=
  match c with
  | 0 => .f32 | 1 => .bf16 | 2 => .f16 | 3 => .e4m3 | 4 => .e5m2 | 5 => .e2m1 | 6 => .dpw8 | 7 => .int8
  | _ => .r8

/-- The fields of a slot. -/
def slotOf (v : Dword) : Slot :=
  let n := v.toNat
  { fmt := slotFmtOf (n % 16),
    blk := (match (n >>> 4) % 4 with | 0 => 0 | 1 => 16 | 2 => 32 | _ => 64),
    scf := (n >>> 6) % 4, rnd := (n >>> 8) % 4, sat := n.testBit 10, tscale := n >>> 32 }

/-- What R43 refuses at submission. -/
def slotRefused (v : Dword) : Bool :=
  let n := v.toNat
  let s := slotOf v
  let plain := s.fmt == .f32 || s.fmt == .bf16 || s.fmt == .f16
  let ts := fmtF32.dec s.tscale
  let tsOk := match ts with | .fin neg m _ => !neg && m != 0 | _ => false
  s.fmt == .r8 || s.scf ≥ 2 || (n >>> 11) % 2 ^ 21 != 0 || (s.blk == 0) != (s.scf == 0) ||
  (plain && (s.blk != 0 || s.scf != 0)) || !tsOk

/-- Slot `n` of a launch record. -/
def slotAt (r : LaunchRec) (n : Nat) : Slot := slotOf (r.slots.getD n 0)

/-- Element width in bits. -/
def SFmt.width : SFmt → Nat
  | .f32 => 32
  | .bf16 | .f16 => 16
  | .e2m1 => 4
  | _ => 8

/-! ## DPW8 (R36, R37) -/

/-- A term in units of 2^−6. -/
def dpTerm (neg : Bool) (k : Nat) : Int :=
  if k == 7 then 0 else (if neg then -1 else 1) * (2 ^ (6 - k) : Nat)

/-- The value of a code in units of 2^−6. -/
def dpValue (c : Nat) : Int :=
  dpTerm (c.testBit 7) ((c >>> 4) % 8) + dpTerm (c.testBit 3) (c % 8)

/-- The canonical code of a magnitude in units of 2^−6 and a sign; none where no code has it (R37). -/
def dpCanon (neg : Bool) (v : Nat) : Option Nat :=
  let s := neg.toNat
  let i := Nat.log2 v
  let r := v - 2 ^ i
  if v == 0 then some 0x77
  else if v == 128 then some (if neg then 0x88 else 0)
  else if v > 128 then none
  else if r == 0 then some (s * 128 + (6 - i) * 16 + 7)
  else if r == 2 ^ Nat.log2 r then some (s * 128 + (6 - i) * 16 + s * 8 + (6 - Nat.log2 r))
  else
    let d := 2 ^ (i + 1) - v
    if i + 1 ≤ 6 && d == 2 ^ Nat.log2 d then
      some (s * 128 + (6 - (i + 1)) * 16 + (1 - s) * 8 + (6 - Nat.log2 d))
    else none

/-- The magnitudes that a code has, ascending. -/
def dpMags : List Nat := (List.range 129).filter (fun v => (dpCanon false v).isSome)

/-- The code of the DPW8 value nearest m × 2^e ≤ 2, a tie to the smaller magnitude, and whether it is exact
(R40). -/
def dpNearest (neg : Bool) (m : Nat) (e : Int) : Nat × Bool :=
  let e0 := min e (-6)
  let x := m * 2 ^ (e - e0).toNat
  let at_ (v : Nat) : Nat := v * 2 ^ (-6 - e0).toNat
  let dist (v : Nat) : Nat := if x ≥ at_ v then x - at_ v else at_ v - x
  let best := dpMags.foldl (fun b v => if dist v < dist b then v else b) 0
  ((dpCanon neg best).getD 0x77, dist best == 0)

/-! ## Values of stored elements -/

/-- The value of an element code (R23, R32, R34, R36). -/
def SFmt.val (f : SFmt) (c : Nat) : FVal :=
  match f with
  | .f32 => fmtF32.dec c
  | .bf16 => fmtBF16.dec c
  | .f16 => fmtF16.dec c
  | .e4m3 => fmtE4M3.dec c
  | .e5m2 => fmtE5M2.dec c
  | .e2m1 => fmtE2M1.dec c
  | .dpw8 => if c == 0xFF then .nan false else .fin (dpValue c < 0) (dpValue c).natAbs (-6)
  | .int8 => .fin (toInt 8 c < 0) (toInt 8 c).natAbs 0
  | .r8 => .fin false 0 0

/-- The value of an E5M3 scale code (R39). -/
def e5m3Val (c : Nat) : FVal :=
  let e := c / 8
  let m := c % 8
  if c == 0xFF then .nan false
  else if e == 0 then .fin false m (-17)
  else .fin false (m + 8) ((e : Int) - 18)

/-! ## Conversion into a slot's format (R35, R40) -/

/-- The NaN code that a quantisation writes, or 0 (R41). -/
def SFmt.nanCode : SFmt → Nat
  | .f32 => 0x7FC0_0000
  | .bf16 => 0x7FC0
  | .f16 => 0x7E00
  | .e4m3 => 0x7F
  | .e5m2 => 0x7E
  | .dpw8 => 0xFF
  | _ => 0

/-- The largest finite code of each sign (R32, R35). -/
def SFmt.maxCode (f : SFmt) (neg : Bool) : Nat :=
  match f with
  | .f32 => fmtF32.maxOf neg
  | .bf16 => fmtBF16.maxOf neg
  | .f16 => fmtF16.maxOf neg
  | .e4m3 => fmtE4M3.maxOf neg
  | .e5m2 => fmtE5M2.maxOf neg
  | .e2m1 => fmtE2M1.maxOf neg
  | .dpw8 => if neg then 0x88 else 0
  | .int8 => if neg then 0x81 else 0x7F
  | .r8 => 0

/-- The flags of a rounded result that is not beyond the largest (R35). -/
def narrowFlags (r : Rounded) : Flags := if r.exact then 0 else if r.tiny then fUF ||| fNX else fNX

/-- A rounding into a binary format, with what a value beyond the largest gives. -/
def intoFmt (m : Fmt) (mode : Nat) (neg : Bool) (k : Nat) (e : Int) (beyond : FRes) : FRes :=
  let r := m.round mode neg k e
  if r.big then beyond else (m.pack neg r.n r.q, narrowFlags r)

/-- Convert an exact value into a format (R35, R40). -/
def SFmt.into (f : SFmt) (mode : Nat) (sat : Bool) (x : FVal) : FRes :=
  let mx (neg : Bool) : FRes := (f.maxCode neg, fOF ||| fNX)
  match x with
  | .nan s =>
    (f.nanCode, if f == .e2m1 || f == .int8 || s then fNV else 0)
  | .inf n =>
    (match f with
     | .f32 => (fmtF32.infCode n, 0)
     | .bf16 => (fmtBF16.infCode n, 0)
     | .f16 => (fmtF16.infCode n, 0)
     | .e5m2 => (fmtE5M2.infCode n, 0)
     | .e4m3 | .dpw8 => if sat then mx n else (f.nanCode, fNV)
     | .e2m1 => mx n
     | .int8 => (f.maxCode n, fNV)
     | .r8 => (0, 0))
  | .fin n k e =>
    if k == 0 then
      (match f with
       | .dpw8 => 0x77
       | .int8 | .r8 => 0
       | .f32 => fmtF32.sgn n
       | .bf16 => fmtBF16.sgn n
       | .f16 => fmtF16.sgn n
       | .e4m3 => fmtE4M3.sgn n
       | .e5m2 => fmtE5M2.sgn n
       | .e2m1 => fmtE2M1.sgn n, 0)
    else
      match f with
      | .f32 => intoFmt fmtF32 mode n k e (if sat then mx n else fmtF32.overflow mode n)
      | .bf16 => intoFmt fmtBF16 mode n k e (if sat then mx n else fmtBF16.overflow mode n)
      | .f16 => intoFmt fmtF16 mode n k e (if sat then mx n else fmtF16.overflow mode n)
      | .e5m2 => intoFmt fmtE5M2 mode n k e (if sat then mx n else fmtE5M2.overflow mode n)
      | .e4m3 => intoFmt fmtE4M3 mode n k e (if sat then mx n else (0x7F, fOF ||| fNX ||| fNV))
      | .e2m1 => intoFmt fmtE2M1 mode n k e (mx n)
      | .dpw8 =>
        if cmpVal (.fin false k e) (.fin false 1 1) > 0 then
          (if sat then mx n else (0xFF, fOF ||| fNX ||| fNV))
        else
          let r := dpNearest n k e
          (r.1, if r.2 then 0 else fNX)
      | .int8 =>
        let r := roundTo mode n k e 0
        if r.1 > 127 then mx n
        else (ofInt 8 (if n then -(r.1 : Int) else (r.1 : Int)), if r.2 then 0 else fNX)
      | .r8 => (0, 0)

/-! ## Scales (R41) -/

/-- fmax of a format. -/
def SFmt.fmax : SFmt → Nat
  | .e4m3 => 448
  | .e5m2 => 57344
  | .e2m1 => 6
  | .dpw8 => 2
  | _ => 127

/-- The scale of a block whose largest magnitude is `x` (R41, R97). -/
def scaleCode (f : SFmt) (x : FVal) : Nat :=
  match x with
  | .nan _ => 0xFF
  | .inf _ => 0xFE
  | .fin _ m e =>
    if m == 0 then 0
    else
      let fits (c : Nat) : Bool :=
        match e5m3Val c with
        | .fin _ n k => decide (cmpVal (.fin false m e) (.fin false (n * f.fmax) k) ≤ 0)
        | _ => false
      ((List.range 0xFF).find? fits).getD 0xFE

/-- The largest magnitude of a block; a NaN ranks highest. -/
def blockMax (xs : List FVal) : FVal :=
  xs.foldl (fun b x =>
    let x := match x with | .inf _ => .inf false | .fin _ m e => .fin false m e | y => y
    if b.isNaN then b else if x.isNaN then x else if cmpVal b x < 0 then x else b) (.fin false 0 0)

/-- x / s exactly enough for one rounding: the quotient to 64 more bits with a sticky bit. -/
def divExact (x : FVal) (n : Nat) (k : Int) : FVal :=
  match x with
  | .fin neg m e =>
    if n == 0 then x
    else
      let q := (m * 2 ^ 64) / n
      let st := if (m * 2 ^ 64) % n == 0 then 0 else 1
      .fin neg (2 * q + st) (e - k - 65)
  | y => y

/-- An element under a given scale code (R41, R98). -/
def quantElem (s : Slot) (x : FVal) (scale : Nat) : FRes :=
  match e5m3Val scale with
  | .fin _ n k =>
    if n == 0 && !x.isZero then (s.fmt.nanCode, fNV) else s.fmt.into s.rnd s.sat (divExact x n k)
  | _ => (s.fmt.nanCode, fNV)

/-- DQNT (R99). -/
def dequant (s : Slot) (code scale : Nat) : FRes :=
  match s.fmt.val code, e5m3Val scale, fmtF32.dec s.tscale with
  | .fin n m e, .fin _ k d, .fin _ t g => fmtF32.fin s.rnd false n (m * k * t) (e + d + g)
  | .inf n, .fin _ k _, .fin _ _ _ => if k == 0 then (fmtF32.sgn n, 0) else (fmtF32.infCode n, 0)
  | _, _, _ => (fmtF32.nan, 0)

/-! ## Compress (R44, R100) -/

/-- a ranks above b. -/
def ranksAbove (a b : FVal) : Bool :=
  let abs (x : FVal) : FVal := match x with | .inf _ => .inf false | .fin _ m e => .fin false m e | y => y
  if b.isNaN then false else if a.isNaN then true else decide (cmpVal (abs a) (abs b) > 0)

/-- The indices kept of four: first and second, first < second. -/
def compress (v : Nat → FVal) : Nat × Nat :=
  let better (i j : Nat) : Bool := ranksAbove (v i) (v j) || (!ranksAbove (v j) (v i) && i < j)
  let rank (i : Nat) : Nat := ((List.range 4).filter (fun j => j != i && better j i)).length
  match (List.range 4).filter (fun i => rank i < 2) with
  | [i, j] => (i, j)
  | _ => (0, 1)

/-! ## The slot check (R67 order 8) -/

/-- The slots a shaped table of R94 accepts. -/
def slotIn (l : List SFmt) (s : Slot) : Bool := l.contains s.fmt

/-- The FMTs of R160's first and second columns. -/
def weightFmt (f : SFmt) : Bool :=
  f == .bf16 || f == .e4m3 || f == .e5m2 || f == .int8 || f == .e2m1 || f == .dpw8
def actFmt (f : SFmt) : Bool := f == .bf16 || f == .e4m3 || f == .e5m2 || f == .int8

/-- MCFG accepts the pair (R160). -/
def mcfgOk (sp : Bool) (w a : SFmt) : Bool :=
  if w == .bf16 then a == .bf16 && !sp
  else weightFmt w && actFmt a && a != .bf16

/-- K is within the limits of R96 for `n` elements of 8 bits. -/
def kOk (s : Slot) (k n : Nat) : Bool := k < (if s.fmt == .e2m1 then 2 * n else n)

/-- The slot number that FORMAT_SLOT names, where the instruction of an opcode raises it (R43, R67, R94, R96,
R99, R160, R168). -/
def slotFault (op : Nat) (f : Fields) (r : LaunchRec) : Option Nat :=
  let n := f.subBits 34 32
  let s := slotAt r n
  let five := slotIn [.e4m3, .e5m2, .e2m1, .dpw8, .int8] s
  let bad (ok : Bool) : Option Nat := if ok then none else some n
  match op with
  | 0x5B => bad (slotIn [.e4m3, .e5m2, .e2m1, .int8] s && kOk s (f.subBits 36 35) 2)
  | 0x5C => bad (five && kOk s (f.subBits 37 35) 4)
  | 0x5D => bad (five && s.scf == 1)
  | 0x5E => bad (five && s.scf == 1 && kOk s (f.subBits 37 35) 4)
  | 0x5F => if f.subBits 35 35 == 1 then bad (slotIn [.e4m3, .e5m2, .dpw8, .int8] s) else none
  | 0x60 => bad (slotIn [.dpw8] s)
  | 0x61 => bad five
  | 0xC0 =>
    let w := f.immBits 2 0
    let a := f.immBits 6 4
    let wf := (slotAt r w).fmt
    let af := (slotAt r a).fmt
    if mcfgOk (f.subBits 35 35 == 1) wf af then none
    else if weightFmt wf && !actFmt af then some a else some w
  | 0xC4 =>
    if f.t == .f32 then none
    else
      let k := f.subBits 37 35
      let t := slotAt r k
      if slotIn [.bf16, .f16, .e4m3, .e5m2, .int8] t && t.scf == 0 then none else some k
  | _ => none

end Sys2Proof.Machine
end

