-- ==== Sys2Proof/Machine/Convert.lean ====
section
/-! DEFINITION. The conversion instructions (R94 to R100). -/
namespace Sys2Proof.Machine

/-- The float format of a CVTF or CVTFI source code (R94). -/
def srcFmt (c : Nat) : Fmt :=
  match c with
  | 0 => fmtF32
  | 1 => fmtF16
  | _ => fmtBF16

/-- CVTF: one rounding by R25 to R27 and R35. -/
def cvtf (src dst : Fmt) (mode : Nat) (ftz : Bool) (code : Nat) : FRes :=
  match src.decZ ftz code with
  | .nan s => dst.nanOf [.nan s]
  | .inf n => (dst.infCode n, 0)
  | .fin n m e => dst.fin mode ftz n m e

def execCvtf (f : Fields) (s : State) : Out :=
  .next (aluF f s f.t (fun x =>
    let src := srcFmt (f.subBits 36 35)
    cvtf src (tyFmt f.t) (rmOf f) (ftzOf f) ((x.reg f.sa.toNat).toNat % 2 ^ src.width)))

/-- CVTFI (R95). -/
def cvtfi (src : Fmt) (t : Ty) (mode : Nat) (ftz : Bool) (code : Nat) : FRes :=
  let lo : Int := if t.signed then -(2 ^ (t.bits - 1) : Nat) else 0
  let hi : Int := if t.signed then (2 ^ (t.bits - 1) : Nat) - 1 else (2 ^ t.bits : Nat) - 1
  match src.decZ ftz code with
  | .nan _ => (0, fNV)
  | .inf n => (ofInt t.bits (if n then lo else hi), fNV)
  | .fin n m e =>
    let r := roundTo mode n m e 0
    let v : Int := if n then -(r.1 : Int) else (r.1 : Int)
    if v < lo then (ofInt t.bits lo, fNV)
    else if hi < v then (ofInt t.bits hi, fNV)
    else (ofInt t.bits v, if r.2 then 0 else fNX)

def execCvtfi (f : Fields) (s : State) : Out :=
  .next (aluF f s f.t (fun x =>
    let src := srcFmt (f.subBits 36 35)
    cvtfi src f.t (rmOf f) (ftzOf f) ((x.reg f.sa.toNat).toNat % 2 ^ src.width)))

/-- The source type of CVTIF. -/
def srcInt (c : Nat) : Ty :=
  match c with
  | 0 => .b32
  | 1 => .s32
  | 2 => .b64
  | _ => .s64

def execCvtif (f : Fields) (s : State) : Out :=
  .next (aluF f s f.t (fun x =>
    let t := srcInt (f.subBits 37 35)
    let v := valT t (rdT x t f.sa.toNat)
    (tyFmt f.t).fin (rmOf f) false (v < 0) v.natAbs 0))

/-- The slot that SUB bits 34:32 name. -/
def fieldSlot (f : Fields) (s : State) : Slot := slotAt s.curRec (f.subBits 34 32)

/-- Replace element `i` of `w` bits in a word. -/
def putElem (w i v word : Nat) : Nat :=
  let lowPart := word % 2 ^ (w * i)
  let high := word >>> (w * (i + 1))
  lowPart + 2 ^ (w * i) * (v % 2 ^ w + 2 ^ w * high)

/-- Element `i` of `w` bits. -/
def getElem (w i word : Nat) : Nat := (word >>> (w * i)) % 2 ^ w

def execCvtn (f : Fields) (s : State) : Out :=
  let sl := fieldSlot f s
  let k := f.subBits 36 35
  .next (aluF f s .b32 (fun x =>
    let a := sl.fmt.into sl.rnd sl.sat (fmtF32.dec (x.reg f.sa.toNat).toNat)
    let b := sl.fmt.into sl.rnd sl.sat (fmtF32.dec (x.reg f.sb.toNat).toNat)
    let w := sl.fmt.width
    (putElem w (2 * k + 1) b.1 (putElem w (2 * k) a.1 (x.reg f.sc.toNat).toNat), a.2 ||| b.2)))

/-- The exact f32 of a value that a narrow code has (R34). -/
def exactF32 (v : FVal) : Nat :=
  match v with
  | .nan _ => fmtF32.nan
  | .inf n => fmtF32.infCode n
  | .fin n m e => (fmtF32.fin 0 false n m e).1

def execCvtw (f : Fields) (s : State) : Out :=
  let sl := fieldSlot f s
  .next (aluT f s .f32 (fun x =>
    exactF32 (sl.fmt.val (getElem sl.fmt.width (f.subBits 37 35) (x.reg f.sa.toNat).toNat))))

/-- The elements a lane gives to a QNT (R98). -/
def qntElems (sl : Slot) (f : Fields) (x : Src) : List FVal :=
  let e (i : Nat) : FVal := fmtF32.dec (x.reg i).toNat
  if sl.blk == 64 then [e f.sa.toNat, e (f.sa.toNat + 1)] else [e f.sa.toNat]

/-- The block of lanes that lane `l` is in (R98): same half of the group for BLK 16. -/
def qntSame (sl : Slot) (l k : Nat) : Bool := if sl.blk == 16 then l / 16 == k / 16 else true

/-- QNT, computed form: lanes outside the batch or with guard 0 contribute +0. -/
def execQntComputed (f : Fields) (s : State) : Out :=
  let sl := fieldSlot f s
  let ls := activeLanes f s
  .next (ls.foldl (fun st l =>
    let xs := (ls.filter (qntSame sl l)).flatMap (fun k => qntElems sl f (s.src k))
    let scale := scaleCode sl.fmt (blockMax xs)
    let es := (qntElems sl f (s.src l)).map (fun x => quantElem sl x scale)
    let w := sl.fmt.width
    let v := (match es with
      | [a, b] => putElem w 1 b.1 (putElem w 0 a.1 0)
      | a :: _ => putElem w 0 a.1 0
      | [] => 0) + scale * 2 ^ 24
    pushL st { id := 0, blk := s.cur.blk, lane := l, regs := [(f.d.toNat, BitVec.ofNat 32 v)],
               flags := es.foldl (fun q r => q ||| r.2) 0 }) s)

/-- The scale byte of the second source (R94). -/
def scaleByte (f : Fields) (x : Src) : Nat := (rdB32 f x).toNat >>> 24

/-- QNT, given form. -/
def execQntGiven (f : Fields) (s : State) : Out :=
  let sl := fieldSlot f s
  .next (perLaneL f s (fun x =>
    let scale := scaleByte f x
    let r := quantElem sl (fmtF32.dec (x.reg f.sa.toNat).toNat) scale
    (r.1 + scale * 2 ^ 24, r.2)) .b32)

def execDqnt (f : Fields) (s : State) : Out :=
  let sl := fieldSlot f s
  .next (aluF f s .f32 (fun x =>
    dequant sl (getElem sl.fmt.width (f.subBits 37 35) (x.reg f.sa.toNat).toNat) (scaleByte f x)))

def execCmpr (f : Fields) (s : State) : Out :=
  let slotForm := f.subBits 35 35 == 1
  let sl := fieldSlot f s
  .next (perLane f s (fun x l =>
    let a := (x.reg f.sa.toNat).toNat + (if slotForm then 0 else 2 ^ 32 * (x.reg (f.sa.toNat + 1)).toNat)
    let w := if slotForm then 8 else 16
    let el (i : Nat) : Nat := getElem w i a
    let val (i : Nat) : FVal := if slotForm then sl.fmt.val (el i) else (tyFmt f.t).dec (el i)
    let k := compress val
    l.setRegs f.d.toNat [BitVec.ofNat 32 (el k.1 + 2 ^ w * el k.2), BitVec.ofNat 32 (k.1 + 4 * k.2)]))

def execDpwe (f : Fields) (s : State) : Out :=
  let sl := fieldSlot f s
  .next (aluF f s .b32 (fun x =>
    let r := SFmt.into .dpw8 0 sl.sat (fmtF32.dec (x.reg f.sa.toNat).toNat)
    (putElem 8 (f.subBits 36 35) r.1 (x.reg f.sc.toNat).toNat, r.2)))

def execScaleq (f : Fields) (s : State) : Out :=
  let sl := fieldSlot f s
  .next (aluT f s .b32 (fun x =>
    scaleCode sl.fmt (blockMax [fmtF32.dec (x.reg f.sa.toNat).toNat]) * 2 ^ 24))

end Sys2Proof.Machine
end

