-- ==== Sys2Proof/Machine/Masked.lean ====
section
/-! DEFINITION. Quad exchange (R101, R102) and the masked group instructions (R103 to R108). -/
namespace Sys2Proof.Machine

/-! ## Quads -/

/-- What the lane at quad position `k` of lane `l` supplies from its register SA. -/
def quadVal (f : Fields) (s : State) (l k : Nat) : Nat := rdT (s.src (4 * (l / 4) + k)) f.t f.sa.toNat

/-- A quad instruction: each lane with guard 1 gets `g` of its number, with flags. -/
def quadOp (f : Fields) (s : State) (g : Nat → Nat × Flags) : State :=
  s.updCurBlock (fun b => overLanes b (activeLanes f s) (fun l x =>
    let r := g l
    (x.wrT f.t f.d.toNat r.1).flag r.2))

def execQswz (f : Fields) (s : State) : Out :=
  .next (quadOp f s (fun l => (quadVal f s l ((f.imm.toNat >>> (2 * (l % 4))) % 4), 0)))

def execQbcast (f : Fields) (s : State) : Out :=
  .next (quadOp f s (fun l => (quadVal f s l (f.imm.toNat % 4), 0)))

/-- (0 op 1) op (2 op 3), with the flags of all three. -/
def execQred (f : Fields) (s : State) : Out :=
  let op := f.subBits 35 32
  .next (quadOp f s (fun l =>
    let a := redOp op f.t (quadVal f s l 0) (quadVal f s l 1)
    let b := redOp op f.t (quadVal f s l 2) (quadVal f s l 3)
    let r := redOp op f.t a.1 b.1
    (r.1, a.2 ||| b.2 ||| r.2)))

/-! ## Reductions over an instance -/

/-- One level of the tree of R107: an absent operand passes the other up, as it is, a NaN among them (log entry 137). -/
def treeLevel (op : Nat) (t : Ty) : List (Option Nat) → List (Option Nat) × Flags
  | a :: b :: r =>
    let q := treeLevel op t r
    (match a, b with
     | some x, some y => let v := redOp op t x y; (some v.1 :: q.1, v.2 ||| q.2)
     | some x, none => (some x :: q.1, q.2)
     | none, y => (y :: q.1, q.2))
  | l => (l, 0)

/-- The tree over 32 positions. -/
def treeRed (op : Nat) (t : Ty) : Nat → List (Option Nat) → Nat × Flags
  | 0, l => ((l.head?.join).getD 0, 0)
  | n + 1, l =>
    let r := treeLevel op t l
    let q := treeRed op t n r.1
    (q.1, r.2 ||| q.2)

/-- The running reductions of values in ascending lane order, each with the lanes' results, and all flags. The first
participant's is its own value, as it is, a NaN among them (log entry 137). -/
def scanRed (op : Nat) (t : Ty) : Option Nat → List Nat → List Nat × Flags
  | _, [] => ([], 0)
  | none, v :: vs =>
    let q := scanRed op t (some v) vs
    (v :: q.1, q.2)
  | some a, v :: vs =>
    let r := redOp op t a v
    let q := scanRed op t (some r.1) vs
    (r.1 :: q.1, r.2 ||| q.2)

/-- The participants of an instance in ascending lane order. -/
def Instance.parts (i : Instance) : List (Nat × Arrival) := i.arrivals

/-- What participant `l` gets: registers from D on, a predicate, and flags (R105 to R108). -/
structure Gift where
  regs  : List Word := []
  pred  : Option Bool := .none
  flags : Flags := 0
  deriving DecidableEq, Repr

/-- GSHFL's source lane (R105). -/
def shuffleSrc (mode l : Nat) (c : Word) : Option Nat :=
  match mode with
  | 0 => some (c.toNat % 32)
  | 1 => if c.toNat ≤ l then some (l - c.toNat) else none
  | 2 => if l + c.toNat ≤ 31 then some (l + c.toNat) else none
  | _ => some (Nat.xor l (c.toNat % 32))

/-- The result of a complete instance for one participant. -/
def Instance.gift (i : Instance) (l : Nat) (me : Arrival) : Gift :=
  let ps := i.parts
  let mode := i.sub.toNat % 4
  let value (a : Arrival) : Nat := a.a.toNat % 2 ^ i.t.bits
  let yes := ps.filter (fun p => p.2.p)
  match i.op with
  | 0x70 =>
    let own := resT i.t (value me)
    (match shuffleSrc mode l me.c with
     | some k => (match tfind k ps with
        | some a => { regs := resT i.t (value a) }
        | none => { regs := own })
     | none => { regs := own })
  | 0x71 =>
    (match mode with
     | 0 => { pred := some (yes.length == ps.length) }
     | 1 => { pred := some (yes.length != 0) }
     | 2 => { pred := some (yes.length == 0 || yes.length == ps.length) }
     | _ => { regs := [laneMask (yes.map (·.1)), BitVec.ofNat 32 (yes.length + 2 ^ 16 * ps.length)] })
  | 0x72 =>
    let r := treeRed (i.sub.toNat % 16) i.t 5 (allLanes.map (fun k => (tfind k ps).map value))
    { regs := resT i.t r.1, flags := r.2 }
  | 0x73 =>
    let op := i.sub.toNat % 16
    let vs := ps.map (fun p => value p.2)
    let all := scanRed op i.t none (if i.sub.getLsbD 4 then vs.dropLast else vs)
    let pos := (ps.filter (fun p => p.1 < l)).length
    let v :=
      if i.sub.getLsbD 4 then (if pos == 0 then redIdent op i.t else all.1.getD (pos - 1) 0)
      else all.1.getD pos 0
    { regs := resT i.t v, flags := all.2 }
  | 0x75 =>
    { regs := [laneMask ((ps.filter (fun p => value p.2 == value me)).map (·.1))] }
  | 0x76 => { pred := some ((ps.head?.map (·.1)) == some l) }
  | _ => {}

/-- The results of an opcode are L-class (R103). -/
def maskedL (op : Nat) : Bool := op == 0x70 || op == 0x72 || op == 0x73 || op == 0x75

/-- Lanes that a barrier releases at one program counter form one batch (R216): where one of them owes a STEP, all of
them do (R197). -/
def joinDue (x : Block) (ls : List Nat) : Block :=
  overLanes x ls (fun l y =>
    match ls.find? (fun k => (x.lane k).due.isSome && (x.lane k).pc == (x.lane l).pc && (x.lane k).hmode == y.hmode) with
    | some k => { y with due := (x.lane k).due }
    | none => y)

/-- Complete an instance of group `g` of block `b` (R104 step 5): its waiting participants go on. -/
def completeInstance (s : State) (b g : Nat) (i : Instance) : State :=
  i.parts.foldl (fun s p =>
    let l := 32 * g + p.1
    let r := i.gift p.1 p.2
    let s1 := s.updLane b l (fun x => if x.park == .masked then { x with park := .run } else x)
    if maskedL i.op then
      pushL s1 { id := 0, blk := b, lane := l, regs := regPairs p.2.d r.regs, flags := r.flags }
    else s1.updLane b l (fun x =>
      let y := x.setRegs p.2.d r.regs
      match r.pred with | some v => y.setPred p.2.d v | none => y)) s

/-- Every lane of an instance's mask has arrived (R104 step 5); a GBAR's participants have performed their local stores
too (R108). -/
def instanceDone (s : State) (b g : Nat) (i : Instance) : Bool :=
  i.parts.length == (maskLanes i.mask).length &&
  (i.op != 0x74 || i.parts.all (fun p => !(s.lane b (32 * g + p.1)).owesAny))

/-- An instance that is done completes; the lanes that a barrier releases form batches together (R216). -/
def finishInstance (s : State) (b g : Nat) (i : Instance) : State :=
  let s1 := completeInstance s b g i
  if i.op == 0x74 then s1.updBlock b (fun x => joinDue x (i.parts.map (fun p => 32 * g + p.1))) else s1

/-- The barriers of a group that were waiting for local stores alone complete (R108). -/
def settleGbars (s : State) (b g : Nat) : State :=
  ((s.grp b g).insts.filter (fun i => i.op == 0x74 && instanceDone s b g i)).foldl (fun st i =>
    finishInstance (st.updGrp b g (fun x => { x with insts := x.insts.filter (fun j => j != i) })) b g i) s

/-- The program counters at which lanes wait, each once. -/
def waitPcs (ps : List (Nat × Arrival)) : List Dword := (ps.map (·.2.pc)).eraseDups

/-- MASK_MISMATCH on every lane waiting in an instance, at the instruction where each waits (R104). -/
def failInstance (s : State) (b g : Nat) (i : Instance) : State :=
  (waitPcs i.parts).foldl (fun s pc =>
    let m := laneMask ((i.parts.filter (fun p => p.2.pc == pc)).map (·.1))
    let s1 := s.updBlock b (fun x =>
      overLanes x ((maskLanes m).map (32 * g + ·)) (fun _ l => { l with pc := pc, park := .run }))
    raiseCause s1 b g { code := Code.maskMismatch, pc := pc, val := i.mask.setWidth 64, mask := m } pc) s

/-- A lane of the group holds no fibre (R135). -/
def helperIn (b : Block) (g : Nat) (m : Word) : Bool :=
  (maskLanes m).any (fun j => !(b.lane (32 * g + j)).live)

/-- Pending instances with a helper lane in their mask end in MASK_MISMATCH (R104 step 6). -/
def sweepInstances (s : State) (b g : Nat) : State :=
  let blk := s.block b
  let bad := (blk.grp g).insts.filter (fun i => helperIn blk g i.mask)
  if bad.isEmpty then s
  else
    let s1 := s.updGrp b g (fun x => { x with insts := x.insts.filter (fun i => !helperIn blk g i.mask) })
    bad.foldl (fun s i => failInstance s b g i) s1

/-- A masked group instruction issues (R104). An arrival with lanes in the masks of several pending instances meets
the one that opened first, and leaves the others as they are (log entry 63). -/
def arriveMasked (op : Nat) (f : Fields) (s : State) : State :=
  let ls := activeLanes f s
  let b := s.cur.blk
  let g := s.cur.grp
  let maskOf (l : Nat) : Word := rdB32 f (s.src l)
  let here := laneMask (ls.map (· % 32))
  let arrivalOf (l : Nat) : Arrival :=
    let x := s.src l
    { a := BitVec.ofNat 64 (rdT x f.t f.sa.toNat), c := x.reg f.sc.toNat, p := x.pred (f.sa.toNat % 16),
      d := f.d.toNat, pc := s.cur.pc }
  let mismatch (s : State) : State :=
    raiseHere s (ls.map (fun l => { lane := l, code := Code.maskMismatch, val := (maskOf l).setWidth 64 }))
  match ls with
  | [] => s
  | l0 :: _ =>
    let m := maskOf l0
    if ls.any (fun l => maskOf l != m) || here &&& ~~~ m != 0 || (m &&& s.cur.lanes) &&& ~~~ here != 0 then
      mismatch s
    else
      let grp := s.grp b g
      let add (i : Instance) : Instance :=
        { i with arrivals := ls.foldl (fun t l => tins (l % 32) (arrivalOf l) t) i.arrivals }
      let settle (i : Instance) (others waiting : List Instance) : State :=
        if instanceDone s b g i then
          let s1 := finishInstance (s.updGrp b g (fun x => { x with insts := others })) b g i
          if op == 0x74 then s1.endRun else s1
        else
          let s1 := s.updGrp b g (fun x => { x with insts := waiting })
          let s2 := s1.updCurBlock (fun x => overLanes x ls (fun _ y => { y with park := .masked }))
          sweepInstances s2 b g
      match grp.insts.find? (fun i => i.mask &&& here != 0) with
      | none =>
        let i := add { mask := m, op := op, t := f.t, sub := f.sub, arrivals := [] }
        settle i grp.insts (grp.insts ++ [i])
      | some i =>
        let others := grp.insts.filter (fun j => j != i)
        if i.mask == m && i.op == op && i.t == f.t && i.sub == f.sub then
          settle (add i) others (grp.insts.map (fun j => if j == i then add i else j))
        else
          let s1 := s.updGrp b g (fun x => { x with insts := others })
          mismatch (failInstance s1 b g i)

def execGshfl (f : Fields) (s : State) : Out := .next (arriveMasked 0x70 f s)
def execGvote (f : Fields) (s : State) : Out := .next (arriveMasked 0x71 f s)
def execGred (f : Fields) (s : State) : Out := .next (arriveMasked 0x72 f s)
def execGscan (f : Fields) (s : State) : Out := .next (arriveMasked 0x73 f s)
/-- GBAR: the earlier stores of its participants entered the record when they issued, and their scratchpad and accumulator
writes have been performed (R108). -/
def execGbar (f : Fields) (s : State) : Out := .next (arriveMasked 0x74 f s)
def execGmatch (f : Fields) (s : State) : Out := .next (arriveMasked 0x75 f s)
def execGelect (f : Fields) (s : State) : Out := .next (arriveMasked 0x76 f s)

end Sys2Proof.Machine
end

