-- ==== Sys2Proof/Machine/Control.lean ====
section
/-! DEFINITION. Fetch lines (R47 to R50), the program counter (R52), transfer targets (R53) and the control
instructions (R85 to R87). -/
namespace Sys2Proof.Machine

/-- The line address and the slot of a program counter (R52). -/
def pcLine (pc : Dword) : Dword := pc &&& ~~~ 63#64
def pcSlot (pc : Dword) : Nat := pc.toNat % 64

/-- The program counter of the slot after (R52). -/
def pcNext (pc : Dword) : Dword := if pcSlot pc = 4 then pcLine pc + 64 else pc + 1

/-- The instruction word in slot `i` of a line (R47). -/
def lineSlot (line : List Byte) (i : Nat) : BitVec 96 := BitVec.ofNat 96 (leNat ((line.drop (12 * i)).take 12))

/-- The line word (R47). -/
def lineWord (line : List Byte) : Nat := leNat ((line.drop 60).take 4)

/-- Exclusive-or of the low `n` bits. -/
def parityOf (n v : Nat) : Bool := (List.range n).foldl (fun p i => p != v.testBit i) false

/-- The PAR bits of a payload (R48). -/
def parOf (payload : Nat) : Nat := ofBits 16 (fun i => parityOf 30 (payload >>> (30 * i)))

/-- The PAR bits match (R50). -/
def lineGood (line : List Byte) : Bool := lineWord line >>> 16 == parOf (leNat (line.take 60))

def lineTgt (line : List Byte) (i : Nat) : Bool := (lineWord line).testBit i
def linePair (line : List Byte) (j : Nat) : Bool := j < 4 && (lineWord line).testBit (5 + j)

/-- The control transfers of R48. -/
def isTransfer (op : Nat) : Bool :=
  [0x30, 0x31, 0x32, 0x33, 0x34, 0x35, 0xA1, 0xF0, 0xF1, 0xF2, 0xF8].contains op

/-- The structural rules of R48 hold. -/
def lineSound (line : List Byte) : Bool :=
  let w := lineWord line
  let p := (w >>> 5) % 16
  (w >>> 9) % 128 == 0 && Nat.land p (p >>> 1) == 0 &&
  (List.range 4).all (fun j =>
    !p.testBit j || (!isTransfer (wordOp (lineSlot line j)) && !bitAt (lineSlot line (j + 1)) 87))

/-- The line in memory, where its translation and lease checks pass (R51). -/
def memLine (s : State) (tag : Nat) (pc : Dword) : Option (List Byte) :=
  let l := s.launch tag
  match xlatGlobal s l.part (some l.rec_) (pcLine pc) 64 .read with
  | .ok pa _ => if chunkPoisoned s pa then none else some (rdBytes s.mem pa 64)
  | _ => none

/-- The line as the core would have it without a fault: from its instruction cache, else from memory; none where
fetching it would fault (R50, R85). -/
def peekLine (s : State) (core tag : Nat) (pc : Dword) : Option (List Byte) :=
  match (tfind (pc.toNat / 64) (s.core core).l1i).filter (fun x =>
      lineGood x && leased (s.launch tag).rec_ (pcLine pc).toNat 64) with
  | some x => some x
  | none => (memLine s tag pc).filter lineGood

/-- The line of a target can only be read when its memory link is up again: the transfer waits for its TGT bit. -/
def targetWaits (s : State) (core tag : Nat) (t : Dword) : Bool :=
  let l := s.launch tag
  pcSlot t ≤ 4 && !t.msb && (peekLine s core tag t).isNone &&
  (match xlatGlobal s l.part (some l.rec_) (pcLine t) 64 .read with | .waits => true | _ => false)

/-- A target passes the checks of R53; the TGT check is not made on a line that cannot be fetched (R85). -/
def targetOk (s : State) (core tag : Nat) (t : Dword) : Bool :=
  pcSlot t ≤ 4 && !t.msb &&
  (match peekLine s core tag t with | some x => lineTgt x (pcSlot t) | none => true)

/-- BRA and CALL: IMM's signed line offset and slot (R53). -/
def immTarget (f : Fields) (pc : Dword) : Dword :=
  let off : Int := toInt 29 (f.imm.toNat / 8)
  (pcLine pc + BitVec.ofInt 64 (64 * off)) + BitVec.ofNat 64 (f.imm.toNat % 8)

/-- A transfer (R85); a link is written after the target is read, and not where the target fails. -/
def transfer (link : Bool) (f : Fields) (s : State) (target : Src → Dword) : State :=
  if (activeLanes f s).any (fun l => targetWaits s s.cur.pier s.curTag (target (s.src l))) then stayHere s
  else perLaneF f s (fun l x =>
    let t := target x
    if !targetOk s s.cur.pier s.curTag t then .error { lane := l, code := Code.badTarget, val := t }
    else .ok (fun y =>
      let z := if link then y.setRegs f.d.toNat (wordsOf 2 s.cur.next.toNat) else y
      { z with pc := t }))

def execBra (f : Fields) (s : State) : Out := .next (transfer false f s (fun _ => immTarget f s.cur.pc))
def execBrx (f : Fields) (s : State) : Out := .next (transfer false f s (fun x => x.pair f.sa.toNat))
def execCall (f : Fields) (s : State) : Out := .next (transfer true f s (fun _ => immTarget f s.cur.pc))
def execCallx (f : Fields) (s : State) : Out := .next (transfer true f s (fun x => x.pair f.sa.toNat))
def execRet (f : Fields) (s : State) : Out := .next (transfer false f s (fun x => x.pair f.sa.toNat))

def execYield (f : Fields) (s : State) : Out := .next (if (activeLanes f s).isEmpty then s else s.endRun)

end Sys2Proof.Machine
end

