-- ==== Sys2Proof/Machine/Record.lean ====
section
/-! DEFINITION. The store record, the L1 and ordering (R120, R121, R125, R126, R228 to R232), as shared
operations over a core. -/
namespace Sys2Proof.Machine

/-! ## Words and chunks -/

/-- The PASID of a launch (R109). -/
def tagPasid (s : State) (tag : Nat) : Nat := (s.launch tag).pasid

/-- The aligned 64-B chunk of a pointer (R15). -/
def chunkOf (p : Dword) : Dword := p &&& ~~~ 63#64

/-- The keys of the words that `n` bytes from `p` touch. -/
def wordKeys (p : Dword) (pasid n : Nat) : List Nat :=
  (List.range ((p.toNat % 4 + n + 3) / 4)).map (fun i => wordKey p pasid + i)

/-- The pointer and, for a host word, the PASID that a word key stands for. -/
def keyPtr (k : Nat) : Dword := BitVec.ofNat 64 (4 * (k % 2 ^ 62))
def keyPasid (k : Nat) : Nat := k / 2 ^ 62 - 1

/-- Mask of `n` bits from bit `i` of a chunk. -/
def beMask (i n : Nat) : BitVec 64 := BitVec.ofNat 64 ((2 ^ n - 1) * 2 ^ i)

/-- Byte `i` of a contribution. -/
def Contribution.byte (c : Contribution) (i : Nat) : Byte := BitVec.ofNat 8 (c.data.toNat >>> (8 * i))

/-- The bytes an entry holds (R228). -/
def Entry.be (e : Entry) : BitVec 64 := e.stores.foldl (fun b c => b ||| c.be) 0

/-- The data of an entry: each byte of its latest contribution (R228). -/
def Entry.data (e : Entry) : BitVec 512 :=
  BitVec.ofNat 512 (leNat ((List.range 64).map (fun i =>
    e.stores.foldl (fun b c => if c.be.getLsbD i then c.byte i else b) 0)))

/-- Whether word `w` is poisoned after a store's bytes, given whether it was before: bytes that are poisoned make it so, and
a store that supplies the whole word clears it (R359). -/
def Contribution.badAfter (w : Nat) (bad : Bool) (c : Contribution) : Bool :=
  let m := beMask (4 * w) 4
  if c.be &&& m == 0 then bad else c.poison || (bad && c.be &&& m != m)

/-- Word `w` of an entry is poisoned. -/
def Entry.badWord (e : Entry) (w : Nat) : Bool := e.stores.foldl (Contribution.badAfter w) false

def Entry.poisoned (e : Entry) : Bool := (List.range 16).any e.badWord

/-- The words of an entry, 0 to 15, that hold a byte. -/
def Entry.words (e : Entry) : List Nat :=
  (List.range 16).filter (fun w => e.be &&& beMask (4 * w) 4 != 0)

/-- An entry is open (R228). -/
def Entry.isOpen (e : Entry) : Bool := !e.draining && !e.rel

/-- A grant used a page-table entry that has changed since (R280, R281). -/
def Entry.staleGrant (s : State) (e : Entry) (g : Grant) : Bool :=
  g.pte != 0 && (pteNoU (rdNat s.mem g.pte 8) != g.val ||
    (!decide (2 ^ 60 ≤ e.ctx) &&
      (match walkRoot s (ptrDie e.chunk) (s.launch e.tag).part (ptrOff56 e.chunk) with
       | .ok _ lf => lf.addr != g.pte
       | _ => true)))

/-- The key of the first word of an entry's chunk. -/
def Entry.key (s : State) (e : Entry) : Nat := wordKey e.chunk (tagPasid s e.tag)

/-- Entries a record has room for (R8). -/
def recordSize : Nat := 512

/-! ## Stores -/

/-- The open entry that a store to a chunk of a context merges into. -/
def openEntry (c : Core) (ctx : Nat) (chunk : Dword) : Option Entry :=
  c.record.find? (fun e => e.ctx == ctx && e.chunk == chunk && e.isOpen)

/-- A context is an application core's. -/
def hartContext (ctx : Nat) : Bool := 2 ^ 60 ≤ ctx

/-- AGE of the next entry of a context (R228, R311). -/
def nextAge (s : State) (core ctx : Nat) : BitVec 16 :=
  if hartContext ctx then (s.core core).age else (s.block ctx).age

/-- An entry of a context is allocated: its AGE counter advances (R311). -/
def ageOn (s : State) (core ctx : Nat) : State :=
  if hartContext ctx then s.updCore core (fun c => { c with age := c.age + 1 })
  else s.updBlock ctx (fun x => { x with age := x.age + 1 })

/-- The grant under which a core already owns word `w` of a chunk, where the page's entry still gives that physical word
(R229 step 1, R280; log entry 128). -/
def heldWord (s : State) (core tag : Nat) (chunk : Dword) (w : Nat) : Option Grant :=
  match tfind (wordKey chunk (tagPasid s tag) + w) (s.core core).owned with
  | none => none
  | some pw =>
    let found (lf : Leaf) : Grant := { word := pw, pte := lf.addr, val := pteNoU (rdNat s.mem lf.addr 8) }
    if 2048 ≤ core then (hartOldLeaf s (core - 2048) (chunk.toNat + 4 * w)).map found
    else match walkRoot s (ptrDie chunk) (s.launch tag).part (ptrOff56 chunk) with
      | .ok pa lf => if pa / 4 + w == pw then some (found lf) else none
      | _ => none

/-- The words that the bytes `be` of a chunk touch are owned already, or their ownership is requested: an entry's grants
and requests after it. Host words are never owned (R229, R234). -/
def claimWords (s : State) (core tag : Nat) (chunk : Dword) (be : BitVec 64) (g : Tbl Grant) (r : BitVec 16) :
    Tbl Grant × BitVec 16 :=
  if windowOf chunk = .host then (g, r)
  else (List.range 16).foldl (fun (x : Tbl Grant × BitVec 16) w =>
    if be &&& beMask (4 * w) 4 == 0 || (tfind w x.1).isSome || x.2.getLsbD w then x
    else match heldWord s core tag chunk w with
      | some h => (tins w h x.1, x.2)
      | none => (x.1, x.2 ||| BitVec.ofNat 16 (2 ^ w))) (g, r)

/-- The count of the fibre in lane `lane` of a context; an application core is one fibre for good. -/
def fibreOf (s : State) (ctx lane : Nat) : Nat := if hartContext ctx then 0 else (s.lane ctx lane).fib

/-- The open entry that a store of a fibre merges into. A release store merges with bytes of its own fibre alone, so that
no two release entries wait for one another (R228: it may merge; R230; log entry 120). -/
def mergeEntry (c : Core) (ctx lane fib : Nat) (chunk : Dword) (rel : Bool) : Option Entry :=
  (openEntry c ctx chunk).filter (fun e => !rel || e.stores.all (fun x => x.lane == lane && x.fib == fib))

/-- A store enters a record (R121, R228): bytes at a record pointer, of lane `lane` of a context; `pol` is its cache
policy, none for the page's. An entry that it does not merge into takes no more stores. -/
def storeRecord (s : State) (core ctx tag lane : Nat) (p : Dword) (bs : List Byte) (rel poison : Bool)
    (pol : Option Nat := none) : State :=
  let i := p.toNat % 64
  let fib := fibreOf s ctx lane
  let new := (mergeEntry (s.core core) ctx lane fib (chunkOf p) rel).isNone
  let age := nextAge s core ctx
  let s1 := if new then ageOn s.tick core ctx else s.tick
  let ct : Contribution :=
    { lane := lane, fib := fib, seq := s.seq, be := beMask i bs.length,
      data := BitVec.ofNat 512 (leNat bs * 2 ^ (8 * i)), poison := poison, pol := pol }
  let mark (e : Entry) : Entry :=
    if rel then { e with rel := true, relLane := lane, relSeq := s.seq } else e
  s1.updCore core (fun c =>
    match mergeEntry c ctx lane fib (chunkOf p) rel with
    | some e =>
      { c with record := c.record.map (fun x =>
          if x.id == e.id then
            let q := claimWords s core tag (chunkOf p) ct.be x.grants x.requested
            mark { x with stores := x.stores ++ [ct], grants := q.1, requested := q.2 }
          else x) }
    | none =>
      let q := claimWords s core tag (chunkOf p) ct.be [] 0
      { c with record := c.record.map (fun x =>
          if x.ctx == ctx && x.chunk == chunkOf p then { x with draining := true } else x) ++ [mark
          { id := s.seq, ctx := ctx, tag := tag, chunk := chunkOf p, stores := [ct],
            age := age, grants := q.1, requested := q.2 }] })

/-- How many new entries a list of stores needs, each with its lane, fibre and chunk (R121): one for each chunk without
an open entry; release stores never share one, and the first at a chunk alone may merge (R228). -/
def entriesNeeded (c : Core) (ctx : Nat) (rel : Bool) (sts : List (Nat × Nat × Dword)) : Nat :=
  let chunks := (sts.map (·.2.2)).eraseDups
  if rel then
    sts.length - (chunks.filter (fun k => (sts.find? (fun x => x.2.2 == k)).any (fun x =>
      (mergeEntry c ctx x.1 x.2.1 k true).isSome))).length
  else (chunks.filter (fun k => (openEntry c ctx k).isNone)).length

/-! ## Order among a fibre's accesses -/

/-- An operation of the fibre in lane `l` of block `b` before order number `q`. -/
def olderOp (b l q : Nat) (m : MemOp) : Bool := m.blk == b && m.lane == l && m.seq < q

/-- Every load and atomic of the fibre older than `q` has returned (R126). -/
def readsDone (s : State) (b l q : Nat) : Bool :=
  !s.memops.any (fun m => olderOp b l q m && m.kind != .red && m.kind != .acq) &&
  !(s.lane b l).localOps.any (fun o => o.id < q && o.kind != .st && o.kind != .red)

/-- The fibre that made a named-group request still lives. -/
def SgReq.live (s : State) (r : SgReq) : Bool :=
  !r.dead && (s.lane r.blk r.lane).live && (s.lane r.blk r.lane).fib == r.fib

/-- A named-group operation whose completion is an acquire of a lane that does not park (R150, R151). -/
def SgKind.acquires : SgKind → Bool
  | .vote _ _ | .red _ _ _ | .bcast _ _ _ => true
  | _ => false

/-- A request holds back the accesses after it. -/
def SgReq.holds (s : State) (b l q : Nat) (r : SgReq) : Bool :=
  r.blk == b && r.lane == l && r.seq < q && r.kind.acquires && r.live s

/-- No acquire of the fibre older than `q` is outstanding (R126, R150). -/
def noAcquire (s : State) (b l q : Nat) : Bool :=
  !s.memops.any (fun m => olderOp b l q m && (m.kind == .acq || m.acquire)) &&
  !(s.lane b l).localOps.any (fun o => o.id < q && o.acquire) &&
  !s.sgreqs.any (fun r => r.holds s b l q) &&
  !s.lres.any (fun r => r.blk == b && r.lane == l && (match r.acq with | some a => a.1 < q | none => false)) &&
  !s.dies.any (fun d => d.2.orrery.any (fun e => e.2.arrivals.any (fun a => a.req.holds s b l q)))

/-- An entry holds a byte of a fibre older than `q`. -/
def Entry.olderByte (e : Entry) (l q : Nat) : Bool := e.stores.any (fun x => x.lane == l && x.seq < q)

/-- The fibre has a byte older than `q` in an entry other than `except_`, in a record or saved with its block (R233). -/
def olderBytes (s : State) (b l q : Nat) (except_ : Option Nat) : Bool :=
  s.cores.any (fun c => c.2.record.any (fun e => e.ctx == b && except_ != some e.id && e.olderByte l q)) ||
  (s.block b).savedRec.any (fun e => e.olderByte l q)

/-- The release conditions of R125 for a fibre at order number `q`. -/
def releaseOk (s : State) (b l q : Nat) (except_ : Option Nat := none) : Bool :=
  readsDone s b l q && !s.memops.any (fun m => olderOp b l q m && m.kind == .red) && !olderBytes s b l q except_ &&
  !(s.lane b l).owesStore q

/-! ## The L1 -/

/-- A core has an L1 data cache in use (R194 L1CTL, R16). -/
def l1On (s : State) (core : Nat) : Bool := !(s.core core).off && (2048 ≤ core || !(s.pier core).l1ctl.getLsbD 0)
/-- The same of its L1 instruction cache. -/
def l1iOn (s : State) (core : Nat) : Bool := !(s.core core).ioff && (2048 ≤ core || !(s.pier core).l1ctl.getLsbD 1)

/-- Invalidate every word the core does not own, in one step (R231); fills under way install nothing. -/
def acquireCore (c : Core) : Core :=
  { c with l1 := c.l1.filter (fun w => c.l1Owned.contains w.1),
           fills := c.fills.map (fun f => { f with dropped := true }) }

/-- An acquire of the fibre completes (R126, R232). -/
def acquireNow (s : State) (core b l : Nat) : State :=
  (s.updCore core acquireCore).updLane b l (fun x => { x with tracked := [] })

/-- The entries a fibre tracks have drained (R232). -/
def trackedDone (s : State) (core b l : Nat) : Bool :=
  !(s.lane b l).tracked.any (fun k => (s.core core).record.any (fun e => e.id == k))

/-- The acquire of order number `q` may complete. -/
def acquireOk (s : State) (core b l q : Nat) : Bool := readsDone s b l q && trackedDone s core b l

/-- An acquire of order number `q` in a fibre's order: complete at once, or outstanding (R126). -/
def acquireAt (s : State) (core b l q : Nat) (pc : Dword) : State :=
  let s1 := s.tick
  if acquireOk s core b l q then acquireNow s1 core b l
  else { s1 with memops := s1.memops ++
          [{ id := s.seq, core := core, blk := b, lane := l, kind := .acq, seq := q, ptr := 0, pc := pc }] }

/-- An acquire at this point of a fibre's order. -/
def acquire (s : State) (core b l : Nat) (pc : Dword) : State := acquireAt s core b l s.seq pc

/-- The acquire of a phase completion in a lane (R150): at the order number of its arrival or wait. -/
def acquireSg (s : State) (b l q : Nat) (pc : Dword) : State :=
  match (s.block b).onPier with
  | some p => acquireAt s p b l q pc
  | none =>
    let s1 := s.tick
    let m : MemOp := { id := s.seq, core := 0, blk := b, lane := l, kind := .acq, seq := q, ptr := 0, pc := pc }
    { s1 with memops := s1.memops ++ [m] }

/-- A line fill is requested (R231): of cache policy `pol`, into the L1 too or into the home slice alone. -/
def requestFill (s : State) (core tag line : Nat) (pol : Option Nat) (l1 : Bool := true) : State :=
  s.tick.updCore core (fun c =>
    { c with fills := c.fills ++ [{ id := s.seq, line := line, tag := tag, pol := pol, l1 := l1 }] })

/-! ## What a load reads (R120, R232) -/

/-- The latest contribution of the context to byte `i` of a chunk among those that `ok` admits, with its entry. -/
def recordByte (c : Core) (ctx : Nat) (chunk : Dword) (i : Nat) (ok : Contribution → Bool) :
    Option (Contribution × Nat) :=
  c.record.foldl (fun best e =>
    if e.ctx == ctx && e.chunk == chunk then
      e.stores.foldl (fun best x =>
        if x.be.getLsbD i && ok x then
          (match best with
           | some b => if b.1.seq < x.seq then some (x, e.id) else best
           | none => some (x, e.id))
        else best) best
    else best) none

/-- A word of a chunk is poisoned by what the stores that `ok` admits left in the record (R359). -/
def recordPoison (c : Core) (ctx : Nat) (chunk : Dword) (w : Nat) (ok : Contribution → Bool) : Bool :=
  c.record.foldl (fun b e =>
    if e.ctx == ctx && e.chunk == chunk then (e.stores.filter ok).foldl (Contribution.badAfter w) b else b) false

/-- Byte `i` of a word. -/
def wordByte (w : Word) (i : Nat) : Byte := BitVec.ofNat 8 (w.toNat >>> (8 * i))

/-- The bytes a load reads: from the record, else the L1, else the home bytes `home`; with the contributions
taken. -/
def loadBytes (c : Core) (ctx : Nat) (p : Dword) (pasid : Nat) (home : List Byte) (ok : Contribution → Bool) :
    List (Byte × Option (Contribution × Nat) × Bool) :=
  (List.range home.length).map (fun k =>
    let q := p + BitVec.ofNat 64 k
    match recordByte c ctx (chunkOf q) (q.toNat % 64) ok with
    | some x => (x.1.byte (q.toNat % 64), some x, false)
    | none =>
      match tfind (wordKey q pasid) c.l1 with
      | some w => (wordByte w (q.toNat % 4), none, false)
      | none => (home.getD k 0, none, true))

/-- The bytes of a load are poisoned: those of the home, where `bad` says so, or a word of the record that gives one. -/
def loadBad (c : Core) (ctx : Nat) (p : Dword) (bs : List (Byte × Option (Contribution × Nat) × Bool)) (bad : Bool)
    (ok : Contribution → Bool) : Bool :=
  (bs.any (fun b => b.2.2 && bad)) ||
  (List.range bs.length).any (fun k =>
    let q := p + BitVec.ofNat 64 k
    (bs[k]?.bind (·.2.1)).isSome && recordPoison c ctx (chunkOf q) (q.toNat % 64 / 4) ok)

/-- A load of order number `q` takes a byte of the record only from a store that entered before it: then no fibre's load
returns bytes that depend on its own later stores (R238, No load buffering). -/
def olderStore (q : Nat) (x : Contribution) : Bool := decide (x.seq < q)

/-- Some byte of a load is neither in the record nor in the L1. -/
def needsHome (c : Core) (ctx : Nat) (p : Dword) (pasid n q : Nat) : Bool :=
  (loadBytes c ctx p pasid (List.replicate n 0) (olderStore q)).any (·.2.2)

/-- `n` words of all ones (R119). -/
def allOnes (t : Ty) : List Word := List.replicate t.regs (BitVec.allOnes 32)

/-! ## Home slices (R226, R227, R341) -/

/-- The pier whose home slice homes a physical address (R227). -/
def homeSlice (pa : Nat) : Nat :=
  let x (lo : Nat) : Nat := (pa >>> lo) % 64
  let h := Nat.xor (Nat.xor (Nat.xor (x 7) (x 13)) (Nat.xor (x 19) (x 25))) (Nat.xor (x 31) (x 37))
  64 * paDie pa + Nat.xor h ((pa >>> 43) % 8)

/-- Ways of a home slice, and lines of a way: 128 KiB of 128 B (R341). -/
def sliceWays : Nat := 16
def wayLines : Nat := 1024

/-- The data array of a home slice has power: its cluster is neither gated nor waking (R320), and it is not off. -/
def slicePowered (s : State) (p : Nat) : Bool :=
  (tget ({} : Cluster) (s.die (p / 64)).clusters (p % 64 / 4)).st < 2 && !(s.pier p).sliceOff

/-- The powered ways of a home slice that a partition's fills may use (R341). -/
def fillWays (s : State) (part p : Nat) : List Nat :=
  if slicePowered s p then
    (List.range sliceWays).filter (fun w => (s.part part).inForce.ways.getLsbD w && !(s.pier p).wayOff.getLsbD w)
  else []

/-- A read of policy `pol` by a partition makes a home keep the line (R118, R341). -/
def allocates (s : State) (part pa pol : Nat) : Bool := pol != 2 && !(fillWays s part (homeSlice pa)).isEmpty

/-- A line's copy stands in its home slice. -/
def inSlice (s : State) (pa : Nat) : Bool := (s.pier (homeSlice pa)).slice.any (fun e => e.1 == pa / 128)

/-- A hit: the line is the one used last. -/
def sliceTouch (s : State) (pa : Nat) : State :=
  s.updPier (homeSlice pa) (fun x =>
    { x with slice := x.slice.filter (fun e => e.1 != pa / 128) ++ x.slice.filter (fun e => e.1 == pa / 128) })

/-- The line goes into a way with room among `ws`, or takes the place of the line of these ways used longest ago
(R341). The manual gives no index of a line within a way: a way holds any 1,024 lines (log entry 35). -/
def sliceInsert (ws : List Nat) (line : Nat) (l : List (Nat × Nat)) : List (Nat × Nat) :=
  match ws.find? (fun w => (l.filter (fun e => e.2 == w)).length < wayLines) with
  | some w => l ++ [(line, w)]
  | none =>
    match l.find? (fun e => ws.contains e.2) with
    | some v => l.filter (fun e => e.1 != v.1) ++ [(line, v.2)]
    | none => l

/-- A home slice takes a clean copy of a line for a partition. -/
def sliceFill (s : State) (part line : Nat) : State :=
  let p := homeSlice (128 * line)
  if inSlice s (128 * line) then sliceTouch s (128 * line)
  else s.updPier p (fun x => { x with slice := sliceInsert (fillWays s part p) line x.slice })

/-! ## Activity budgets (R342, R343) -/

/-- Something with order number `q` is still there to wait. -/
def stillWaits (s : State) (q : Nat) : Bool :=
  s.memops.any (fun m => m.id == q) || s.jobs.any (fun j => j.id == q) || s.sgreqs.any (fun r => r.id == q) ||
  s.cores.any (fun c => c.2.record.any (fun e => e.id == q) || c.2.fills.any (fun f => f.id == q)) ||
  s.harts.any (fun h => (h.2.held.isSome && h.2.heldAt == q) || h.2.fetching.any (fun f => f.2 == q)) ||
  s.queues.any (fun x => x.2.events.any (fun e => e.id == q) || x.2.packets.any (fun p => p.id == q) ||
    (x.2.mapped && x.2.since == q)) ||
  s.cxlReqs.any (fun r => r.id == q) ||
  s.runs.any (fun r => r.2.id == q) || s.rdmaReqs.any (fun r => r.id == q)

/-- A period boundary: use restarts at the excess over LIMIT, never above LIMIT − 1; an activity that made something wait
counts (R343). CALLOC as written takes effect at the same boundary (R347). -/
def newPeriod (s : State) (x : Part) : Part :=
  let lim (k : Nat) : Nat := x.inForce.limits.getD k 0
  let waits (k : Nat) : Bool := x.stalled.contains k || x.waited.any (fun w => w.1 == k && stillWaits s w.2)
  { x with
    period := x.period + 1,
    use := (List.range 7).foldl (fun (t : Tbl Nat) k =>
      tput 0 t k (if lim k = 0 then 0 else min (tget 0 x.use k - lim k) (lim k - 1))) [],
    stall := (List.range 7).foldl (fun (t : Tbl Word) k => if waits k then tput 0 t k (tget 0 t k + 1) else t) x.stall,
    share := x.shareW, maxHeat := x.maxHeatW, stalled := [], waited := x.waited.filter (fun w => stillWaits s w.2) }

/-- Some boundaries, one after the other. -/
def newPeriods (s : State) : Nat → Part → Part
  | 0, x => x
  | n + 1, x => newPeriods s n (newPeriod s x)

/-- A partition as it stands in the current period: the boundaries that have come since it was last settled count. -/
def settledPart (s : State) (p : Nat) : Part :=
  let x := s.part p
  newPeriods s (s.now / 10000 - x.period) x

/-- Change a partition as it stands now. -/
def updSettled (s : State) (p : Nat) (f : Part → Part) : State := s.setPart p (f (settledPart s p))

/-- Activity `k` admits the operation of order number `q`: use is below LIMIT, and nothing older waits. -/
def budgetOk (s : State) (p k q : Nat) : Bool :=
  let x := settledPart s p
  let lim := x.inForce.limits.getD k 0
  lim == 0 || (tget 0 x.use k < lim &&
    !(x.waited.takeWhile (fun w => w != (k, q))).any (fun w => w.1 == k && stillWaits s w.2))

/-- Charge `n` units; the operation waits no longer. -/
def charge (s : State) (p k q n : Nat) : State :=
  updSettled s p (fun x => { x with use := tput 0 x.use k (tget 0 x.use k + n), waited := x.waited.filter (· != (k, q)) })

/-- The operation finds the budget spent and waits. -/
def stall (s : State) (p k q : Nat) : State :=
  updSettled s p (fun x =>
    { x with waited := if x.waited.contains (k, q) then x.waited else x.waited ++ [(k, q)],
             stalled := addTo k x.stalled })

/-- An operation that activity `k` bounds. -/
def budgeted (s : State) (p k q n : Nat) (act : State → State) : State :=
  if budgetOk s p k q then act (charge s p k q n) else stall s p k q

/-- Every activity admits the operation of order number `q`: it acts, charged with all of them; else it waits for
the first that does not (R343). -/
def budgetAll (s : State) (p q : Nat) (acts : List (Nat × Nat)) (act : State → State) : State :=
  match acts.find? (fun a => a.2 != 0 && !budgetOk s p a.1 q) with
  | some a => stall s p a.1 q
  | none => act (acts.foldl (fun s a => if a.2 = 0 then s else charge s p a.1 q a.2) s)

end Sys2Proof.Machine
end

