-- ==== Sys2Proof/Machine/Access.lean ====
section
/-! DEFINITION. The memory instructions (R109 to R132): pointer and object checks, loads and stores, atomics,
fences, pointer instructions, record and cache management. -/
namespace Sys2Proof.Machine

/-! ## The object table (R113, R114) -/

structure Obj where
  base : Dword
  size : Nat
  attr : Nat
  deriving DecidableEq, Repr

/-- Where entry `i` of the issuing launch's object table lies. -/
def objPtr (s : State) (i : Nat) : Dword := s.curRec.objBase + BitVec.ofNat 64 (32 * i)

/-- The 32 bytes of an entry as a plain load of the issuing batch's core would return them: its own record's bytes, then
its L1's, then the home's; all ones where the table does not translate or is poisoned (log entry 65). -/
def objLoaded (s : State) (i : Nat) : List Byte :=
  let l := s.curLaunch
  let p := objPtr s i
  match walkRoot s (ptrDie p) l.part (ptrOff56 p) with
  | .ok pa _ =>
    let bs := loadBytes (s.core s.cur.pier) s.cur.blk p l.pasid (rdBytes s.mem pa 32) (fun _ => true)
    if loadBad (s.core s.cur.pier) s.cur.blk p bs (chunkPoisoned s pa) (fun _ => true) then List.replicate 32 0xFF else bs.map (·.1)
  | _ => List.replicate 32 0xFF

/-- The entry as it stood at submission (R116). -/
def objKept (s : State) (i : Nat) : Option (List Byte) :=
  let bs := (s.curLaunch.objs.drop (32 * i)).take 32
  if bs.length == 32 then some bs else none

/-- A plain load of the entry by lane `l` would wait: behind an acquire, or behind the fibre's own atomic or reduction on
its words (R121, R126). -/
def objBusy (s : State) (l i : Nat) : Bool :=
  let ks := wordKeys (objPtr s i) s.curLaunch.pasid 32
  !noAcquire s s.cur.blk l s.seq ||
  s.memops.any (fun m => olderOp s.cur.blk l s.seq m && m.kind != .acq &&
    (wordKeys m.ptr s.curLaunch.pasid (m.t.bits / 8)).any (fun k => ks.contains k))

/-- The 32 bytes that lane `l` uses: as they stood at submission, or as a plain load returns them; which of the two is open
where they differ, a free value that `objTouched` drew (R7, R116). -/
def objBytes (s : State) (l i : Nat) : List Byte :=
  match objKept s i with
  | some bs => if objBusy s l i || (Config.freeValue (s.free - 1)).getLsbD (l % 32) then bs else objLoaded s i
  | none => objLoaded s i

/-- The physical place of an entry's bytes that neither the record nor the L1 nor a home's copy gives: reading it reaches
memory (R342). -/
def objFar (s : State) (i : Nat) : Option Nat :=
  let l := s.curLaunch
  let p := objPtr s i
  if l.rec_.objCount ≤ i then none
  else match walkRoot s (ptrDie p) l.part (ptrOff56 p) with
    | .ok pa _ =>
      if (loadBytes (s.core s.cur.pier) s.cur.blk p l.pasid (List.replicate 32 0) (fun _ => true)).any (·.2.2) &&
         !inSlice s pa then some pa else none
    | _ => none

/-- The order number by which the issuing run waits for a budget (R343). -/
def curRun (s : State) : Nat := ((s.run? s.cur.pier s.cur.sched).map (·.id)).getD 0

/-- A read of the table finds the memory-read budget spent (R343). -/
def objWaits (s : State) (i : Nat) : Bool := (objFar s i).isSome && !budgetOk s s.curLaunch.part 0 (curRun s)

/-- The read of an object-table entry sets U of its leaf (R12, R278), is charged where it reaches memory (R342), and draws
the free value of `objBytes`. -/
def objTouched (s : State) (i : Nat) : State :=
  let l := s.curLaunch
  let p := objPtr s i
  if l.rec_.objCount ≤ i then s
  else
    let t : State := { s with free := s.free + 1 }
    let u := match objFar s i with
      | some pa =>
        let al := allocates s l.part pa 0
        let v := charge t l.part 0 (curRun s) (if al then 128 else 64)
        if al then sliceFill v l.part (pa / 128) else v
      | none => t
    match walkRoot s (ptrDie p) l.part (ptrOff56 p) with
    | .ok _ lf => setU u lf
    | _ => u

/-- The batch stands at its slot until the read of the table is admitted (R343). -/
def objStay (s : State) : State := stayHere (stall s s.curLaunch.part 0 (curRun s))

/-- An instruction that reads an entry of the table. -/
def withTable (i : Nat) (s : State) (go : State → State) : State :=
  if objWaits s i then objStay s else go (objTouched s i)

/-- The same for a memory access, which reads the table in mode 1 alone (R115). -/
def modeTouched (f : Fields) (s : State) : State := if f.mode1 then objTouched s f.sc.toNat else s
def modeWaits (f : Fields) (s : State) : Bool := f.mode1 && objWaits s f.sc.toNat
def withMode (f : Fields) (s : State) (go : State → State) : State :=
  if modeWaits f s then objStay s else go (modeTouched f s)

/-- The window that SPACE names (R113). -/
def spaceWindow (n : Nat) : Option Window :=
  match n with
  | 0 => some .global
  | 1 => some .priv
  | 2 => some .scratch
  | 3 => some .cluster
  | 4 => some .acc
  | 5 => some .host
  | _ => none

/-- An entry from its bytes; none where they make it invalid (R113). -/
def objOf (bs : List Byte) : Option Obj :=
  let base := leNat (bs.take 8)
  let size := leNat ((bs.drop 8).take 8)
  let attr := leNat ((bs.drop 16).take 8)
  let rest := leNat (bs.drop 24)
  if size = 0 || attr >>> 16 != 0 || attr.testBit 7 || (attr >>> 12) % 16 > 8 || (attr >>> 8) % 16 > 2 ||
     rest != 0 || spaceWindow (attr % 16) != some (windowOf (BitVec.ofNat 64 base)) then none
  else some { base := BitVec.ofNat 64 base, size := size, attr := attr }

/-- Entry `i` of the issuing launch's object table as lane `l` uses it; none where it is invalid (R113, R116). -/
def objEntry (s : State) (l i : Nat) : Option Obj :=
  if s.curRec.objCount ≤ i then none else objOf (objBytes s l i)

/-- The hint of an access: on ST and RED, hints 1 and 3 act as 0 (R118). -/
def hintOf (f : Fields) (store : Bool) : Nat := if store && f.hint % 2 == 1 then 0 else f.hint

/-- The cache policy of lane `l`'s access: its hint's, or with hint 0 the object's POL; none for the page's (R115,
R118). -/
def accessPol (f : Fields) (s : State) (store : Bool) (l : Nat) : Option Nat :=
  if hintOf f store != 0 then some (hintOf f store)
  else if f.mode1 then (objEntry s l f.sc.toNat).map (fun e => (e.attr >>> 8) % 16)
  else none

/-! ## Pointer checks (R110) -/

/-- The block of the executing fibre's span that holds span position `k` (R110). -/
def spanBlock (s : State) (b k : Nat) : Option Nat :=
  let x := s.block b
  let n := (s.launch x.tag).rec_.span
  ((List.range n).map (fun i => 2 ^ 32 * x.tag + (n * (x.idx / n) + i))).find? (fun c =>
    (s.block c).onPier.isSome && (s.block c).spos == k)

/-- Bytes of an allocation that a window's limit counts (R110). -/
def windowLimit (s : State) (b : Nat) (w : Window) : Option Nat :=
  let x := s.block b
  match w with
  | .priv => some (s.launch x.tag).rec_.privSize
  | .scratch => some x.scratchSize
  | .cluster => some (s.launch x.tag).rec_.scratch
  | .acc => some (512 * x.accRows)
  | _ => none

/-- The offset that a window's limit bounds. -/
def limitOff (p : Dword) : Nat := if windowOf p = .priv then ptrOff32 p else ptrOff24 p

/-- The check of R110 on `n` bytes at a pointer of block `b`; the code raised. -/
def spaceCheck (s : State) (b : Nat) (p : Dword) (n : Nat) : Option (BitVec 8) :=
  let w := windowOf p
  let x := s.block b
  let over_ := match windowLimit s b w with | some l => decide (limitOff p + n > l) | none => false
  if w = .reserved || !ptrZeroOk p || (w = .global && !dieExists s (ptrDie p)) ||
     (w = .scratch && ptrPierIdx p ≥ 64) || over_ then some Code.spaceInvalid
  else if w = .scratch && ptrOrigin p != x.origin then some Code.spaceForeign
  else if w = .cluster && (spanBlock s b (ptrSpos p)).isNone then some Code.spaceForeign
  else none

/-- The right that an access needs in an object (R115). -/
inductive Right where
  | rd | wr | at_
  deriving DecidableEq, Repr

/-- IMM as a signed offset: 28 bits for ATOM and RED (R117). -/
def memOffset (short : Bool) (f : Fields) : Int :=
  if short then toInt 28 (f.imm.toNat % 2 ^ 28) else toInt 32 f.imm.toNat

/-- TRAPVAL of an object fault (R115). -/
def objTrapVal (i : Nat) (x : Int) : Dword := BitVec.ofNat 64 (i + 2 ^ 16 * ofInt 48 x)

/-- The effective pointer of a lane's access of `n` bytes, checked in the order of R119 up to order 4. -/
def effective (f : Fields) (s : State) (l : Nat) (short : Bool) (right : Right) (n : Nat) (align : Bool) :
    Except LaneFault Dword :=
  let x := s.src l
  let off := memOffset short f
  let formed : Except LaneFault Dword :=
    if f.mode1 then
      let i := f.sc.toNat
      let o : Int := ((x.reg f.sa.toNat).toNat : Int) + off
      match objEntry s l i with
      | none => .error { lane := l, code := Code.objectInvalid, val := objTrapVal i o }
      | some e =>
        if o < 0 || (e.size : Int) < o + n then
          .error { lane := l, code := Code.objectBounds, val := objTrapVal i o }
        else if !e.attr.testBit (match right with | .rd => 4 | .wr => 5 | .at_ => 6) then
          .error { lane := l, code := Code.objectRights, val := objTrapVal i o }
        else .ok (e.base + BitVec.ofInt 64 o)
    else .ok (x.pair f.sa.toNat + BitVec.ofInt 64 off)
  match formed with
  | .error e => .error e
  | .ok p =>
    match spaceCheck s s.cur.blk p n with
    | some c => .error { lane := l, code := c, val := p }
    | none =>
      if align && p.toNat % n != 0 then .error { lane := l, code := Code.misaligned, val := p } else .ok p

/-! ## Places -/

/-- The access goes to the store record's windows (R226). -/
def isRecordWin (p : Dword) : Bool := match windowOf p with | .global | .priv | .host => true | _ => false

/-- The record pointer of an access: a private one by its backing address (R111). -/
def recordPtr (s : State) (b l : Nat) (p : Dword) : Dword :=
  let x := s.block b
  if windowOf p = .priv then privBacking (s.launch x.tag).rec_ (x.privSlot.getD 0) l (ptrOff32 p) else p

/-- The block whose memory a scratchpad or cluster-shared pointer reaches. -/
def scratchBlock (s : State) (b : Nat) (p : Dword) : Nat :=
  if windowOf p = .cluster then (spanBlock s b (ptrSpos p)).getD b else b

/-- Bytes of a block's accumulator rows; word `o / 4` is row `o / 512`, column `o / 4 % 128` (R110, R154). -/
def accByte (x : Block) (o : Nat) : Byte := wordByte (tget 0 x.acc (o / 4)) (o % 4)
def accWrite (x : Block) (o : Nat) : List Byte → Block
  | [] => x
  | b :: bs =>
    let w := (tget 0 x.acc (o / 4)).toNat
    let i := o % 4
    let v := w - byteAt w i * 2 ^ (8 * i) + b.toNat * 2 ^ (8 * i)
    accWrite { x with acc := tput 0 x.acc (o / 4) (BitVec.ofNat 32 v) } (o + 1) bs

/-- Words that an `n`-byte write at `o` covers whole: their poison is cleared (R359). -/
def coveredWords (o n : Nat) : List Nat :=
  ((List.range ((o % 4 + n) / 4 + 1)).map (fun i => o / 4 + i)).filter (fun w => o ≤ 4 * w && 4 * w + 4 ≤ o + n)
def touchedWords (o n : Nat) : List Nat := (List.range ((o % 4 + n + 3) / 4)).map (fun i => o / 4 + i)

/-- A matrix operation of the block is signed, or accepted and not complete. -/
def Block.matrixOpen (x : Block) : Bool :=
  !x.mq.isEmpty || !x.mqFull.isEmpty || x.cvs.any (fun c => c.2.first.isSome)

/-- The bytes that a write replaces, which a matrix operation may still read (R159). -/
def oldBytes (x : Block) (o n at_ inst : Nat) (lane : Option Nat) : List OldByte :=
  (List.range n).map (fun i =>
    { off := o + i, val := tget 0 x.scratch (o + i), bad := x.scratchPoison.contains ((o + i) / 4), at_ := at_,
      inst := inst, lane := lane })

/-- Write scratchpad bytes of a block (R122, R359): performed at order number `at_`, for an instruction of order number
`inst`, by a lane of the block or by another agent. -/
def scratchWrite (x : Block) (o : Nat) (bs : List Byte) (poison : Bool) (at_ inst : Nat) (lane : Option Nat) : Block :=
  let cov := coveredWords o bs.length
  { x with scratch := wrBytes x.scratch o bs,
           older := if x.matrixOpen then x.older ++ oldBytes x o bs.length at_ inst lane else [],
           scratchPoison := if poison then (touchedWords o bs.length).foldl (fun l w => addTo w l) x.scratchPoison
                            else x.scratchPoison.filter (fun w => !cov.contains w) }

/-- A read of the scratchpad, cluster-shared or accumulator window, with whether it met poison. -/
def localRead (s : State) (b : Nat) (p : Dword) (n : Nat) : List Byte × Bool :=
  let o := ptrOff24 p
  if windowOf p = .acc then
    let x := s.block b
    ((List.range n).map (fun i => accByte x (o + i)), (touchedWords o n).any (fun w => x.accPoison.contains w))
  else
    let x := s.block (scratchBlock s b p)
    (rdBytes x.scratch o n, (touchedWords o n).any (fun w => x.scratchPoison.contains w))

/-- A write to the scratchpad, cluster-shared or accumulator window by lane `l` of a block, for an instruction of order
number `n`. -/
def localWrite (s : State) (b l n : Nat) (p : Dword) (bs : List Byte) (poison : Bool) : State :=
  let o := ptrOff24 p
  if windowOf p = .acc then
    s.updBlock b (fun x =>
      let cov := coveredWords o bs.length
      let y := accWrite x o bs
      { y with accPoison := if poison then (touchedWords o bs.length).foldl (fun l w => addTo w l) y.accPoison
                            else y.accPoison.filter (fun w => !cov.contains w) })
  else
    let k := scratchBlock s b p
    s.tick.updBlock k (fun x => scratchWrite x o bs poison s.seq n (if k == b then some l else none))

/-- Lines of scratchpads that an access touches and that are absent: lane, pointer, block, line (R122). -/
def absentLines (s : State) (b l : Nat) (p : Dword) (n : Nat) : List (Nat × Dword × Nat × Nat) :=
  if windowOf p = .scratch || windowOf p = .cluster then
    let k := scratchBlock s b p
    let o := ptrOff24 p
    (((List.range n).map (fun i => (o + i) / 128)).eraseDups.filter (fun ln =>
      (tfind ln (s.block k).absent).isSome)).map (fun ln => (l, p, k, ln))
  else []

/-! ## Watchpoints (R196) -/

/-- An access of `n` bytes matches watchpoint `i` of a pier. -/
def watchHit (x : Pier) (i : Nat) (p : Dword) (n : Nat) (rd wr : Bool) : Bool :=
  let a := tget 0 x.wpa i
  let w := (tget 0 x.wpl i).toNat
  let kind := (w >>> 24) % 4
  x.dbgctl.getLsbD (4 + i) && ((wr && kind.testBit 0) || (rd && kind.testBit 1)) && windowOf a == windowOf p &&
  a.toNat < p.toNat + n && p.toNat ≤ a.toNat + w % 2 ^ 24

/-- The lanes whose access matched raise WATCHPOINT after it, at the next slot (R189, R196): those of the lower-numbered
watchpoint first, whose lowest lane gives TRAPVAL. While another batch of the group is in handler mode the access stands
and the cause is pending (R190, R196; log entry 121). -/
def watch (s : State) (acc : List (Nat × Dword)) (n : Nat) (rd wr : Bool) : State :=
  let x := s.pier s.cur.pier
  let hits := acc.filter (fun a => watchHit x 0 a.2 n rd wr) ++
    acc.filter (fun a => !watchHit x 0 a.2 n rd wr && watchHit x 1 a.2 n rd wr)
  raiseFaults s (hits.map (fun a => { lane := a.1, code := Code.watchpoint, val := a.2 })) s.cur.next s.cur.pc

/-! ## Splitting lanes -/

/-- The lanes that pass and the faults of those that do not. -/
def sortLanes {α : Type} (ls : List Nat) (g : Nat → Except LaneFault α) : List (Nat × α) × List LaneFault :=
  (ls.filterMap (fun l => match g l with | .ok a => some (l, a) | .error _ => none),
   ls.filterMap (fun l => match g l with | .error e => some e | .ok _ => none))

/-- The lanes of a list, as a mask of the group. -/
def lanesMask (ls : List Nat) : Word := laneMask (ls.map (· % 32))

/-- A deferred fault of the issuing fibre in lane `l`. -/
def reportLane (s : State) (b l : Nat) (pc : Dword) (code : BitVec 8) (cause : Nat) (addr : Dword) : State :=
  let x := s.block b
  report s x.tag { code := code, cause := cause, lane := l, block := x.idx, pc := pc, addr := addr }

/-- Whether a source register of a lane is poisoned (R359). -/
def regsPoisoned (x : Block) (l i n : Nat) : Bool :=
  (List.range n).any (fun k => x.regPoison.contains (512 * l + i + k))

/-- Bytes of a type's value in registers. -/
def srcBytes (x : Src) (t : Ty) (i : Nat) : List Byte := leBytes (t.bits / 8) (rdT x t i)

/-! ## Waits common to accesses -/

/-- Lanes whose release conditions do not hold yet (R125). -/
def unreleased (s : State) (ls : List Nat) : List Nat := ls.filter (fun l => !releaseOk s s.cur.blk l s.seq)

/-! ## Accesses of the local windows (R121, R122, R124, R126) -/

/-- f(old, b); exchange gives b (R123). -/
def atomOp (op : Nat) (t : Ty) (old b : Nat) : Nat := if op = 6 then b else (redOp op t old b).1

/-- What an atomic writes: none where a compare fails. `b` holds the operand, or compare then new. -/
def atomNew (kind : MemKind) (op : Nat) (t : Ty) (b : List Word) (old : Nat) : Option Nat :=
  if kind = .cas then
    (if old == natOf (b.take t.regs) % 2 ^ t.bits then some (natOf (b.drop t.regs) % 2 ^ t.bits) else none)
  else some (atomOp op t old (natOf b % 2 ^ t.bits))

/-- The acquire that a local access of the issuing core's fibre makes after its value. -/
def localAcquire (s : State) (core b l : Nat) (o : LocalOp) : State :=
  if o.acquire then acquireAt s core b l o.id o.pc else s

/-- Perform a load of a local window in a lane: its L result. -/
def localLoad (s : State) (core b l : Nat) (o : LocalOp) : State :=
  let r := localRead s b o.ptr (o.t.bits / 8)
  let ws := if r.2 then allOnes o.t else resT o.t (leNat r.1)
  let s1 := pushL s { id := 0, blk := b, lane := l, regs := regPairs o.d ws }
  localAcquire (if r.2 then reportLane s1 b l o.pc Code.poison 9 o.ptr else s1) core b l o

/-- Perform an atomic at a scratchpad port (R124). -/
def localAtom (s : State) (core b l : Nat) (o : LocalOp) : State :=
  let n := o.t.bits / 8
  let r := localRead s b o.ptr n
  let old := leNat r.1
  let give (s : State) (ws : List Word) : State :=
    if o.kind = .red then s else pushL s { id := 0, blk := b, lane := l, regs := regPairs o.d ws }
  localAcquire (
    if r.2 then reportLane (give s (allOnes o.t)) b l o.pc Code.poison 9 o.ptr
    else
      let s0 := match atomNew o.kind o.op o.t o.b old with
        | some v => localWrite s b l o.id o.ptr (leBytes n v) false
        | none => s
      give s0 (resT o.t old)) core b l o

/-- Perform a store to a local window: without the accumulator words that a matrix operation wrote over it (R122). -/
def localStore (s : State) (b l : Nat) (o : LocalOp) : State :=
  if o.lost.isEmpty then localWrite s b l o.id o.ptr o.bytes o.bad
  else (List.range ((o.bytes.length + 3) / 4)).foldl (fun (t : State) i =>
    if o.lost.contains (ptrOff24 o.ptr / 4 + i) then t
    else localWrite t b l o.id (o.ptr + BitVec.ofNat 64 (4 * i)) ((o.bytes.drop (4 * i)).take 4) o.bad) s

/-- Perform a local access of the fibre in lane `l` of a block. -/
def performLocal (s : State) (core b l : Nat) (o : LocalOp) : State :=
  match o.kind with
  | .load => localLoad s core b l o
  | .st => localStore s b l o
  | .atom | .cas | .red | .acq => localAtom s core b l o

/-- The core holds a local access back: behind an earlier one that it holds; while an acquire of the fibre is outstanding
(R126); a write while an earlier load or atomic of the fibre has not returned (R238, No load buffering; log entry 122);
and an access to the accumulators while a matrix operation is unfinished, so that each lane's load finds the old or the
new value, and its store leaves either (R122). -/
def holdsLocal (s : State) (b l : Nat) (o : LocalOp) : Bool :=
  !(s.lane b l).localOps.isEmpty || !noAcquire s b l o.id || (o.kind != .load && !readsDone s b l o.id) ||
  (windowOf o.ptr == .acc && !(s.block b).mq.isEmpty)

/-- A local access of the issuing fibre: at once, or held back. -/
def localAccess (s : State) (l : Nat) (o : LocalOp) : State :=
  if holdsLocal s s.cur.blk l o then s.tick.updCurLane l (fun y => { y with localOps := y.localOps ++ [o] })
  else performLocal s s.cur.pier s.cur.blk l o

/-! ## LD (R120) -/

/-- Start a load of a record window (R120, R231): a miss requests its line. -/
def recordLoad (f : Fields) (pol : Option Nat) (s : State) (l : Nat) (p : Dword) : State :=
  let rp := recordPtr s s.cur.blk l p
  let pasid := tagPasid s s.curTag
  let c := s.core s.cur.pier
  let n := f.t.bits / 8
  let miss := needsHome c s.cur.blk rp pasid n s.seq
  let s1 := s.tick
  let s2 := { s1 with memops := s1.memops ++
    [{ id := s.seq, core := s.cur.pier, blk := s.cur.blk, lane := l, kind := .load, seq := s.seq, ptr := rp,
       t := f.t, d := f.d.toNat, acquire := f.ord == 1, pol := pol, pc := s.cur.pc }] }
  if miss && f.hint != 3 && l1On s s.cur.pier then
    requestFill s2 s.cur.pier s.curTag (wordKey rp pasid / 32) pol
  else s2

/-- LD, its table read. -/
def ldAt (f : Fields) (s : State) : State :=
  let n := f.t.bits / 8
  let r := sortLanes (activeLanes f s) (fun l => effective f s l false .rd n true)
  let loc := r.1.filter (fun a => !isRecordWin a.2)
  let gone := loc.flatMap (fun a => absentLines s s.cur.blk a.1 a.2 n)
  if !gone.isEmpty then retryGroup s (.presence gone 0)
  else
    let pol := accessPol f s false
    let s1 := r.1.foldl (fun s a =>
      if isRecordWin a.2 then recordLoad f (pol a.1) s a.1 a.2
      else localAccess s a.1 { id := s.seq, kind := .load, ptr := a.2, t := f.t, d := f.d.toNat, acquire := f.ord == 1,
                               pc := s.cur.pc }) s
    raiseHere (watch s1 r.1 n true false) r.2

def execLd (f : Fields) (s : State) : Out := .next (withMode f s (ldAt f))

/-! ## ST (R121) -/

/-- ST, its table read. -/
def stAt (f : Fields) (s : State) : State :=
  let n := f.t.bits / 8
  let r := sortLanes (activeLanes f s) (fun l => effective f s l false .wr n true)
  let loc := r.1.filter (fun a => !isRecordWin a.2)
  let rec_ := r.1.filter (fun a => isRecordWin a.2)
  let unrel := if f.ord = 1 then unreleased s (loc.map (·.1)) else []
  let c := s.core s.cur.pier
  let need := entriesNeeded c s.cur.blk (f.ord == 1) (rec_.map (fun a =>
    (a.1, fibreOf s s.cur.blk a.1, chunkOf (recordPtr s s.cur.blk a.1 a.2))))
  if !unrel.isEmpty then retryGroup s (.release (lanesMask unrel))
  else if c.record.length + need > recordSize then retryGroup s .recordSpace
  else
    let pol := accessPol f s true
    let s1 := r.1.foldl (fun s a =>
      let bs := srcBytes (s.src a.1) f.t f.sb.toNat
      let bad := regsPoisoned s.curBlock a.1 f.sb.toNat f.t.regs
      if isRecordWin a.2 then
        storeRecord s s.cur.pier s.cur.blk s.curTag a.1 (recordPtr s s.cur.blk a.1 a.2) bs (f.ord == 1) bad (pol a.1)
      else localAccess s a.1 { id := s.seq, kind := .st, ptr := a.2, t := f.t, d := 0, bytes := bs, bad := bad,
                               pc := s.cur.pc }) s
    raiseHere (watch s1 r.1 n false true) r.2

def execSt (f : Fields) (s : State) : Out := .next (withMode f s (stAt f))

/-! ## Atomics and reductions (R123, R124) -/

/-- The operand words that an atomic reads. -/
def atomSrc (kind : MemKind) (f : Fields) (x : Src) : List Word :=
  x.words f.sb.toNat (if kind = .cas then 2 * f.t.regs else f.t.regs)

/-- The host performs FetchAdd, Swap and CAS alone (R124). -/
def hostAtomOk (kind : MemKind) (op : Nat) (t : Ty) : Bool :=
  (t == .b32 || t == .b64) && (kind == .cas || op == 0 || op == 6)

/-- The checks of R119 and R124 on an atomic. -/
def atomCheck (kind : MemKind) (op : Nat) (short : Bool) (f : Fields) (s : State) (l : Nat) :
    Except LaneFault Dword :=
  match effective f s l short .at_ (f.t.bits / 8) true with
  | .error e =>
    -- an atomic on the accumulator window is SPACE_INVALID, order 2, before MISALIGNED
    if e.code == Code.misaligned && (windowOf e.val == .acc || (windowOf e.val == .host && !hostAtomOk kind op f.t))
    then .error { e with code := Code.spaceInvalid } else .error e
  | .ok p =>
    if windowOf p = .acc || (windowOf p = .host && !hostAtomOk kind op f.t) then
      .error { lane := l, code := Code.spaceInvalid, val := p }
    else .ok p

/-- An atomic of a record window goes to its place: outstanding from now on. Entries with bytes of its words
take no more stores (R123). -/
def recordAtom (kind : MemKind) (op : Nat) (f : Fields) (pol : Option Nat) (s : State) (l : Nat) (p : Dword) : State :=
  let rp := recordPtr s s.cur.blk l p
  let n := f.t.bits / 8
  let s1 := s.tick
  let close (e : Entry) : Entry :=
    if e.chunk == chunkOf rp && tagPasid s e.tag == tagPasid s s.curTag && e.be &&& beMask (rp.toNat % 64) n != 0
    then { e with draining := true } else e
  let s2 := s1.updCore s.cur.pier (fun c => { c with record := c.record.map close })
  { s2 with memops := s2.memops ++
    [{ id := s.seq, core := s.cur.pier, blk := s.cur.blk, lane := l, kind := kind, seq := s.seq, ptr := rp,
       t := f.t, d := f.d.toNat, op := op, b := atomSrc kind f (s.src l),
       acquire := (f.ord == 1 && kind != .red) || f.ord == 2,
       release := f.ord == 2 || (f.ord == 1 && kind == .red), pol := pol, pc := s.cur.pc }] }

/-- A list in an order that the manual leaves open (R123, R151): each next element by a free value. -/
def freeOrder {α : Type} : Nat → List α → State → List α × State
  | 0, l, s => (l, s)
  | n + 1, l, s =>
    match l with
    | [] => ([], s)
    | [x] => ([x], s)
    | l =>
      let d := s.drawFree
      let i := d.1.toNat % l.length
      let r := freeOrder n (l.eraseIdx i) d.2
      (match l[i]? with | some x => x :: r.1 | none => r.1, r.2)

/-- ATOM, ATOMCAS and RED, the table read. -/
def atomicAt (kind : MemKind) (op : Nat) (short : Bool) (f : Fields) (s : State) : State :=
  let r := sortLanes (activeLanes f s) (atomCheck kind op short f s)
  let n := f.t.bits / 8
  let loc := r.1.filter (fun a => !isRecordWin a.2)
  let rel := f.ord = 2 || (f.ord = 1 && kind = .red)
  let unrel := if rel then unreleased s (loc.map (·.1)) else []
  let gone := loc.flatMap (fun a => absentLines s s.cur.blk a.1 a.2 n)
  if !unrel.isEmpty then retryGroup s (.release (lanesMask unrel))
  else if !gone.isEmpty then retryGroup s (.presence gone 0)
  else
    let s1 := (r.1.filter (fun a => isRecordWin a.2)).foldl (fun t a => recordAtom kind op f (accessPol f s (kind == .red) a.1) t a.1 a.2) s
    let o := freeOrder 32 loc s1
    let s2 := o.1.foldl (fun s a => localAccess s a.1
      { id := s.seq, kind := kind, ptr := a.2, t := f.t, d := f.d.toNat, op := op, b := atomSrc kind f (s.src a.1),
        acquire := (f.ord == 1 && kind != .red) || f.ord == 2, pc := s.cur.pc }) o.2
    raiseHere (watch s2 r.1 n true true) r.2

/-- ATOM, ATOMCAS and RED. -/
def atomic (kind : MemKind) (op : Nat) (short : Bool) (f : Fields) (s : State) : State :=
  withMode f s (atomicAt kind op short f)

def execAtom (f : Fields) (s : State) : Out := .next (atomic .atom (f.immBits 31 28) true f s)
def execAtomcas (f : Fields) (s : State) : Out := .next (atomic .cas 0 false f s)
def execRed (f : Fields) (s : State) : Out := .next (atomic .red (f.immBits 31 28) true f s)

/-! ## Fences (R125, R126) -/

def execRel (f : Fields) (s : State) : Out :=
  let w := unreleased s (activeLanes f s)
  .next (if w.isEmpty then s else retryGroup s (.release (lanesMask w)))

/-- An acquire of every lane with guard 1. -/
def acquireLanes (s : State) (ls : List Nat) : State :=
  ls.foldl (fun s l => acquire s s.cur.pier s.cur.blk l s.cur.pc) s

def execAcq (f : Fields) (s : State) : Out := .next (acquireLanes s (activeLanes f s))

/-- REL followed by ACQ. -/
def execSyncf (f : Fields) (s : State) : Out :=
  let ls := activeLanes f s
  let w := unreleased s ls
  .next (if w.isEmpty then acquireLanes s ls else retryGroup s (.release (lanesMask w)))

/-! ## Pointer and object instructions (R128 to R130) -/

def execSptest (f : Fields) (s : State) : Out :=
  .next (aluP f s (fun x =>
    let p := x.pair f.sa.toNat
    match f.subBits 34 32 with
    | 6 => (spaceCheck s s.cur.blk p 1).isNone
    | w => spaceWindow w == some (windowOf p)))

/-- SPCAST's pointer or offset (R129); none for SPACE_INVALID. -/
def spcast (f : Fields) (s : State) (l : Nat) (x : Src) : Option Dword :=
  let r := s.curRec
  let o := (x.reg f.sa.toNat).toNat
  let p := x.pair f.sa.toNat
  match f.subBits 34 32 with
  | 0 =>
    (match windowOf p with
     | .global => some p
     | .priv => if ptrOff32 p < r.privSize then some (recordPtr s s.cur.blk l p) else none
     | _ => none)
  | 1 => if o < r.privSize then some (privPtr o) else none
  | 2 => if o < 2 ^ 24 then some (scratchPtr s.curBlock.origin o) else none
  | 3 => if o < 2 ^ 24 then some (clusterPtr (f.immBits 1 0) o) else none
  | 4 => if o < 2 ^ 24 then some (accPtr o) else none
  | _ =>
    (match windowOf p with
     | .reserved => none
     | .priv => some (BitVec.ofNat 64 (ptrOff32 p))
     | .global | .host => some (BitVec.ofNat 64 (ptrOff56 p))
     | _ => some (BitVec.ofNat 64 (ptrOff24 p)))

def execSpcast (f : Fields) (s : State) : Out :=
  .next (perLaneF f s (fun l x =>
    match spcast f s l x with
    | some v => .ok (fun y => y.setRegs f.d.toNat (wordsOf 2 v.toNat))
    | none => .error { lane := l, code := Code.spaceInvalid, open_ := true }))

/-- OBJQ, its table read. -/
def objqAt (f : Fields) (s : State) : State :=
  (s.updCurBlock (fun b => overLanes b (activeLanes f s) (fun l y =>
    let e := (objEntry s l f.sc.toNat).getD { base := 0, size := 0, attr := 0 }
    match f.subBits 33 32 with
    | 0 => y.setRegs f.d.toNat (wordsOf 2 e.size)
    | 1 => y.setRegs f.d.toNat (wordsOf 2 e.base.toNat)
    | _ => y.setReg f.d.toNat (BitVec.ofNat 32 (e.attr % 2 ^ 16)))))

def execObjq (f : Fields) (s : State) : Out := .next (withTable f.sc.toNat s (objqAt f))

/-- OBJPTR, its table read. -/
def objptrAt (f : Fields) (s : State) : State :=
  let i := f.sc.toNat
  (perLaneF f s (fun l x =>
    let o : Int := ((x.reg f.sa.toNat).toNat : Int) + memOffset false f
    match objEntry s l i with
    | none => .error { lane := l, code := Code.objectInvalid, val := objTrapVal i o }
    | some e =>
      if o < 0 || (e.size : Int) < o then .error { lane := l, code := Code.objectBounds, val := objTrapVal i o }
      else .ok (fun y => y.setRegs f.d.toNat (wordsOf 2 (e.base + BitVec.ofInt 64 o).toNat))))

def execObjptr (f : Fields) (s : State) : Out := .next (withTable f.sc.toNat s (objptrAt f))

/-! ## Record and cache management (R131, R132) -/

/-- RECDRN asks for drains, which happen of themselves; it neither parks nor orders anything. -/
def execRecdrn (_ : Fields) (s : State) : Out := .next s

/-- The RECST word for a context. -/
def recst (c : Core) (ctx : Nat) : Word :=
  let es := c.record.filter (fun e => e.ctx == ctx)
  BitVec.ofNat 32 (2 ^ 16 * (es.filter (fun e => e.acks != 0)).length + es.length)

def execRecst (f : Fields) (s : State) : Out :=
  .next (aluT f s .b32 (fun x => (x.seen.getD ((recst (s.core s.cur.pier) s.cur.blk).setWidth 64)).toNat))

/-- The lanes of a PFCH, CDROP or PRSTEST that pass the checks of orders 1 to 3. -/
def lineLanes (f : Fields) (s : State) : List (Nat × Dword) × List LaneFault :=
  sortLanes (activeLanes f s) (fun l => effective f s l false .rd 1 false)

/-- The line of a record window that a lane names. -/
def lineKey (s : State) (l : Nat) (p : Dword) : Nat :=
  wordKey (recordPtr s s.cur.blk l p) (tagPasid s s.curTag) / 32

/-- The physical line of a byte of a record window, where the launch's translation and leases admit the byte and its data
is sound: none for a deferred condition, which drops a PFCH or CDROP (R119). Host lines are numbered after all device
lines. -/
def physLine (s : State) (tag : Nat) (p : Dword) : Option Nat :=
  let l := s.launch tag
  if windowOf p = .host then
    (if (hostCheck s l.pasid (some l.rec_) p 1).isNone then some (2 ^ 39 + wordKey p l.pasid / 32) else none)
  else match xlatGlobal s l.part (some l.rec_) p 1 .read with
    | .ok pa _ => if chunkPoisoned s pa then none else some (pa / 128)
    | _ => none

/-- The L1 data cache loses a line (R16). -/
def cacheDrop (s : State) (core line : Nat) : State :=
  s.updCore core (fun c =>
    { c with l1 := c.l1.filter (fun w => w.1 / 32 != line), l1Owned := c.l1Owned.filter (fun k => k / 32 != line),
             strm := c.strm.filter (· != line) })

/-- PFCH: a line fill, or a fill of the home slice alone; a deferred condition drops it. -/
def pfchAt (f : Fields) (s : State) : State :=
  let r := lineLanes f s
  let s1 := r.1.foldl (fun s a =>
    if !isRecordWin a.2 then s
    else
      let k := lineKey s a.1 a.2
      if (physLine s s.curTag (recordPtr s s.cur.blk a.1 a.2)).isNone then s
      else requestFill s s.cur.pier s.curTag k (some 0) (f.hint != 2 && l1On s s.cur.pier)) s
  (raiseHere s1 r.2)

def execPfch (f : Fields) (s : State) : Out := .next (withMode f s (pfchAt f))

/-- CDROP: the line leaves the L1, and with `.home` its home slice; a deferred condition drops it. -/
def cdropAt (f : Fields) (s : State) : State :=
  let r := lineLanes f s
  let s1 := r.1.foldl (fun s a =>
    if !isRecordWin a.2 then s
    else
      let k := lineKey s a.1 a.2
      match physLine s s.curTag (recordPtr s s.cur.blk a.1 a.2) with
      | none => s
      | some ln =>
        let s' := cacheDrop s s.cur.pier k
        if f.hint = 2 then
          s'.updPier (homeSlice (128 * ln)) (fun x => { x with slice := x.slice.filter (fun e => e.1 != ln) })
        else s') s
  (raiseHere s1 r.2)

def execCdrop (f : Fields) (s : State) : Out := .next (withMode f s (cdropAt f))

/-- PRSTEST, its table read. -/
def prstestAt (f : Fields) (s : State) : State :=
  (perLaneF f s (fun l _ =>
    match effective f s l false .rd 1 false with
    | .error e => .error e
    | .ok p => .ok (fun y => y.setPred f.d.toNat (absentLines s s.cur.blk l p 1).isEmpty)))

def execPrstest (f : Fields) (s : State) : Out := .next (withMode f s (prstestAt f))

/-! ## Reads of the global window by units that have no core (R12, R279) -/

/-- `n` bytes at a pointer, cut at the 64-B chunks: the pointer and length of each piece. -/
def chunkPieces (p : Dword) (n : Nat) : List (Dword × Nat) :=
  (List.range ((p.toNat % 64 + n + 63) / 64)).map (fun i =>
    let base := p.toNat / 64 * 64 + 64 * i
    let lo := max p.toNat base
    (BitVec.ofNat 64 lo, min (p.toNat + n) (base + 64) - lo))

/-- What a read finds: its bytes, whether one is poisoned, and how many chunks its homes do not hold. -/
inductive GRead where
  | ok (bs : List Byte) (poison : Bool) (miss : Nat)
  | waits
  | fault (code : BitVec 8) (cause : Nat) (at_ : Dword)
  deriving DecidableEq, Repr

/-- Read pieces one after the other; the first fault is the read's, and a fault goes before a wait. -/
def globalRead (s : State) (part : Nat) (r : Option LaunchRec) : List (Dword × Nat) → GRead
  | [] => .ok [] false 0
  | x :: xs =>
    match xlatGlobal s part r x.1 x.2 .read, globalRead s part r xs with
    | .fault c k, _ => .fault c k x.1
    | _, .fault c k a => .fault c k a
    | .waits, _ => .waits
    | _, .waits => .waits
    | .ok pa _, .ok bs bad miss =>
      .ok (rdBytes s.mem pa x.2 ++ bs) (chunkPoisoned s pa || bad) (miss + if inSlice s pa then 0 else 1)

/-- Such a read sets U in the leaves it uses, and homes that hold a chunk have used it last (R278, R341). -/
def globalMark (s : State) (part : Nat) (r : Option LaunchRec) (xs : List (Dword × Nat)) : State :=
  xs.foldl (fun s x =>
    match xlatGlobal s part r x.1 x.2 .read with
    | .ok pa lf => sliceTouch (setU s lf) pa
    | _ => s) s

end Sys2Proof.Machine
end

