-- ==== Sys2Proof/Machine/Fibre.lean ====
section
/-! DEFINITION. Fibres, barriers and convergence registers (R133 to R145), with what ends a fibre and a block. -/
namespace Sys2Proof.Machine

/-! ## Rounds of convergence registers (R141 to R145) -/

/-- The cluster a pier belongs to, within its die (R9). -/
def clusterOf (pier : Nat) : Nat := (pier % 64) / 4

def clusterAt (s : State) (pier : Nat) : Cluster := tget {} (s.die (pier / 64)).clusters (clusterOf pier)

/-- A quadrant's CADENCE (R10, R315). -/
def cadenceOf (s : State) (pier : Nat) : Nat :=
  let c := clusterAt s pier
  if c.limit != 0 then 16
  else match pier % 4 with
    | 0 => c.cad0
    | 1 => c.cad1
    | 2 => c.cad2
    | _ => c.cad3

/-- The value of MQUERY f (R171). -/
def mqueryVal (s : State) (b f : Nat) : Word :=
  let x := s.block b
  let act := if x.sel then x.plane1 else x.plane0
  let shd := if x.sel then x.plane0 else x.plane1
  BitVec.ofNat 32 (match f with
    | 0 =>
      if x.cfg.set then x.cfg.shape + 4 * x.cfg.sp.toNat + 16 * x.cfg.wslot + 256 * x.cfg.aslot + 2048 else 0
    | 1 => cadenceOf s (x.onPier.getD 0)
    | 2 => act.loaded.toNat + 2 * shd.loaded.toNat + 4 * x.sel.toNat
    | _ => x.mq.length)

/-- Lanes of a block that have ever held a fibre or may: all 32 G of them. -/
def blockLanes (x : Block) : List Nat := List.range (32 * x.groups)

/-- A round that a source knows as pending has issued or been discarded. -/
def Src.resolve (cv : Nat) (round : Word) (issued : Bool) (x : Src) : Src :=
  let g := x.sign cv
  if g.round == round && g.st == .pending then
    { x with signed := tput {} x.signed cv { g with st := if issued then .issued else .discarded } }
  else x

/-- The operands that a lane keeps follow a round that resolves. -/
def Lane.resolveHeld (cv : Nat) (round : Word) (issued : Bool) (l : Lane) : Lane :=
  { l with held := l.held.map (fun h => { h with src := h.src.resolve cv round issued }) }

/-- What a resolved round gives a lane: `op` is the accepted operation's number, none for a discarded round;
`upto` numbers the operations accepted so far. -/
def resolveLane (cv : Nat) (round : Word) (issued : Bool) (upto : Nat) (qv : Nat → Word) (l : Lane) : Lane :=
  let g := l.sign cv
  if g.round == round && g.st == .pending then
    let l1 := l.setSign cv { g with st := if issued then .issued else .discarded }
    match l1.park with
    | .cvwait c d => if c = cv then ({ l1 with park := .run } : Lane).setPred d issued else l1
    | .msync c => if c = cv then { l1 with park := .msyncOps upto } else l1
    | .mquery c f d => if c = cv && issued then ({ l1 with park := .run } : Lane).setReg d (qv f) else l1
    | _ => l1
  else l

/-- Lanes in MSYNC whose operations are all complete go on (R170). -/
def wakeMsync (x : Block) : Block :=
  overLanes x (blockLanes x) (fun _ (l : Lane) =>
    match l.park with
    | .msyncOps k => if x.mq.any (fun o => o.id < k) then l else { l with park := .run }
    | _ => l)

/-- A round has issued or been discarded (R143, R144, R170, R171). -/
def resolveRound (s : State) (b cv : Nat) (round : Word) (issued : Bool) (upto : Nat) : State :=
  let qv := mqueryVal s b
  let s0 := s.updBlock b (fun x =>
    wakeMsync (overLanes x (blockLanes x) (fun _ l => (resolveLane cv round issued upto qv l).resolveHeld cv round issued)))
  let known (sn : List (Nat × Src)) : List (Nat × Src) :=
    if s0.cur.blk == b then sn.map (fun e => (e.1, e.2.resolve cv round issued)) else sn
  let s1 : State := { s0 with cur := { s0.cur with
    snap := s0.cur.snap.map known, pend := s0.cur.pend.map (fun x => (known x.1, x.2)) } }
  if issued then s1
  else { s1 with mrdas := s1.mrdas.filter (fun m => !(m.blk == b && m.cv == cv && m.round == round)) }

/-- Operations a queue holds (R154). -/
def mqSize : Nat := 32

/-- The engine accepts an operation: its round has issued (R144, R155). MQUERY is complete at that moment. -/
def acceptOp (s : State) (b : Nat) (o : MOp) : State :=
  let s0 := s.tick
  let s1 := if o.sig.op == 0xC8 then s0
            else s0.updBlock b (fun x => { x with mq := x.mq ++ [{ o with arrival := s.seq }] })
  let s2 := resolveRound s1 b o.cv o.round true o.id
  s2.updBlock b (fun x => wakeMsync (x.updLane o.last (fun (l : Lane) =>
    if l.park == .mqFull then { l with park := .run } else l)))

/-- A save stops the issue of new rounds (R172). -/
def savingNow (x : Block) : Bool := match x.place with | .saving _ | .saved => true | _ => false

/-- Accept waiting operations while the queue has room. -/
def acceptWaiting : Nat → State → Nat → State
  | 0, s, _ => s
  | n + 1, s, b =>
    let x := s.block b
    if x.mq.length ≥ mqSize || savingNow x then s
    else match x.mqFull with
      | [] => s
      | o :: os => acceptWaiting n (acceptOp (s.updBlock b (fun y => { y with mqFull := os })) b o) b

/-- The head of a queue is complete: the queue moves on (R158). -/
def popMop (s : State) (b : Nat) : State :=
  acceptWaiting 64 (s.updBlock b (fun x => wakeMsync { x with mq := x.mq.tail })) b

/-- Results of an MRDA are still to be written. -/
def mrdaOwes (s : State) (b k : Nat) : Bool := s.lres.any (fun r => r.blk == b && r.mop == k)

/-- An MRDA that has read its row is complete when its results are written (R170). -/
def settleRead (s : State) (b : Nat) : State :=
  match (s.block b).mq with
  | o :: _ => if o.read && !(s.block b).mqDead && !mrdaOwes s b o.id then popMop s b else s
  | [] => s

/-- A round is complete: its operation goes to the engine, or waits for room with the last signer (R155). -/
def issueRound (s : State) (b cv : Nat) (last : Nat) : State :=
  let x := s.block b
  let c := x.cv cv
  match c.first with
  | none => s
  | some sig =>
    let s1 := s.updBlock b (fun y =>
      y.setCv cv { c with signed := 0, first := none, round := c.round + 1, signers := [], signed_ := [] })
    if sig.op == 0xA5 then resolveRound s1 b cv c.round true s1.seq
    else
      let s2 := s1.tick
      let o : MOp := { id := s1.seq, sig := sig, cv := cv, round := c.round, signers := c.signers, last := last,
                       since := c.since, signed_ := c.signed_ }
      if x.mq.length < mqSize && x.mqFull.isEmpty && !savingNow x then acceptOp s2 b o
      else s2.updBlock b (fun y =>
        ({ y with mqFull := y.mqFull ++ [o] } : Block).updLane last (fun l =>
          if l.park == .run then { l with park := .mqFull } else l))

/-- The open round of a register is discarded (R143, R145). -/
def discardRound (s : State) (b cv : Nat) : State :=
  let c := (s.block b).cv cv
  let s1 := s.updBlock b (fun y =>
    y.setCv cv { c with signed := 0, first := none, round := c.round + 1, signers := [], signed_ := [] })
  resolveRound s1 b cv c.round false s1.seq

/-- The instruction bits that a signature compares: W, X, GN and GP masked (R143). -/
def sigFields (f : Fields) : Fields := { f with w := false, x := false, gn := false, gp := 0 }

/-- Lane `l` signs register `cv` (R143); the fault it raises, if any. `park` is how it waits then, and `d` the
register its result goes to. -/
def signLane (op cv : Nat) (f : Fields) (l : Nat) (vals : List Dword) (park : Option Park) (mrda : Bool)
    (s : State) : State × Option LaneFault :=
  let b := s.cur.blk
  let c := s.curCv cv
  let sig : Signature :=
    { op := op, bits := joinWord op (sigFields f), vals := vals, fields := f, lane := l, pc := s.cur.pc }
  let bad : LaneFault := { lane := l, code := Code.cvMismatch, cause := cv, open_ := true }
  let differs := match c.first with | some g => g.bits != sig.bits || g.vals != sig.vals | none => false
  if c.count = 0 then (s, some bad)
  else if differs then (discardRound (s.setCurCv cv c) b cv, some bad)
  else
    let s1 := (s.setCurCv cv c).updBlock b (fun x =>
      let y := x.setCv cv { c with first := some (c.first.getD sig), signed := c.signed + 1,
                                   signers := c.signers ++ [(l, f.d.toNat)],
                                   since := if c.first.isSome then c.since else s.seq,
                                   signed_ := c.signed_ ++ [(l, s.seq)] }
      y.updLane l (fun z =>
        let z1 := z.setSign cv { round := c.round, st := .pending }
        match park with | some p => { z1 with park := p } | none => z1))
    let s2 := if mrda then { s1 with mrdas := s1.mrdas ++ [{ blk := b, lane := l, cv := cv, round := c.round }] }
              else s1
    if c.signed + 1 = c.count then (issueRound s2 b cv l, none) else (s2, none)

/-- A signing instruction (R143): lanes in ascending order; `check` gives a lane's fault before it signs. -/
def signLanes (op cv : Nat) (f : Fields) (s : State) (vals : Nat → List Dword) (check : Nat → Option LaneFault)
    (park : Option Park) : State :=
  let ls := activeLanes f s
  let none_ : Bool := s.curBlock.accRows == 0
  let r := ls.foldl (fun (acc : State × List LaneFault) l =>
    if none_ then (acc.1, acc.2 ++ [{ lane := l, code := Code.matrixState, open_ := true }])
    else match check l with
      | some e => (acc.1, acc.2 ++ [e])
      | none =>
        let q := signLane op cv f l (vals l) park (op == 0xC4) acc.1
        (q.1, acc.2 ++ q.2.toList)) (s, [])
  raiseHere r.1 r.2

/-! ## The end of a fibre and of a block -/

/-- Two handles name one member. -/
def sameMember (a b : Handle) : Bool := a.die == b.die && a.idx == b.idx && a.gen == b.gen && a.member == b.member

/-- Each live handle of a lane makes a lost member (R249): a notice goes to the handle's orrery. Arrivals still at
the core are not made, but those of a handle that SGLEAVE has emptied are: its member leaves (log entry 81). A join on
its way, or handled and not written yet, is followed by its notice. -/
def loseHandles (s : State) (b l : Nat) : State :=
  let x := s.lane b l
  let mine (r : SgReq) : Bool := r.blk == b && r.lane == l
  let keep (r : SgReq) : Option SgReq :=
    if !mine r then some r
    else match r.kind with
      | .join _ | .leave | .lost | .close => some { r with dead := true }
      | _ =>
        if s.sgreqs.any (fun o => mine o && o.kind == .leave && sameMember o.hnd r.hnd) then some { r with dead := true }
        else none
  let joined := s.lres.filterMap (fun r =>
    if r.blk == b && r.lane == l then r.handle.filter (fun h => h.2.live) else none)
  let s1 := { s with sgreqs := s.sgreqs.filterMap keep }
  let s2 := (x.handles.filter (fun h => !h.2.joining) ++ joined).foldl (fun s h =>
    if h.2.live then
      let s' := s.tick
      { s' with sgreqs := s'.sgreqs ++
        [{ id := s.seq, seq := s.seq, blk := b, lane := l, h := h.1, hnd := h.2, kind := .lost, dead := true,
           part := (s.launch (s.block b).tag).part }] }
    else s) s1
  s2.updLane b l (fun y => { y with handles := [] })

/-- All live fibres of the block stand at the barrier, with their local stores performed (R140). -/
def barrierMet (x : Block) : Bool :=
  (blockLanes x).all (fun l => !(x.lane l).live || ((x.lane l).park == .blkbar && !(x.lane l).owesAny)) &&
  (blockLanes x).any (fun l => (x.lane l).park == .blkbar)

/-- Complete a barrier that is met (R140). -/
def settleBarrier (x : Block) : Block :=
  if barrierMet x then
    let ls := (blockLanes x).filter (fun l => (x.lane l).park == .blkbar)
    let y := overLanes x ls (fun _ l => { l with park := .run })
    (List.range x.groups).foldl (fun y g => joinDue y (ls.filter (fun l => l / 32 == g))) y
  else x

/-- The registers of a block whose round is open (R145). -/
def openRounds (x : Block) : List Nat := (List.range 8).filter (fun c => (x.cv c).signed != 0)

/-- Open rounds of a block that retires or is terminated are discarded and reported (R145). PC is the first signer's
instruction, LANE names none and ADDR is open (log entry 62). -/
def dropRounds (s : State) (b : Nat) : State :=
  let x := s.block b
  (openRounds x).foldl (fun s c =>
    let d := (discardRound s b c).drawFree
    report d.2 x.tag
      { code := Code.cvMismatch, cause := c, block := x.idx,
        pc := (match (x.cv c).first with | some g => g.pc | none => 0), addr := d.1 }) s

/-- A block leaves its pier: its runs end, and its private slot is free (R111, R211). -/
def vacate (s : State) (b : Nat) : State :=
  let x := s.block b
  let s1 := { s with runs := s.runs.filter (fun r => r.2.blk != b) }
  let s2 := s1.updLaunch x.tag (fun l => { l with privUsed := l.privUsed.filter (fun q => some q != x.privSlot) })
  s2.updBlock b (fun y => { y with place := .nowhere, privSlot := none })

/-- A block without a live fibre retires (R137). -/
def retireBlock (s : State) (b : Nat) : State :=
  let x := s.block b
  if (blockLanes x).any (fun l => (x.lane l).live) || x.onPier.isNone then s
  else
    let s1 := vacate (dropRounds s b) b
    let s2 := s1.updBlock b (fun y => { y with place := .retired (x.onPier.getD 0) })
    s2.updLaunch x.tag (fun l => { l with retired := l.retired + 1 })

/-- The stores and atomics that a core holds back for a fibre that ends are performed: what they waited for, its loads and
its acquires, is discarded. -/
def flushLocal (s : State) (b l : Nat) : State :=
  let os := (s.lane b l).localOps
  (os.filter (fun o => o.kind != .load)).foldl (fun t o => performLocal t ((t.block b).onPier.getD 0) b l o)
    (s.updLane b l (fun y => { y with localOps := [] }))

/-- The fibre in lane `l` ends (R137). -/
def endFibre (s0 : State) (b l : Nat) : State :=
  let mine (m : MemOp) : Bool := m.blk == b && m.lane == l
  let s := flushLocal s0 b l
  let s1 := loseHandles s b l
  let s2 := { s1 with
    lres := s1.lres.filter (fun r => !(r.blk == b && r.lane == l)),
    mrdas := s1.mrdas.filter (fun r => !(r.blk == b && r.lane == l)),
    memops := (s1.memops.filter (fun (m : MemOp) => !mine m || (m.kind != MemKind.load && m.kind != MemKind.acq))).map (fun m =>
      if mine m then { m with dead := true } else m) }
  s2.updLane b l (fun x => { x with live := false, hmode := false, park := .run, skip := false, entering := false, held := none, due := none, stale := [] })

/-- What is left of a block that is discarded or terminated: its numbers, and how many fibres its lanes held. -/
def emptied (x : Block) : Block :=
  { tag := x.tag, idx := x.idx,
    lanes := (x.lanes.map (fun l => (l.1, ({ fib := l.2.fib } : Lane)))).filter (fun l => l.2 != {}) }

/-- A job of the block has started and not ended. -/
def jobRuns (s : State) (b : Nat) : Bool := s.jobs.any (fun j => j.blk == some b && j.st == .running)

/-- A discarded block whose started jobs are complete gives everything up, to be dispatched afresh (R299). -/
def finishDiscard (s : State) (b : Nat) : State :=
  let x := s.block b
  if !x.dropping || jobRuns s b then s
  else ((vacate s b).updBlock b emptied).updLaunch x.tag (fun l => { l with again := addTo x.idx l.again })

/-! ## The instructions -/

/-- The lowest empty lane of a group, else of the block (R135). -/
def emptyLane (x : Block) (l : Nat) : Option Nat :=
  match ((List.range 32).map (fun j => 32 * (l / 32) + j)).find? (fun e => !(x.lane e).live) with
  | some e => some e
  | none => (blockLanes x).find? (fun e => !(x.lane e).live)

/-- The registers that FSPAWN copies, from SA, SB and SC in order (R135). -/
def spawnRegs (f : Fields) (x : Src) : List Word :=
  ([f.sa, f.sb, f.sc].take (f.subBits 33 32)).map (fun r => x.reg r.toNat)

/-- A new fibre in a lane (R135). It counts as having run last at `now`, so that fibres that spawn one another do not
pass a ready batch (R220, log entry 78). `due` is the STEP that its batch takes, where the FSPAWN was stepped (R329). -/
def newFibre (l : Lane) (pc : Dword) (vs : List Word) (now : Nat) (due : Option (BitVec 8 × Dword)) : Lane :=
  ({ live := true, used := true, fib := l.fib + 1, pc := pc, regs := l.regs, lastRun := now, due := due } : Lane).setRegs 0 vs

/-- FSPAWN. -/
def execFspawn (f : Fields) (s : State) : Out :=
  let t := immTarget f s.cur.pc
  let ls := activeLanes f s
  .next <|
    if !ls.isEmpty && targetWaits s s.cur.pier s.curTag t then stayHere s
    else if !targetOk s s.cur.pier s.curTag t then
      raiseHere s (ls.map (fun l => { lane := l, code := Code.badTarget, val := t }))
    else
      ls.foldl (fun s l =>
        match emptyLane s.curBlock l with
        | none => s.updCurLane l (fun y => y.setPred f.d.toNat false)
        | some e =>
          let vs := spawnRegs f (s.src l)
          let due := if e / 32 = l / 32 then (s.lane s.cur.blk l).due else none
          ((s.updCurLane e (fun y => newFibre y t vs (s.seq - 1) due)).updCurLane l (fun y => y.setPred f.d.toNat true)).updCurBlock
            (fun b => { b with regPoison := b.regPoison.filter (fun r => r < 512 * e || 512 * e + vs.length ≤ r) })) s

/-- FEND: the run ends, and what waited for these fibres alone goes on (R137). -/
def execFend (f : Fields) (s : State) : Out :=
  let ls := activeLanes f s
  let b := s.cur.blk
  let s1 := ls.foldl (fun s l => endFibre s b l) s
  let s2 := sweepInstances s1 b s.cur.grp
  let s3 := s2.updBlock b settleBarrier
  let s4 := deliverPending s3 b s.cur.grp
  .next (retireBlock s4 b).endRun

def execFid (f : Fields) (s : State) : Out :=
  let x := s.curBlock
  let r := s.curRec
  .next (s.updCurBlock (fun b => overLanes b (activeLanes f s) (fun l y =>
    y.setReg f.d.toNat (BitVec.ofNat 32 (match f.subBits 35 32 with
      | 0 => l
      | 1 => l / 32
      | 2 => x.groups
      | 3 => x.idx
      | 4 => r.maxBlk
      | 5 => x.idx / r.span
      | 6 => x.spos
      | 7 => r.span
      | _ => x.tag)))))

/-- An FSTAT value at issue (R139). -/
def fstatVal (f : Fields) (s : State) : Word :=
  let x := s.curBlock
  let g := s.cur.grp
  match f.subBits 33 32 with
    | 0 => s.cur.lanes
    | 1 => lanesMask (activeLanes f s)
    | 2 => laneMask (allLanes.filter (fun j => (x.lane (32 * g + j)).live))
    | _ => BitVec.ofNat 32 ((blockLanes x).filter (fun l => (x.lane l).live)).length

def execFstat (f : Fields) (s : State) : Out :=
  .next (aluT f s .b32 (fun x => (x.seen.getD ((fstatVal f s).setWidth 64)).toNat))

/-- CVSET (R142). -/
def execCvset (f : Fields) (s : State) : Out :=
  let cv := f.d.toNat
  let ls := activeLanes f s
  let n (l : Nat) : Nat := (rdB32 f (s.src l)).toNat
  let c := s.curCv cv
  .next <|
    match ls with
    | [] => s
    | l0 :: _ =>
      if s.curBlock.accRows = 0 then
        raiseHere s (ls.map (fun l => { lane := l, code := Code.matrixState, open_ := true }))
      else if ls.any (fun l => n l != n l0) || n l0 > 1024 || c.signed != 0 then
        raiseHere s (ls.map (fun l =>
          { lane := l, code := Code.cvMismatch, val := BitVec.ofNat 64 cv, cause := cv }))
      else s.setCurCv cv { c with count := n l0 }

def execCvsign (f : Fields) (s : State) : Out :=
  .next (signLanes 0xA5 f.d.toNat f s (fun _ => []) (fun _ => none) none)

/-- CVWAIT (R144). -/
def execCvwait (f : Fields) (s : State) : Out :=
  let cv := f.sa.toNat
  .next (perLaneF f s (fun l x =>
    if s.curBlock.accRows = 0 then .error { lane := l, code := Code.matrixState, open_ := true }
    else .ok (fun y =>
      match (x.sign cv).st with
      | .never | .issued => y.setPred f.d.toNat true
      | .discarded => y.setPred f.d.toNat false
      | .pending => { y with park := .cvwait cv f.d.toNat })))

/-- BLKBAR (R140); the run of its last arriver ends, so that all leave in one batch (R216). -/
def execBlkbar (f : Fields) (s : State) : Out :=
  let ls := activeLanes f s
  let s1 := s.updCurBlock (fun b => overLanes b ls (fun _ l => { l with park := .blkbar }))
  let s2 := if barrierMet s1.curBlock then s1.endRun else s1
  .next (s2.updCurBlock settleBarrier)

end Sys2Proof.Machine
end

