-- ==== Sys2Proof/Machine/Named.lean ====
section
/-! DEFINITION. Named-group instructions (R146 to R153): what they do at the core. Requests go to the orrery,
whose steps are in Machine/Orrery.lean. -/
namespace Sys2Proof.Machine

/-- The home die of a name (R243). -/
def homeDie (s : State) (nsid : BitVec 16) (name : Word) : Nat :=
  let key := Nat.xor name.toNat (nsid.toNat * 2 ^ 16) % 2 ^ 32
  let h := (key * 0x9E3779B1) % 2 ^ 32
  memberDie s ((h * nodeDies s) / 2 ^ 32)

/-- The group entry that a handle names. -/
def sgEntry (s : State) (h : Handle) : SgEntry := tget {} (s.die h.die).orrery h.idx

/-- The handle's group is still the one it joined (R248). -/
def sgCurrent (s : State) (h : Handle) : Bool := (sgEntry s h).used && (sgEntry s h).gen == h.gen

/-- Phase `t` has completed when PHASE is `p` (R150). -/
def phaseDone (p t : Word) : Bool := let d := (p - t).toNat; 1 ≤ d && d < 2 ^ 31

/-- The status predicate of a completed phase: 0 when it lost members (R150). -/
def phaseKept (e : SgEntry) (t : Word) : Bool := tget 0 e.lost t.toNat == 0

/-- The fault of R146 and R248 in a lane. -/
def sgFault (l h : Nat) : LaneFault := { lane := l, code := Code.sgHandle, val := BitVec.ofNat 64 h }

/-- A request of lane `l` of the issuing batch. -/
def sgRequest (s : State) (l inst : Nat) (h : Nat) (hnd : Handle) (kind : SgKind) (d ps : Nat) (phase : Word) :
    State :=
  let s1 := s.tick
  { s1 with sgreqs := s1.sgreqs ++
    [{ id := s.seq, seq := s.seq, blk := s.cur.blk, lane := l, h := h, hnd := hnd, kind := kind, d := d, ps := ps,
       phase := phase, part := s.curLaunch.part, pc := s.cur.pc, inst := inst, fib := (s.lane s.cur.blk l).fib }] }

/-- A named-group instruction other than SGJOIN: a lane whose join is outstanding is held, an empty handle faults, a
stale one faults and is emptied, and each other lane acts in ascending order (R146, R148, R153, R248). -/
def sgLanes (f : Fields) (s : State) (act : Nat → Handle → State → State) : State :=
  let h := f.sc.toNat
  let ls := activeLanes f s
  let hand (l : Nat) : Handle := (s.src l).handle h
  let held := ls.filter (fun l => (hand l).joining)
  let bad := ls.filter (fun l => !(hand l).live)
  let mine := ls.filter (fun l => (hand l).live && !(hand l).joining)
  let stale := mine.filter (fun l => !sgCurrent s (hand l))
  let s1 := (mine.filter (fun l => sgCurrent s (hand l))).foldl (fun st l => act l (hand l) st) s
  let s2 := s1.updCurBlock (fun b => overLanes b stale (fun _ y => y.setHandle h {}))
  raiseHere (retryLanes s2 held (.joinHeld h)) ((bad ++ stale).map (fun l => sgFault l h))

/-- An arrival leaves the core as a request at NEXT, which increments (R149). -/
def sgArrive (f : Fields) (inst : Nat) (kind : Src → SgKind) (park : Option (Word → Park)) (l : Nat) (hnd : Handle)
    (s : State) : State :=
  let h := f.sc.toNat
  let s1 := sgRequest s l inst h hnd (kind (s.src l)) f.d.toNat (f.immBits 3 0) hnd.next
  s1.updCurLane l (fun y =>
    let z := y.setHandle h { hnd with next := hnd.next + 1 }
    match park with
    | some p => { z with park := p hnd.next }
    | none => z)

def execSgjoin (f : Fields) (s : State) : Out :=
  let h := f.sc.toNat
  let ls := activeLanes f s
  let bad := ls.filter (fun l => ((s.src l).handle h).live)
  let good := ls.filter (fun l => !((s.src l).handle h).live)
  let s1 := good.foldl (fun st l =>
    (sgRequest st l s.seq h {} (.join (rdB32 f (s.src l))) f.d.toNat 15 0).updCurLane l (fun y =>
      y.setHandle h { live := true, joining := true })) s
  .next (raiseHere s1 (bad.map (fun l => sgFault l h)))

/-- SGLEAVE empties the handle; its arrival, where it has one to make, and its leave are handled together (R149,
R247). -/
def execSgleave (f : Fields) (s : State) : Out :=
  .next (sgLanes f s (fun l hnd st =>
    (sgRequest st l s.seq f.sc.toNat hnd .leave 0 15 hnd.next).updCurLane l (fun y =>
      y.setHandle f.sc.toNat {})))

def execSgarrive (f : Fields) (s : State) : Out :=
  .next (sgLanes f s (sgArrive f s.seq (fun _ => .arrive) none))

/-- SGWAIT: a phase that has completed releases its lane at once; completion is an acquire (R150). -/
def execSgwait (f : Fields) (s : State) : Out :=
  let h := f.sc.toNat
  .next (sgLanes f s (fun l hnd st =>
    let t := (s.src l).reg f.sa.toNat
    let e := sgEntry st hnd
    if phaseDone e.phase t then
      acquire (st.updCurLane l (fun y => y.setPred f.d.toNat (phaseKept e t))) st.cur.pier st.cur.blk l st.cur.pc
    else st.updCurLane l (fun y => { y with park := .sgwait h t f.d.toNat s.cur.pc })))

def execSgbar (f : Fields) (s : State) : Out :=
  .next (sgLanes f s (sgArrive f s.seq (fun _ => .bar)
    (some (fun t => .sgbar f.sc.toNat t f.d.toNat s.cur.pc))))

def execSgvote (f : Fields) (s : State) : Out :=
  .next (sgLanes f s (sgArrive f s.seq (fun x => .vote (f.subBits 33 32) (x.pred f.sa.toNat)) none))

def execSgred (f : Fields) (s : State) : Out :=
  .next (sgLanes f s (sgArrive f s.seq (fun x =>
    .red (f.subBits 35 32) f.t (BitVec.ofNat 64 (rdT x f.t f.sa.toNat))) none))

def execSgbcast (f : Fields) (s : State) : Out :=
  .next (sgLanes f s (sgArrive f s.seq (fun x =>
    .bcast (f.t == .b64) (x.pred f.sb.toNat) (BitVec.ofNat 64 (rdT x f.t f.sa.toNat))) none))

def execSgquery (f : Fields) (s : State) : Out :=
  .next (sgLanes f s (fun l hnd st =>
    sgRequest st l s.seq f.sc.toNat hnd (.query (f.subBits 33 32)) f.d.toNat 15 hnd.next))

def execSgclose (f : Fields) (s : State) : Out :=
  .next (sgLanes f s (fun l hnd st => sgRequest st l s.seq f.sc.toNat hnd .close 0 15 hnd.next))

end Sys2Proof.Machine
end

