-- ==== Sys2Proof/Machine/Matrix.lean ====
section
/-! DEFINITION. The matrix instructions (R154 to R171): their checks at signing and their signatures. What the
quadrant does with an accepted operation is in Machine/Quadrant.lean. -/
namespace Sys2Proof.Machine

/-- A checked fault of a lane for which the manual states no TRAPVAL. -/
def openFault (l : Nat) (code : BitVec 8) : LaneFault := { lane := l, code := code, open_ := true }

/-- The convergence register that a matrix instruction signs (R155). -/
def cvOf (f : Fields) : Nat := f.subBits 34 32

/-- FIRST and COUNT of a row word (R166). -/
def rowFirst (w : Word) : Nat := w.toNat % 4096
def rowCount (w : Word) : Nat := (w.toNat >>> 16) % 8192

/-- A row word that MSTR and MCLRA accept (R166). -/
def rowWordOk (rows : Nat) (w : Word) : Bool :=
  w.toNat >>> 29 == 0 && (w.toNat >>> 12) % 16 == 0 && rowCount w != 0 && rowCount w ≤ 4096 &&
  rowFirst w + rowCount w ≤ rows

/-- Operand values as a signature holds them. -/
def sigVals (ws : List Word) : List Dword := ws.map (fun w => w.setWidth 64)

/-- Scratchpad offsets are multiples of 128 B (R159). -/
def alignedOffs (ws : List Word) : Bool := ws.all (fun w => w.toNat % 128 == 0)

/-- The words of the fields that are in use. -/
def usedRegs (x : Src) (rs : List (BitVec 9 × Bool)) : List Word :=
  (rs.filter (·.2)).map (fun r => x.reg r.1.toNat)

def execMcfg (f : Fields) (s : State) : Out :=
  .next (signLanes 0xC0 (cvOf f) f s (fun _ => []) (fun _ => none) none)

/-- The offsets that an MLDW reads. -/
def mldwOffs (f : Fields) (x : Src) : List Word :=
  usedRegs x [(f.sa, true), (f.sb, f.subBits 35 35 == 1), (f.sc, f.subBits 36 36 == 1)]

def execMldw (f : Fields) (s : State) : Out :=
  .next (signLanes 0xC1 (cvOf f) f s (fun l => sigVals (mldwOffs f (s.src l)))
    (fun l => if alignedOffs (mldwOffs f (s.src l)) then none else some (openFault l Code.misaligned)) none)

def execMswap (f : Fields) (s : State) : Out :=
  .next (signLanes 0xC2 (cvOf f) f s (fun _ => []) (fun _ => none) none)

/-- The offsets that an MSTR reads. -/
def mstrOffs (f : Fields) (x : Src) : List Word :=
  usedRegs x [(f.sa, true), (f.sc, f.subBits 36 36 == 1)]

def execMstr (f : Fields) (s : State) : Out :=
  let rows := s.curBlock.accRows
  .next (signLanes 0xC3 (cvOf f) f s
    (fun l => sigVals ((s.src l).reg f.sb.toNat :: mstrOffs f (s.src l)))
    (fun l =>
      if !rowWordOk rows ((s.src l).reg f.sb.toNat) then some (openFault l Code.spaceInvalid)
      else if !alignedOffs (mstrOffs f (s.src l)) then some (openFault l Code.misaligned) else none) none)

/-- MRDA: the row is below `.accrows` (R168). -/
def signMrda (f : Fields) (s : State) : State :=
  signLanes 0xC4 (cvOf f) f s (fun l => sigVals [(s.src l).reg f.sa.toNat])
    (fun l => if ((s.src l).reg f.sa.toNat).toNat < s.curBlock.accRows then none
              else some (openFault l Code.spaceInvalid)) none

def execMrdaF32 (f : Fields) (s : State) : Out := .next (signMrda f s)
def execMrdaSlot (f : Fields) (s : State) : Out := .next (signMrda f s)

/-- The row and the column group of MWRA (R169). -/
def mwraOk (rows : Nat) (w : Word) : Bool :=
  (w.toNat >>> 21) == 0 && (w.toNat >>> 12) % 16 == 0 && w.toNat % 4096 < rows

def execMwra (f : Fields) (s : State) : Out :=
  .next (signLanes 0xC5 (cvOf f) f s
    (fun l => sigVals ((s.src l).reg f.sa.toNat :: (s.src l).words f.sb.toNat 4))
    (fun l => if mwraOk s.curBlock.accRows ((s.src l).reg f.sa.toNat) then none
              else some (openFault l Code.spaceInvalid)) none)

def execMclra (f : Fields) (s : State) : Out :=
  .next (signLanes 0xC6 (cvOf f) f s (fun l => sigVals [(s.src l).reg f.sa.toNat])
    (fun l => if rowWordOk s.curBlock.accRows ((s.src l).reg f.sa.toNat) then none
              else some (openFault l Code.spaceInvalid)) none)

def execMsync (f : Fields) (s : State) : Out :=
  .next (signLanes 0xC7 (cvOf f) f s (fun _ => []) (fun _ => none) (some (.msync (cvOf f))))

def execMquery (f : Fields) (s : State) : Out :=
  .next (signLanes 0xC8 (cvOf f) f s (fun _ => []) (fun _ => none)
    (some (.mquery (cvOf f) (f.subBits 36 35) f.d.toNat)))

end Sys2Proof.Machine
end

