-- ==== Sys2Proof/Machine/Copy.lean ====
section
/-! DEFINITION. The copy instructions (R174 to R186): shapes, checks at issue, batches. What the engine does with a
job is in Machine/Engine.lean. -/
namespace Sys2Proof.Machine

/-! ## Shapes (R176) -/

/-- The number of elements. -/
def Shape.count (h : Shape) : Nat := h.dims.foldl (fun n d => n * d.1) 1
/-- The span in bytes. -/
def Shape.span (h : Shape) : Nat := h.dims.foldl (fun n d => n + (d.1 - 1) * d.2) h.esz
/-- The byte offset of element `i`; dimension 0 is the innermost. -/
def dimsOff : List (Nat × Nat) → Nat → Nat
  | [], _ => 0
  | d :: ds, i => (i % d.1) * d.2 + dimsOff ds (i / d.1)
def Shape.off (h : Shape) (i : Nat) : Nat := dimsOff h.dims i
/-- Elements one after the other. -/
def denseShape (esz n : Nat) : Shape := { esz := esz, dims := [(n, esz)] }

def eszOk (n : Nat) : Bool := n == 1 || n == 2 || n == 4 || n == 8 || n == 16

/-- The dimensions and size of a shape are within the limits of R176. -/
def shapeLimits (h : Shape) : Bool :=
  h.dims.all (fun d => d.1 != 0 && d.1 < 2 ^ 40 && d.2 < 2 ^ 40 && d.2 % h.esz == 0) && h.span < 2 ^ 40

/-- The dimensions of a shape image: its words after the header. -/
def imageDims : Nat → List Word → List (Nat × Nat)
  | n + 1, a :: b :: c :: d :: r => (natOf [a, b], natOf [c, d]) :: imageDims n r
  | _, _ => []

/-- The header of a shape image: NDIM and ESZ where it is well formed. -/
def imageHead (h z : Word) : Option (Nat × Nat) :=
  let nd := h.toNat % 16
  let esz := (h.toNat >>> 4) % 32
  if 1 ≤ nd && nd ≤ 6 && eszOk esz && h.toNat >>> 9 == 0 && z == 0 then some (nd, esz) else none

/-- SHDEF: the image of the lowest lane with guard 1. -/
def execShdef (f : Fields) (s : State) : Out :=
  let a := f.sa.toNat
  .next <|
    match activeLanes f s with
    | [] => s
    | l :: _ =>
      let x := s.src l
      let bad : LaneFault := { lane := l, code := Code.shapeInvalid, val := BitVec.ofNat 64 f.d.toNat }
      match imageHead (x.reg a) (x.reg (a + 1)) with
      | none => raiseHere s [bad]
      | some (nd, esz) =>
        let top := a + 4 * nd + 1
        if s.curBlock.window ≤ top then
          raiseHere s [{ lane := l, code := Code.windowRange, val := BitVec.ofNat 64 top }]
        else
          let h : Shape := { esz := esz, dims := imageDims nd (x.words (a + 2) (4 * nd)) }
          if shapeLimits h then s.updCurBlock (fun b => { b with shapes := tput {} b.shapes f.d.toNat h })
          else raiseHere s [bad]

/-! ## Issue checks (R177) -/

/-- One side of a job: its space code, its base, the bytes of its bounding box, and its element size. -/
structure Side where
  code : Nat
  base : Dword
  span : Nat
  esz  : Nat
  deriving DecidableEq, Repr

/-- A pointer's window matches a space code (R177). -/
def codeMatches (code : Nat) (p : Dword) : Bool :=
  match code, windowOf p with
  | 0, .global | 0, .priv | 1, .scratch | 2, .cluster | 3, .acc | 4, .host => true
  | _, _ => false

/-- An index array's window (R177). -/
def indexWindowOk (p : Dword) : Bool :=
  match windowOf p with
  | .global | .priv | .scratch | .cluster => true
  | _ => false

/-- The check of order 4 on a side; an indexed side is checked as one element. Where a base fails and its box would
fail too, the base's fault is the one raised (log entry 105). -/
def sideSpace (s : State) (b : Nat) (x : Side) : Option (BitVec 8) :=
  match spaceCheck s b x.base x.esz with
  | some c => some c
  | none =>
    match windowOf x.base with
    | .scratch | .cluster | .acc => spaceCheck s b x.base x.span
    | _ => none

/-- The check of order 5 on a side. -/
def sideAligned (x : Side) : Bool := x.base.toNat % x.esz == 0 && !(windowOf x.base == .acc && x.esz < 4)

/-- Orders 3 to 5 of R177 over the sides of a job and its index array: pointer and width. -/
def sidesFault (s : State) (b l : Nat) (xs : List Side) (idx : Option (Dword × Nat × Nat)) : Option LaneFault :=
  let at_ (c : BitVec 8) (p : Dword) : LaneFault := { lane := l, code := c, val := p }
  match xs.find? (fun x => !codeMatches x.code x.base) with
  | some x => some (at_ Code.copySpace x.base)
  | none =>
    match idx with
    | some (p, w, n) =>
      if !indexWindowOk p then some (at_ Code.copySpace p)
      else
        (match xs.findSome? (fun x => (sideSpace s b x).map (fun c => at_ c x.base)) with
         | some e => some e
         | none =>
           match sideSpace s b { code := 0, base := p, span := w * n, esz := w } with
           | some c => some (at_ c p)
           | none =>
             match xs.find? (fun x => !sideAligned x) with
             | some x => some (at_ Code.misaligned x.base)
             | none => if p.toNat % w = 0 then none else some (at_ Code.misaligned p))
    | none =>
      match xs.findSome? (fun x => (sideSpace s b x).map (fun c => at_ c x.base)) with
      | some e => some e
      | none =>
        match xs.find? (fun x => !sideAligned x) with
        | some x => some (at_ Code.misaligned x.base)
        | none => none

/-! ## Issuing jobs -/

/-- Unfinished jobs that a pier has accepted (R175); those of a saved block stand in its image. -/
def pierJobs (s : State) (pier : Nat) : Nat :=
  (s.jobs.filter (fun j => j.pier == pier && (match j.blk with | some b => (s.block b).place != .saved | none => false))).length
def pierJobLimit : Nat := 256

/-- The batch number that the fibre's next CPSEAL writes (R181, R183). -/
def nextBatch (w : Word) : Word := if w == BitVec.allOnes 32 then 1 else w + 1

/-- The lines of scratchpads that a destination bounding box touches: block and line (R179). -/
def destLines (s : State) (b : Nat) (p : Dword) (n : Nat) : List (Nat × Nat) :=
  if windowOf p = .scratch || windowOf p = .cluster then
    let k := scratchBlock s b p
    let o := ptrOff24 p
    (List.range ((o % 128 + n + 127) / 128)).map (fun i => (k, o / 128 + i))
  else []

/-- Clear presence bits for a job (R179). -/
def clearLines (s : State) (id : Nat) (ls : List (Nat × Nat)) : State :=
  ls.foldl (fun s x => s.updBlock x.1 (fun b =>
    { b with absent := tput [] b.absent x.2 (addTo id (tget [] b.absent x.2)) })) s

/-- A job of lane `l` is accepted (R175, R183); `lines` are the scratchpad lines it clears. -/
def issueJob (s : State) (l : Nat) (lines : List (Nat × Nat)) (j : Job) : State :=
  let y := s.lane s.cur.blk l
  let j1 : Job :=
    { j with id := s.seq, seq := s.seq, die := s.cur.pier / 64, part := s.curLaunch.part, tag := s.curTag,
             blk := some s.cur.blk, lane := l, fib := y.fib, pier := s.cur.pier, pc := s.cur.pc,
             batch := nextBatch y.sealed, pasid := s.curLaunch.pasid, cleared := lines }
  let s1 := s.tick
  let s2 := clearLines { s1 with jobs := s1.jobs ++ [j1] } s.seq lines
  s2.updCurLane l (fun z => { z with unsealed := z.unsealed + 1 })

/-- A job-issuing instruction: each lane with guard 1 in ascending order; a lane beyond the pier's limit waits to
issue again (R175). -/
def jobLanes (f : Fields) (s : State) (mk : State → Nat → Except LaneFault (List (Nat × Nat) × Job)) : State :=
  let r := (activeLanes f s).foldl (fun (acc : State × List Nat × List LaneFault) l =>
    match mk acc.1 l with
    | .error e => (acc.1, acc.2.1, acc.2.2 ++ [e])
    | .ok j =>
      if pierJobs acc.1 s.cur.pier ≥ pierJobLimit then (acc.1, acc.2.1 ++ [l], acc.2.2)
      else (issueJob acc.1 l j.1 j.2, acc.2)) (s, [], [])
  raiseHere (retryLanes r.1 r.2.1 .jobSlots) r.2.2

/-- A shape slot's shape; none for an undefined slot. -/
def shapeAt (t : Tbl Shape) (n : Nat) : Option Shape :=
  let h := tget {} t n
  if h.esz = 0 then none else some h

/-- SHAPE_INVALID naming a slot (R177). -/
def shapeFault (l n : Nat) : LaneFault := { lane := l, code := Code.shapeInvalid, val := BitVec.ofNat 64 n }

/-- A pointer as the engine uses it: a private one by its backing address (R111). -/
def enginePtr (s : State) (b l : Nat) (p : Dword) : Dword := recordPtr s b l p

def execCpt (f : Fields) (s : State) : Out :=
  let w := f.immBits 3 0
  let r := f.immBits 7 4
  .next (jobLanes f s (fun st l =>
    let x := s.src l
    let d := x.pair f.d.toNat
    let a := x.pair f.sa.toNat
    match shapeAt x.shapes w, shapeAt x.shapes r with
    | none, _ => .error (shapeFault l w)
    | some _, none => .error (shapeFault l r)
    | some hw, some hr =>
      if hw.count != hr.count || hw.esz != hr.esz then .error (shapeFault l w)
      else
        match sidesFault st st.cur.blk l
            [{ code := f.subBits 37 35, base := d, span := hw.span, esz := hw.esz },
             { code := f.subBits 34 32, base := a, span := hr.span, esz := hr.esz }] none with
        | some e => .error e
        | none => .ok (destLines st st.cur.blk d hw.span,
            { id := 0, kind := .cpt, die := 0, part := 0, chan := f.sc.toNat, dsp := f.subBits 37 35,
              ssp := f.subBits 34 32, dst := enginePtr st st.cur.blk l d, src := enginePtr st st.cur.blk l a,
              wshape := hw, rshape := hr })))

/-- GTH and SCT: the indexed side is checked as one element (R177, R178). -/
def issueIndexed (gather : Bool) (f : Fields) (s : State) : State :=
  let n := f.immBits 23 0
  let esz := 2 ^ f.immBits 26 24
  let iw := if f.immBits 27 27 = 1 then 8 else 4
  jobLanes f s (fun st l =>
    let x := s.src l
    let d := x.pair f.d.toNat
    let a := x.pair f.sa.toNat
    let i := x.pair f.sb.toNat
    let dense := n * esz
    match sidesFault st st.cur.blk l
        [{ code := f.subBits 37 35, base := d, span := if gather then dense else esz, esz := esz },
         { code := f.subBits 34 32, base := a, span := if gather then esz else dense, esz := esz }]
        (some (i, iw, n)) with
    | some e => .error e
    | none =>
      let box := if gather then dense
                 else if iw = 8 then (windowLimit st st.cur.blk (windowOf d)).getD 0 - ptrOff24 d
                 else min (2 ^ 32 * esz) ((windowLimit st st.cur.blk (windowOf d)).getD 0 - ptrOff24 d)
      let side := if gather then a else d
      let top := if windowOf side = .host then 2 ^ 56 else 2 ^ 63
      let room := (windowLimit st st.cur.blk (windowOf side)).getD top -
        (match windowOf side with | .global => side.toNat | .host => ptrOff56 side | _ => limitOff side)
      .ok (destLines st st.cur.blk d box,
        { id := 0, room := room, kind := if gather then .gth else .sct, die := 0, part := 0, chan := f.sc.toNat,
          dsp := f.subBits 37 35, ssp := f.subBits 34 32, dst := enginePtr st st.cur.blk l d,
          src := enginePtr st st.cur.blk l a, idx := enginePtr st st.cur.blk l i, i64 := iw == 8,
          wshape := denseShape esz n, rshape := denseShape esz n }))

def execGth (f : Fields) (s : State) : Out := .next (issueIndexed true f s)
def execSct (f : Fields) (s : State) : Out := .next (issueIndexed false f s)

/-- The registers of a CPFILL value suit its element size (R178). -/
def fillAligned (esz i : Nat) : Bool := if esz = 16 then i % 4 == 0 else if esz = 8 then i % 2 == 0 else true

def execCpfill (f : Fields) (s : State) : Out :=
  let w := f.immBits 3 0
  .next (jobLanes f s (fun st l =>
    let x := s.src l
    let d := x.pair f.d.toNat
    match shapeAt x.shapes w with
    | none => .error (shapeFault l w)
    | some h =>
      if !fillAligned h.esz f.sa.toNat then
        .error { lane := l, code := Code.operandAlign, val := BitVec.ofNat 64 f.sa.toNat }
      else
        match sidesFault st st.cur.blk l
            [{ code := f.subBits 37 35, base := d, span := h.span, esz := h.esz }] none with
        | some e => .error e
        | none => .ok (destLines st st.cur.blk d h.span,
            { id := 0, kind := .fill, die := 0, part := 0, chan := f.sc.toNat, dsp := f.subBits 37 35,
              dst := enginePtr st st.cur.blk l d, wshape := h,
              value := leBytes h.esz (x.nat f.sa.toNat (max 1 (h.esz / 4))) })))

/-- CPCHAIN and CLJOB check only the pointer (R177). -/
def issuePointer (kind : JobKind) (f : Fields) (s : State) : State :=
  jobLanes f s (fun st l =>
    let p := (s.src l).pair f.sa.toNat
    if !codeMatches 0 p then .error { lane := l, code := Code.copySpace, val := p }
    else if p.toNat % 64 != 0 then .error { lane := l, code := Code.misaligned, val := p }
    else
      let q := enginePtr st st.cur.blk l p
      .ok ([], { id := 0, kind := kind, die := 0, part := 0, chan := f.sc.toNat, src := q, recPtr := q }))

/-- The head goes into the channel register (R180). -/
def execCpchain (f : Fields) (s : State) : Out :=
  let s1 := issuePointer .chain f s
  .next ((s1.jobs.drop s.jobs.length).foldl (fun s j =>
    s.updCurBlock (fun b => { b with chans := tput 0 b.chans f.sc.toNat j.recPtr })) s1)

def execCljob (f : Fields) (s : State) : Out := .next (issuePointer .coll f s)

/-! ## Batches (R183, R184) -/

/-- A fibre's sealed unfinished batches. -/
def Lane.unfinished (l : Lane) : Nat := (l.batches.filter (fun b => b.2.1 != 0)).length
def sealLimitN : Nat := 16

/-- Keep the 64 most recent batches, and older ones that are unfinished. -/
def trimBatches (bs : List (Word × Nat × Bool)) : List (Word × Nat × Bool) :=
  let k := bs.length - 64
  (bs.take k).filter (fun b => b.2.1 != 0) ++ bs.drop k

/-- The unsealed set becomes batch b (R183). -/
def Lane.sealJobs (l : Lane) : Lane :=
  let b := nextBatch l.sealed
  { l with sealed := b, sealCount := l.sealCount + 1,
           batches := trimBatches (l.batches ++ [(b, l.unsealed - l.unsealedDone, l.unsealedErr)]),
           unsealed := 0, unsealedDone := 0, unsealedErr := false }

def execCpseal (f : Fields) (s : State) : Out :=
  let full := (activeLanes f s).filter (fun l => (s.lane s.cur.blk l).unfinished ≥ sealLimitN)
  .next <|
    if !full.isEmpty then retryGroup s (.sealLimit (lanesMask full))
    else perLane f s (fun _ l => let y := l.sealJobs; y.setReg f.d.toNat y.sealed)

/-- CPWAIT; its end is an acquire (R183). -/
def execCpwait (f : Fields) (s : State) : Out :=
  let n := f.immBits 4 0
  .next ((activeLanes f s).foldl (fun st l =>
    if (st.lane st.cur.blk l).unfinished ≤ n then acquire st st.cur.pier st.cur.blk l st.cur.pc
    else st.updCurLane l (fun y => { y with park := .cpwait n })) s)

/-- The CPQUERY word of a batch number (R184). -/
def cpquery (l : Lane) (b : Word) : Word :=
  if b == 0 then 9
  else match ((l.batches.reverse.take 64).find? (fun x => x.1 == b)) with
    | some x => (if x.2.1 = 0 then 1 else 0) + (if x.2.2 then 2 else 0)
    | none =>
      let d := (b - l.sealed).toNat
      if 1 ≤ d && d < 2 ^ 31 then 4 else 9

def execCpquery (f : Fields) (s : State) : Out :=
  .next (perLane f s (fun x l => l.setReg f.d.toNat (cpquery l (x.reg f.sa.toNat))))

end Sys2Proof.Machine
end

