-- ==== Sys2Proof/Machine/System.lean ====
section
/-! DEFINITION. System, trap, debug and governor instructions (R188 to R205), and the writes of the same registers
through the management window (R273, R309, R341, R281). -/
namespace Sys2Proof.Machine

/-! ## Step records (R201) -/

def saturate32 (n : Nat) : Nat := min n (2 ^ 32 - 1)

/-- DLSET: the values of the lowest lane with guard 1; 0 in either closes the step. -/
def execDlset (f : Fields) (s : State) : Out :=
  .next <|
    match activeLanes f s with
    | [] => s
    | l :: _ =>
      let a := ((s.src l).reg f.sa.toNat).toNat
      let b := ((s.src l).reg f.sb.toNat).toNat
      s.updCurBlock (fun x =>
        if a = 0 || b = 0 then { x with step := { x.step with opened := false }, gov := {} }
        else { x with step := { deadline := s.now + a, total := b, opened := true }, gov := {} })

/-- What progress of `n` units adds to DONE, which saturates (R201). -/
def dlAdd (r : StepRec) (n : Nat) : Nat := saturate32 (r.done + n) - r.done

/-- DLPROG: at a boundary that the governor is still to handle, its units count at the next one (R325, R326). -/
def execDlprog (f : Fields) (s : State) : Out :=
  let sum := (activeLanes f s).foldl (fun n l => n + (rdB32 f (s.src l)).toNat) 0
  let late : Bool := (s.die (s.cur.pier / 64)).boundary < s.now / 10000
  .next (s.updCurBlock (fun x =>
    if x.step.opened then
      { x with step := { x.step with done := saturate32 (x.step.done + sum),
                                     fresh := if late then x.step.fresh else x.step.fresh + (dlAdd x.step sum),
                                     ahead := if late then x.step.ahead + dlAdd x.step sum else x.step.ahead } }
    else x))

def execDlend (f : Fields) (s : State) : Out :=
  .next (if (activeLanes f s).isEmpty then s
         else s.updCurBlock (fun x => { x with step := { x.step with opened := false } }))

/-! ## Counters and the governor's state (R203, R204) -/

/-- The BSTQ word of a pier (R203). -/
def boostWord (s : State) (pier : Nat) : Word :=
  BitVec.ofNat 32 (256 * (clusterAt s pier).held + (s.die (pier / 64)).pool)

def execBstq (f : Fields) (s : State) : Out :=
  .next (aluT f s .b32 (fun _ => (boostWord s s.cur.pier).toNat))

/-- A counter of a fibre or its block (R204). -/
def counter (s : State) (b l f : Nat) : Nat :=
  let x := s.block b
  match f with
  | 0 => x.cyc / 100
  | 1 => (x.lane l).inst.toNat
  | 2 => (x.grp (l / 32)).parkTotal / 100
  | _ => x.cpb.toNat

def execCntrd (f : Fields) (s : State) : Out :=
  .next (s.updCurBlock (fun b => overLanes b (activeLanes f s) (fun l y =>
    y.setRegs f.d.toNat (wordsOf 2 ((s.src l).seen.getD (BitVec.ofNat 64 (counter s s.cur.blk l (f.subBits 33 32)))).toNat))))

def execTmrd (f : Fields) (s : State) : Out := .next (aluT f s .b64 (fun _ => s.now))

/-- The zone that cools a pier's cluster (R13). -/
def zoneAt (s : State) (pier : Nat) : Zone := tget {} (s.die (pier / 64)).zones (clusterOf pier)

/-- CAP and HEATOK as a reader sees them: a zone that is not WET reads 0 (R349). -/
def Zone.capNow (z : Zone) : Nat := if z.st = 0 then z.cap else 0
def Zone.heatNow (z : Zone) : Nat := if z.st = 0 then z.heatOk else 0

/-- A ZONEQ value (R204, R348). -/
def zoneVal (z : Zone) (f : Nat) : Nat :=
  match f with
  | 0 => z.st
  | 1 => z.valve
  | 2 => ofInt 32 (toInt 16 z.temp.toNat)
  | _ => z.heatNow

def execZoneq (f : Fields) (s : State) : Out :=
  .next (aluT f s .b32 (fun _ => zoneVal (zoneAt s s.cur.pier) (f.subBits 33 32)))

/-! ## Traps (R192, R193) -/

/-- TRAP and BRK: the cause arises after issue, in the lanes with guard 1; the run ends. -/
def trapLanes (f : Fields) (s : State) (code : BitVec 8) (v : Dword) : State :=
  (raiseFaults s ((activeLanes f s).map (fun l => { lane := l, code := code, val := v })) s.cur.next s.cur.pc).endRun

def execTrap (f : Fields) (s : State) : Out :=
  .next (trapLanes f s Code.trap (BitVec.ofNat 64 (f.immBits 7 0)))
def execBrk (f : Fields) (s : State) : Out := .next (trapLanes f s Code.breakpoint 0xFF)

def execRte (f : Fields) (s : State) : Out :=
  .next (returnLanes s (activeLanes f s) (f.subBits 32 32 == 1))

/-! ## Halting and stepping (R195, R197) -/

/-- A write of a block's HALTMASK: a bit that rises owes its group one HALT_REQ, and a bit cleared before the
delivery withdraws it. -/
def haltmaskSet (s : State) (b : Nat) (v : Word) : State :=
  s.updBlock b (fun x =>
    let y := (List.range x.groups).foldl (fun (z : Block) g =>
      z.updGrp g (fun q =>
        if !v.getLsbD g then { q with haltReq := false }
        else if !x.haltMask.getLsbD g then { q with haltReq := true } else q)) x
    { y with haltMask := v })

/-- The conditions of stepping hold for a group. -/
def stepping (s : State) (p : Nat) (x : Block) (g : Nat) : Bool :=
  x.haltMask.getLsbD g && x.stepGrp.getLsbD g && (s.pier p).dbgctl.getLsbD 8

/-- A group whose stepping conditions do not hold may step again when they do. -/
def restep (s : State) (p : Nat) : State :=
  s.blocks.foldl (fun st kb =>
    if kb.2.onPier == some p then
      (List.range kb.2.groups).foldl (fun st g =>
        if stepping st p (st.block kb.1) g then st
        else st.updGrp kb.1 g (fun q => { q with stepped := false })) st
    else st) s

def execHalt (f : Fields) (s : State) : Out :=
  .next <|
    if (activeLanes f s).isEmpty then s.endRun
    else (haltmaskSet s s.cur.blk (s.curBlock.haltMask ||| BitVec.ofNat 32 (2 ^ s.cur.grp))).endRun

/-! ## Caches (R16, R309, R341) -/

/-- A write of L1CTL: a cache that changes state has no valid word or line afterwards. -/
def l1ctlSet (s : State) (p : Nat) (v : BitVec 2) : State :=
  let old := (s.pier p).l1ctl
  let s1 := s.updPier p (fun x => { x with l1ctl := v })
  s1.updCore p (fun c =>
    let c1 := if old.getLsbD 0 != v.getLsbD 0 then
        { c with l1 := [], l1Owned := [], strm := [], fills := c.fills.map (fun f => { f with dropped := true }) } else c
    if old.getLsbD 1 != v.getLsbD 1 then { c1 with l1i := [] } else c1)

/-- The power bits of SLICECTL: what has no power holds no copies (R341). -/
def slicePower (s : State) (p : Nat) (v : Dword) : State :=
  let off := v.getLsbD 16
  let ways := BitVec.ofNat 16 v.toNat
  s.updPier p (fun x =>
    { x with sliceOff := off, wayOff := ways, slice := if off then [] else x.slice.filter (fun e => !ways.getLsbD e.2) })

/-- DROP: every clean copy of the slice is invalidated (R341). -/
def sliceDrop (s : State) (p : Nat) : State := s.updPier p (fun x => { x with slice := [] })

/-! ## The eyepiece (R198, R199) -/

def outboxSize : Nat := 256
def inboxSize : Nat := 8

def updEye (s : State) (d : Nat) (g : Eyepiece → Eyepiece) : State := s.updDie d (fun x => { x with eye := g x.eye })

/-- EYEST as read. -/
def eyest (e : Eyepiece) : Dword :=
  BitVec.ofNat 64 (e.outSeq.toNat * 2 ^ 16 + (outboxSize - e.outbox.length) * 16 + e.inbox.length)

/-- The acknowledgement of inbox words (R198, R330). -/
def inboxAck (s : State) (d k : Nat) : State := updEye s d (fun e => { e with inbox := e.inbox.drop k })

/-- Post a word of a block: lane, word and D (R199). -/
def postAt (s : State) (d b : Nat) (e : Nat × Dword × Nat) : State :=
  let o := (s.die d).eye.outSeq
  (updEye s d (fun y => { y with outSeq := o + 1, outbox := y.outbox ++ [(e.2.1, o, (s.block b).tag)] })).updLane b e.1
    (fun y => y.setReg e.2.2 o)

/-- DBGMB: where the outbox fills, the group parks inside the instruction, with the lanes still to post (R199). -/
def execDbgmb (f : Fields) (s : State) : Out :=
  let d := s.cur.pier / 64
  let es := (activeLanes f s).map (fun l => (l, (s.src l).pair f.sa.toNat, f.d.toNat))
  let room := outboxSize - (s.die d).eye.outbox.length
  let s1 := (es.take room).foldl (fun st e => postAt st d s.cur.blk e) s
  .next (if (es.drop room).isEmpty then s1
         else (s1.updCurGrp (fun q => { q with park := .outbox (es.drop room) })).endRun)

/-! ## Events (R200) -/

/-- A set flag that a batch waits for is cleared once, and every waiting batch of the group goes on. -/
def settleWfe (x : Block) (g : Nat) : Block :=
  let ls := (allLanes.map (fun j => 32 * g + j)).filter (fun l => (x.lane l).park == .wfe)
  if (x.grp g).event && !ls.isEmpty then
    (overLanes x ls (fun _ y => { y with park := .run })).updGrp g (fun q => { q with event := false })
  else x

/-- Set the event flag of every group of a block. -/
def setEvents (x : Block) : Block :=
  (List.range x.groups).foldl (fun z g => settleWfe (z.updGrp g (fun q => { q with event := true })) g) x

def execSev (f : Fields) (s : State) : Out :=
  .next (if (activeLanes f s).isEmpty then s else s.updCurBlock setEvents)

/-- WFE: the whole batch parks where a lane has guard 1 and the flag is clear (R200). -/
def execWfe (f : Fields) (s : State) : Out :=
  let ls := activeLanes f s
  let g := s.cur.grp
  .next <|
    if ls.isEmpty then s
    else if s.curGrp.event then s.updCurGrp (fun q => { q with event := false })
    else s.updCurBlock (fun x => settleWfe (overLanes x s.curLanes (fun _ y => { y with park := .wfe })) g)

/-! ## System registers (R194) -/

/-- The value of a system register as lane `l` of the issuing batch reads it. -/
def sysRead (s : State) (l i : Nat) : Dword :=
  let p := s.pier s.cur.pier
  let x := s.curBlock
  let t := s.curGrp.trap
  let e := (s.die (s.cur.pier / 64)).eye
  match i with
  | 0x000 => (x.lane l).fpstat.setWidth 64
  | 0x010 => BitVec.ofNat 64 s.cur.pier
  | 0x011 => x.ctxKey.setWidth 64
  | 0x020 => BitVec.ofNat 64 (cadenceOf s s.cur.pier)
  | 0x021 => BitVec.ofNat 64 (clusterAt s s.cur.pier).clk
  | 0x022 => (boostWord s s.cur.pier).setWidth 64
  | 0x023 => x.slack
  | 0x100 => t.code.setWidth 64
  | 0x101 => t.pc
  | 0x102 => t.val
  | 0x103 => t.mask.setWidth 64
  | 0x104 => BitVec.ofNat 64 s.cur.grp
  | 0x800 => p.dbgctl.setWidth 64
  | 0x801 => tget 0 p.bpa 0
  | 0x802 => tget 0 p.bpa 1
  | 0x803 => tget 0 p.bpa 2
  | 0x804 => tget 0 p.bpa 3
  | 0x808 => tget 0 p.wpa 0
  | 0x809 => tget 0 p.wpl 0
  | 0x80A => tget 0 p.wpa 1
  | 0x80B => tget 0 p.wpl 1
  | 0x810 => eyest e
  | 0x811 => e.inbox.getD 0 0
  | 0x812 => e.inbox.getD 1 0
  | 0x813 => e.inbox.getD 2 0
  | 0x814 => e.inbox.getD 3 0
  | 0x815 => e.inbox.getD 4 0
  | 0x816 => e.inbox.getD 5 0
  | 0x817 => e.inbox.getD 6 0
  | 0x818 => e.inbox.getD 7 0
  | 0x820 => x.haltMask.setWidth 64
  | 0x821 => x.stepGrp.setWidth 64
  | 0x830 => p.l1ctl.setWidth 64
  | 0x831 => BitVec.ofNat 64 (p.wayOff.toNat + (if p.sliceOff then 2 ^ 16 else 0))
  | _ => 0

def execSysrd (f : Fields) (s : State) : Out :=
  .next (s.updCurBlock (fun b => overLanes b (activeLanes f s) (fun l y =>
    y.setRegs f.d.toNat (wordsOf 2 ((s.src l).seen.getD (sysRead s l (f.immBits 11 0))).toNat))))

/-- What a second slot of opcode `op` reads of the core in lane `l`, as it stands (R58). -/
def seenNow (op : Nat) (f : Fields) (s : State) (l : Nat) : Option Dword :=
  match op with
  | 0xF3 => some (sysRead s l (f.immBits 11 0))
  | 0xA3 => some ((fstatVal f s).setWidth 64)
  | 0xE4 => some (BitVec.ofNat 64 (counter s s.cur.blk l (f.subBits 33 32)))
  | 0x8D => some ((recst (s.core s.cur.pier) s.cur.blk).setWidth 64)
  | _ => none

/-- The bits a write of a system register may set (R30, R194 to R198, R281, R341). -/
def sysMask (i : Nat) : Nat :=
  match i with
  | 0x000 => 0x1F
  | 0x800 => 0x13F
  | 0x809 | 0x80B => 0x3FF_FFFF
  | 0x810 => 0xFFFF_FFFF_1FFF
  | 0x820 | 0x821 => 0xFFFF_FFFF
  | 0x830 => 3
  | 0x831 => 0x3_FFFF
  | 0x840 => 1
  | _ => 2 ^ 64 - 1

/-- A value that a write of a system register accepts (R194). -/
def sysValueOk (i : Nat) (v : Dword) : Bool :=
  v.toNat &&& (2 ^ 64 - 1 - sysMask i) == 0 && (i != 0x101 || (pcSlot v ≤ 4 && !v.msb))

/-- The write of a system register by lane `l`. XLFENCE starts its fence apart. -/
def sysWrite (s : State) (l i : Nat) (v : Dword) : State :=
  let pp := s.cur.pier
  let pier (g : Pier → Pier) : State := s.updPier pp g
  match i with
  | 0x000 => s.updCurLane l (fun y => { y with fpstat := v.setWidth 5 })
  | 0x101 => s.updCurGrp (fun g => { g with trap := { g.trap with pc := v } })
  | 0x800 => restep (pier (fun x => { x with dbgctl := v.setWidth 9 })) pp
  | 0x801 | 0x802 | 0x803 | 0x804 => pier (fun x => { x with bpa := tput 0 x.bpa (i - 0x801) v })
  | 0x808 | 0x80A => pier (fun x => { x with wpa := tput 0 x.wpa ((i - 0x808) / 2) v })
  | 0x809 | 0x80B => pier (fun x => { x with wpl := tput 0 x.wpl ((i - 0x808) / 2) v })
  | 0x810 => inboxAck s (pp / 64) (v.toNat % 16)
  | 0x820 => restep (haltmaskSet s s.cur.blk (v.setWidth 32)) pp
  | 0x821 => restep (s.updCurBlock (fun x => { x with stepGrp := v.setWidth 32 })) pp
  | 0x830 => l1ctlSet s pp (v.setWidth 2)
  | 0x831 =>
    let s1 := slicePower s pp v
    if v.getLsbD 17 then sliceDrop s1 pp else s1
  | _ => s

/-- Start a translation fence: it waits for the record bytes whose grants used an entry that has changed (R281), and for all
that the application cores have translated (R335). -/
def startFence (s : State) (mirror : Bool) : State :=
  let es := s.cores.flatMap (fun c => (c.2.record.filter (fun e =>
    2048 ≤ c.1 || e.grants.any (fun g => e.staleGrant s g.2))).map (fun e => (c.1, e.id)))
  let s1 := s.tick
  { s1 with fences := s1.fences ++ [{ id := s.seq, entries := es, mirror := mirror }] }

/-- Lanes wait at their SYSWR, which has issued, for fence `k` (R281). -/
def fenceWait (s : State) (ls : List Nat) (k : Nat) : State :=
  let s1 := s.updCurBlock (fun b => overLanes b ls (fun _ l => { l with pc := s.cur.pc }))
  (s1.updCurGrp (fun g => { g with park := .fence k (lanesMask ls) })).endRun

/-- SYSWR: the lanes with guard 1 in ascending order; a lane with a value that the register forbids writes nothing
and faults. GO of XLFENCE first makes the release of R125, then the group waits at the fence. -/
def execSyswr (f : Fields) (s : State) : Out :=
  let i := f.immBits 11 0
  let ls := activeLanes f s
  let val (l : Nat) : Dword := (s.src l).pair f.sa.toNat
  let bad := ls.filter (fun l => !sysValueOk i (val l))
  let good := ls.filter (fun l => sysValueOk i (val l))
  let go := if i = 0x840 then good.filter (fun l => (val l).getLsbD 0) else []
  let faults := bad.map (fun l => { lane := l, code := Code.reservedField, val := val l })
  .next <|
    if !(unreleased s go).isEmpty then retryGroup s (.release (lanesMask (unreleased s go)))
    else
      let s1 := good.foldl (fun st l => sysWrite st l i (val l)) s
      let s2 := if go.isEmpty then s1 else fenceWait (startFence s1 false) go s1.seq
      raiseHere s2 faults

/-- UDF raises ILLEGAL_OPCODE as a decoding check, on every lane of the batch (R66, R67). -/
def execUdf (_ : Fields) (s : State) : Out :=
  .next (raiseHere s (s.curLanes.map (fun l => { lane := l, code := Code.illegalOpcode, val := 0xFF })))

/-! ## The same registers from outside, and fences -/

def execL1ctlWrite (pier : Nat) (value : Dword) (s : State) : Out := .next (l1ctlSet s pier (value.setWidth 2))
def execSlicectlDrop (pier : Nat) (s : State) : Out := .next (sliceDrop s pier)
def execSlicectlPower (pier : Nat) (value : Dword) (s : State) : Out := .next (slicePower s pier value)

/-- The effect of a HALTMASK write on its block. -/
def execHaltmaskWrite (blk : Nat) (value : Dword) (s : State) : Out :=
  .next (match (s.block blk).onPier with
    | some p => restep (haltmaskSet s blk (value.setWidth 32)) p
    | none => s)

def execEyestAck (die count : Nat) (s : State) : Out := .next (inboxAck s die count)

/-- A fence started through the mirror of the management window. -/
def execXlfenceGo (s : State) : Out := .next (startFence s true)

/-- The lanes that started fence `k` go on. -/
def releaseFence (x : Block) (k : Nat) : Block :=
  (List.range x.groups).foldl (fun (y : Block) g =>
    match (y.grp g).park with
    | .fence j m =>
      if j = k then
        (overLanes y ((maskLanes m).map (32 * g + ·)) (fun _ l =>
          { l with pc := pcNext l.pc })).updGrp g (fun q => { q with park := .none })
      else y
    | _ => y) x

/-- A fence is over when every record entry it waits for has drained. -/
def fenceDone (s : State) (x : Fence) : Bool :=
  x.entries.all (fun e => !(s.core e.1).record.any (fun y => y.id == e.2))

def execXlfenceComplete (k : Nat) (s : State) : Out :=
  .next (match s.fences.find? (fun x => x.id == k) with
    | none => s
    | some x =>
      if fenceDone s x then
        { s with fences := s.fences.filter (fun y => y.id != k),
                 blocks := s.blocks.map (fun kb => (kb.1, releaseFence kb.2 k)) }
      else s)

/-- A host word for a die's inbox: placed, and it wakes the supervisor blocks of the die; or refused (R198, R200). -/
def execInboxWrite (die : Nat) (word : Dword) (s : State) : Out :=
  .next <|
    if (s.die die).eye.inbox.length ≥ inboxSize then updEye s die (fun e => { e with refused := e.refused + 1 })
    else
      let s1 := updEye s die (fun e => { e with inbox := e.inbox ++ [word] })
      { s1 with blocks := s1.blocks.map (fun kb =>
          if (s.launch kb.2.tag).rec_.supv && (match kb.2.onPier with | some p => p / 64 == die | none => false)
          then (kb.1, setEvents kb.2) else kb) }

/-- A management read returns and removes the oldest outbox entry; VALID reads 0 when there is none (R273). -/
def execOutboxRead (die : Nat) (s : State) : Out :=
  .next (match (s.die die).eye.outbox with
    | [] => { s with sent := s.sent ++ [.outbox 0 0 0 false] }
    | (w, q, t) :: r =>
      let s1 := updEye s die (fun e => { e with outbox := r })
      { s1 with sent := s1.sent ++ [.outbox w q t true] })

end Sys2Proof.Machine
end

