-- ==== Sys2Proof/Machine/Issue.lean ====
section
/-! DEFINITION. Issue: readiness and picking (R215 to R219), fetching and its checks (R49 to R51, R53), the
decoding checks (R67), breakpoints, halt and step (R197, R329), and what begins and ends an issued slot or pair. -/
namespace Sys2Proof.Machine

/-! ## Waits -/

/-- Results of a group's lanes that a W mark waits for (R56). -/
def outstanding (s : State) (b g : Nat) : Bool :=
  let mine (k l : Nat) : Bool := k == b && l / 32 == g
  s.lres.any (fun r => mine r.blk r.lane) ||
  s.memops.any (fun m => mine m.blk m.lane && !m.dead && m.kind != .red && m.kind != .acq) ||
  allLanes.any (fun j => (s.lane b (32 * g + j)).localOps.any (fun o => o.kind != .red && o.kind != .st)) ||
  s.mrdas.any (fun m => mine m.blk m.lane) ||
  (s.grp b g).insts.any (fun i => maskedL i.op) ||
  s.sgreqs.any (fun r => mine r.blk r.lane && r.live s &&
    (match r.kind with | .bar | .leave | .close | .lost => false | _ => true)) ||
  s.dies.any (fun d => d.2.orrery.any (fun e => e.2.arrivals.any (fun a =>
    mine a.req.blk a.req.lane && a.req.live s && a.req.kind.acquires)))

/-- The lanes of a mask of group `g` as lanes of the block. -/
def groupLanes (g : Nat) (m : Word) : List Nat := (maskLanes m).map (fun j => 32 * g + j)

/-- A load or atomic of a group's lanes, or the fill that it waits for, found its budget spent: its group parks (R343). -/
def budgetHeld (s : State) (b g : Nat) : Bool :=
  let w := (s.part (s.launch (s.block b).tag).part).waited
  !w.isEmpty && s.memops.any (fun m => m.blk == b && m.lane / 32 == g && m.kind != .acq && w.any (fun x => x.2 == m.id ||
    (s.core m.core).fills.any (fun f => f.id == x.2 && f.line == wordKey m.ptr (tagPasid s (s.block b).tag) / 32)))

/-- A group's wait as a whole is over. -/
def gparkDone (s : State) (p b g : Nat) : Bool :=
  match (s.grp b g).park with
  | .none => true
  | .wmark => !outstanding s b g
  | .release m => (groupLanes g m).all (fun l => releaseOk s b l s.seq)
  | .recordSpace => (s.core p).record.length < recordSize
  | .presence ls _ => ls.all (fun x => (tfind x.2.2.2 (s.block x.2.2.1).absent).isNone)
  | .outbox rest => rest.isEmpty
  | .sealLimit m => (groupLanes g m).all (fun l => (s.lane b l).unfinished < sealLimitN)
  | .fence _ _ => false

/-! ## Picking (R218, R219) -/

/-- The blocks of a cooperative launch are all resident, or have retired (R214). -/
def coopWhole (s : State) (tag : Nat) : Bool :=
  let l := s.launch tag
  !l.rec_.coop || (l.nextSpan * l.rec_.span > l.rec_.maxBlk && l.again.isEmpty &&
    s.blocks.all (fun b => b.2.tag != tag ||
      (match b.2.place with | .resident _ | .saving _ | .retired _ => true | .nowhere => false | .saved => false)))

/-- The launch of a block is running. -/
def launchRuns (s : State) (tag : Nat) : Bool :=
  (s.launch tag).used && !(s.launch tag).terminating && !(s.launch tag).complete && coopWhole s tag &&
  !s.frozen (s.launch tag).part

/-- A batch waits in the sense of R217. -/
def laneParked (l : Lane) : Bool :=
  match l.park with
  | .run | .stopped | .trapPending => false
  | _ => true

/-- A lane of a live fibre that does not wait. -/
def laneFree (l : Lane) : Bool := l.live && l.park == .run

/-- What a pick of a group would do: a run, a stepped run, HALT_REQ, a cause that lanes took with them into a wait, or
the posts that a DBGMB still owes. -/
inductive PickKind where
  | run | step | haltReq | due | post
  deriving DecidableEq, Repr

/-- A fibre of a block is in handler mode. -/
def blockHandler (x : Block) : Bool := (blockLanes x).any (fun l => (x.lane l).live && (x.lane l).hmode)

/-- A lane may take the cause that is due to it: a DEADLINE_RISK waits for every handler of the block (R202). -/
def dueNow (x : Block) (g l : Nat) : Bool :=
  match (x.lane l).due with
  | none => false
  | some c => !inHandler x g && (x.grp g).pending.isEmpty && (c.1 != Code.deadlineRisk || !blockHandler x)

/-- Entries free in the outbox of a pier's die. -/
def outboxRoom (s : State) (p : Nat) : Nat := outboxSize - (s.die (p / 64)).eye.outbox.length

/-- A group that posts has room for a word. -/
def canPost (s : State) (p : Nat) (q : Group) : Bool :=
  match q.park with
  | .outbox rest => !rest.isEmpty && 0 < outboxRoom s p
  | _ => false

/-- The lanes of a group that a pick may choose from, and what it does with the batch (R197, R199, R202, R218,
R329). -/
def candidates (s : State) (p b g : Nat) : Option (PickKind × List Nat) :=
  let x := s.block b
  let q := x.grp g
  let all := (allLanes.map (fun j => 32 * g + j)).filter (fun l => laneFree (x.lane l))
  let due := all.filter (dueNow x g)
  let free := all.filter (fun l => (x.lane l).due.isNone)
  let hm := free.filter (fun l => (x.lane l).hmode)
  if !launchRuns s x.tag || x.place != .resident p then none
  else if canPost s p q then some (.post, [])
  else if !gparkDone s p b g || budgetHeld s b g then none
  else if !due.isEmpty then some (.due, due)
  else if free.isEmpty then none
  else if !x.haltMask.getLsbD g then some (.run, free)
  else if !hm.isEmpty then some (.run, hm)
  else if inHandler x g || !q.pending.isEmpty then none
  else if q.haltReq && (s.launch x.tag).rec_.handler != 0 then some (.haltReq, free)
  else if stepping s p x g && !q.stepped then some (.step, free)
  else none

/-- The groups of a scheduler: block and group number. -/
def schedGroups (s : State) (p sc : Nat) : List (Nat × Nat) :=
  s.blocks.flatMap (fun kb =>
    if kb.2.onPier == some p then
      ((List.range kb.2.groups).filter (fun g => (kb.2.grp g).sched == sc)).map (fun g => (kb.1, g))
    else [])

/-- The element with the least key, the earlier one on a tie. -/
def leastBy {α : Type} (key : α → Nat × Nat) : List α → Option α
  | [] => none
  | a :: r =>
    match leastBy key r with
    | none => some a
    | some b =>
      if (key b).1 < (key a).1 || ((key b).1 == (key a).1 && (key b).2 < (key a).2) then some b else some a

/-- A group enters the active set. -/
def activate (s : State) (x : Nat × Nat) : State :=
  let s1 := s.tick
  s1.updGrp x.1 x.2 (fun q => { q with active := true, entered := s.seq, parkedFor := 0, readyFor := 0 })

def activeSize : Nat := 8

/-- Pending groups enter the active set while it has room (R217). -/
def fillActive : Nat → State → Nat → Nat → State
  | 0, s, _, _ => s
  | n + 1, s, p, sc =>
    let gs := schedGroups s p sc
    let act := gs.filter (fun x => (s.grp x.1 x.2).active)
    let pend := gs.filter (fun x => !(s.grp x.1 x.2).active)
    if act.length ≥ activeSize then s
    else match leastBy (fun x => ((s.grp x.1 x.2).placed, 0)) pend with
      | none => s
      | some x => fillActive n (activate s x) p sc

/-- The batch a pick takes among lanes: the one that ran longest ago, with every ready lane at its program counter
in its handler mode (R215, R219). -/
def pickBatch (x : Block) (ls : List Nat) : List Nat :=
  match leastBy (fun l => ((x.lane l).lastRun, l)) ls with
  | none => []
  | some l0 => ls.filter (fun l => (x.lane l).pc == (x.lane l0).pc && (x.lane l).hmode == (x.lane l0).hmode)

/-- The lanes of a list with one program counter each, in order of their lowest lanes. -/
def batchesOf (x : Block) (ls : List Nat) : List (List Nat) :=
  ((ls.map (fun l => (x.lane l).pc)).eraseDups).map (fun pc => ls.filter (fun l => (x.lane l).pc == pc))

/-- Deliver a cause outside an instruction to lanes of one batch. -/
def deliver (s : State) (b g : Nat) (ls : List Nat) (code : BitVec 8) (val : Dword) : State :=
  let pc := (match ls with | l :: _ => (s.lane b l).pc | [] => 0)
  raiseCause s b g { code := code, pc := pc, val := val, mask := lanesMask ls } pc

/-- A batch takes the cause due to it. A DEADLINE_RISK went to one batch: where its lanes' waits end one after the other,
the lanes that go on first take it for all of them, once (R202; log entry 123). -/
def takeBatch (b g : Nat) (st : State) (ks : List Nat) : State :=
  match ks with
  | [] => st
  | k :: _ =>
    match (st.lane b k).due with
    | none => st
    | some c =>
      let mine := if c.1 == Code.deadlineRisk then groupLanes g (BitVec.allOnes 32) else ks
      let s1 := st.updBlock b (fun y => overLanes y mine (fun _ l => if l.due == some c then { l with due := none } else l))
      if (st.launch (st.block b).tag).rec_.handler == 0 then s1 else deliver s1 b g ks c.1 c.2

/-- Lanes take the causes due to them, one batch after the other; without a handler nothing is delivered (R189,
R329). -/
def takeDue (s : State) (b g : Nat) (ls : List Nat) : State := (batchesOf (s.block b) ls).foldl (takeBatch b g) s

/-- A DBGMB goes on with its lanes, in ascending order, as far as the outbox has room (R199). -/
def postRest (s : State) (p b g : Nat) : State :=
  match (s.grp b g).park with
  | .outbox rest =>
    let n := outboxRoom s p
    let s1 := (rest.take n).foldl (fun st e => postAt st (p / 64) b e) s
    s1.updGrp b g (fun q => { q with park := if (rest.drop n).isEmpty then .none else .outbox (rest.drop n) })
  | _ => s

/-- ISSUE_SCHEDULER_PICK. -/
def execIssueSchedulerPick (pier sched : Nat) (s : State) : Out :=
  .next <|
    if (s.run? pier sched).isSome then s
    else
      let s0 := fillActive activeSize s pier sched
      let cs := (schedGroups s0 pier sched).filter (fun x =>
        (s0.grp x.1 x.2).active && (candidates s0 pier x.1 x.2).isSome)
      match leastBy (fun x => ((s0.grp x.1 x.2).lastRun, (s0.grp x.1 x.2).born)) cs with
      | none => s0
      | some (b, g) =>
        match candidates s0 pier b g with
        | none => s0
        | some (k, ls) =>
          let batch := pickBatch (s0.block b) ls
          match k with
          | .haltReq =>
            deliver (s0.updGrp b g (fun q => { q with haltReq := false })) b g batch Code.haltReq (BitVec.ofNat 64 g)
          | .due => takeDue s0 b g ls
          | .post => postRest s0 pier b g
          | _ =>
            let s1 := s0.updGrp b g (fun q => { q with park := .none, parkedFor := 0 })
            let r : Run := { id := s1.seq, blk := b, grp := g, lanes := lanesMask batch, single := k == .step }
            { s1.tick with runs := tins (4 * pier + sched) r s1.runs }

/-- The oldest ready pending group of a scheduler (R217). -/
def readyPending (s : State) (p sc : Nat) : Option (Nat × Nat) :=
  leastBy (fun x => (2 ^ 64 - (s.grp x.1 x.2).readyFor, (s.grp x.1 x.2).placed))
    ((schedGroups s p sc).filter (fun x => !(s.grp x.1 x.2).active && (candidates s p x.1 x.2).isSome))

/-- An active group leaves the active set for a pending one. -/
def exchange (s : State) (out in_ : Nat × Nat) : State :=
  activate (s.updGrp out.1 out.2 (fun q => { q with active := false, parkedFor := 0, readyFor := 0 })) in_

/-- A group executes a run. -/
def running (s : State) (b g : Nat) : Bool := s.runs.any (fun r => r.2.blk == b && r.2.grp == g)

/-- Every live fibre of a group stands parked: its group waits as a whole, or each lane waits for itself (R217). -/
def groupParked (s : State) (p b g : Nat) : Bool :=
  let x := s.block b
  let live := (allLanes.map (fun j => x.lane (32 * g + j))).filter (·.live)
  !live.isEmpty && (((x.grp g).park != .none && !gparkDone s p b g) || budgetHeld s b g || live.all laneParked)

/-- Every batch of a group is parked or halted (R225). -/
def groupIdle (s : State) (p b g : Nat) : Bool :=
  let x := s.block b
  let live := (allLanes.map (fun j => x.lane (32 * g + j))).filter (·.live)
  groupParked s p b g || (!live.isEmpty && x.haltMask.getLsbD g && live.all (fun l => laneParked l || !l.hmode))

/-- GROUP_DEMOTE: an active group with every batch parked or halted for 64 cycles gives its place to a ready one. -/
def execGroupDemote (blk grp : Nat) (s : State) : Out :=
  let q := s.grp blk grp
  .next (match (s.block blk).onPier with
    | none => s
    | some p =>
      if q.active && q.parkedFor ≥ 6400 && groupIdle s p blk grp && !running s blk grp then
        (match readyPending s p q.sched with | some x => exchange s (blk, grp) x | none => s)
      else s)

/-- The active groups of a scheduler. -/
def activeGroups (s : State) (p sc : Nat) : List (Nat × Nat) :=
  (schedGroups s p sc).filter (fun x => (s.grp x.1 x.2).active)

/-- A ready pending group may become active: its scheduler's active set has room again, or it has been ready for 4,096 cycles
(R217, R220). -/
def promotable (s : State) (p b g : Nat) : Bool :=
  let q := s.grp b g
  !q.active && (candidates s p b g).isSome && ((activeGroups s p q.sched).length < activeSize || 409600 ≤ q.readyFor)

/-- GROUP_PROMOTE: a ready pending group enters an active set that has room; one ready for 4,096 cycles takes the place of the
active group that entered longest ago, and a run that this group executes goes on to its end. -/
def execGroupPromote (blk grp : Nat) (s : State) : Out :=
  let q := s.grp blk grp
  .next (match (s.block blk).onPier with
    | none => s
    | some p =>
      if !promotable s p blk grp || (s.block blk).groups ≤ grp then s
      else if (activeGroups s p q.sched).length < activeSize then activate s (blk, grp)
      else match leastBy (fun x => ((s.grp x.1 x.2).entered, 0)) (activeGroups s p q.sched) with
        | some x => exchange s x (blk, grp)
        | none => s)

/-- PRESENCE_TIMEOUT (R122, R224): the lanes whose lines are still absent fault at their slot. -/
def execPresenceTimeout (blk grp : Nat) (s : State) : Out :=
  .next (match (s.grp blk grp).park with
    | .presence ls w =>
      if w < 2 ^ 24 * 100 then s
      else
        let gone := ls.filter (fun x => (tfind x.2.2.2 (s.block x.2.2.1).absent).isSome)
        match gone with
        | [] => s
        | x :: _ =>
          let pc := (s.lane blk x.1).pc
          raiseCause (s.updGrp blk grp (fun q => { q with park := .none })) blk grp
            { code := Code.presenceTimeout, pc := pc, val := x.2.1, mask := lanesMask (gone.map (·.1)) } pc
    | _ => s)

/-! ## Fetch (R50, R51) -/

inductive Fetched where
  | line (bytes : List Byte)
  /-- The PAR bits do not match: it is fetched once more. -/
  | refetch
  /-- A link or a budget holds it back: the batch waits where it stands. -/
  | waits
  | fault (code : BitVec 8) (cause : Nat)
  deriving DecidableEq, Repr

/-- Lines of 64 B in a pier's L1 instruction cache (R8). -/
def l1iLines : Nat := 1024

/-- The L1 instruction cache takes a line; where it is full a free value names the one it replaces (log entry 107). -/
def instrInstall (s : State) (p key : Nat) (x : List Byte) : State :=
  let ks := ((s.core p).l1i.map (·.1)).filter (· != key)
  if ks.length < l1iLines then s.updCore p (fun c => { c with l1i := tins key x c.l1i })
  else
    let d := s.drawFree
    d.2.updCore p (fun c => { c with l1i := tins key x (tdel (ks.getD (d.1.toNat % ks.length) 0) c.l1i) })

/-- A fetch's read of its home for the run of order number `q`, true with its charge where it is admitted: from the home's copy, else a line or a chunk
of memory (R342, R343). -/
def fetchHome (s : State) (part q pa pol : Nat) : State × Bool :=
  let al := allocates s part pa pol
  if inSlice s pa then (sliceTouch s pa, true)
  else if !budgetOk s part 0 q then (stall s part 0 q, false)
  else
    let t := charge s part 0 q (if al then 128 else 64)
    (if al then sliceFill t part (pa / 128) else t, true)

/-- The issue stage receives a line. On a miss it takes the 64 bytes as they stand at their home, one of the lines that
R51 allows (log entry 102). -/
def fetchLine (s : State) (p tag q : Nat) (pc : Dword) : State × Fetched :=
  let on := l1iOn s p
  let key := pc.toNat / 64
  let l := s.launch tag
  match (if on then tfind key (s.core p).l1i else none) with
  | some x =>
    if !leased l.rec_ (pcLine pc).toNat 64 then (s, .fault codeLease 6)
    else if lineGood x then (s, .line x)
    else (s.updCore p (fun c => { c with l1i := tdel key c.l1i }), .refetch)
  | none =>
    match xlatGlobal s l.part (some l.rec_) (pcLine pc) 64 .read with
    | .ok pa lf =>
      match fetchHome (setU s lf) l.part q pa lf.pol with
      | (s1, false) => (s1, .waits)
      | (s1, true) =>
        let x := rdBytes s1.mem pa 64
        if chunkPoisoned s1 pa || !lineGood x then (s1, .refetch)
        else (if on then instrInstall s1 p key x else s1, .line x)
    | .fault c k => (s, .fault c k)
    | .waits => (s, .waits)

/-- A batch that cannot fetch its line stays where it is until the termination (R50, R51). -/
def stopFetch (s : State) (b g : Nat) (ls : List Nat) (pc : Dword) (code : BitVec 8) (cause : Nat) : State :=
  let x := s.block b
  report (s.updBlock b (fun y => stopLanes y g (lanesMask ls))) x.tag
    { code := code, cause := cause, lane := (match ls with | [l] => l | _ => 0xFFFF), block := x.idx, pc := pc,
      addr := pcLine pc }

/-- The refetch for the batch `ls` of a run returns from memory, past the L1 and the home slice, which it leaves as they
are; it reads a chunk over its memory link (R50, R342). The run goes on, or ends with its line. -/
def refetchReturn (s : State) (p sc : Nat) (r : Run) (ls : List Nat) (pc : Dword) : State :=
  let x := s.block r.blk
  let l := s.launch x.tag
  let go (t : State) : State := { t with runs := tins (4 * p + sc) { r with refetch := false } t.runs }
  match xlatGlobal s l.part (some l.rec_) (pcLine pc) 64 .read with
  | .ok pa lf =>
    if !budgetOk s l.part 0 r.id then stall s l.part 0 r.id else
    let s2 := charge (setU s lf) l.part 0 r.id 64
    let bytes := rdBytes s2.mem pa 64
    if chunkPoisoned s2 pa then go (stopFetch s2 r.blk r.grp ls pc Code.poison 9)
    else if lineGood bytes then
      go (if l1iOn s p then instrInstall s2 p (pc.toNat / 64) bytes else s2)
    else go (raiseCause s2 r.blk r.grp { code := Code.lineParity, pc := pc, val := pcLine pc, mask := lanesMask ls } pc)
  | .fault c k => go (stopFetch s r.blk r.grp ls pc c k)
  | .waits => s

/-- LINE_REFETCH_RETURN: the refetch that the scheduler's run waits for. -/
def execLineRefetchReturn (pier sched : Nat) (s : State) : Out :=
  .next (match s.run? pier sched with
    | none => s
    | some r =>
      let x := s.block r.blk
      match r.refetch, (groupLanes r.grp r.lanes).filter (fun l => laneFree (x.lane l)) with
      | true, l0 :: ls => refetchReturn s pier sched r (l0 :: ls) (x.lane l0).pc
      | _, _ => s)

/-! ## Decoding checks (R67, orders 3 to 8) -/

/-- The slot that QNT names holds BLK 64; the slot that MRDA names is BF16 or F16. -/
def slotBlk64 (r : LaunchRec) (f : Fields) : Bool := (slotAt r (f.subBits 34 32)).blk == 64
def slotWide (r : LaunchRec) (f : Fields) : Bool :=
  let t := (slotAt r (f.subBits 37 35)).fmt
  t == .bf16 || t == .f16

/-- The first decoding check that a word fails, with its TRAPVAL. Where several operands break R60, TRAPVAL is the first
one's index in the order D, SA, SB, SC (log entry 124). -/
def decodeFault (w : BitVec 96) (r : LaunchRec) (hm : Bool) : Option (BitVec 8 × Dword) :=
  let op := wordOp w
  let f := wordFields w
  let idx := f.imm.toNat % 4096
  match encRow op with
  | none => some (Code.illegalOpcode, BitVec.ofNat 64 op)
  | some row =>
    if op == 0xFF || (op == 0xF2 && !hm) then some (Code.illegalOpcode, BitVec.ofNat 64 op)
    else if supervisorOnly op f && !r.supv then
      some (Code.privilege, BitVec.ofNat 64 (if op == 0xF8 then op else idx))
    else if !fieldsOk row f || ((op == 0xF3 || op == 0xF4) && sysHandler idx && !hm) then
      some (Code.reservedField, (w.extractLsb' 32 32).setWidth 64)
    else
      let rs := regOperands op f (slotBlk64 r f) (slotWide r f)
      match rs.find? (fun x => x.1 ≥ r.window) with
      | some x => some (Code.windowRange, BitVec.ofNat 64 x.1)
      | none =>
        match rs.find? (fun x => x.1 % x.2 != 0) with
        | some x => some (Code.operandAlign, BitVec.ofNat 64 x.1)
        | none => (slotFault op f r).map (fun n => (Code.formatSlot, BitVec.ofNat 64 n))

/-! ## Poisoned registers (R359) -/

/-- Opcodes whose D field is a source. -/
def dIsSource (op : Nat) : Bool := [0xD1, 0xD5, 0xD6, 0xD9].contains op

/-- The first register operand of an opcode is D, and D is written. -/
def writesD (op : Nat) (f : Fields) : Bool :=
  !dIsSource op && (match encRow op with | some r => r.d == .reg | none => false) &&
  (op != 0x71 || f.subBits 33 32 == 3)

/-- The registers an instruction reads. -/
def readRegs (op : Nat) (f : Fields) (r : LaunchRec) : List (Nat × Nat) :=
  let rs := regOperands op f (slotBlk64 r f) (slotWide r f)
  if writesD op f then rs.drop 1 else rs

/-- A lane that reads a poisoned register reports it; ADDR is an open value (log entry 5). -/
def reportPoison (s : State) (op : Nat) (f : Fields) (ls : List Nat) : State :=
  if s.curBlock.regPoison.isEmpty then s
  else
    let bad := ls.filter (fun l => (readRegs op f s.curRec).any (fun x => regsPoisoned s.curBlock l x.1 x.2))
    bad.foldl (fun st l =>
      let d := st.drawFree
      reportLane d.2 s.cur.blk l s.cur.pc Code.poison 9 d.1) s

/-- The registers an interlocked instruction has written whole are good again. -/
def healRegs (s : State) (op : Nat) (f : Fields) (ls : List Nat) : State :=
  if s.curBlock.regPoison.isEmpty || longLatency op || !writesD op f then s
  else
    match regOperands op f false false with
    | (d, n) :: _ => s.updCurBlock (fun b => { b with regPoison := b.regPoison.filter (fun r =>
        !ls.any (fun l => 512 * l + d ≤ r && r < 512 * l + d + n)) })
    | [] => s

/-! ## Issuing a slot or a pair -/

/-- One slot about to be issued: its instruction, opcode and fields, and its lanes with guard 1. -/
structure SlotIssue where
  i   : Instr
  op  : Nat
  f   : Fields
  act : List Nat
  /-- The batch is in handler mode. -/
  hm  : Bool
  deriving DecidableEq, Repr

/-- What a scheduler does with the next slot of its run. -/
inductive Prepared where
  /-- Nothing issues. -/
  | done (s : State)
  | one (a : SlotIssue) (s : State)
  /-- A pair (R58). -/
  | two (a b : SlotIssue) (s : State)

/-- The run of a scheduler ends: its lanes and its group have run last now (R219). -/
def closeRun (s : State) (p sc : Nat) : State :=
  match s.run? p sc with
  | none => s
  | some r =>
    let s1 := s.tick
    let s2 := s1.updBlock r.blk (fun x =>
      ((overLanes x (groupLanes r.grp r.lanes) (fun _ l => if l.live then { l with lastRun := s.seq } else l))
        : Block).updGrp r.grp (fun q => { q with lastRun := s.seq }))
    { s2 with runs := tdel (4 * p + sc) s2.runs }

/-- Lanes of a run that stand outside handler mode and do not wait. -/
def freeOutside (x : Block) (g : Nat) (m : Word) : List Nat :=
  (groupLanes g m).filter (fun l => laneFree (x.lane l) && !(x.lane l).hmode)

/-- A stepped run ends: each batch that results takes STEP, now or when its wait ends; a group whose lanes all went back
to the slot has issued nothing (R197, R329). -/
def stepTraps (s : State) (r : Run) : State :=
  let x := s.block r.blk
  if (groupLanes r.grp r.lanes).all (fun l => s.cur.again.getLsbD (l % 32)) then
    s.updGrp r.blk r.grp (fun q => { q with stepped := false })
  else if (x.grp r.grp).park != .none then s
  else takeDue s r.blk r.grp ((freeOutside x r.grp (BitVec.allOnes 32)).filter (fun l => (x.lane l).due.isSome))

/-- The group waits inside its instruction, which has issued. -/
def insidePark : GPark → Bool
  | .outbox _ | .fence _ _ => true
  | _ => false

/-- The batch of a run's lowest lane outside handler mode that takes a cause at the run's boundary. -/
def boundaryBatch (x : Block) (g : Nat) (m : Word) : List Nat :=
  let ls := (groupLanes g m).filter (fun l =>
    let y := x.lane l
    y.live && !y.hmode && y.due.isNone && y.park != .stopped && y.park != .trapPending)
  match ls with
  | [] => []
  | l0 :: _ => ls.filter (fun l =>
      (x.lane l).pc == (x.lane l0).pc && ((x.lane l).park == .run) == ((x.lane l0).park == .run))

/-- A run boundary: a pending DEADLINE_RISK goes to its batch, unless a group of the block is in handler mode; a batch
that parks inside its instruction takes the cause when its wait ends (R202). -/
def riskTrap (s : State) (r : Run) : State :=
  let x := s.block r.blk
  match x.risk, boundaryBatch x r.grp r.lanes with
  | v :: vs, l :: ls =>
    if blockHandler x || (x.grp r.grp).pending != [] || (s.launch x.tag).rec_.handler == 0 then s
    else
      let s1 := s.updBlock r.blk (fun y => { y with risk := vs })
      if (x.lane l).park == .run && !insidePark (x.grp r.grp).park then
        deliver s1 r.blk r.grp (l :: ls) Code.deadlineRisk v
      else s1.updBlock r.blk (fun y => overLanes y (l :: ls) (fun _ z => { z with due := some (Code.deadlineRisk, v) }))
  | _, _ => s

/-- The end of a run that issued, with what is delivered at it. -/
def endOfRun (s : State) (p sc : Nat) (r : Run) : State :=
  let s1 := closeRun s p sc
  if !launchRuns s1 (s1.block r.blk).tag then s1
  else if r.single then stepTraps s1 r else riskTrap s1 r

/-- The end of a run at a slot that did not issue: a stepped group has not stepped (R329). -/
def endAtSlot (s : State) (p sc : Nat) (r : Run) : State :=
  if r.single then closeRun s p sc else endOfRun s p sc r

/-- The operands of lanes as they stand, for a second slot `b` (R58). -/
def snapshot (s : State) (b : SlotIssue) (ls : List Nat) : List (Nat × Src) :=
  ls.map (fun l => (l, { State.liveSrc s.curBlock l with seen := seenNow b.op b.f s l }))

/-- The second slot of a pair is to find the operands and the convergence registers of this moment (R58). -/
def pendPair (s : State) (b : SlotIssue) : State :=
  { s with cur := { s.cur with
      pend := some (snapshot s b (groupLanes s.cur.grp (BitVec.allOnes 32)), s.curBlock.cvs) } }

/-- A slot's instruction, where its word passed the decoding checks. -/
def slotIssue (s : State) (w : BitVec 96) (hm : Bool) (ls : List Nat) : Option SlotIssue :=
  match decodeWord w with
  | .ok i => some { i := i, op := wordOp w, f := wordFields w, hm := hm,
                    act := ls.filter (fun l => guardOn (wordFields w) (s.src l)) }
  | .error _ => none

/-- The lowest enabled BPA that equals one of the program counters (R197). -/
def breakAt (x : Pier) (pcs : List Dword) : Option Nat :=
  (List.range 4).find? (fun k => x.dbgctl.getLsbD k && pcs.any (fun pc => tget 0 x.bpa k == pc))

/-- Raise a decoding fault on every lane of the batch. -/
def decodeRaise (s : State) (ls : List Nat) (pc : Dword) (c : BitVec 8 × Dword) : State :=
  raiseFaults s (ls.map (fun l => { lane := l, code := c.1, val := c.2 })) pc pc

/-- Instructions of a run (R57). -/
def maxRun : Nat := 24

/-- The checks that precede an issued slot, from the line on; `ls` are the lanes of the batch. A pair that would pass the
24th instruction ends the run before it (log entry 125). -/
def issueFrom (s : State) (p sc : Nat) (r : Run) (ls : List Nat) (pc : Dword) (line : List Byte) : Prepared :=
  let x := s.block r.blk
  let rc := (s.launch x.tag).rec_
  let hm := (match ls with | l :: _ => (x.lane l).hmode | [] => false)
  let fail (t : State) : Prepared := .done (endAtSlot t p sc r)
  let w1 := lineSlot line (pcSlot pc)
  let pair := linePair line (pcSlot pc)
  let w2 := lineSlot line (pcSlot pc + 1)
  let f1 := wordFields w1
  if pair && r.count + 2 > maxRun then fail s
  else if !lineSound line then fail (decodeRaise s ls pc (Code.reservedField, BitVec.ofNat 64 (lineWord line)))
  else match decodeFault w1 rc hm with
  | some c => fail (decodeRaise s ls pc c)
  | none =>
    match (if pair then decodeFault w2 rc hm else none) with
    | some c => fail (decodeRaise s ls (pc + 1) c)
    | none =>
      let fresh := ls.filter (fun l => (x.lane l).entering)
      if !fresh.isEmpty && !lineTgt line (pcSlot pc) then
        fail (decodeRaise (s.updBlock r.blk (fun y => overLanes y fresh (fun _ l => { l with entering := false })))
          fresh pc (Code.badTarget, pc))
      else if f1.w && outstanding s r.blk r.grp then
        fail (s.updGrp r.blk r.grp (fun q => { q with park := .wmark }))
      else
        let hit := ls.filter (fun l => !(x.lane l).skip)
        let brk := if hm then none else breakAt (s.pier p) (if pair then [pc, pc + 1] else [pc])
        match brk, hit with
        | some k, l0 :: t =>
          fail (decodeRaise s (l0 :: t) pc (Code.breakpoint, BitVec.ofNat 64 k))
        | _, _ =>
          let nxt := if pair then pc + 1 else pcNext pc
          let skips := lanesMask (ls.filter (fun l => (x.lane l).skip))
          let s1 := s.updBlock r.blk (fun y => (overLanes y ls (fun _ l =>
            { l with pc := nxt, skip := false, entering := false, due := if r.single then some (Code.step, 0) else none })
            ).updGrp r.grp (fun q => { q with stepped := q.stepped || r.single }))
          let s2 : State := { s1 with cur := { s1.cur with next := nxt, skips := skips } }
          match slotIssue s2 w1 hm ls, (if pair then slotIssue s2 w2 hm ls else none) with
          | some a, some b =>
            .two a b (reportPoison (pendPair s2 b) a.op a.f a.act)
          | some a, none => .one a (reportPoison s2 a.op a.f a.act)
          | none, _ => .done s

/-- The next slot or pair of a scheduler's run. Sequential flow past the last line of the global window sets bit 63 of the
program counter, which no code lies at: BAD_TARGET (R52; log entry 126). -/
def prepareIssue (s : State) (p sc : Nat) : Prepared :=
  match s.run? p sc with
  | none => .done s
  | some r =>
    let x := s.block r.blk
    let ls := (groupLanes r.grp r.lanes).filter (fun l => laneFree (x.lane l))
    if !launchRuns s x.tag || x.onPier != some p then .done (closeRun s p sc)
    else if r.refetch then .done s
    else if budgetHeld s r.blk r.grp then .done (endAtSlot s p sc r)
    else match ls with
    | [] => .done (endAtSlot s p sc r)
    | l0 :: _ =>
      let pc := (x.lane l0).pc
      let s0 : State := { s with cur :=
        { pier := p, sched := sc, blk := r.blk, grp := r.grp, lanes := lanesMask ls, pc := pc, next := pcNext pc } }
      if pcSlot pc > 4 || pc.msb then .done (endAtSlot (decodeRaise s0 ls pc (Code.badTarget, pc)) p sc r)
      else
        let q := fetchLine s0 p x.tag r.id pc
        match q.2 with
        | .fault c k => .done (endAtSlot (stopFetch q.1 r.blk r.grp ls pc c k) p sc r)
        | .waits => .done q.1
        | .refetch => .done { q.1 with runs := tins (4 * p + sc) { r with refetch := true } q.1.runs }
        | .line bytes => issueFrom q.1 p sc r ls pc bytes

/-- Count an issued instruction in the lanes with guard 1 that have not gone back to issue it again (R204). -/
def countSlot (s : State) (a : SlotIssue) : State :=
  let ls := a.act.filter (fun l => !s.cur.again.getLsbD (l % 32))
  healRegs (s.updCurBlock (fun x => overLanes x ls (fun _ l => { l with inst := l.inst + 1 }))) a.op a.f ls

/-- A lane that the first slot of a pair left waiting keeps the second slot, with its operands of before the pair, until
that wait is over (R58; log entry 127). -/
def Lane.defer (pc : Dword) (hm : Bool) (x : Src) (y : Lane) : Lane :=
  { y with held := some { pc := pc, hm := hm, src := x }, skip := true, due := none }

/-- Go on to the second slot of a pair: for the lanes in which the first raised no fault and waits for nothing. -/
def secondSlot (a b : SlotIssue) (s : State) : State :=
  let s1 := countSlot s a
  let x := s1.curBlock
  let pc := s1.cur.next
  let snap := (s1.cur.pend.map (·.1)).getD []
  let old (l : Nat) : Src := ((snap.find? (fun e => e.1 == l)).map (·.2)).getD (State.liveSrc x l)
  let inside := insidePark (x.grp s1.cur.grp).park
  let on := s1.curLanes.filter (fun l =>
    let y := x.lane l
    y.live && y.pc == pc && y.hmode == a.hm && y.park != .stopped && y.park != .trapPending)
  let wait := on.filter (fun l => (x.lane l).park != .run || inside)
  let ls := on.filter (fun l => (x.lane l).park == .run && !inside)
  let fenced := s1.curLanes.filter (fun l => inside && (x.lane l).live && (x.lane l).pc == s1.cur.pc &&
    !s1.cur.again.getLsbD (l % 32))
  let s2 := s1.updCurBlock (fun z => overLanes (overLanes z (wait ++ fenced) (fun l y => y.defer pc a.hm (old l)))
    ls (fun _ l => { l with pc := pcNext pc }))
  let s3 : State := { s2 with cur := { s2.cur with
    lanes := lanesMask ls, pc := pc, next := pcNext pc, snap := some snap, cvs := s1.cur.pend.map (·.2), pend := none,
    again := s2.cur.again ||| lanesMask (wait ++ fenced) } }
  reportPoison s3 b.op b.f (b.act.filter (fun l => ls.contains l))

/-- What ends an issued slot or pair: the run goes on with the same lanes, or ends (R57). A last slot to which every
lane went back has not issued. -/
def finishIssue (p sc : Nat) (as_ : List SlotIssue) (last : SlotIssue) (s : State) : State :=
  let live := s.curLanes
  let s0 := countSlot s { last with act := last.act.filter (fun l => live.contains l) }
  let s1 := s0.updCurBlock (fun x => overLanes x (live.filter (fun l => !s.cur.again.getLsbD (l % 32)))
    (fun _ l => { l with held := none }))
  match s1.run? p sc with
  | none => s1
  | some r =>
    let x := s1.block r.blk
    let ls := groupLanes r.grp r.lanes
    let issued := if live.all (fun l => s.cur.again.getLsbD (l % 32)) then as_.dropLast else as_
    let n := r.count + issued.length
    let together := (batchesOf x ls).length == 1 && ls.all (fun l => laneFree (x.lane l) && (x.lane l).hmode == last.hm)
    if together && (x.grp r.grp).park == .none && !budgetHeld s1 r.blk r.grp && !s1.cur.ended && !issued.any (fun a => a.f.x) && n < maxRun &&
       !(r.single && !issued.isEmpty) && x.onPier == some p then
      { s1 with runs := tins (4 * p + sc) { r with count := n } s1.runs }
    else endOfRun s1 p sc r

end Sys2Proof.Machine
end

