-- ==== Sys2Proof/Machine/MemSteps.lean ====
section
/-! DEFINITION. The steps of the memory system: returns of loads and results, fills, drains, ownership, atomics and
the host's accesses (R120 to R126, R228 to R234, R241), with the activity budgets they wait for (R342, R343). -/
namespace Sys2Proof.Machine

/-! ## Results (R56) -/

/-- A result reaches its fibre; operands that it keeps follow a join (R148). -/
def writeResult (r : LRes) (l : Lane) : Lane :=
  let l1 := r.regs.foldl (fun (y : Lane) w => y.setReg w.1 w.2) l
  let l2 := match r.pred with | some (n, v) => l1.setPred n v | none => l1
  let l3 := match r.handle with
    | some (h, x) =>
      let y := l2.setHandle h x
      let follow (k : Held) : Held :=
        if (k.src.handle h).joining then { k with src := { k.src with handles := tput {} k.src.handles h x } } else k
      let z : Lane := { y with held := y.held.map follow }
      if z.park == Park.joinHeld h then { z with park := .run } else z
    | none => l2
  { l3 with fpstat := l3.fpstat ||| r.flags }

/-- L_RESULT_WRITE; a result that arrives while its block is saved is written after the restore (R255). -/
def execLResultWrite (k : Nat) (s : State) : Out :=
  .next (match s.lres.find? (fun r => r.id == k) with
    | none => s
    | some r =>
      if (s.block r.blk).place == .saved then s else
      let s1 := { s with lres := s.lres.filter (fun x => x.id != k) }
      let rs := r.regs.map (fun w => 512 * r.lane + w.1)
      let s2 := s1.updBlock r.blk (fun b =>
        let c := if (b.lane r.lane).live then b.updLane r.lane (writeResult r) else b
        { c with regPoison := if r.poison then rs.foldl (fun l x => addTo x l) c.regPoison
                              else c.regPoison.filter (fun x => !rs.contains x) })
      let s3 := if r.mop = 0 then s2 else settleRead s2 r.blk
      match r.acq with
      | some (q, pc) => if (s.lane r.blk r.lane).live then acquireSg s3 r.blk r.lane q pc else s3
      | none => s3)

/-! ## Ordering of a fibre's outstanding operations -/

/-- Words that an operation touches. -/
def MemOp.keys (s : State) (m : MemOp) : List Nat :=
  wordKeys m.ptr (tagPasid s (s.block m.blk).tag) (m.t.bits / 8)

/-- An operation may be performed as far as its fibre's order goes: no older operation on one of its words, and no
older acquire (R121, R126). -/
def inTurn (s : State) (m : MemOp) : Bool :=
  noAcquire s m.blk m.lane m.seq &&
  !s.memops.any (fun o => olderOp m.blk m.lane m.seq o && o.kind != .acq &&
    (o.keys s).any (fun k => (m.keys s).contains k))

def dropOp (s : State) (k : Nat) : State := { s with memops := s.memops.filter (fun m => m.id != k) }

/-- The acquire of an operation whose value has returned: complete, or outstanding in its place (R126). -/
def acquireOf (s : State) (m : MemOp) : State :=
  if !m.acquire || m.dead then dropOp s m.id
  else
    let s1 := dropOp s m.id
    if acquireOk s1 m.core m.blk m.lane m.seq then acquireNow s1 m.core m.blk m.lane
    else { s with memops := s.memops.map (fun o => if o.id == m.id then { o with kind := .acq, acquire := false } else o) }

/-- An operation returns words to its destination (R56). -/
def returnWords (s : State) (m : MemOp) (ws : List Word) : State :=
  if m.dead || m.kind == .red then s
  else pushL s { id := 0, blk := m.blk, lane := m.lane, regs := regPairs m.d ws }

/-- A deferred fault of an outstanding operation; its destination receives all ones (R119). -/
def failOp (s : State) (m : MemOp) (code : BitVec 8) (cause : Nat) : State :=
  let x := s.block m.blk
  let s1 := report s x.tag
    { code := code, cause := cause, jobk := if m.kind == .red then 9 else 0, lane := m.lane, block := x.idx,
      pc := m.pc, addr := m.ptr }
  acquireOf (returnWords s1 m (allOnes m.t)) m

/-! ## Loads (R120, R231, R232) -/

/-- Where an access of a record window goes: the bytes' place at the home or the host. -/
inductive Spot where
  | home (pa : Nat) (leaf : Leaf)
  | host (key : Nat)
  | fault (code : BitVec 8) (cause : Nat)
  | waits
  deriving DecidableEq, Repr

def spotOf (s : State) (tag : Nat) (p : Dword) (n : Nat) (k : AccKind) : Spot :=
  let l := s.launch tag
  if windowOf p = .host then
    (match hostCheck s l.pasid (some l.rec_) p n with
     | some (c, k) => .fault c k
     | none => .host (hostByteKey l.pasid (ptrOff56 p)))
  else match xlatGlobal s l.part (some l.rec_) p n k with
    | .ok pa lf => .home pa lf
    | .fault c k => .fault c k
    | .waits => .waits

/-- A byte of the record that another fibre wrote, with its entry (R232). -/
def otherBytes (s : State) (m : MemOp) : List (Contribution × Nat) :=
  (loadBytes (s.core m.core) m.blk m.ptr (tagPasid s (s.block m.blk).tag) (List.replicate (m.t.bits / 8) 0)
    (olderStore m.seq)).filterMap (fun b => match b.2.1 with
      | some x => if x.1.lane != m.lane || x.1.fib != (s.lane m.blk m.lane).fib then some x else none
      | none => none)

/-- A load that would take another fibre's bytes waits: an acquiring one until they have drained (R232), any other until
that fibre's loads before its store have returned (R238, No load buffering). -/
def loadWaits (s : State) (m : MemOp) : Bool :=
  let o := otherBytes s m
  (m.acquire && !o.isEmpty) || o.any (fun x => !readsDone s m.blk x.1.lane x.1.seq)

/-- The read of a load, of bytes `home` at its place; `bad` says that they are poisoned. -/
def loadRead (s : State) (m : MemOp) (home : List Byte) (bad : Bool) : State :=
  let bs := loadBytes (s.core m.core) m.blk m.ptr (tagPasid s (s.block m.blk).tag) home (olderStore m.seq)
  if loadBad (s.core m.core) m.blk m.ptr bs bad (olderStore m.seq) then failOp s m Code.poison 9
  else
    let v := leNat (bs.map (·.1))
    let s1 := s.updLane m.blk m.lane (fun l =>
      { l with tracked := (otherBytes s m).foldl (fun t e => addTo e.2 t) l.tracked })
    acquireOf (returnWords s1 m (resT m.t v)) m

/-- The fill of a core that is to bring the line of a load. -/
def fillFor (s : State) (m : MemOp) : Option Fill :=
  (s.core m.core).fills.find? (fun f => f.l1 && (m.keys s).any (fun k => k / 32 == f.line))

/-- A fill's read is admitted, charged to activity `k` and paid for once: the first that needs the line pays (R343). -/
def payFill (s : State) (core part k : Nat) (f : Fill) (act : State → State) : State :=
  if f.paid then act s
  else budgeted s part k f.id 128 (fun t => act (t.updCore core (fun c =>
    { c with fills := c.fills.map (fun g => if g.id == f.id then { g with paid := true } else g) })))

/-- A load's read of its home: from the home's copy of the line; with the line's outstanding fill; or of memory, a line
where the home keeps it and else a chunk (R118, R342). -/
def readHome (s : State) (m : MemOp) (part pa pol : Nat) (read : State → State) : State :=
  let al := allocates s part pa pol
  let keep (t : State) : State := if al then sliceFill t part (pa / 128) else t
  if inSlice s pa then read (sliceTouch s pa)
  else match fillFor s m with
    | some f => payFill s m.core part 0 f (fun t => read (keep t))
    | none => budgeted s part 0 m.id (if al then 128 else 64) (fun t => read (keep t))

/-- LOAD_RETURN: a load is performed, all its words at one instant (log entry 106), or an acquire completes. -/
def execLoadReturn (k : Nat) (s : State) : Out :=
  .next (match s.memops.find? (fun m => m.id == k) with
    | none => s
    | some m =>
      match m.kind with
      | .acq =>
        if (s.block m.blk).onPier == some m.core && noAcquire s m.blk m.lane m.seq && acquireOk s m.core m.blk m.lane m.seq then
          acquireNow (dropOp s k) m.core m.blk m.lane
        else s
      | .load =>
        if !inTurn s m || loadWaits s m then s else
        let tag := (s.block m.blk).tag
        let part := (s.launch tag).part
        let n := m.t.bits / 8
        let far := needsHome (s.core m.core) m.blk m.ptr (tagPasid s tag) n m.seq
        (match spotOf s tag m.ptr n .read with
         | .fault c k => failOp s m c k
         | .waits => s
         | .host key =>
           let read (t : State) : State := loadRead t m (rdBytes t.hostMem key n) false
           if !far then read s
           else (match fillFor s m with
             | some f => payFill s m.core part 5 f read
             | none => budgeted s part 5 k n read)
         | .home pa lf =>
           let read (st : State) : State :=
             let t := setU st lf
             loadRead t m (rdBytes t.mem pa n) (chunkPoisoned t pa)
           if far then readHome s m part pa (m.pol.getD lf.pol) read else read s)
      | _ => s)

/-! ## Fills (R231) -/

/-- Lines of 128 B in a pier's L1 data cache (R8). -/
def l1Lines : Nat := 2048

/-- The L1 data cache makes room for a line: where it is full another one is replaced, a line marked so first (R118).
Which of several is open: a free value (log entry 107). -/
def lineRoom (s : State) (core line : Nat) : State :=
  let c := s.core core
  let ls := (c.l1.map (·.1 / 32)).eraseDups
  if ls.contains line || ls.length < l1Lines then s
  else
    let marked := ls.filter (fun l => c.strm.contains l)
    let pool := if marked.isEmpty then ls else marked
    let d := s.drawFree
    cacheDrop d.2 core (pool.getD (d.1.toNat % pool.length) 0)

/-- A valid copy of a word that the core owns equals the home's: the acknowledgements of its grant are in (R231). -/
def settledWord (s : State) (c : Core) (k : Nat) : Bool :=
  (tfind k c.owned).isSome && !c.record.any (fun e => e.acks != 0 && k / 16 == e.key s / 16)

/-- Install the words of a line: those that are not valid and not excluded. -/
def installLine (s : State) (core : Nat) (f : Fill) (mark : Bool) (word : Nat → Option Word) : State :=
  let s := lineRoom s core f.line
  s.updCore core (fun c0 =>
    let c0 := { c0 with strm := if mark then addTo f.line c0.strm else c0.strm.filter (· != f.line) }
    (List.range 32).foldl (fun (c : Core) i =>
      let k := 32 * f.line + i
      if (tfind k c.l1).isSome || f.excluded.contains k then c
      else match word i with
        | none => c
        | some w => { c with l1 := tins k w c.l1,
                             l1Owned := if settledWord s c k then addTo k c.l1Owned
                                        else c.l1Owned.filter (· != k) }) c0)

def delFill (s : State) (core id : Nat) : State :=
  s.updCore core (fun c => { c with fills := c.fills.filter (fun f => f.id != id) })

/-- L1_FILL_RETURN: a fill that cannot be translated, or returns to a cache that is off or was dropped, installs
nothing. -/
def execL1FillReturn (pier k : Nat) (s : State) : Out :=
  .next (match (s.core pier).fills[k]? with
    | none => s
    | some f =>
      let p := keyPtr (32 * f.line)
      let l := s.launch f.tag
      let on := l1On s pier && !f.dropped && f.l1
      if windowOf p = .host then
        let pasid := keyPasid (32 * f.line)
        if f.l1 && s.hostPages.contains (hostPageKey pasid (ptrOff56 p)) then
          payFill s pier l.part 5 f (fun t =>
            let t1 := delFill t pier f.id
            if on then installLine t1 pier f (f.pol == some 1) (fun i =>
              some (BitVec.ofNat 32 (rdNat t.hostMem (hostByteKey pasid (ptrOff56 p) + 4 * i) 4)))
            else t1)
        else delFill s pier f.id
      else match xlatGlobal s l.part none p 1 .read with
        | .ok pa lf =>
          let pol := f.pol.getD lf.pol
          let al := allocates s l.part pa pol
          let put (st : State) : State :=
            let s2 := setU (delFill st pier f.id) lf
            if on then
              installLine s2 pier f (pol == 1) (fun i =>
                if chunkPoisoned s2 (pa + 4 * i) then none else some (BitVec.ofNat 32 (rdNat s2.mem (pa + 4 * i) 4)))
            else s2
          if inSlice s pa then put (sliceTouch s pa)
          else payFill s pier l.part 0 f (fun t => put (if al then sliceFill t l.part (pa / 128) else t))
        | .waits => s
        | .fault _ _ => delFill s pier f.id)

/-! ## Drains (R230, R371) -/

/-- The conditions of R230 on an entry of a core. A word that the core owns through another entry's grant has that entry's
acknowledgements outstanding too (R231). -/
def drainOk (s : State) (core : Nat) (e : Entry) : Bool :=
  e.acks == 0 && e.requested == 0 &&
  !(s.core core).record.any (fun o => o.acks != 0 && o.key s == e.key s && o.words.any (fun w => e.words.contains w)) &&
  e.stores.all (fun x => readsDone s e.ctx x.lane x.seq && noAcquire s e.ctx x.lane x.seq &&
    !s.memops.any (fun m => olderOp e.ctx x.lane x.seq m && m.kind == .red &&
      (m.keys s).any (fun k => e.words.any (fun w => k == e.key s + w)))) &&
  !(s.core core).record.any (fun o =>
    o.ctx == e.ctx && o.chunk == e.chunk && o.id < e.id && o.words.any (fun w => e.words.contains w)) &&
  (!e.rel || releaseOk s e.ctx e.relLane e.relSeq (some e.id))

/-- The byte numbers of an entry. -/
def Entry.bytes (e : Entry) : List Nat := (List.range 64).filter (fun i => e.be.getLsbD i)

/-- The leaf of an address that no page maps. -/
def noLeaf : Leaf := { frame := 0, addr := 0, w := true, a := true, p := false, m := false, pol := 0, bad := false }

/-- The check that the owning die makes of bytes of an entry (R279). An application core's chunk is physical. -/
def entryXlat (s : State) (core : Nat) (e : Entry) (bytes : List Nat) : Xlat :=
  if 2048 ≤ core then
    match hartOldLeaf s (core - 2048) e.chunk.toNat with
    | some lf =>
      if !lf.w then .fault codeLease 3
      else if lf.bad then .fault codePoison 7
      else if lf.p || frameLost s e.chunk.toNat then .fault codePoison 8
      else if lf.m || linkWaits s e.chunk.toNat then .waits else .ok e.chunk.toNat lf
    | none => .fault codeLease 1
  else
    let l := s.launch e.tag
    match walkRoot s (ptrDie e.chunk) l.part (ptrOff56 e.chunk) with
    | .ok _ _ =>
      if bytes.all (fun i => inLease l.rec_ (e.chunk.toNat + i)) then xlatGlobal s l.part none e.chunk 1 .write
      else .fault codeLease 6
    | x => x

/-- Where the entry's own grants put its chunk, if every word has one there. -/
def grantedPlace (e : Entry) : Option Nat :=
  match e.words with
  | [] => none
  | w :: _ =>
    match tfind w e.grants with
    | none => none
    | some g =>
      if e.words.all (fun v => (tfind v e.grants).map (·.word + w) == some (g.word + v)) then some (4 * (g.word - w))
      else none

/-- The policy of the page that translated an entry's words (R118, R278). -/
def grantedPol (e : Entry) : Nat :=
  match e.words.head?.bind (fun w => tfind w e.grants) with
  | some g => (g.val >>> 5) % 4
  | none => 0

/-- Where an entry drains: at the place that its words were granted, translated then (R280, R281). An entry with a word
that was refused is translated now. -/
def entryPlace (s : State) (core : Nat) (e : Entry) : Xlat :=
  match grantedPlace e with
  | some pa =>
    if core < 2048 && !e.bytes.all (fun i => inLease (s.launch e.tag).rec_ (e.chunk.toNat + i)) then .fault codeLease 6
    else if frameLost s pa then .fault codePoison 8
    else if linkWaits s pa then .waits else .ok pa { noLeaf with pol := grantedPol e }
  | none => entryXlat s core e e.bytes

def freeEntry (s : State) (core id : Nat) : State :=
  s.updCore core (fun c => { c with record := c.record.filter (fun e => e.id != id) })

/-- An application core takes a RAS interrupt in its M file, file 0 of its IMSIC (R336). The interrupt's identity is open:
a free value (log entry 117). -/
def rasInterrupt (s : State) (core : Nat) : State :=
  let d := s.drawFree
  let x := s.hart (core - 2048)
  d.2.setHart (core - 2048) { x with ras := x.ras + 1, imsic := x.imsic ++ [(0, d.1.toNat % 2 ^ 32)] }

/-- A refused entry is freed unperformed and reported (R371); an application core learns of it by a RAS interrupt
(R336). -/
def refuseEntry (s : State) (core : Nat) (e : Entry) (code : BitVec 8) (cause : Nat) : State :=
  if 2048 ≤ core then rasInterrupt (freeEntry s core e.id) core
  else report (freeEntry s core e.id) e.tag
    { code := code, cause := cause, jobk := 8, block := e.ctx % 2 ^ 32, pc := 0,
      addr := e.chunk + BitVec.ofNat 64 (e.bytes.headD 0) }

/-- The core's own copies follow a drain: present words take the home's value and are marked owned, and fills
under way leave them (R230, R231). -/
def drainIntoL1 (s : State) (core : Nat) (ks : List Nat) (word : Nat → Word) (own : Bool) : State :=
  s.updCore core (fun c =>
    { c with
      l1 := c.l1.map (fun w => if ks.contains w.1 then (w.1, word w.1) else w),
      l1Owned := if own then ks.foldl (fun l k => addTo k l) c.l1Owned else c.l1Owned,
      fills := c.fills.map (fun f => { f with excluded := ks.foldl (fun l k =>
        if k / 32 == f.line then addTo k l else l) f.excluded }) })

/-- The partition that an entry is charged to. -/
def entryPart (s : State) (core : Nat) (e : Entry) : Nat :=
  if 2048 ≤ core then (hartPart s (core - 2048)).getD (s.hart (core - 2048)).was else (s.launch e.tag).part

/-- A drained line comes to its home's slice, where its last store's policy admits it; `page` is the page's (R118). -/
def drainFills (s : State) (core : Nat) (e : Entry) (pa page : Nat) : Bool :=
  !inSlice s pa && allocates s (entryPart s core e) pa ((e.stores.getLast?.bind (·.pol)).getD page)

/-- The line stays at its home. -/
def drainAlloc (s : State) (core : Nat) (e : Entry) (pa page : Nat) : State :=
  if inSlice s pa then sliceTouch s pa
  else if drainFills s core e pa page then sliceFill s (entryPart s core e) (pa / 128) else s

/-- What a drain is charged with: the chunk that the home writes, and the line that it reads where it fills its slice
(R342). -/
def drainActs (s : State) (core : Nat) (e : Entry) (pa page : Nat) : List (Nat × Nat) :=
  [(1, 64), (0, if drainFills s core e pa page then 128 else 0)]

/-- Perform an entry's drain at its home. -/
def drainEntry (s0 : State) (core : Nat) (e : Entry) (pa page : Nat) : State :=
  let s := drainAlloc s0 core e pa page
  let key := e.key s
  let s1 := homeWriteMasked (freeEntry s core e.id) pa e.be e.data e.poisoned
  if 2048 ≤ core && e.poisoned then rasInterrupt (freeEntry s core e.id) core
  else drainIntoL1 s1 core (e.words.map (key + ·)) (fun k => BitVec.ofNat 32 (rdNat s1.mem (pa + 4 * (k - key)) 4)) true

/-- Words of an entry that the core does not own at the place where it drains. -/
def unownedWords (s : State) (core : Nat) (e : Entry) (pa : Nat) : List Nat :=
  e.words.filter (fun w => tfind (e.key s + w) (s.core core).owned != some (pa / 4 + w))

def setRequested (s : State) (core id : Nat) (ws : List Nat) : State :=
  s.updCore core (fun c => { c with record := c.record.map (fun e =>
    if e.id == id then
      { e with requested := ws.foldl (fun m w => m ||| BitVec.ofNat 16 (2 ^ w)) e.requested,
               grants := e.grants.filter (fun g => !ws.contains g.1) } else e) })

/-- A drain of an entry that meets R230: refused; or performed and charged, where its budget admits it; or back to
asking for a word it has no grant of. -/
def drainNow (s : State) (core : Nat) (e : Entry) : State :=
  match entryPlace s core e with
  | .fault c k => refuseEntry s core e c k
  | .waits => s
  | .ok pa lf =>
    match unownedWords s core e pa with
    | [] => budgetAll s (entryPart s core e) e.id (drainActs s core e pa lf.pol) (fun st =>
        drainEntry (if core < 2048 && lf.addr != 0 then setU st lf else st) core e pa lf.pol)
    | ws => setRequested s core e.id ws

/-- An entry can drain at once (R229). -/
def drainReady (s : State) (core : Nat) (e : Entry) : Bool :=
  drainOk s core e && windowOf e.chunk != .host &&
  (match entryPlace s core e with
   | .fault _ _ => true
   | .waits => false
   | .ok pa lf => (unownedWords s core e pa).isEmpty &&
      (drainActs s core e pa lf.pol).all (fun a => a.2 == 0 || budgetOk s (entryPart s core e) a.1 e.id))

/-- An application core that was removed from its partition is reset when its record is empty (R344). -/
def resetFrozen (s : State) (core : Nat) : State :=
  if 2048 ≤ core && (s.hart (core - 2048)).frozen && (s.core core).record.isEmpty then
    { s.setHart (core - 2048) {} with cores := tdel core s.cores, dir := s.dir.filter (fun o => o.2 != core) } else s

def findEntry (s : State) (core id : Nat) : Option Entry := (s.core core).record.find? (fun e => e.id == id)

/-- STORE_RECORD_DRAIN. -/
def execStoreRecordDrain (core entry : Nat) (s : State) : Out :=
  .next (match findEntry s core entry with
    | none => s
    | some e =>
      if !drainOk s core e || windowOf e.chunk = .host then s
      else resetFrozen (drainNow s core e) core)

/-- HOST_WRITE_COMPLETE: the host completes the write of a host-window entry (R234). -/
def execHostWriteComplete (core entry : Nat) (s : State) : Out :=
  .next (match findEntry s core entry with
    | none => s
    | some e =>
      if !drainOk s core e || windowOf e.chunk != .host then s
      else
        let l := s.launch e.tag
        let off := ptrOff56 e.chunk
        let bad := if !e.bytes.all (fun i => inLease l.rec_ (e.chunk.toNat + i)) then some 6
          else if s.hostPages.contains (hostPageKey l.pasid off) then none else some 1
        match bad with
        | some c => refuseEntry s core e codeLease c
        | none =>
          budgeted s l.part 5 entry e.bytes.length (fun st =>
            let s1 := freeEntry st core e.id
            let s2 := { s1 with hostMem := e.bytes.foldl (fun m i =>
              wrByte m (hostByteKey l.pasid off + i) (BitVec.ofNat 8 (e.data.toNat >>> (8 * i)))) s1.hostMem }
            drainIntoL1 s2 core (e.words.map (e.key s + ·))
              (fun k => BitVec.ofNat 32 (rdNat s2.hostMem (hostByteKey l.pasid off + 4 * (k - e.key s)) 4)) false))

/-! ## Ownership (R229) -/

def sendRevoke (s : State) (core word : Nat) (reply : Nat × Nat) : State :=
  let s1 := s.tick
  { s1 with revokes := s1.revokes ++ [{ id := s.seq, core := core, word := word, reply := reply }] }

def updEntry (s : State) (core id : Nat) (g : Entry → Entry) : State :=
  s.updCore core (fun c => { c with record := c.record.map (fun e => if e.id == id then g e else e) })

/-- The home grants a word to a core, translated by a leaf, and revokes it from another owner. -/
def grant (s : State) (core : Nat) (e : Entry) (w pw : Nat) (lf : Leaf) : State :=
  let bit := BitVec.ofNat 16 (2 ^ w)
  let g : Grant := if lf.addr = 0 then { word := pw } else
    { word := pw, pte := lf.addr, val := pteNoU (rdNat s.mem lf.addr 8) }
  let s1 := updEntry s core e.id (fun x =>
    { x with requested := x.requested &&& ~~~bit, grants := tins w g x.grants })
  let s2 := s1.updCore core (fun c => { c with owned := tins (e.key s + w) pw c.owned })
  let s3 := { s2 with dir := tins pw core s2.dir }
  match tfind pw s.dir with
  | some old =>
    if old = core then s3
    else sendRevoke (updEntry s3 core e.id (fun x => { x with acks := x.acks + 1 })) old pw (core, e.id)
  | none => s3

/-- OWNERSHIP_REQUEST: a refused request leaves the word without a grant, and the drain is refused (R371). -/
def execOwnershipRequest (core entry word : Nat) (s : State) : Out :=
  .next (match findEntry s core entry with
    | none => s
    | some e =>
      if !e.requested.getLsbD word then s
      else match entryXlat s core e (e.bytes.filter (fun i => i / 4 == word)) with
        | .waits => s
        | .fault _ _ => updEntry s core entry (fun x =>
            { x with requested := x.requested &&& ~~~BitVec.ofNat 16 (2 ^ word) })
        | .ok pa lf => grant (if 2048 ≤ core then s else setU s lf) core e word (pa / 4 + word) lf)

/-- The core's keys for a physical word that it owns. -/
def keysOf (c : Core) (pw : Nat) : List Nat := (c.owned.filter (fun o => o.2 == pw)).map (·.1)

/-- A core forgets that it owns a physical word; valid words stay valid (R231). -/
def disownWord (c : Core) (pw : Nat) : Core :=
  let ks := keysOf c pw
  { c with record := c.record.map (fun e => { e with grants := e.grants.filter (fun g => g.2.word != pw) }),
           owned := c.owned.filter (fun o => o.2 != pw), l1Owned := c.l1Owned.filter (fun k => !ks.contains k),
           fills := c.fills.map (fun f => { f with excluded := ks.foldl (fun l k =>
             if k / 32 == f.line then addTo k l else l) f.excluded }) }

/-- The entries of a core that hold bytes of a physical word, in order of allocation. -/
def holders (s : State) (core pw : Nat) : List (Entry × Nat) :=
  let c := s.core core
  let ks := keysOf c pw
  c.record.flatMap (fun e => (e.words.filter (fun w => ks.contains (e.key s + w))).map (fun w => (e, w)))

/-- Drain the holders one after the other, where each can drain at once; none where one cannot (R229). -/
def drainHolders (core : Nat) : List (Entry × Nat) → State → Option State
  | [], s => some s
  | x :: r, s =>
    match findEntry s core x.1.id with
    | none => drainHolders core r s
    | some e => if drainReady s core e then drainHolders core r (drainNow s core e) else none

/-- A revoke ends an application core's reservation of the word (R334). -/
def dropResv (s : State) (core pw : Nat) : State :=
  if core < 2048 then s
  else match (s.hart (core - 2048)).resv with
    | some (a, n) =>
      if a / 4 ≤ pw && pw < (a + n) / 4 then s.setHart (core - 2048) { s.hart (core - 2048) with resv := none } else s
    | none => s

/-- A core receives a revoke: its bytes drain at once, or the word is ceded and asked for again. -/
def revokeAt (s : State) (core pw : Nat) : State :=
  let s := dropResv s core pw
  let hs := holders s core pw
  match drainHolders core hs s with
  | some t => t.updCore core (fun c => disownWord c pw)
  | none =>
    let s1 := s.updCore core (fun c => disownWord c pw)
    hs.foldl (fun st x => setRequested st core x.1.id [x.2]) s1

/-- REVOKE_RECEIVED. -/
def execRevokeReceived (k : Nat) (s : State) : Out :=
  .next (match s.revokes.find? (fun r => r.id == k) with
    | none => s
    | some r =>
      let s1 := revokeAt { s with revokes := s.revokes.filter (fun x => x.id != k) } r.core r.word
      let s2 := s1.tick
      { s2 with acks := s2.acks ++ [{ id := s1.seq, core := r.reply.1, entry := r.reply.2 }] })

/-- ACK_RECEIVED. -/
def execAckReceived (k : Nat) (s : State) : Out :=
  .next (match s.acks.find? (fun a => a.id == k) with
    | none => s
    | some a =>
      updEntry { s with acks := s.acks.filter (fun x => x.id != k) } a.core a.entry (fun e =>
        { e with acks := e.acks - 1 }))

/-- The home revokes a word from every core that owns it; the revoke and its acknowledgement are taken at the instant
of the access that needs them (R124, R229, log entry 44). -/
def clearOwner (s : State) (w : Nat) : State :=
  let s1 := s.cores.foldl (fun (t : State) (c : Nat × Core) =>
    if c.2.owned.any (fun o => o.2 == w) then revokeAt t c.1 w else t) s
  { s1 with dir := tdel w s1.dir }

/-- An access at the home needs its words without an owner. -/
def clearOwners (s : State) (words : List Nat) : State := words.foldl clearOwner s

/-- The physical words of `n` bytes. -/
def physWords (pa n : Nat) : List Nat := (List.range ((pa % 4 + n + 3) / 4)).map (fun i => pa / 4 + i)

/-! ## Atomics and reductions (R123, R124) -/

/-- The core's record holds bytes older than `q` for words of an operation. -/
def recordBefore (s : State) (m : MemOp) : Bool :=
  let ks := m.keys s
  (s.core m.core).record.any (fun e => e.stores.any (fun x =>
    x.seq < m.seq && ks.any (fun k => k / 16 == e.key s / 16 && x.be &&& beMask (4 * (k % 16)) 4 != 0)))

/-- What must hold before an atomic is performed. -/
def atomicReady (s : State) (m : MemOp) : Bool :=
  inTurn s m && readsDone s m.blk m.lane m.seq && !recordBefore s m && (!m.release || releaseOk s m.blk m.lane m.seq)

/-- The core drops its copies of an operation's words: its later loads return the result or a later value. -/
def dropWords (s : State) (core : Nat) (ks : List Nat) : State :=
  s.updCore core (fun c => { c with l1 := c.l1.filter (fun w => !ks.contains w.1),
                                    l1Owned := c.l1Owned.filter (fun k => !ks.contains k) })

/-- An atomic at a home back-invalidates the host's copy of its line, whether it writes or not (R234). -/
def hostBack (s : State) (pa : Nat) : State := { s with hostLines := s.hostLines.filter (· != pa / 64) }

/-- ATOMIC_PERFORM at a home of the global or private window. It is charged for the line or chunk that it reads of
memory, as an atomic, and for the chunk that it writes (R342). -/
def execAtomicPerform (k : Nat) (s : State) : Out :=
  .next (match s.memops.find? (fun m => m.id == k) with
    | none => s
    | some m =>
      let tag := (s.block m.blk).tag
      let n := m.t.bits / 8
      if m.kind == .load || m.kind == .acq || windowOf m.ptr = .host || !atomicReady s m then s
      else match spotOf s tag m.ptr n .atomic with
        | .fault c j => failOp s m c j
        | .waits => s
        | .host _ => s
        | .home pa lf =>
          if chunkPoisoned s pa then failOp (setU s lf) m Code.poison 9
          else
            let p := (s.launch tag).part
            let al := allocates s p pa (m.pol.getD lf.pol)
            let hit := inSlice s pa
            let act (st0 : State) : State :=
              let st1 := if hit then sliceTouch st0 pa else if al then sliceFill st0 p (pa / 128) else st0
              let st := hostBack (setU (clearOwners st1 (physWords pa n)) lf) pa
              let old := rdNat st.mem pa n
              let s2 := match atomNew m.kind m.op m.t m.b old with
                | some v => homeWrite (charge st p 1 k 64) pa (leBytes n v)
                | none => st
              acquireOf (returnWords (dropWords s2 m.core (m.keys s)) m (resT m.t old)) m
            let acts := [(0, if hit then 0 else if al then 128 else 64), (3, 1)]
            if budgetOk s p 1 k then budgetAll s p k acts act else stall s p 1 k)

/-- HOST_ATOMIC_COMPLETE: the host has performed an AtomicOp, or completed it with an error. -/
def execHostAtomicComplete (k : Nat) (err : Bool) (s : State) : Out :=
  .next (match s.memops.find? (fun m => m.id == k) with
    | none => s
    | some m =>
      let tag := (s.block m.blk).tag
      let n := m.t.bits / 8
      if m.kind == .load || m.kind == .acq || windowOf m.ptr != .host || !atomicReady s m then s
      else match spotOf s tag m.ptr n .atomic with
        | .host key =>
          if err then failOp s m Code.spaceInvalid 0
          else budgeted s (s.launch tag).part 5 k (2 * n) (fun st =>
            let old := rdNat st.hostMem key n
            let s1 := match atomNew m.kind m.op m.t m.b old with
              | some v => { st with hostMem := wrNat st.hostMem key n v }
              | none => st
            acquireOf (returnWords (dropWords s1 m.core (m.keys s)) m (resT m.t old)) m)
        | .fault c j => failOp s m c j
        | _ => s)

/-! ## Writes of the device's own (R278, R295) -/

/-- The first write of a launch's fault record that is under way reaches its home, as an engine write does (R229, R295):
not through a page that is not resident, that migrates or that lies behind a link that is down; a page that no table maps
soundly takes none (log entry 129). -/
def recordWrite (s : State) (tag : Nat) : State :=
  match s.frWrites.find? (fun w => w.tag == tag) with
  | none => s
  | some w =>
    let done (t : State) : State := { t with frWrites := t.frWrites.erase w }
    match walkRoot s (ptrDie w.ptr) w.part (ptrOff56 w.ptr) with
    | .ok pa lf =>
      if lf.m || linkWaits s pa then s
      else done (setU (homeWrite (clearOwners s (physWords pa w.bytes.length)) pa w.bytes) lf)
    | .fault _ c => if c == 1 then s else done s
    | .waits => s

/-- U of the leaf at `a` is set at its home, by an atomic OR (R278): what a core has of the word drains or is ceded
first. -/
def useMark (s : State) (a : Nat) : State :=
  if !s.uses.contains a || linkWaits s a then s
  else
    let t := clearOwners { s with uses := s.uses.filter (· != a) } [a / 4]
    let e := rdNat t.mem a 8
    if e.testBit 0 && e.testBit 1 then homeWrite t (a + 1) [rdByte t.mem (a + 1) ||| 2] else t

/-- Every write of a fault record that can reach its home does, in order, as often as there are writes. -/
def flushRecords (s : State) : State := s.frWrites.foldl (fun t w => recordWrite t w.tag) s

/-- Every U bit that is on its way is set, where it can be. -/
def flushUses (s : State) : State := s.uses.foldl useMark s

/-- The writes of a tag that can reach their home now. -/
def recordReady (s : State) (tag : Nat) : Bool := (recordWrite s tag).frWrites.length < s.frWrites.length

/-! ## Local accesses that a core held back (R126, R238) -/

/-- The order of its fibre admits a local access. -/
def localReady (s : State) (b l : Nat) (o : LocalOp) : Bool :=
  noAcquire s b l o.id && (o.kind == .load || readsDone s b l o.id)

/-- The first local access that a core holds back for a fibre is performed; barriers that waited for it go on (R108,
R140). -/
def localTurn (s : State) (b l : Nat) : State :=
  match (s.lane b l).localOps, (s.block b).onPier with
  | o :: r, some p =>
    if localReady s b l o then
      let s1 := performLocal (s.updLane b l (fun y => { y with localOps := r })) p b l o
      settleGbars (s1.updBlock b settleBarrier) b (l / 32)
    else s
  | _, _ => s

/-! ## The host's accesses to device memory (R234) -/

/-- The partition and the page that hold a physical address, among all partitions' tables. -/
def frameLeaf (s : State) (pa : Nat) : Option (Nat × Leaf) :=
  s.parts.findSome? (fun p => if p.2.inForce.v then (frameOf s p.1 pa).map (fun x => (p.1, x)) else none)

/-- A host's access reaches the owning die: it is performed, or waits there. A write waits through a migrating page (R287)
and for the budget of the frame's partition, which pays for its chunks (R342, R343); either waits for a link that is down,
and behind an earlier write to its bytes that waits. A write takes its words from their owners; a read of poisoned
data, or through a link that is lost, returns poison (R357, R359). True where it is done. -/
def cxlAccess (s : State) (r : CxlReq) : State × Bool :=
  let n := match r.bytes with | some bs => bs.length | none => r.size
  let behind := s.cxlReqs.any (fun o => o.id < r.id && o.bytes.isSome &&
    o.addr < r.addr + n && r.addr < o.addr + (o.bytes.map (·.length)).getD 0)
  if linkWaits s r.addr || behind then (s, false)
  else match r.bytes with
  | none =>
    let x := if (chunksOf r.addr n).any (fun c => chunkPoisoned s (64 * c)) then Response.poison
      else .bytes 0 (rdBytes s.mem r.addr n)
    ({ s with sent := s.sent ++ [x], hostLines := if r.cache then addTo (r.addr / 64) s.hostLines else s.hostLines }, true)
  | some bs =>
    let act (t : State) : State :=
      if frameLost t r.addr then t else homeWrite (clearOwners t (physWords r.addr n)) r.addr bs
    match frameLeaf s r.addr with
    | some (p, lf) =>
      if lf.m then (s, false)
      else if budgetOk s p 1 r.id then (act (charge s p 1 r.id (64 * (chunksOf r.addr n).length)), true)
      else (stall s p 1 r.id, false)
    | none => (act s, true)

/-- A new access of the host. -/
def cxlArrives (s : State) (r : CxlReq) : State :=
  match cxlAccess s.tick r with
  | (t, true) => t
  | (t, false) => { t with cxlReqs := t.cxlReqs ++ [r] }

/-- An access of the host that waits is tried again. -/
def cxlServe (s : State) (k : Nat) : State :=
  match s.cxlReqs.find? (fun r => r.id == k) with
  | none => s
  | some r =>
    match cxlAccess s r with
    | (t, true) => { t with cxlReqs := t.cxlReqs.filter (fun x => x.id != k) }
    | (t, false) => t

/-- HOST_CXL_READ: the bytes at their home; the host may keep a copy of the line. -/
def execHostCxlRead (addr size : Nat) (cache : Bool) (s : State) : Out :=
  .next (cxlArrives s { id := s.seq, addr := addr, bytes := none, size := size, cache := cache })

/-- HOST_CXL_WRITE. -/
def execHostCxlWrite (addr : Nat) (bytes : List Byte) (s : State) : Out :=
  .next (cxlArrives s { id := s.seq, addr := addr, bytes := some bytes, size := 0 })

/-! ## Replacement (R16) -/

/-- The L1 instruction cache loses a line. -/
def instrDrop (s : State) (core line : Nat) : State :=
  s.updCore core (fun c => { c with l1i := tdel line c.l1i })
/-- A home slice loses a line. -/
def sliceLose (s : State) (pier line : Nat) : State :=
  s.updPier pier (fun x => { x with slice := x.slice.filter (fun e => e.1 != line) })
/-- A core's data or instruction cache is powered off or on; it comes up with nothing valid. -/
def cachePower (s : State) (core : Nat) (data on : Bool) : State :=
  s.updCore core (fun c =>
    if data then
      { c with off := !on, l1 := [], l2 := [], l1Owned := [], strm := [], fills := c.fills.map (fun f => { f with dropped := true }) }
    else { c with ioff := !on, l1i := [] })

end Sys2Proof.Machine
end

