-- ==== Sys2Proof/Machine/Orrery.lean ====
section
/-! DEFINITION. The orrery's steps: joins, arrivals, leaves, lost members, phases and the freeing of group entries
(R148 to R153, R242 to R252). -/
namespace Sys2Proof.Machine

/-! ## Members and phases -/

/-- `a` is at or before `b`, modulo 2^32 (R150). -/
def phaseLe (a b : Word) : Bool := (b - a).toNat < 2 ^ 31

/-- A member of phase `p` (R245, R247, R249). -/
def Member.inPhase (m : Member) (p : Word) : Bool :=
  phaseLe m.first p && (!m.left || !phaseLe m.next p)

/-- It has arrived at phase `p`. -/
def Member.arrived (m : Member) (p : Word) : Bool := !phaseLe m.next p

/-- It is a member of a phase at or after `p`. -/
def Member.current (m : Member) (p : Word) : Bool := !m.left || !phaseLe m.next p

def orreryEntries : Nat := 4096
def memberLimit : Nat := 65535

def setSg (s : State) (d i : Nat) (e : SgEntry) : State := s.updDie d (fun x => { x with orrery := tput {} x.orrery i e })
def getSg (s : State) (d i : Nat) : SgEntry := tget {} (s.die d).orrery i

/-- The lowest number below `n` that `used` does not hold of. -/
def lowestFree (n : Nat) (used : Nat → Bool) : Option Nat := (List.range n).find? (fun i => !used i)

/-- Members of the lowest incomplete phase (R152). -/
def phaseMembers (e : SgEntry) : Nat := (e.members.filter (fun m => m.2.inPhase e.phase)).length

/-! ## Completion (R150, R151) -/

/-- The results of SGVOTE over the votes of a phase. -/
def voteResult (mode : Nat) (vs : List Bool) : Bool :=
  match mode with
  | 0 => vs.all id
  | 1 => vs.any id
  | _ => vs.all id || vs.all (fun v => !v)

/-- The first SGRED arrival's op and type. -/
def firstRed : List SgArr → Option (Nat × Ty)
  | [] => none
  | a :: r => match a.req.kind with | .red op t _ => some (op, t) | _ => firstRed r

/-- The reduction of a phase; the order of f32 additions is a free value (R151, R254). -/
def redResult (s : State) (as_ : List SgArr) : Nat × State :=
  match firstRed as_ with
  | none => (0, s)
  | some (op, t) =>
    let vs := as_.filterMap (fun a => match a.req.kind with
      | .red o u v => if o = op && u = t then some v.toNat else none
      | _ => none)
    let r := if t == .f32 && op = 0 then freeOrder vs.length vs s else (vs, s)
    (match r.1 with | [] => 0 | v :: ws => ws.foldl (fun a b => (redOp op t a b).1) v, r.2)

/-- The broadcast value: of the supplier with the lowest member index, 0 without one. -/
def bcastResult (as_ : List SgArr) : Dword :=
  let cs := as_.filterMap (fun a => match a.req.kind with
    | .bcast _ true v => some (a.member, v)
    | _ => none)
  match leastBy (fun c => (c.1, 0)) cs with | some c => c.2 | none => 0

/-- A phase that a lane waits for has completed: it goes on with predicate `d`, or once its block is restored (R150,
R255). -/
def wakeLane (s : State) (b l d : Nat) (v : Bool) : State :=
  let saved := (s.block b).place == .saved
  s.updLane b l (fun y => if saved then { y with park := .given d v } else ({ y with park := .run } : Lane).setPred d v)

/-- The value of one arrival of a completed phase. -/
def giveArrival (as_ : List SgArr) (red : Nat) (kept : Bool) (s : State) (a : SgArr) : State :=
  let r := a.req
  if !r.live s then s
  else match r.kind with
  | .bar =>
    match (s.lane r.blk r.lane).park with
    | .sgbar _ _ d _ => let s1 := wakeLane s r.blk r.lane d kept; acquireSg s1 r.blk r.lane s1.seq r.pc
    | _ => s
  | .vote mode _ =>
    let vs := as_.filterMap (fun x => match x.req.kind with | .vote _ v => some v | _ => none)
    pushL s { id := 0, blk := r.blk, lane := r.lane, pred := some (r.d, voteResult mode vs), acq := some (r.seq, r.pc) }
  | .red op t _ =>
    let same := firstRed as_ == some (op, t)
    let x : LRes := { id := 0, blk := r.blk, lane := r.lane,
                      regs := regPairs r.d (resT t (if same then red else 0)), pred := some (r.ps, same && kept),
                      acq := some (r.seq, r.pc) }
    pushL s x
  | .bcast wide _ _ =>
    let v := (bcastResult as_).toNat
    let x : LRes := { id := 0, blk := r.blk, lane := r.lane,
                      regs := regPairs r.d (if wide then wordsOf 2 v else wordsOf 1 v), acq := some (r.seq, r.pc) }
    pushL s x
  | _ => s

/-- Lanes in SGWAIT for a phase of group `i` of die `d` that has completed go on. -/
def wakeWaits (s : State) (d i : Nat) (e : SgEntry) : State :=
  s.blocks.foldl (fun st kb =>
    (blockLanes kb.2).foldl (fun st n =>
      let l := kb.2.lane n
      match l.park with
      | .sgwait h t p pc =>
        let x := l.handle h
        if l.live && x.live && x.die == d && x.idx == i && x.gen == e.gen && phaseDone e.phase t then
          acquireSg (wakeLane st kb.1 n p (phaseKept e t)) kb.1 n st.seq pc
        else st
      | _ => st) st) s

/-- An entry without a member in any phase at or after PHASE is freed, and its generation incremented (R248). -/
def freeEmpty (s : State) (d i : Nat) : State :=
  let e := getSg s d i
  let ms := e.members.filter (fun m => m.2.current e.phase)
  setSg s d i (if ms.isEmpty then { gen := e.gen + 1 } else { e with members := ms })

/-- Complete every phase that all its members have arrived at or left (R150). -/
def completePhases : Nat → State → Nat → Nat → State
  | 0, s, _, _ => s
  | n + 1, s, d, i =>
    let e := getSg s d i
    if !e.used || !e.members.any (fun m => m.2.current e.phase) ||
       e.members.any (fun m => m.2.inPhase e.phase && !m.2.arrived e.phase) then s
    else
      let p := e.phase
      let as_ := e.arrivals.filter (fun a => a.phase == p)
      let kept := phaseKept e p
      let e1 := { e with phase := p + 1, done := true, arrivals := e.arrivals.filter (fun a => a.phase != p),
                         lost := tdel (p + 0x80000000).toNat e.lost }
      let r := redResult s as_
      let s1 := as_.foldl (giveArrival as_ r.1 kept) r.2
      completePhases n (wakeWaits (setSg s1 d i e1) d i e1) d i

/-- Where only saved members are missing from PHASE, the orrery asks for their contexts (R251). -/
def askRestores (s : State) (d i : Nat) : State :=
  let e := getSg s d i
  let miss := (e.members.filter (fun m => m.2.inPhase e.phase && !m.2.arrived e.phase)).map (·.2.blk)
  if e.used && !miss.isEmpty && miss.all (fun b => (s.block b).place == .saved) then
    miss.eraseDups.foldl (fun st b =>
      if (st.block b).wanted != 0 then st else st.tick.updBlock b (fun x => { x with wanted := st.seq })) s
  else s

/-- What follows a change of a group: phases complete, an empty entry is freed, contexts are asked for. -/
def settleGroup (s : State) (d i : Nat) : State := askRestores (freeEmpty (completePhases 4 s d i) d i) d i

/-! ## Joins (R148, R245, R246) -/

/-- The status and first phase of a join, with what it leaves. -/
structure Joined where
  status : Nat
  phase  : Word := 0
  handle : Handle := {}
  deriving DecidableEq, Repr

/-- Group entries in use by a namespace across the node. -/
def nsEntries (s : State) (nsid : BitVec 16) : Nat :=
  s.dies.foldl (fun n d => n + (d.2.orrery.filter (fun e => e.2.used && e.2.nsid == nsid)).length) 0

/-- The home orrery serves a join. -/
def joinGroup (s : State) (r : SgReq) (name : Word) : Joined × State :=
  let pf := (s.part r.part).inForce
  let d := homeDie s pf.nsid name
  let tbl := (s.die d).orrery
  let mem (first : Word) : Member := { blk := r.blk, lane := r.lane, h := r.h, first := first, next := first }
  let hnd (i : Nat) (g : BitVec 16) (m : Nat) (next : Word) : Handle :=
    { live := true, die := d, idx := i, gen := g, member := m, next := next }
  match tbl.find? (fun e => e.2.used && e.2.name == name && e.2.nsid == pf.nsid) with
  | none =>
    (match lowestFree orreryEntries (fun i => (tget {} tbl i : SgEntry).used) with
     | none => ({ status := 2 }, s)
     | some i =>
       if nsEntries s pf.nsid ≥ pf.quota then ({ status := 3 }, s)
       else
         let e := getSg s d i
         ({ status := 1, handle := hnd i e.gen 0 0 },
          setSg s d i { used := true, name := name, nsid := pf.nsid, gen := e.gen, members := [(0, mem 0)] }))
  | some (i, e) =>
    if e.closing then ({ status := 4 }, s)
    else match lowestFree memberLimit (fun m => (tfind m e.members).isSome) with
      | none => ({ status := 2 }, s)
      | some m =>
        let p := e.phase + 1
        ({ status := 0, phase := p, handle := hnd i e.gen m p }, setSg s d i { e with members := tins m (mem p) e.members })

/-- A member is removed as lost: counted in the lowest phase at which it has not arrived (R249). -/
def loseMember (s : State) (h : Handle) : State :=
  let e := getSg s h.die h.idx
  match tfind h.member e.members with
  | none => s
  | some m =>
    if !e.used || e.gen != h.gen || m.left then s
    else
      let p := m.next.toNat
      settleGroup (setSg s h.die h.idx
        { e with members := tins h.member { m with left := true } e.members, lost := tput 0 e.lost p (tget 0 e.lost p + 1) })
        h.die h.idx

/-! ## When a request is handled -/

/-- A request's fibre is where it can send it. -/
def reqAt (s : State) (r : SgReq) : Bool := (r.dead || (s.block r.blk).onPier.isSome) && !s.frozen r.part

/-- The request makes an arrival (R149): a leave does where the member has not arrived at its current phase. -/
def makesArrival (s : State) (r : SgReq) : Bool :=
  match r.kind with
  | .arrive | .bar | .vote _ _ | .red _ _ _ | .bcast _ _ _ => true
  | .leave => (sgEntry s r.hnd).phase == r.phase
  | _ => false

/-- The name of the group that a request is for, where it has one. -/
def reqGroup (s : State) (r : SgReq) : Option (BitVec 16 × Word) :=
  match r.kind with
  | .join name => some ((s.part r.part).inForce.nsid, name)
  | _ => if sgCurrent s r.hnd then some ((sgEntry s r.hnd).nsid, (sgEntry s r.hnd).name) else none

/-- Two requests are for one group: one handle, or one name (R253). -/
def sameGroup (s : State) (a b : SgReq) : Bool :=
  a.h == b.h || (match reqGroup s a, reqGroup s b with | some x, some y => x == y | _, _ => false)

/-- A request may leave the core: it is its lane's oldest on the group, and an arrival's release conditions hold
and it is at most two phases ahead (R149, R253). -/
def reqReady (s : State) (r : SgReq) : Bool :=
  reqAt s r && !s.sgreqs.any (fun o => o.blk == r.blk && o.lane == r.lane && o.seq < r.seq && sameGroup s o r) &&
  (!makesArrival s r || !sgCurrent s r.hnd ||
    (releaseOk s r.blk r.lane r.seq && (r.phase - (sgEntry s r.hnd).phase).toNat ≤ 2))

/-- The die that a request goes to. -/
def reqDie (s : State) (r : SgReq) : Nat :=
  match r.kind with
  | .join name => homeDie s (s.part r.part).inForce.nsid name
  | _ => r.hnd.die

/-- An arrival that is more than two phases ahead is held at the core (R149). -/
def phaseHeld (s : State) (r : SgReq) : Bool :=
  makesArrival s r && sgCurrent s r.hnd && 2 < (r.phase - (sgEntry s r.hnd).phase).toNat

/-- The request, or an older one of its lane on its group, is held for a phase. -/
def behindHeld (s : State) (r : SgReq) : Bool :=
  s.sgreqs.any (fun o => o.blk == r.blk && o.lane == r.lane && o.seq ≤ r.seq && sameGroup s o r && phaseHeld s o)

/-- A batch's lanes reach an orrery in ascending order; only an arrival that is held for a phase lets the lanes above it
pass (R149, R153, log entry 103). -/
def reqFirst (s : State) (r : SgReq) : Bool :=
  reqReady s r && (r.inst == 0 || !s.sgreqs.any (fun o =>
    o.inst == r.inst && o.lane < r.lane && reqDie s o == reqDie s r && !behindHeld s o))

def dropReq (s : State) (k : Nat) : State := { s with sgreqs := s.sgreqs.filter (fun r => r.id != k) }

/-- SG_JOIN_HANDLED. A joiner whose fibre has ended meanwhile is lost at once. -/
def execSgJoinHandled (k : Nat) (s : State) : Out :=
  .next (match s.sgreqs.find? (fun r => r.id == k) with
    | none => s
    | some r =>
      match r.kind with
      | .join name =>
        if !reqFirst s r then s
        else budgeted s r.part 6 k 1 (fun st =>
          let j := joinGroup (dropReq st k) r name
          if r.dead then (if j.1.handle.live then loseMember j.2 j.1.handle else j.2)
          else pushL j.2 { id := 0, blk := r.blk, lane := r.lane,
                           regs := [(r.d, BitVec.ofNat 32 j.1.status), (r.d + 1, j.1.phase)],
                           handle := some (r.h, j.1.handle) })
      | _ => s)

/-- A stale handle faults at the instruction that used it, and is emptied; in a saved block once it is restored (R248,
R252). -/
def staleHandle (s : State) (b l h : Nat) (pc : Dword) : State :=
  let s1 := s.updLane b l (fun x => x.setHandle h {})
  if (s.block b).place == .saved then s1.updLane b l (fun x => { x with stale := x.stale ++ [(h, pc)] })
  else raiseCause s1 b (l / 32) { code := Code.sgHandle, pc := pc, val := BitVec.ofNat 64 h, mask := laneMask [l % 32] } pc

/-- Record an arrival of a member. -/
def recordArrival (s : State) (r : SgReq) (leave : Bool) : State :=
  let e := getSg s r.hnd.die r.hnd.idx
  match tfind r.hnd.member e.members with
  | none => s
  | some m =>
    let m1 := { m with next := r.phase + 1, left := m.left || leave }
    let s1 := setSg s r.hnd.die r.hnd.idx
      { e with members := tins r.hnd.member m1 e.members,
               arrivals := e.arrivals ++ [{ member := r.hnd.member, phase := r.phase, req := r }] }
    match r.kind with
    | .arrive => if r.live s1 then pushL s1 { id := 0, blk := r.blk, lane := r.lane, regs := [(r.d, r.phase)] } else s1
    | _ => s1

/-- The orrery serves a request other than a join. The lost count before any phase has completed is open (log entry 104). -/
def serveRequest (s : State) (r : SgReq) : State :=
  let d := r.hnd.die
  let i := r.hnd.idx
  let e := getSg s d i
  match r.kind with
  | .join _ => s
  | .arrive | .bar | .vote _ _ | .red _ _ _ | .bcast _ _ _ => settleGroup (recordArrival s r false) d i
  | .leave =>
    if e.phase == r.phase then settleGroup (recordArrival s r true) d i
    else settleGroup (match tfind r.hnd.member e.members with
      | some m => setSg s d i { e with members := tins r.hnd.member { m with left := true } e.members }
      | none => s) d i
  | .query f =>
    let n := s.drawFree
    let s := if f = 2 && !e.done then n.2 else s
    let v : Nat := match f with
      | 0 => phaseMembers e
      | 1 => e.phase.toNat
      | 2 => if e.done then tget 0 e.lost (e.phase - 1).toNat else n.1.toNat % 2 ^ 16
      | _ => r.phase.toNat
    if r.live s then pushL s { id := 0, blk := r.blk, lane := r.lane, regs := [(r.d, BitVec.ofNat 32 v)] } else s
  | .close => setSg s d i { e with closing := true }
  | .lost => loseMember s r.hnd

/-- SG_ARRIVAL_HANDLED. -/
def execSgArrivalHandled (k : Nat) (s : State) : Out :=
  .next (match s.sgreqs.find? (fun r => r.id == k) with
    | none => s
    | some r =>
      match r.kind with
      | .join _ => s
      | _ =>
        if !reqFirst s r then s
        else budgeted s r.part 6 k 1 (fun st =>
          let s1 := dropReq st k
          if sgCurrent s1 r.hnd then serveRequest s1 r
          else if r.live s1 then staleHandle s1 r.blk r.lane r.h r.pc
          else s1))

/-! ## Reclaiming entries (R252) -/

/-- Free an entry of a die; what waits on it raises SG_HANDLE. -/
def reclaimEntry (s : State) (d i : Nat) : State :=
  let e := getSg s d i
  if !e.used then s
  else
    let s1 := setSg s d i { gen := e.gen + 1 }
    let s2 := e.arrivals.foldl (fun st a =>
      if a.req.live st && (a.req.kind.acquires || (match a.req.kind with | .bar => true | _ => false)) then
        staleHandle st a.req.blk a.req.lane a.req.h a.req.pc else st) s1
    s2.blocks.foldl (fun st kb =>
      (blockLanes kb.2).foldl (fun st n =>
        let l := kb.2.lane n
        match l.park with
        | .sgwait h _ _ pc =>
          let x := l.handle h
          if l.live && x.live && x.die == d && x.idx == i && x.gen == e.gen then
            staleHandle st kb.1 n h pc
          else st
        | _ => st) st) s2

/-- Free every entry that a test selects. -/
def reclaimEntries (s : State) (sel : Nat → SgEntry → Bool) : State :=
  s.dies.foldl (fun st d => d.2.orrery.foldl (fun st e =>
    if e.2.used && sel d.1 e.2 then reclaimEntry st d.1 e.1 else st) st) s

end Sys2Proof.Machine
end

