-- ==== Sys2Proof/Machine/Quadrant.lean ====
section
/-! DEFINITION. The quadrant's queue of accepted operations (R155 to R172), the column sum of R45 and R46, and
the footprints of R185 and R186. -/
namespace Sys2Proof.Machine

/-! ## Footprints (R185, R186) -/

/-- What a region lies in: the global window, the host window, or the scratchpad or accumulator rows of a pier, by the
origin that pointers name (R109, R185). -/
inductive Within where
  | global | host
  | scratch (pier : Nat)
  | acc (pier : Nat)
  deriving DecidableEq, Repr

/-- Bytes `lo` to `hi` − 1. -/
structure Region where
  at_ : Within
  lo  : Nat
  hi  : Nat
  deriving DecidableEq, Repr

def Region.meets (a b : Region) : Bool := a.at_ == b.at_ && a.lo < b.hi && b.lo < a.hi

/-- Read and write regions. -/
structure Footprint where
  rd : List Region := []
  wr : List Region := []
  deriving DecidableEq, Repr

def anyMeet (a b : List Region) : Bool := a.any (fun x => b.any (fun y => x.meets y))

/-- The later footprint is ordered after the earlier one. -/
def Footprint.orders (e l : Footprint) : Bool := anyMeet e.wr l.rd || anyMeet e.wr l.wr || anyMeet e.rd l.wr

/-- The block whose scratchpad a pointer of block `b` names, resident or not (R109). -/
def padBlock (s : State) (b : Nat) (p : Dword) : Nat :=
  let x := s.block b
  let n := (s.launch x.tag).rec_.span
  if windowOf p = .cluster then
    (((List.range n).map (fun i => 2 ^ 32 * x.tag + (n * (x.idx / n) + i))).find? (fun c =>
      (s.block c).groups != 0 && (s.block c).spos == ptrSpos p)).getD b
  else b

/-- The region of `n` bytes at a pointer of block `b`. -/
def regionOf (s : State) (b : Nat) (p : Dword) (n : Nat) : Region :=
  let org (k : Nat) : Nat := (s.block k).origin
  match windowOf p with
  | .scratch => { at_ := .scratch (org b), lo := ptrOff24 p, hi := ptrOff24 p + n }
  | .cluster => { at_ := .scratch (org (padBlock s b p)), lo := ptrOff24 p, hi := ptrOff24 p + n }
  | .acc => { at_ := .acc (org b), lo := ptrOff24 p, hi := ptrOff24 p + n }
  | .host => { at_ := .host, lo := ptrOff56 p, hi := ptrOff56 p + n }
  | _ => { at_ := .global, lo := p.toNat, hi := p.toNat + n }

/-! ## The fields of an operation -/

def MOp.fields (o : MOp) : Fields := o.sig.fields
/-- Value `i` of the signature. -/
def MOp.val (o : MOp) (i : Nat) : Nat := (o.sig.vals.getD i 0).toNat
/-- `.sc` and `.sp` of MLDW; `.sc` and mode of MSTR. -/
def MOp.sc (o : MOp) : Bool := o.fields.subBits 36 36 == 1
def MOp.bit35 (o : MOp) : Bool := o.fields.subBits 35 35 == 1

/-- The configuration that an MCFG names (R162). -/
def mcfgNew (f : Fields) : MCfg :=
  { set := true, shape := f.subBits 37 36, sp := f.subBits 35 35 == 1, wslot := f.immBits 2 0, aslot := f.immBits 6 4 }

/-- Offsets of MLDW: weights, metadata, scales (R164). -/
def MOp.wOff (o : MOp) : Nat := o.val 0
def MOp.metaOff (o : MOp) : Nat := o.val 1
def MOp.wsOff (o : MOp) : Nat := o.val (if o.bit35 then 2 else 1)
/-- The row word and the offsets of MSTR (R166). -/
def MOp.rows (o : MOp) : Word := BitVec.ofNat 32 (o.val 0)
def MOp.aOff (o : MOp) : Nat := o.val 1
def MOp.asOff (o : MOp) : Nat := o.val 2

/-! ## Array sizes (R45, R161) -/

def cfgK (c : MCfg) : Nat := if c.sp then 256 else 128
def wSlot (r : LaunchRec) (c : MCfg) : Slot := slotAt r c.wslot
def aSlot (r : LaunchRec) (c : MCfg) : Slot := slotAt r c.aslot
/-- The block size of R45, item 2. -/
def cfgBlock (r : LaunchRec) (c : MCfg) : Nat :=
  if (wSlot r c).blk != 0 then (wSlot r c).blk else if (aSlot r c).blk != 0 then (aSlot r c).blk else 32
def cfgNB (r : LaunchRec) (c : MCfg) : Nat := cfgK c / cfgBlock r c
def rowBytes (f : SFmt) : Nat := 128 * f.width / 8
/-- Bytes of one activation row. -/
def actBytes (r : LaunchRec) (c : MCfg) : Nat := cfgK c * (aSlot r c).fmt.width / 8
def metaBytes : Nat := 4096

/-- Each quadrant of a pair reads half of each activation row (R160, R163). -/
def halfRows (r : LaunchRec) (c : MCfg) : Bool := c.sp && (wSlot r c).fmt == .dpw8

/-- The arrays an MLDW reads: offset and size. -/
def mldwArrays (r : LaunchRec) (c : MCfg) (o : MOp) : List (Nat × Nat) :=
  [(o.wOff, 128 * rowBytes (wSlot r c).fmt)] ++ (if o.bit35 then [(o.metaOff, metaBytes)] else []) ++
  (if o.sc then [(o.wsOff, 128 * cfgNB r c)] else [])

/-- A horizontal neighbour to the left supplies the activations (R163). -/
def readsLeft (c : MCfg) (spos : Nat) : Bool := (c.shape == 1 || c.shape == 3) && spos % 2 == 1

/-- The arrays an MSTR reads in the scratchpad of the block at span position `spos`. -/
def mstrArrays (r : LaunchRec) (c : MCfg) (spos : Nat) (o : MOp) : List (Nat × Nat) :=
  let m := rowCount o.rows
  if readsLeft c spos then
    (if halfRows r c then [(o.aOff, m * actBytes r c)] else [])
  else [(o.aOff, m * actBytes r c)] ++ (if o.sc then [(o.asOff, m * cfgNB r c)] else [])

/-- An MSTR writes accumulator rows of the block at `spos`: in a vertical shape the lower ones alone (R163). -/
def writesAcc (c : MCfg) (spos : Nat) : Bool := c.shape < 2 || spos % 4 ≥ 2

/-- The lines that an operation reads, as pieces of its arrays: of half rows a pier reads its own half alone (R163). -/
def mopPieces (r : LaunchRec) (c : MCfg) (spos : Nat) (o : MOp) : List (Nat × Nat) :=
  match o.sig.op with
  | 0xC1 => mldwArrays r c o
  | 0xC3 =>
    if halfRows r c && (c.shape == 1 || c.shape == 3) then
      let n := actBytes r c
      let half := if spos % 2 == 1 then n / 2 else 0
      (List.range (rowCount o.rows)).map (fun m => (o.aOff + m * n + half, n / 2)) ++
        (if o.sc && spos % 2 == 0 then [(o.asOff, rowCount o.rows * cfgNB r c)] else [])
    else mstrArrays r c spos o
  | _ => []

/-- The footprint of an operation of a block of origin `org` under a configuration (R186). -/
def mopFootprint (r : LaunchRec) (c : MCfg) (org spos : Nat) (o : MOp) : Footprint :=
  let rg (l : List (Nat × Nat)) : List Region := l.map (fun a => { at_ := .scratch org, lo := a.1, hi := a.1 + a.2 })
  if o.sig.op == 0xC1 then { rd := rg (mldwArrays r c o) }
  else if o.sig.op == 0xC3 then
    { rd := rg (mstrArrays r c spos o),
      wr := if writesAcc c spos then
          [{ at_ := .acc org, lo := 512 * rowFirst o.rows, hi := 512 * (rowFirst o.rows + rowCount o.rows) }] else [] }
  else {}

/-- The operations of a queue with the configuration each will find. -/
def withCfg (c : MCfg) : List MOp → List (MOp × MCfg)
  | [] => []
  | o :: os => (o, c) :: withCfg (if o.sig.op == 0xC0 then mcfgNew o.fields else c) os

/-- The 128-B lines of arrays. -/
def linesOf (l : List (Nat × Nat)) : List Nat :=
  (l.flatMap (fun a => (List.range ((a.1 % 128 + a.2 + 127) / 128)).map (fun i => a.1 / 128 + i))).eraseDups

/-- An accepted operation of a block, under the configuration that it will find, orders after it the footprint of a job
that arrives later. One that reads lines which the job has cleared waits for the job's bytes instead (R172, R185). -/
def mopOrders (s : State) (b : Nat) (cleared : List (Nat × Nat)) (fp : Footprint) (p : MOp × MCfg) : Bool :=
  let x := s.block b
  let r := (s.launch x.tag).rec_
  let f := mopFootprint r p.2 x.origin x.spos p.1
  let awaits := (linesOf (mopPieces r p.2 x.spos p.1)).any (fun n => cleared.contains (b, n))
  anyMeet f.wr fp.rd || anyMeet f.wr fp.wr || (anyMeet f.rd fp.wr && !awaits)

/-- An accepted operation of a block that came earlier than `arrival` orders the footprint after it. -/
def queueOrders (s : State) (b arrival : Nat) (cleared : List (Nat × Nat)) (fp : Footprint) : Bool :=
  let x := s.block b
  !x.mqDead && (withCfg x.cfg x.mq).any (fun p => p.1.arrival < arrival && mopOrders s b cleared fp p)

/-- A pointer of a job's record or card as the engine uses it (R111). -/
def jobPtr (s : State) (j : Job) (p : Dword) : Dword :=
  match j.blk with | some b => recordPtr s b j.lane p | none => p

/-- The region of an indexed side. -/
def indexedRegion (s : State) (j : Job) (p : Dword) (esz : Nat) : Region :=
  regionOf s (j.blk.getD 0) p (if j.i64 then j.room else min (2 ^ 32 * esz) j.room)

/-- Bytes of a collective's SEND and RECV (R182). -/
def cardBytes (c : Card) : Nat × Nat :=
  let e := c.n * (if c.ty == 2 || c.ty == 3 then 8 else 4)
  match c.kind with
  | 0 => (if c.rank == 0 then e else 0, e)
  | 1 => (e, c.p * e)
  | 2 => (c.p * e, e)
  | _ => (e, e)

/-- Bytes of the global window; none where they cannot be read. -/
def peekRecord (s : State) (part : Nat) (p : Dword) (n : Nat) : Option (List Byte) :=
  match walkRoot s (ptrDie p) part (ptrOff56 p) with
  | .ok pa _ => if windowOf p = .global then some (rdBytes s.mem pa n) else none
  | _ => none

/-- A job card's fields (R182). -/
def cardOf (bs : List Byte) : Card :=
  let w (i n : Nat) : Nat := leNat ((bs.drop i).take n)
  let c := w 0 8
  { kind := c % 16, ty := (c >>> 4) % 16, op := (c >>> 8) % 16, p := (c >>> 16) % 65536, rank := (c >>> 32) % 65536,
    n := w 8 4, send := BitVec.ofNat 64 (w 16 8), recv := BitVec.ofNat 64 (w 24 8), name := BitVec.ofNat 32 (w 32 4),
    cwp := BitVec.ofNat 64 (w 40 8), cval := BitVec.ofNat 32 (w 48 4) }

/-- The bytes of a job's card as they now stand, in the global window, or in the host window for a packet's (R264). -/
def peekCard (s : State) (j : Job) : Option (List Byte) :=
  if windowOf j.recPtr = .host then
    (if (hostCheck s j.pasid none j.recPtr 64).isNone then
      some (rdBytes s.hostMem (hostByteKey j.pasid (ptrOff56 j.recPtr)) 64) else none)
  else peekRecord s j.part j.recPtr 64

/-- The card of a job: as read at its start, or as it now stands. -/
def cardNow (s : State) (j : Job) : Card :=
  if j.st == .waiting then (match peekCard s j with | some bs => cardOf bs | none => {}) else j.card

/-- The footprint of a job as it stands (R186); a chain's is that of its current record. -/
def jobFootprint (s : State) (j : Job) : Footprint :=
  let b := j.blk.getD 0
  let iw := if j.i64 then 8 else 4
  match j.kind with
  | .cpt =>
    { rd := [regionOf s b j.src j.rshape.span], wr := [regionOf s b j.dst j.wshape.span] }
  | .chain =>
    if j.wshape.esz = 0 then {}
    else { rd := [regionOf s b j.src j.rshape.span], wr := [regionOf s b j.dst j.wshape.span] }
  | .fill => { wr := [regionOf s b j.dst j.wshape.span] }
  | .gth =>
    { rd := [regionOf s b j.idx (iw * j.wshape.count), indexedRegion s j j.src j.wshape.esz],
      wr := [regionOf s b j.dst j.wshape.span] }
  | .sct =>
    { rd := [regionOf s b j.idx (iw * j.wshape.count), regionOf s b j.src j.wshape.span],
      wr := [indexedRegion s j j.dst j.wshape.esz] }
  | .coll =>
    let c := cardNow s j
    { rd := [regionOf s b (jobPtr s j c.send) (cardBytes c).1], wr := [regionOf s b (jobPtr s j c.recv) (cardBytes c).2] }

/-- The arrival of a job, or of a chain's current record, at the die's scheduler. -/
def jobArrival (j : Job) : Nat := if j.kind == .chain then j.recSeq else j.seq

/-- An unfinished job of the same partition and die that arrived earlier orders the footprint after it. -/
def waitsForJobs (s : State) (part die arrival : Nat) (skip : Job → Bool) (fp : Footprint) : Bool :=
  s.jobs.any (fun j => j.part == part && j.die == die && jobArrival j < arrival && !skip j &&
    (jobFootprint s j).orders fp)

/-- A matrix operation waits by footprint (R185), of the jobs that `skip` does not name. -/
def mopWaits (s : State) (b : Nat) (pier : Nat) (c : MCfg) (o : MOp) (skip : Job → Bool) : Bool :=
  let x := s.block b
  let l := s.launch x.tag
  waitsForJobs s l.part (pier / 64) o.arrival skip (mopFootprint l.rec_ c x.origin x.spos o)

/-- A core still holds back a store that a signer made before its signature: the operation is to see it (R159). -/
def signersOwe (s : State) (b : Nat) (o : MOp) : Bool :=
  o.signed_.any (fun g => (s.lane b g.1).localOps.any (fun q => q.kind != .load && q.id < g.2))

/-- A matrix operation may not start yet. -/
def mopHeld (s : State) (b pier : Nat) (c : MCfg) (o : MOp) : Bool :=
  mopWaits s b pier c o (fun _ => false) || signersOwe s b o

/-! ## Quadrants and partners -/

/-- The pier whose quadrant holds a block's matrix state (R141, R137). -/
def quadPier (x : Block) : Option Nat :=
  if x.accRows = 0 then none
  else match x.place with
    | .resident p | .saving p => some p
    | .retired p => if x.mq.isEmpty then none else some p
    | .nowhere => none
    | .saved => none

/-- The block that holds a pier's quadrant. -/
def quadHolder (s : State) (pier : Nat) : Option Nat :=
  (s.blocks.find? (fun b => quadPier b.2 == some pier)).map (·.1)

/-- The same where its partition is not frozen (R306, step 1). -/
def quadBlock (s : State) (pier : Nat) : Option Nat :=
  (s.blocks.find? (fun b => quadPier b.2 == some pier && !s.frozen (s.launch b.2.tag).part)).map (·.1)

/-- The quadrants that a shape joins with quadrant `q` (R11). -/
def joined (shape q : Nat) : List Nat :=
  match shape with
  | 0 => [q]
  | 1 => [q / 2 * 2, q / 2 * 2 + 1]
  | 2 => [q % 2, q % 2 + 2]
  | _ => [0, 1, 2, 3]

/-- The blocks of block `b`'s span. -/
def spanOf (s : State) (b : Nat) : List Nat :=
  let x := s.block b
  let n := (s.launch x.tag).rec_.span
  (List.range n).map (fun i => 2 ^ 32 * x.tag + (n * (x.idx / n) + i))

/-- The block of block `b`'s span whose quadrant is `q`. -/
def spanQuad (s : State) (b q : Nat) : Option Nat :=
  (spanOf s b).find? (fun c => (quadPier (s.block c)).isSome && (s.block c).spos == q)

/-- A block of the span holds span position `q`: it was dispatched there, whatever became of it (R109, R162). -/
def spanHolds (s : State) (b q : Nat) : Bool :=
  (spanOf s b).any (fun c => (s.block c).groups != 0 && (s.block c).spos == q)

/-- The blocks that a shape joins with block `b`; none where a quadrant is not held (R162). -/
def partners (s : State) (b shape : Nat) : Option (List Nat) :=
  let qs := joined shape (s.block b).spos
  let bs := qs.filterMap (spanQuad s b)
  if bs.length = qs.length then some bs else none

/-- The head of a block's queue, where the queue goes on. -/
def mqHead (s : State) (b : Nat) : Option MOp := if (s.block b).mqDead then none else (s.block b).mq.head?

/-! ## Failure (R155) -/

/-- The head of a queue fails: CVWAIT on its round reads 0, and the queue stops. -/
def failMop (s : State) (b : Nat) (code : BitVec 8) (cause : Nat) (addr : Option Dword) : State :=
  match mqHead s b with
  | none => s
  | some o =>
    let x := s.block b
    let s1 := s.updBlock b (fun y =>
      overLanes { y with mqDead := true } (blockLanes y) (fun _ l =>
        if (l.sign o.cv).round == o.round && (l.sign o.cv).st == .issued then
          l.setSign o.cv { round := o.round, st := .discarded }
        else l))
    let d := match addr with | some a => (a, s1) | none => s1.drawFree
    report d.2 x.tag { code := code, cause := cause, job := true, jobk := 7, block := x.idx, pc := o.sig.pc,
                       addr := d.1 }

/-- Fail the heads of several queues; an empty queue stops too, and its report names the instruction `pc` that met the
disagreement (R163; log entry 110). -/
def failMops (s : State) (bs : List Nat) (code : BitVec 8) (pc : Dword) : State :=
  bs.foldl (fun s b =>
    let x := s.block b
    if x.mq.isEmpty && !x.mqDead then
      let d := (s.updBlock b (fun y => { y with mqDead := true })).drawFree
      report d.2 x.tag { code := code, job := true, jobk := 7, block := x.idx, pc := pc, addr := d.1 }
    else failMop s b code 0 none) s

/-! ## Checks at issue (R159, R162 to R166) -/

/-- The fault of an operation at the head of block `b`'s queue: code and, for an array, its pointer. -/
def mopFault (s : State) (b : Nat) (o : MOp) : Option (BitVec 8 × Option Dword) :=
  let x := s.block b
  let r := (s.launch x.tag).rec_
  let c := x.cfg
  let act := if x.sel then x.plane1 else x.plane0
  let shd := if x.sel then x.plane0 else x.plane1
  let scaled (t : Slot) : Bool := t.blk != 0
  let extent (l : List (Nat × Nat)) : Option (BitVec 8 × Option Dword) :=
    (l.find? (fun a => a.1 + a.2 > x.scratchSize)).map (fun a => (Code.spaceInvalid, some (scratchPtr x.origin a.1)))
  match o.sig.op with
  | 0xC0 => if (joined (mcfgNew o.fields).shape x.spos).all (spanHolds s b) then none else some (Code.matrixConfig, none)
  | 0xC1 =>
    if !c.set then some (Code.matrixState, none)
    else if o.bit35 != c.sp || o.sc != scaled (wSlot r c) then some (Code.matrixConfig, none)
    else extent (mldwArrays r c o)
  | 0xC2 => if shd.loaded then none else some (Code.matrixState, none)
  | 0xC3 =>
    if !c.set || !act.loaded || act.cfg != c then some (Code.matrixState, none)
    else if o.sc != scaled (aSlot r c) then some (Code.matrixConfig, none)
    else if scaled (wSlot r c) && scaled (aSlot r c) && (wSlot r c).blk != (aSlot r c).blk then
      some (Code.formatSlot, none)
    else extent (mstrArrays r c x.spos o)
  | _ => none

/-- Two fused MCFGs at the heads of queues that each involves, and that disagree (R163): the involved blocks. -/
def mcfgClash (s : State) (b : Nat) (c : MCfg) : List Nat :=
  let q := (s.block b).spos
  if c.shape = 0 then []
  else ((joined c.shape q).filterMap (spanQuad s b)).flatMap (fun p =>
    match mqHead s p with
    | none => []
    | some o =>
      let d := mcfgNew o.fields
      if o.sig.op != 0xC0 || d.shape = 0 || !(joined d.shape (s.block p).spos).contains q || d == c then []
      else (joined c.shape q ++ joined d.shape (s.block p).spos).eraseDups.filterMap (spanQuad s b))

/-- Start the head of a queue. -/
def startMop (s : State) (b : Nat) : State :=
  s.updBlock b (fun x => { x with mq := match x.mq with | o :: os => { o with started := true } :: os | [] => [] })

/-- MATRIX_OP_ISSUE: the head of a pier's queue is checked and started; a fused stream starts in
FUSED_STREAM_START. -/
def execMatrixOpIssue (pier : Nat) (s : State) : Out :=
  .next (match quadBlock s pier with
    | none => s
    | some b =>
      match mqHead s b with
      | none => s
      | some o =>
        let x := s.block b
        if o.started then s
        else match mopFault s b o with
          | some (c, a) => failMop s b c 0 a
          | none =>
            let clash := if o.sig.op == 0xC0 then mcfgClash s b (mcfgNew o.fields) else []
            if !clash.isEmpty then failMops s clash Code.matrixConfig o.sig.pc
            else if o.sig.op == 0xC3 && x.cfg.shape != 0 then s
            else if mopHeld s b pier x.cfg o then s
            else startMop s b)

/-- The fields that must agree in paired MSTRs (R163). -/
def mstrAgree (r : LaunchRec) (c : MCfg) (qa : Nat) (a : MOp) (qb : Nat) (b : MOp) : Bool :=
  let rowPair : Bool := qa / 2 == qb / 2
  a.bit35 == b.bit35 && a.sc == b.sc && a.rows == b.rows &&
  (c.shape != 1 || (a.aOff == b.aOff && a.asOff == b.asOff)) &&
  (!(c.shape == 3 && halfRows r c && rowPair) || a.aOff == b.aOff)

/-- FUSED_STREAM_START: all paired MSTRs stand at the heads of their queues. -/
def execFusedStreamStart (pier : Nat) (s : State) : Out :=
  .next (match quadBlock s pier with
    | none => s
    | some b =>
      let x := s.block b
      if x.cfg.shape = 0 then s
      else match partners s b x.cfg.shape with
        | none => s
        | some ps =>
          let heads := ps.filterMap (fun p => (mqHead s p).map (fun o => (p, o)))
          if heads.length != ps.length || heads.any (fun h => h.2.sig.op != 0xC3 || h.2.started) ||
             ps.any (fun p => (s.block p).cfg != x.cfg || (s.block p).mstrs != x.mstrs) then s
          else
            let bad := heads.filterMap (fun h => (mopFault s h.1 h.2).map (fun e => (h.1, e)))
            let r := (s.launch x.tag).rec_
            if !bad.isEmpty then bad.foldl (fun s e => failMop s e.1 e.2.1 0 e.2.2) s
            else if heads.any (fun h => heads.any (fun k =>
                !mstrAgree r x.cfg (s.block h.1).spos h.2 (s.block k.1).spos k.2)) then
              failMops s ps Code.matrixConfig ((mqHead s b).map (·.sig.pc) |>.getD 0)
            else if heads.any (fun h => mopHeld s h.1 ((quadPier (s.block h.1)).getD pier) (s.block h.1).cfg h.2) then s
            else ps.foldl startMop s)

/-! ## Presence (R159) -/

/-- The lines that the head of a block's queue reads and that are absent. -/
def mopAbsent (s : State) (b : Nat) (o : MOp) : List (Nat × Nat) :=
  let x := s.block b
  let a := mopPieces (s.launch x.tag).rec_ x.cfg x.spos o
  ((linesOf a).filter (fun l => (tfind l x.absent).isSome)).map (fun l => (b, l))

/-- MATRIX_PRESENCE_TIMEOUT: the wait for one line has lasted 2^24 cycles. -/
def execMatrixPresenceTimeout (pier : Nat) (s : State) : Out :=
  .next (match quadBlock s pier with
    | none => s
    | some b =>
      match mqHead s b with
      | none => s
      | some o =>
        match o.waitOn with
        | some (k, ln) =>
          if o.started && mopAbsent s b o != [] && o.waited ≥ 2 ^ 24 * 100 then
            failMop s b Code.presenceTimeout 0 (some (scratchPtr (s.block k).origin (128 * ln)))
          else s
        | none => s)

/-! ## The column sum (R45, R46) -/

/-- An exact sum; a NaN or a sum of opposite infinities is NaN. -/
def addExact (x y : FVal) : FVal :=
  match x, y with
  | .nan _, _ | _, .nan _ => .nan false
  | .inf a, .inf b => if a == b then .inf a else .nan false
  | .inf a, .fin _ _ _ => .inf a
  | .fin _ _ _, .inf b => .inf b
  | .fin an am ae, .fin bn bm be =>
    let r := addDy an am ae bn bm be
    .fin r.1 r.2.1 r.2.2

/-- An exact product; an infinity times zero is NaN. -/
def mulExact (x y : FVal) : FVal := (mulVal x y).getD (.nan false)

/-- An exact value rounded to f32; an exact zero is +0.0. -/
def toF32 (x : FVal) : Nat :=
  match x with
  | .nan _ => fmtF32.nan
  | .inf n => fmtF32.infCode n
  | .fin n m e => if m == 0 then 0 else (fmtF32.fin 0 false n m e).1

/-- Add two f32 codes by RNE (R45, R46). -/
def addF32 (a b : Nat) : Nat := (fmtF32.add 0 false (fmtF32.dec a) (fmtF32.dec b)).1

/-- Cut a list into pieces of `n`. -/
def pieces {α : Type} (n : Nat) : Nat → List α → List (List α)
  | 0, _ => []
  | k + 1, l => l.take n :: pieces n k (l.drop n)

/-- The codes of packed elements of `w` bits (R33). -/
def unpack (w : Nat) (bs : List Byte) : List Nat :=
  if w = 4 then bs.flatMap (fun b => [b.toNat % 16, b.toNat / 16])
  else (pieces (w / 8) (bs.length / (w / 8)) bs).map leNat

/-- One quadrant's part of a stream's row: the activations of the row, and its scales. -/
structure ActRow where
  vals   : List FVal
  scales : List Byte
  poison : Bool
  deriving DecidableEq, Repr

/-- Column values of physical row `j` times the activations it meets (R161); an activation that no metadata selects meets none
(log entry 53). -/
def rowProducts (c : MCfg) (a : List FVal) (j : Nat) (ws : List FVal) (metas : List Nat) : List FVal :=
  if c.sp then
    let g := (a.drop (4 * (j / 2))).take 4
    (ws.zip metas).map (fun p => mulExact ((g[(p.2 >>> (2 * (j % 2))) % 4]?).getD (.fin false 0 0)) p.1)
  else
    let x := (a[j]?).getD (.fin false 0 0)
    ws.map (mulExact x)

/-- A value of a scale array, or 1. -/
def scaleVal (on : Bool) (c : Option Byte) : FVal := if on then e5m3Val (c.getD 0).toNat else .fin false 1 0

/-- The block results of one quadrant for one activation row, per block the 128 columns (R45 items 2 to 4). -/
def blockSums (r : LaunchRec) (c : MCfg) (pl : Plane) (a : ActRow) : List (List Nat) :=
  let w := (wSlot r c).fmt
  let bs := cfgBlock r c
  let nb := cfgNB r c
  let rows := (pieces (rowBytes w) 128 pl.weights).map (fun l => (unpack w.width l).map w.val)
  let metas := (pieces 64 64 pl.meta_).map (unpack 4)
  let ts := fmtF32.dec (fmtF32.mul 0 false (fmtF32.dec (wSlot r c).tscale) (fmtF32.dec (aSlot r c).tscale)).1
  let perBlock := 128 / nb
  (List.range nb).map (fun b =>
    let nanRow : Bool := ((a.vals.drop (b * bs)).take bs).any (·.isNaN)
    let zero : List FVal := List.replicate 128 (.fin false 0 0)
    let sum := (List.range perBlock).foldl (fun acc i =>
      let j := b * perBlock + i
      let ps := rowProducts c a.vals j (rows.getD j []) (metas.getD (j / 2) [])
      (acc.zip ps).map (fun p => addExact p.1 p.2)) zero
    let sa := scaleVal ((aSlot r c).blk != 0) (a.scales[b]?)
    let sw := (pl.scales.drop (128 * b)).take 128
    (List.range 128).zip sum |>.map (fun p =>
      if nanRow then fmtF32.nan
      else toF32 (mulExact (mulExact ts (scaleVal ((wSlot r c).blk != 0) (sw[p.1]?))) (mulExact sa p.2))))

/-- The column sums of the quadrants of one column, from the first to the last (R45 item 5, R163). -/
def columnSums (blocks : List (List Nat)) : List Nat :=
  match blocks with
  | [] => List.replicate 128 0
  | b :: bs => bs.foldl (fun acc x => (acc.zip x).map (fun p => addF32 p.1 p.2)) b

/-! ## MSTR -/

/-- A byte that a write replaced is past for an operation: the write came before the round's first signature, or was made
by a signer before its own (R159). -/
def OldByte.settled (o : MOp) (e : OldByte) : Bool :=
  e.at_ < o.since || o.signed_.any (fun g => e.lane == some g.1 && e.inst < g.2)

/-- What an operation may find at an offset instead of the byte that stands there: what the writes that are not past
replaced. -/
def olderAt (x : Block) (o : MOp) (off : Nat) : List OldByte :=
  (x.older.filter (fun e => e.off == off)).foldl (fun acc e => if e.settled o then [] else acc ++ [e]) []

/-- For each byte that an operation may find old, which one it finds (R7, R159): the drawn choices that are not the byte
that stands there. -/
def pickOld (x : Block) (o : MOp) (s : State) : List OldByte × State :=
  ((x.older.map (·.off)).eraseDups).foldl (fun acc off =>
    match olderAt x o off with
    | [] => acc
    | l =>
      let d := acc.2.drawFree
      (acc.1 ++ (l[d.1.toNat % (l.length + 1)]?).toList, d.2)) ([], s)

/-- A block with its scratchpad as an operation finds it. -/
def withOld (x : Block) (l : List OldByte) : Block :=
  let bad (w : Nat) : Bool := (List.range 4).any (fun i =>
    match l.find? (fun e => e.off == 4 * w + i) with | some e => e.bad | none => x.scratchPoison.contains w)
  let ws := (l.map (fun e => e.off / 4)).eraseDups
  { x with scratch := l.foldl (fun t e => tput 0 t e.off e.val) x.scratch,
           scratchPoison := x.scratchPoison.filter (fun w => !ws.contains w) ++ ws.filter bad }

/-- The scratchpads of some blocks as the heads of their queues find them. -/
def padViews (s : State) (bs : List Nat) : List (Nat × Block) × State :=
  bs.foldl (fun acc b =>
    match mqHead s b with
    | none => acc
    | some o =>
      let p := pickOld (s.block b) o acc.2
      (acc.1 ++ [(b, withOld (s.block b) p.1)], p.2)) ([], s)

/-- The view of a block's scratchpad. -/
def viewOf (s : State) (vs : List (Nat × Block)) (b : Nat) : Block := (tfind b vs).getD (s.block b)

/-- Scratchpad bytes of a block with whether a word of them is poisoned. -/
def padRead (x : Block) (o n : Nat) : List Byte × Bool :=
  (rdBytes x.scratch o n, (touchedWords o n).any (fun w => x.scratchPoison.contains w))

/-- Activation row `m` that enters at block `left`; with half rows, `right` supplies its second half. -/
def actRow (pad : Nat → Block) (r : LaunchRec) (c : MCfg) (o : MOp) (left : Nat) (right : Option Nat) (m : Nat) : ActRow :=
  let n := actBytes r c
  let at_ := o.aOff + m * n
  let f := (aSlot r c).fmt
  let d := match right with
    | some k =>
      let a := padRead (pad left) at_ (n / 2)
      let b := padRead (pad k) (at_ + n / 2) (n / 2)
      (a.1 ++ b.1, a.2 || b.2)
    | none => padRead (pad left) at_ n
  let sc := if o.sc then padRead (pad left) (o.asOff + m * cfgNB r c) (cfgNB r c) else ([], false)
  { vals := (unpack f.width d.1).map f.val, scales := sc.1, poison := d.2 || sc.2 }

/-- Write one row's column sums into the accumulator rows of a block (R166); true when a result is poisoned. -/
def accRow (x : Block) (row : Nat) (ovr : Bool) (sums : List Nat) (bad : Nat → Bool) : Block :=
  ((List.range 128).zip sums).foldl (fun (x : Block) p =>
    let k := 128 * row + p.1
    let v := if ovr then p.2 else addF32 (tget 0 x.acc k).toNat p.2
    let poison := bad p.1 || (!ovr && x.accPoison.contains k)
    { x with acc := tput 0 x.acc k (BitVec.ofNat 32 v),
             accPoison := if poison then addTo k x.accPoison else x.accPoison.filter (· != k) }) x

/-- The quadrants whose partial sums make the columns of quadrant `q`, upper first, with the block where each
one's activations enter and the block that supplies half rows (R163). -/
structure Feed where
  blk   : Nat
  left  : Nat
  right : Option Nat
  deriving DecidableEq, Repr

def feeds (s : State) (r : LaunchRec) (c : MCfg) (b q : Nat) : List Feed :=
  let at_ (k : Nat) : Nat := (spanQuad s b k).getD b
  let one (k : Nat) : Feed :=
    if c.shape == 1 || c.shape == 3 then
      { blk := at_ k, left := at_ (k / 2 * 2), right := if halfRows r c then some (at_ (k / 2 * 2 + 1)) else none }
    else { blk := at_ k, left := at_ k, right := none }
  if c.shape < 2 then [one q] else [one (q % 2), one (q % 2 + 2)]

/-- The stream of one output quadrant over the scratchpads `pad`; the bool says that it made a poisoned result. -/
def streamOne (s : State) (pad : Nat → Block) (b : Nat) (heads : Nat → Option MOp) : State × Bool :=
  let x := s.block b
  let c := x.cfg
  let r := (s.launch x.tag).rec_
  match heads b with
  | none => (s, false)
  | some o =>
    let fs := if c.shape = 0 then [{ blk := b, left := b, right := none }] else feeds s r c b x.spos
    let y := (List.range (rowCount o.rows)).foldl (fun (y : Block) m =>
      let parts := fs.map (fun f =>
        let z := s.block f.blk
        let pl := if z.sel then z.plane1 else z.plane0
        let a := actRow pad r c ((heads f.left).getD o) f.left f.right m
        (blockSums r c pl a, a.poison, pl.poison))
      let bad (n : Nat) : Bool := parts.any (fun p => p.2.1 || p.2.2.contains n)
      accRow y (rowFirst o.rows + m) o.bit35 (columnSums (parts.flatMap (·.1))) bad) x
    let lo := 128 * rowFirst o.rows
    let hi := 128 * (rowFirst o.rows + rowCount o.rows)
    (s.setBlock b { y with mstrs := y.mstrs + 1 },
     y.accPoison.any (fun k => lo ≤ k && k < hi))

/-! ## MLDW and MRDA -/

/-- Columns that word `w` of an array at `o` with rows of `rb` bytes belongs to. -/
def wordCols (o rb w : Nat) : List Nat :=
  let i := (4 * w - o) % rb
  (List.range (4 * 128 / rb)).map (fun k => i * 128 / rb + k)

/-- The columns that poisoned words of the arrays make poisoned (R172). -/
def arrayCols (x : Block) (a : Nat × Nat) (rb : Nat) : List Nat :=
  (x.scratchPoison.filter (fun w => a.1 < 4 * w + 4 && 4 * w < a.1 + a.2)).flatMap (wordCols a.1 rb)

/-- MLDW fills the shadow plane (R164) from the scratchpad as `v` has it. -/
def loadPlane (r : LaunchRec) (v x : Block) (o : MOp) : Block :=
  let c := x.cfg
  let w := (wSlot r c).fmt
  let wn := 128 * rowBytes w
  let sn := 128 * cfgNB r c
  let p : Plane :=
    { loaded := true, cfg := c, weights := rdBytes v.scratch o.wOff wn,
      meta_ := if o.bit35 then rdBytes v.scratch o.metaOff metaBytes else [],
      scales := if o.sc then rdBytes v.scratch o.wsOff sn else [],
      poison := (arrayCols v (o.wOff, wn) (rowBytes w) ++
        (if o.bit35 then arrayCols v (o.metaOff, metaBytes) 64 else []) ++
        (if o.sc then arrayCols v (o.wsOff, sn) 128 else [])).eraseDups }
  if x.sel then { x with plane0 := p } else { x with plane1 := p }

/-- What lane `l` receives of an accumulator row (R168). -/
def mrdaWords (r : LaunchRec) (x : Block) (o : MOp) (l : Nat) : List Word :=
  let row := o.val 0
  let v (i : Nat) : Word := tget 0 x.acc (128 * row + 4 * (l % 32) + i)
  if o.sig.op == 0xC4 && o.fields.t == .f32 then [v 0, v 1, v 2, v 3]
  else
    let t := slotAt r (o.fields.subBits 37 35)
    let cv (i : Nat) : Nat := (t.fmt.into t.rnd t.sat (fmtF32.dec (v i).toNat)).1
    if t.fmt.width = 8 then [BitVec.ofNat 32 (cv 0 + 2 ^ 8 * cv 1 + 2 ^ 16 * cv 2 + 2 ^ 24 * cv 3)]
    else [BitVec.ofNat 32 (cv 0 + 2 ^ 16 * cv 1), BitVec.ofNat 32 (cv 2 + 2 ^ 16 * cv 3)]

/-- MRDA reads its row: each signer whose fibre has not ended is owed its result, lane by lane (R56, R137, R168). -/
def readRow (s : State) (b : Nat) (o : MOp) : State × Bool :=
  let x := s.block b
  let r := (s.launch x.tag).rec_
  let mine (m : MrdaOut) : Bool := m.blk == b && m.cv == o.cv && m.round == o.round
  let lanes := o.signers.filter (fun g => s.mrdas.any (fun m => mine m && m.lane == g.1))
  let poison (l : Nat) : Bool := (List.range 4).any (fun i => x.accPoison.contains (128 * o.val 0 + 4 * (l % 32) + i))
  let s1 := lanes.foldl (fun t g =>
    pushL t { id := 0, blk := b, lane := g.1, regs := regPairs g.2 (mrdaWords r x o g.1), poison := poison g.1, mop := o.id }) s
  ({ s1 with mrdas := s1.mrdas.filter (fun m => !mine m) }.updBlock b (fun y =>
      { y with mq := y.mq.map (fun (p : MOp) => if p.id == o.id then { p with read := true } else p) }),
   (List.range 128).any (fun i => x.accPoison.contains (128 * o.val 0 + i)))

/-- MWRA: four columns of a row (R169). -/
def writeCols (x : Block) (o : MOp) : Block :=
  let row := o.val 0 % 4096
  let g := (o.val 0 >>> 16) % 32
  (List.range 4).foldl (fun (x : Block) i =>
    let k := 128 * row + 4 * g + i
    { x with acc := tput 0 x.acc k (BitVec.ofNat 32 (o.val (i + 1))), accPoison := x.accPoison.filter (· != k) }) x

/-- A store of the accumulators that a core holds back may come while an operation replaces its words: each of them keeps
the operation's value, or takes the store's when that is performed (R122). -/
def loseStores (s : State) (b lo hi : Nat) : State :=
  (blockLanes (s.block b)).foldl (fun s l =>
    if (s.lane b l).localOps.isEmpty then s
    else
      let r := (s.lane b l).localOps.foldl (fun (acc : List LocalOp × State) q =>
        if q.kind != .st || windowOf q.ptr != .acc then (acc.1 ++ [q], acc.2)
        else
          let ws := (touchedWords (ptrOff24 q.ptr) q.bytes.length).filter (fun w => lo ≤ w && w < hi && !q.lost.contains w)
          let y := ws.foldl (fun (a : List Nat × State) w =>
            let d := a.2.drawFree
            (if d.1.getLsbD 0 then a.1 ++ [w] else a.1, d.2)) ([], acc.2)
          (acc.1 ++ [{ q with lost := q.lost ++ y.1 }], y.2)) ([], s)
      r.2.updLane b l (fun z => { z with localOps := r.1 })) s

/-- The accumulator words that an operation writes, from the first to one past the last. -/
def accSpan (o : MOp) : Nat × Nat :=
  if o.sig.op == 0xC5 then
    let k := 128 * (o.val 0 % 4096) + 4 * ((o.val 0 >>> 16) % 32)
    (k, k + 4)
  else (128 * rowFirst o.rows, 128 * (rowFirst o.rows + rowCount o.rows))

/-- MCLRA: rows of +0.0 (R169). -/
def clearRows (x : Block) (o : MOp) : Block :=
  let lo := 128 * rowFirst o.rows
  let hi := 128 * (rowFirst o.rows + rowCount o.rows)
  { x with acc := x.acc.filter (fun a => a.1 < lo || hi ≤ a.1),
           accPoison := x.accPoison.filter (fun k => k < lo || hi ≤ k) }

/-! ## Completion (R158) -/

/-- The head of a queue has been performed: it is complete, or its results are poisoned, which the launch's fault record
takes once for the operation, and the queue stops (R155, R172, R173). -/
def finishMop (s : State) (b : Nat) (bad : Bool) : State :=
  if bad then failMop s b Code.poison 9 none else popMop s b

/-- Perform a stream over the blocks it joins and complete it. -/
def completeStream (s0 : State) (bs : List Nat) : State :=
  let v := padViews s0 bs
  let s := v.2
  let heads (b : Nat) : Option MOp := mqHead s b
  let outs := bs.filter (fun b => writesAcc (s.block b).cfg (s.block b).spos || (s.block b).cfg.shape = 0)
  let done := outs.map (fun b => (b, streamOne s (viewOf s v.1) b heads))
  let s1 := done.foldl (fun (t : State) q =>
    let w := (heads q.1).map accSpan |>.getD (0, 0)
    loseStores (t.setBlock q.1 (q.2.1.block q.1)) q.1 w.1 w.2) s
  let s2 := (bs.filter (fun b => !outs.contains b)).foldl (fun (t : State) b =>
    t.updBlock b (fun y => { y with mstrs := y.mstrs + 1 })) s1
  bs.foldl (fun t b => finishMop t b (done.any (fun q => q.1 == b && q.2.2))) s2

/-- MATRIX_OP_COMPLETE: the started head of a pier's queue is performed, once the lines it reads are present. -/
def execMatrixOpComplete (pier : Nat) (s : State) : Out :=
  .next (match quadBlock s pier with
    | none => s
    | some b =>
      match mqHead s b with
      | none => s
      | some o =>
        let x := s.block b
        let r := (s.launch x.tag).rec_
        if !o.started then s
        else match o.sig.op with
          | 0xC0 =>
            let c := mcfgNew o.fields
            (match partners s b c.shape with
             | none => s
             | some ps =>
               if ps.all (fun p => match mqHead s p with
                   | some h => h.started && h.sig.op == 0xC0 && mcfgNew h.fields == c
                   | none => false) then
                 ps.foldl (fun s p => popMop (s.updBlock p (fun y => { y with cfg := c, mstrs := 0 })) p) s
               else s)
          | 0xC1 =>
            if mopAbsent s b o != [] then s
            else
              let v := padViews s [b]
              let y := loadPlane r (viewOf s v.1 b) x o
              finishMop (v.2.setBlock b y) b (!(if y.sel then y.plane0 else y.plane1).poison.isEmpty)
          | 0xC2 => popMop (s.updBlock b (fun y => { y with sel := !y.sel })) b
          | 0xC3 =>
            let ps := if x.cfg.shape = 0 then [b] else (partners s b x.cfg.shape).getD []
            if ps.any (fun p => match mqHead s p with
                | some h => h.sig.op != 0xC3 || !h.started || mopAbsent s p h != []
                | none => true) then s
            else completeStream s ps
          | 0xC4 =>
            if o.read then settleRead s b
            else
              let q := readRow s b o
              if q.2 then failMop q.1 b Code.poison 9 none else settleRead q.1 b
          | 0xC5 => popMop (loseStores (s.updBlock b (fun y => writeCols y o)) b (accSpan o).1 (accSpan o).2) b
          | 0xC6 => popMop (loseStores (s.updBlock b (fun y => clearRows y o)) b (accSpan o).1 (accSpan o).2) b
          | _ => popMop s b)

end Sys2Proof.Machine
end

