-- ==== Sys2Proof/Machine/Engine.lean ====
section
/-! DEFINITION. The copy and collective engine complex: jobs, chain records and collectives (R175 to R187). -/
namespace Sys2Proof.Machine

/-! ## Jobs -/

def findJob (s : State) (k : Nat) : Option Job := s.jobs.find? (fun j => j.id == k && !s.frozen j.part)
def updJob (s : State) (k : Nat) (g : Job → Job) : State :=
  { s with jobs := s.jobs.map (fun j => if j.id == k then g j else j) }

/-- The job's block is being saved or is saved: its unstarted work waits (R187). A started job of a discarded block
goes on (R299). -/
def jobHeld (s : State) (j : Job) : Bool :=
  match j.blk with
  | some b => (match (s.block b).place with | .saving _ => !(s.block b).dropping | .saved => true | _ => false)
  | none => false

/-- The lease ranges that bound a job: none for a COPYJOB packet (R279). -/
def jobRec (s : State) (j : Job) : Option LaunchRec :=
  if j.packet.isSome then none else some (s.launch j.tag).rec_

/-- The job's failure, kept until it completes as failed (R181); the first one stands. -/
def markFailed (s : State) (k : Nat) (code : BitVec 8) (addr : Dword) : State :=
  updJob s k (fun j => { j with failed := some (j.failed.getD (code, addr)) })

/-- The JOBK of a job (R294). -/
def jobKindCode : JobKind → Nat
  | .cpt => 1
  | .chain => 2
  | .gth => 3
  | .sct => 4
  | .fill => 5
  | .coll => 6

/-! ## Reads and writes of the engine (R178, R279) -/

/-- What the engine finds at bytes it reads: the bytes, poison, and the chunks that must come from memory. -/
inductive Got where
  | bytes (bs : List Byte) (poison : Bool) (miss : Nat)
  | waits
  /-- An absent line, as block and line. -/
  | absent (blk line : Nat)
  | bad (code : BitVec 8) (addr : Dword)
  deriving DecidableEq, Repr

/-- A local pointer is within its allocation. -/
def localOk (s : State) (b : Nat) (p : Dword) (n : Nat) : Bool :=
  match windowLimit s b (windowOf p) with | some l => decide (limitOff p + n ≤ l) | none => true

/-- The lines of a pointer that other jobs than `k` keep absent (R179). -/
def absentFor (s : State) (k b : Nat) (p : Dword) (n : Nat) : Option (Nat × Nat) :=
  if windowOf p = .scratch || windowOf p = .cluster then
    let c := padBlock s b p
    let o := ptrOff24 p
    (((List.range ((o % 128 + n + 127) / 128)).map (fun i => o / 128 + i)).find? (fun ln =>
      (tget [] (s.block c).absent ln).any (· != k))).map (fun ln => (c, ln))
  else none

/-- The engine reads `n` bytes at a pointer. -/
def engineRead (s : State) (j : Job) (p : Dword) (n : Nat) : Got :=
  let b := j.blk.getD 0
  match windowOf p with
  | .global =>
    if !dieExists s (ptrDie p) then .bad Code.spaceInvalid p
    else
      (match globalRead s j.part (jobRec s j) (chunkPieces p n) with
       | .ok bs bad miss => .bytes bs bad miss
       | .fault c _ a => .bad c a
       | .waits => .waits)
  | .host =>
    if !ptrZeroOk p then .bad Code.spaceInvalid p
    else
      (match hostCheck s j.pasid (jobRec s j) p n with
       | some (c, _) => .bad c p
       | none => .bytes (rdBytes s.hostMem (hostByteKey j.pasid (ptrOff56 p)) n) false 0)
  | .scratch | .cluster | .acc =>
    if j.blk.isNone || !localOk s b p n then .bad Code.spaceInvalid p
    else
      (match absentFor s j.id b p n with
       | some x => .absent x.1 x.2
       | none =>
         let x := s.block (padBlock s b p)
         let o := ptrOff24 p
         if windowOf p = .acc then
           .bytes ((List.range n).map (fun i => accByte x (o + i)))
             ((touchedWords o n).any (fun w => x.accPoison.contains w)) 0
         else .bytes (rdBytes x.scratch o n) ((touchedWords o n).any (fun w => x.scratchPoison.contains w)) 0)
  | _ => .bad Code.spaceInvalid p

/-- The translation of a read sets U in the leaf (R278, log entry 21). -/
def readMark (s : State) (j : Job) (p : Dword) (n : Nat) : State :=
  if windowOf p = .global && dieExists s (ptrDie p) then globalMark s j.part (jobRec s j) (chunkPieces p n) else s

/-- Where a write of the engine goes. -/
inductive Dest where
  | home (pa : Nat) (leaf : Leaf)
  | host (key : Nat)
  | pad (blk off : Nat) (acc : Bool)
  | waits
  | bad (code : BitVec 8) (addr : Dword)
  deriving DecidableEq, Repr

def engineDest (s : State) (j : Job) (p : Dword) (n : Nat) : Dest :=
  let b := j.blk.getD 0
  match windowOf p with
  | .global =>
    if !dieExists s (ptrDie p) then .bad Code.spaceInvalid p
    else
      (match xlatGlobal s j.part (jobRec s j) p n .write with
       | .ok pa lf => .home pa lf
       | .fault c _ => .bad c p
       | .waits => .waits)
  | .host =>
    if !ptrZeroOk p then .bad Code.spaceInvalid p
    else
      (match hostCheck s j.pasid (jobRec s j) p n with
       | some (c, _) => .bad c p
       | none => .host (hostByteKey j.pasid (ptrOff56 p)))
  | .scratch | .cluster | .acc =>
    if j.blk.isNone || !localOk s b p n then .bad Code.spaceInvalid p
    else .pad (padBlock s b p) (ptrOff24 p) (windowOf p = .acc)
  | _ => .bad Code.spaceInvalid p

/-- Where the bytes of a write go: each piece with its offset and its length. A write at a home is cut at the chunks. -/
def engineDests (s : State) (j : Job) (p : Dword) (n : Nat) : List (Dest × Nat × Nat) :=
  (if windowOf p = .global then chunkPieces p n else [(p, n)]).map (fun q =>
    (engineDest s j q.1 q.2, q.1.toNat - p.toNat, q.2))

/-- The first refusal of some pieces, and whether one of them waits. -/
def destBad (ds : List (Dest × Nat × Nat)) : Option (BitVec 8 × Dword) :=
  ds.findSome? (fun d => match d.1 with | .bad c a => some (c, a) | _ => none)
def destWaits (ds : List (Dest × Nat × Nat)) : Bool := ds.any (fun d => d.1 == .waits)

/-- Chunks of memory that some pieces write. -/
def destChunks (ds : List (Dest × Nat × Nat)) : Nat :=
  (ds.filter (fun d => match d.1 with | .home _ _ => true | _ => false)).length

/-- Write the bytes of `bs` that `on` admits. A home's words must have no owner by then. -/
def enginePut (s : State) (d : Dest) (bs : List Byte) (on : Nat → Bool) (poison : Bool) : State :=
  let n := bs.length
  let idx := List.range n
  match d with
  | .home pa lf =>
    let s1 := setU s lf
    let base := pa / 64 * 64
    let be := idx.foldl (fun (m : BitVec 64) i => if on i then m ||| beMask (pa % 64 + i) 1 else m) 0
    homeWriteMasked s1 base be (BitVec.ofNat 512 (leNat bs * 2 ^ (8 * (pa % 64)))) poison
  | .host key =>
    { s with hostMem := (idx.zip bs).foldl (fun m x => if on x.1 then wrByte m (key + x.1) x.2 else m) s.hostMem }
  | .pad b o acc =>
    let put (s : State) (o : Nat) (bs : List Byte) : State :=
      let cov := coveredWords o bs.length
      s.tick.updBlock b (fun x =>
        if acc then
          let y := accWrite x o bs
          { y with accPoison := if poison then (touchedWords o bs.length).foldl (fun l w => addTo w l) y.accPoison
                                else y.accPoison.filter (fun w => !cov.contains w) }
        else scratchWrite x o bs poison s.seq s.seq none)
    if idx.all on then put s o bs
    else (idx.zip bs).foldl (fun s x => if on x.1 then put s (o + x.1) [x.2] else s) s
  | _ => s

/-- Write pieces of `bs`: the words of a home lose their owners first. -/
def enginePuts (s : State) (ds : List (Dest × Nat × Nat)) (bs : List Byte) (on : Nat → Bool) (poison : Bool) : State :=
  ds.foldl (fun (s : State) d =>
    let t := match d.1 with | .home pa _ => clearOwners s (physWords pa d.2.2) | _ => s
    enginePut t d.1 ((bs.drop d.2.1).take d.2.2) (fun i => on (d.2.1 + i)) poison) s

/-- Bytes that an access through the host link carries. -/
def hostBytes (p : Option Dword) (n : Nat) : Nat :=
  match p with | some p => if windowOf p = .host then n else 0 | none => 0

/-- The charges of an element of `n` bytes, whose read brings `miss` chunks from memory: activity and units (R342). -/
def moveCharges (n miss : Nat) (src dst : Option Dword) (chunks : Nat) : List (Nat × Nat) :=
  [(2, n), (0, 64 * miss), (1, 64 * chunks), (5, hostBytes src n + hostBytes dst n)]

/-! ## Elements (R178) -/

/-- The elements that a job writes. -/
def jobCount (j : Job) : Nat :=
  match j.kind with
  | .coll => (cardBytes j.card).2 / (if j.card.ty == 2 || j.card.ty == 3 then 8 else 4)
  | _ => j.wshape.count

/-- Element size of what a job writes. -/
def jobEsz (j : Job) : Nat :=
  match j.kind with
  | .coll => if j.card.ty == 2 || j.card.ty == 3 then 8 else 4
  | _ => j.wshape.esz

def allDone (j : Job) : Bool := j.done.length == jobCount j

/-- Byte `k` of element `i`, written at offset `o`, is not yet written by a later element (R178). -/
def lastWriter (j : Job) (i o k : Nat) : Bool :=
  !j.done.any (fun d => i < d.1 && d.2 ≤ o + k && o + k < d.2 + jobEsz j)

/-- A job's bytes that are still to land in line `ln` of block `b`; an indexed destination may reach any line. -/
def stillLands (s : State) (j : Job) (b ln : Nat) : Bool :=
  if j.kind == .sct then !allDone j
  else
    let base := ptrOff24 j.dst
    padBlock s (j.blk.getD 0) j.dst == b &&
    (List.range (jobCount j)).any (fun i =>
      let o := base + j.wshape.off i
      o / 128 ≤ ln && ln ≤ (o + jobEsz j - 1) / 128 && !j.done.any (fun d => d.1 == i))

/-- A job waits no longer for lines that are present for it. -/
def settleWaits (s : State) : State :=
  { s with jobs := s.jobs.map (fun j =>
      { j with waits := j.waits.filter (fun w => (tget [] (s.block w.1).absent w.2.1).any (· != j.id)) }) }

/-- Make lines present as far as job `k` is concerned (R179). -/
def landLines (s : State) (k : Nat) (ls : List (Nat × Nat)) : State :=
  settleWaits (ls.foldl (fun s x => s.updBlock x.1 (fun b =>
    { b with absent := tput [] b.absent x.2 ((tget [] b.absent x.2).filter (· != k)) })) s)

/-- Element `i` of a job is written at offset `o`: lines that have all their bytes are present again. -/
def markDone (s : State) (k i o : Nat) : State :=
  let s1 := updJob s k (fun j => { j with done := j.done ++ [(i, o)] })
  match findJob s1 k with
  | none => s1
  | some j =>
    let near := j.cleared.filter (fun x =>
      (ptrOff24 j.dst + o) / 128 ≤ x.2 && x.2 ≤ (ptrOff24 j.dst + o + jobEsz j - 1) / 128)
    landLines s1 k (near.filter (fun x => !stillLands s1 j x.1 x.2))

/-- The job begins or goes on to wait for an absent line (R179). -/
def waitLine (s : State) (k blk ln : Nat) : State :=
  updJob s k (fun j =>
    if j.waits.any (fun w => w.1 == blk && w.2.1 == ln) then j else { j with waits := j.waits ++ [(blk, ln, 0)] })

/-- A job has supplied every byte of the chunks that its element at `base + o` lies in: their poison is cleared (R359). -/
def supplyChunks (s : State) (j : Job) (base : Dword) (ds : List (Dest × Nat × Nat)) (o : Nat) : State :=
  match findJob s j.id with
  | none => s
  | some x =>
    let n := jobEsz x
    ds.foldl (fun (s : State) d =>
      match d.1 with
      | .home pa _ =>
        let lo := base.toNat + o + d.2.1 - pa % 64
        if s.memPoison.contains (pa / 64) && (List.range 64).all (fun k => x.done.any (fun e =>
            base.toNat + e.2 ≤ lo + k && lo + k < base.toNat + e.2 + n)) then
          { s with memPoison := s.memPoison.filter (· != pa / 64) }
        else s
      | _ => s) s

/-- Write element `i` at `base + o`, read at `src` as `bs`; poison is written and fails the job (R181, R187). -/
def moveTo (s : State) (j : Job) (i : Nat) (base : Dword) (o : Nat) (src : Option Dword) (bs : List Byte)
    (poison : Bool) (miss : Nat) : State :=
  let p := base + BitVec.ofNat 64 o
  let ds := engineDests s j p bs.length
  match destBad ds with
  | some e => markFailed s j.id e.1 e.2
  | none =>
    if destWaits ds then s
    else
      budgetAll s j.part j.id (moveCharges bs.length miss src (some p) (destChunks ds)) (fun st =>
        let s2 := markDone (enginePuts st ds bs (lastWriter j i o) poison) j.id i o
        if poison then markFailed s2 j.id Code.poison (src.getD p) else supplyChunks s2 j base ds o)

/-- Read at a pointer, then go on with the bytes. -/
def withBytes (s : State) (j : Job) (p : Dword) (n : Nat) (act : State → List Byte → Bool → Nat → State) : State :=
  let t := readMark s j p n
  match engineRead t j p n with
  | .bytes bs bad miss => act t bs bad miss
  | .waits => s
  | .absent b ln => waitLine s j.id b ln
  | .bad c a => markFailed s j.id c a

/-! ## Collectives (R182) -/

def cardTy (c : Card) : Ty :=
  match c.ty with
  | 0 => .b32
  | 1 => .s32
  | 2 => .b64
  | 3 => .s64
  | _ => .f32

/-- Combine element values of the ranks in ascending order (R182). -/
def reduceRanks (c : Card) (vs : List Nat) : Nat :=
  match vs with
  | [] => 0
  | v :: r => r.foldl (fun a b => (redOp c.op (cardTy c) a b).1) v

/-- The pointer of element `i` of a job's SEND. -/
def sendPtr (s : State) (j : Job) (i n : Nat) : Dword := jobPtr s j j.card.send + BitVec.ofNat 64 (i * n)

/-- Read the elements `es` of each job's SEND, in order; with the first poisoned one's pointer, and the chunks from
memory. -/
def readSends (s : State) (es : List (Job × Nat)) (n : Nat) : Except (Job × Got) (List Nat × Option Dword × Nat) :=
  match es with
  | [] => .ok ([], none, 0)
  | e :: r =>
    let p := sendPtr s e.1 e.2 n
    match engineRead s e.1 p n with
    | .bytes bs bad miss =>
      (match readSends s r n with
       | .ok q => .ok (leNat bs :: q.1, if bad then some p else q.2.1, miss + q.2.2)
       | .error e => .error e)
    | g => .error (e.1, g)

/-- Put a job in its place by rank. -/
def insertRank (l : List Job) (j : Job) : List Job :=
  match l with
  | [] => [j]
  | x :: r => if j.card.rank < x.card.rank then j :: x :: r else x :: insertRank r j

/-- The jobs of an instance in ascending rank. -/
def instJobs (s : State) (k : Nat) : List Job :=
  (s.jobs.filter (fun j => j.kind == .coll && j.inst == k)).foldl insertRank []

/-- What element `i` of RECV is made of: jobs with the element of each one's SEND. -/
def sendsOf (c : Card) (js : List Job) (i : Nat) : List (Job × Nat) :=
  match c.kind with
  | 0 => (js.filter (fun j => j.card.rank == 0)).map (fun j => (j, i))
  | 1 => (js.filter (fun j => j.card.rank == i / c.n)).map (fun j => (j, i % c.n))
  | 2 => js.map (fun j => (j, c.rank * c.n + i))
  | _ => js.map (fun j => (j, i))

/-- A job of an instance has failed: so have the others (R182). The fault that failed them is not theirs: their
cause is 0. -/
def failPeers (s : State) (inst : Nat) : State :=
  let s1 := { s with colls := s.colls.filter (fun c => c.id != inst) }
  (s1.jobs.filter (fun j => j.kind == .coll && j.inst == inst && inst != 0)).foldl (fun s j =>
    updJob (markFailed s j.id 0 0) j.id (fun x => { x with st := .running })) s1

/-- Element `i` of a collective's RECV. -/
def collElement (s : State) (j : Job) (i : Nat) : State :=
  let n := jobEsz j
  let es := sendsOf j.card (instJobs s j.inst) i
  let t := es.foldl (fun t e => readMark t e.1 (sendPtr s e.1 e.2 n) n) s
  match readSends t es n with
  | .error (k, .bad c a) => failPeers (markFailed t k.id c a) j.inst
  | .error (_, _) => t
  | .ok (vs, bad, miss) =>
    let v := if j.card.kind < 2 then vs.headD 0 else reduceRanks j.card vs
    let s1 := moveTo t j i (jobPtr s j j.card.recv) (i * n) bad (leBytes n v) bad.isSome miss
    match findJob s1 j.id with
    | some x => if x.failed.isSome then failPeers s1 j.inst else s1
    | none => s1

/-- The offset of an indexed element, where it stays in its window and allocation. -/
def indexOk (j : Job) (x : Nat) : Bool := x * j.wshape.esz + j.wshape.esz ≤ j.room

/-- A running job does its element `i`: its read and its write are one (log entry 112). -/
def jobProgress (s : State) (k i : Nat) : State :=
  match findJob s k with
  | none => s
  | some j =>
    if j.st != .running || j.failed.isSome || i ≥ jobCount j || j.done.any (fun d => d.1 == i) ||
       (j.kind == .chain && !j.recLive) then s
    else
      let n := j.wshape.esz
      let iw := if j.i64 then 8 else 4
      match j.kind with
      | .fill => moveTo s j i j.dst (j.wshape.off i) none j.value false 0
      | .cpt | .chain =>
        let p := j.src + BitVec.ofNat 64 (j.rshape.off i)
        withBytes s j p n (fun t bs bad miss => moveTo t j i j.dst (j.wshape.off i) (some p) bs bad miss)
      | .gth =>
        withBytes s j (j.idx + BitVec.ofNat 64 (i * iw)) iw (fun t xs xbad xm =>
          let x := leNat xs
          let p := j.src + BitVec.ofNat 64 (x * n)
          if xbad then markFailed t k Code.poison (j.idx + BitVec.ofNat 64 (i * iw))
          else if !indexOk j x then markFailed t k Code.spaceInvalid p
          else withBytes t j p n (fun t bs bad miss => moveTo t j i j.dst (i * n) (some p) bs bad (xm + miss)))
      | .sct =>
        withBytes s j (j.idx + BitVec.ofNat 64 (i * iw)) iw (fun t xs xbad xm =>
          let x := leNat xs
          let p := j.src + BitVec.ofNat 64 (i * n)
          if xbad then markFailed t k Code.poison (j.idx + BitVec.ofNat 64 (i * iw))
          else if !indexOk j x then markFailed t k Code.spaceInvalid (j.dst + BitVec.ofNat 64 (x * n))
          else withBytes t j p n (fun t bs bad miss => moveTo t j i j.dst (x * n) (some p) bs bad (xm + miss)))
      | .coll => collElement s j i

/-- The pointers that element `i` of a job reads at, and the one that it writes at; of a chain without a current record,
and of a collective before its card is read, the record's. -/
def elemReads (s : State) (j : Job) (i : Nat) : List Dword :=
  let n := j.wshape.esz
  let iw := if j.i64 then 8 else 4
  let ip := j.idx + BitVec.ofNat 64 (i * iw)
  let ix := match engineRead s j ip iw with | .bytes bs _ _ => leNat bs | _ => 0
  match j.kind with
  | .fill => []
  | .cpt => [j.src + BitVec.ofNat 64 (j.rshape.off i)]
  | .chain => [if j.recLive then j.src + BitVec.ofNat 64 (j.rshape.off i) else j.recPtr]
  | .gth => [ip, j.src + BitVec.ofNat 64 (ix * n)]
  | .sct => [ip, j.src + BitVec.ofNat 64 (i * n)]
  | .coll =>
    if j.st == .waiting then [j.recPtr]
    else (sendsOf j.card (instJobs s j.inst) i).map (fun e => sendPtr s e.1 e.2 (jobEsz j))

def elemWrites (s : State) (j : Job) (i : Nat) : List Dword :=
  let n := j.wshape.esz
  let iw := if j.i64 then 8 else 4
  let ix := match engineRead s j (j.idx + BitVec.ofNat 64 (i * iw)) iw with | .bytes bs _ _ => leNat bs | _ => 0
  match j.kind with
  | .fill | .cpt => [j.dst + BitVec.ofNat 64 (j.wshape.off i)]
  | .chain => if j.recLive then [j.dst + BitVec.ofNat 64 (j.wshape.off i)] else []
  | .gth => [j.dst + BitVec.ofNat 64 (i * n)]
  | .sct => [j.dst + BitVec.ofNat 64 (ix * n)]
  | .coll => if j.st == .waiting then [] else [jobPtr s j j.card.recv + BitVec.ofNat 64 (i * jobEsz j)]

/-- A host completes access `n` of element `i` of a job with an error: the job fails, and reports the pointer of that
access. The manual gives this fault no code: a free value (R181; log entry 113). -/
def jobHostError (s : State) (k i n : Nat) : State :=
  match findJob s k with
  | none => s
  | some j =>
    if j.failed.isSome || (j.st != .running && !(j.kind == .coll && j.st == .waiting)) || j.done.any (fun d => d.1 == i) ||
       (j.kind != .coll && (j.kind != .chain || j.recLive) && i ≥ jobCount j) then s
    else match ((elemReads s j i ++ elemWrites s j i).filter (fun p => windowOf p == .host))[n]? with
      | none => s
      | some p =>
        let d := s.drawFree
        updJob (markFailed d.2 k (d.1.setWidth 8) p) k (fun x =>
          { x with st := .running, chainEnd := x.chainEnd || (x.kind == .chain && !x.recLive) })

/-! ## The end of a job (R179, R181, R183) -/

/-- A packet completes: its event, where it asks for one (R266, R267). -/
def packetDone (s : State) (q : Nat) (seq : Word) (status : Nat) : State :=
  match (s.queue q).packets.find? (fun p => p.seq == seq) with
  | none => s
  | some p =>
    let s1 := s.updQueue q (fun x => { x with packets := x.packets.filter (fun y => y.seq != seq) })
    if p.flags.getLsbD 1 then
      let l := s1.launch p.tag
      pushEvent s1 q
        { kind := 1, status := status, rseq := seq, tag := if p.type = 1 then p.tag else 0,
          fcode := if p.type = 1 then l.first else 0, fsum := if p.type = 1 then fsumOf l else 0,
          irq := p.flags.getLsbD 2 }
    else s1

/-- A job's batch counts it (R183). -/
def Lane.jobEnds (l : Lane) (batch : Word) (err : Bool) : Lane :=
  if l.batches.any (fun b => b.1 == batch && b.2.1 != 0) then
    { l with batches := l.batches.map (fun b =>
        if b.1 == batch && b.2.1 != 0 then (b.1, b.2.1 - 1, b.2.2 || err) else b) }
  else { l with unsealedDone := l.unsealedDone + 1, unsealedErr := l.unsealedErr || err }

/-- A lane in CPWAIT goes on when few enough batches are unfinished; the end of the wait is an acquire (R183). -/
def wakeCpwait (s : State) (b l : Nat) : State :=
  let x := s.lane b l
  match x.park with
  | .cpwait n =>
    if x.unfinished ≤ n then
      let s1 := s.updLane b l (fun y => { y with park := .run })
      acquireSg s1 b l s1.seq x.pc
    else s
  | _ => s

/-- Lanes of a pier that wait for a job place go on (R175). -/
def wakeJobSlots (s : State) (pier : Nat) : State :=
  if pierJobs s pier ≥ pierJobLimit then s
  else (s.blocks.filter (fun b => b.2.onPier == some pier)).foldl (fun s kb =>
    s.updBlock kb.1 (fun x => overLanes x (blockLanes x) (fun _ (l : Lane) =>
      if l.park == .jobSlots then { l with park := .run } else l))) s

/-- The channel register follows the chain that is being processed, 0 without one (R180). -/
def settleChannel (s : State) (b chan : Nat) : State :=
  let v := match s.jobs.find? (fun j => j.kind == .chain && j.blk == some b && j.chan == chan && !j.chainEnd) with
    | some j => j.recPtr
    | none => 0
  s.updBlock b (fun x => { x with chans := tput 0 x.chans chan v })

/-- A job has completed or failed: it leaves the engine. `moved` is what it adds to CNTRD.cpb. -/
def endJob (s : State) (j : Job) (err : Bool) : State :=
  let s1 := landLines { s with jobs := s.jobs.filter (fun x => x.id != j.id) } j.id j.cleared
  let s2 := match j.blk with
    | none => s1
    | some b =>
      let moved := if err then 0 else j.moved + j.done.length * jobEsz j
      let t := s1.updBlock b (fun x => { x with cpb := x.cpb + BitVec.ofNat 64 moved })
      let t1 := if (t.lane b j.lane).fib == j.fib && (t.lane b j.lane).live then
          wakeCpwait (t.updLane b j.lane (fun l => l.jobEnds j.batch err)) b j.lane
        else t
      finishDiscard (wakeJobSlots (if j.kind == .chain then settleChannel t1 b j.chan else t1) j.pier) b
  match j.packet with
  | some (q, seq) => packetDone s2 q seq (if err then 1 else 0)
  | none => s2

/-- COPY_FAILED in the launch's fault record (R181). -/
def reportJob (s : State) (j : Job) (code : BitVec 8) (addr : Dword) : State :=
  match j.blk with
  | none => s
  | some b =>
    report s j.tag { code := Code.copyFailed, cause := code.toNat, job := true, jobk := jobKindCode j.kind,
                     lane := j.lane, block := (s.block b).idx, aux := j.batch.toNat, pc := j.pc, addr := addr }

/-! ## Words that the engine writes to memory (R180, R182) -/

/-- A small write of the engine: where its pieces go, and its bytes. -/
def engineWords (s : State) (j : Job) (ws : List (Dword × List Byte)) : List (List (Dest × Nat × Nat) × List Byte) :=
  ws.map (fun w => (engineDests s j w.1 w.2.length, w.2))

/-- What small writes are charged: 64 bytes for each word at a home, and bytes through the host link (R342). -/
def wordCharges (ds : List (List (Dest × Nat × Nat) × List Byte)) : List (Nat × Nat) :=
  [(1, 64 * (ds.map (fun d => destChunks d.1)).sum),
   (5, (ds.map (fun d => if d.1.any (fun q => match q.1 with | .host _ => true | _ => false) then d.2.length else 0)).sum)]

/-- Perform small writes together, then go on, once none waits and the budgets admit them. A write that translation
refuses is not made: what follows gets the first refusal (R181, R279). -/
def afterWords (s : State) (j : Job) (ws : List (Dword × List Byte)) (act : State → Option (BitVec 8 × Dword) → State) :
    State :=
  let ds := engineWords s j ws
  if ds.any (fun d => destWaits d.1) then s
  else budgetAll s j.part j.id (wordCharges ds) (fun st =>
    act (ds.foldl (fun (t : State) d => if (destBad d.1).isSome then t else enginePuts t d.1 d.2 (fun _ => true) false) st)
      (ds.findSome? (fun d => destBad d.1)))

/-- The engine reads records or cards, `miss` chunks of them from memory: charged for those, and for what crosses the host
link (R342). -/
def recordReads (s : State) (j : Job) (ps : List (Dword × Nat)) (miss : Nat) (act : State → State) : State :=
  budgetAll s j.part j.id [(0, 64 * miss), (5, (ps.map (fun p => hostBytes (some p.1) p.2)).sum)] act

/-- It reads one. -/
def recordRead (s : State) (j : Job) (p : Dword) (n miss : Nat) (act : State → State) : State :=
  recordReads s j [(p, n)] miss act

/-- The completion word of a card or record. -/
def cwpWord (j : Job) (s : State) (cwp : Dword) (v : Word) : List (Dword × List Byte) :=
  if cwp == 0 || cwp.toNat % 4 != 0 then [] else [(jobPtr s j cwp, leBytes 4 v.toNat)]

/-- A card's ERR bit, with its completion word (R181, R182). -/
def cardWords (s : State) (j : Job) (err : Bool) : List (Dword × List Byte) :=
  [(j.recPtr + 52, leBytes 4 err.toNat)] ++ cwpWord j s j.card.cwp j.card.cval

/-! ## Starting (R175, R178, R185) -/

/-- Every job issued earlier on the channel has started, and no chain of it waits on footprints (R175, R186). -/
def channelOk (s : State) (j : Job) : Bool :=
  j.blk.isNone || s.jobs.all (fun o =>
    !(o.blk == j.blk && o.chan == j.chan && o.seq < j.seq) ||
    (o.st != .waiting && (o.kind != .chain || o.recLive || o.chainEnd)))

/-- The release conditions of R125 at the moment of issue. -/
def jobReleased (s : State) (j : Job) : Bool :=
  match j.blk with | some b => releaseOk s b j.lane j.seq | none => true

/-- The footprint waits for an earlier job or an earlier accepted matrix operation of the partition (R185). A job that
waits on the channel behind a chain comes after the chain's records that start meanwhile. -/
def footprintWaits (s : State) (j : Job) (arrival : Nat) (fp : Footprint) : Bool :=
  let mate (o : Job) : Bool := o.blk == j.blk && o.blk.isSome && o.chan == j.chan
  let behind (o : Job) : Bool := o.id == j.id ||
    (j.kind == .chain && mate o && o.seq > j.seq && o.st == .waiting)
  waitsForJobs s j.part j.die arrival behind fp ||
  s.jobs.any (fun o => o.kind == .chain && o.recLive && mate o && o.seq < j.seq && (jobFootprint s o).orders fp) ||
  s.blocks.any (fun b =>
    (match quadPier b.2 with | some p => p / 64 == j.die | none => false) &&
    (s.launch b.2.tag).part == j.part &&
    queueOrders s b.1 arrival j.cleared fp)

/-- What is wrong with a card (R182). Its SEND and RECV need no alignment; its CWP is as a record's (R180; log entry 75). -/
def cardBad (c : Card) (bs : List Byte) : Bool :=
  let w (i n : Nat) : Nat := leNat ((bs.drop i).take n)
  let a := w 0 8
  c.kind > 3 || c.ty > 4 || c.op > 5 || (c.ty == 4 && 3 ≤ c.op) || c.p == 0 || c.rank ≥ c.p ||
  (a >>> 12) % 16 != 0 || a >>> 48 != 0 || c.n == 0 || w 12 4 != 0 || w 36 4 != 0 || w 52 4 > 1 || w 56 8 != 0 ||
  !codeMatches 0 c.send || !codeMatches 0 c.recv || !ptrZeroOk c.send || !ptrZeroOk c.recv ||
  c.cwp.toNat % 4 != 0 || (c.cwp != 0 && !isRecordWin c.cwp)

/-- The blocks of the span whose scratchpads a job reads or writes by the cluster-shared window. -/
def jobPads (s : State) (j : Job) : List Nat :=
  match j.blk with
  | none => []
  | some b =>
    if j.kind == .coll || (j.kind == .chain && !j.recLive) then []
    else ([j.dst, j.src, j.idx].filter (fun p => windowOf p == .cluster)).map (padBlock s b)

/-- One of them is being saved or is saved: no job starts on it until it is back (R187). -/
def padsHeld (s : State) (j : Job) : Bool :=
  (jobPads s j).any (fun c => match (s.block c).place with
    | .saving _ => !(s.block c).dropping
    | .saved => true
    | _ => false)

/-- Where a record or a card may lie: the global or private window, or what a packet's pointer may name (R180, R182,
R264). -/
def recordPtrOk (j : Job) (p : Dword) : Bool := codeMatches 0 p || (j.packet.isSome && windowOf p == .host)

/-- COPY_JOB_START. A chain starts its walk; a collective reads its card and goes to the orrery. -/
def execCopyJobStart (job : Nat) (s : State) : Out :=
  .next (match findJob s job with
    | none => s
    | some j =>
      if j.st != .waiting || jobHeld s j || !channelOk s j || !jobReleased s j then s
      else match j.kind with
        | .chain =>
          let s1 := s.tick
          updJob s1 job (fun x => { x with st := .running, recSeq := s.seq })
        | .coll =>
          let t := readMark s j j.recPtr 64
          (match engineRead t j j.recPtr 64 with
           | .bytes bs bad miss =>
             let c := cardOf bs
             let fail (c : Card) (code : BitVec 8) (t : State) : State :=
               updJob (markFailed t job code j.recPtr) job (fun x => { x with st := .running, card := c })
             if !bad && !cardBad c bs && footprintWaits t j j.seq (jobFootprint t j) then t
             else recordRead t j j.recPtr 64 miss (fun t =>
               if bad then fail c Code.poison t
               else if cardBad c bs then fail c Code.shapeInvalid t
               else updJob t job (fun x => { x with st := .meeting, card := c }))
           | .bad c a => updJob (markFailed s job c a) job (fun x => { x with st := .running })
           | _ => s)
        | _ =>
          if footprintWaits s j j.seq (jobFootprint s j) || padsHeld s j then s
          else updJob s job (fun x => { x with st := .running }))

/-- COPY_JOB_COMPLETE: every element is written, or the chain has ended. -/
def execCopyJobComplete (job : Nat) (s : State) : Out :=
  .next (match findJob s job with
    | none => s
    | some j =>
      if j.st != .running || j.failed.isSome then s
      else match j.kind with
        | .coll => s
        | .chain => if j.chainEnd && !j.recLive then endJob s j false else s
        | _ => if allDone j then endJob s j false else s)

/-- COPY_JOB_FAIL: a failed job completes as failed and is reported. -/
def execCopyJobFail (job : Nat) (s : State) : Out :=
  .next (match findJob s job with
    | none => s
    | some j =>
      match j.failed with
      | none => s
      | some (c, a) =>
        if j.kind == .chain && j.recLive then s
        else
          let fin (s : State) (e : Option (BitVec 8 × Dword)) : State :=
            let t := reportJob s j c a
            endJob (match e with | some e => reportJob t j e.1 e.2 | none => t) j true
          if j.kind == .coll then afterWords s j (cardWords s j true) fin else fin s none)

/-- The pointer of the job's first access that waits for line `ln` of block `b` (R181). -/
def waitPtr (s : State) (j : Job) (b ln : Nat) : Dword :=
  ((List.range (jobCount j)).findSome? (fun i =>
    if j.done.any (fun d => d.1 == i) then none
    else (elemReads s j i).find? (fun p =>
      (windowOf p == .scratch || windowOf p == .cluster) && padBlock s (j.blk.getD 0) p == b && ptrOff24 p / 128 == ln))).getD
    (scratchPtr (s.block b).origin (128 * ln))

/-- COPY_PRESENCE_TIMEOUT: one wait has lasted 2^24 cycles. -/
def execCopyPresenceTimeout (job : Nat) (s : State) : Out :=
  .next (match findJob s job with
    | none => s
    | some j =>
      match j.waits.find? (fun w => w.2.2 ≥ 2 ^ 24 * 100) with
      | some (b, ln, _) =>
        if j.st == .running && (tget [] (s.block b).absent ln).any (· != j.id) then
          markFailed s job Code.presenceTimeout (waitPtr s j b ln)
        else s
      | none => s)

/-! ## Chains (R180) -/

/-- The shape a record names or holds: none where it is not well formed; the pointer of a shape record. -/
inductive RecShape where
  | inline (h : Option Shape)
  | at_ (p : Dword)
  deriving DecidableEq, Repr

/-- The inline dimensions of a record. -/
def inlineDims (bs : List Byte) (n : Nat) : List (Nat × Nat) :=
  (List.range n).map (fun i =>
    let w := leNat ((bs.drop (32 + 8 * i)).take 8)
    (w % 2 ^ 24 + 1, w >>> 24))

def recShape (bs : List Byte) : RecShape :=
  let ctl := leNat ((bs.drop 24).take 8)
  let e := (ctl >>> 10) % 8
  let n := (ctl >>> 8) % 4
  if ctl.testBit 7 then
    let h : Shape := { esz := 2 ^ e, dims := inlineDims bs n }
    .inline (if n = 0 || e > 4 || !shapeLimits h then none else some h)
  else if e != 0 || n != 0 || leNat ((bs.drop 40).take 16) != 0 then .inline none
  else .at_ (BitVec.ofNat 64 (leNat ((bs.drop 32).take 8)))

/-- A shape record in memory (R176): its bytes from the header on. -/
def shapeOfBytes (bs : List Byte) : Option Shape :=
  let w (i : Nat) : Word := BitVec.ofNat 32 (leNat ((bs.drop (4 * i)).take 4))
  match imageHead (w 0) (w 1) with
  | none => none
  | some (nd, esz) =>
    let h : Shape := { esz := esz, dims := imageDims nd ((List.range (4 * nd)).map (fun i => w (i + 2))) }
    if shapeLimits h then some h else none

/-- The cause of a record that a check refuses: R180 lists four, and a span of another launch is SPACE_INVALID among them
(log entry 130). -/
def recCause (c : BitVec 8) : BitVec 8 := if c == Code.spaceForeign then Code.spaceInvalid else c

/-- The checks of R177 on a record's sides; a packet's chain has no block, and only the global and host
windows. -/
def recSides (s : State) (j : Job) (xs : List Side) : Option (BitVec 8 × Dword) :=
  match j.blk with
  | some b => (sidesFault s b j.lane xs none).map (fun e => (recCause e.code, e.val))
  | none =>
    match xs.find? (fun x => !codeMatches x.code x.base) with
    | some x => some (Code.copySpace, x.base)
    | none =>
      match xs.find? (fun x => windowOf x.base != .global && windowOf x.base != .host) with
      | some x => some (Code.spaceInvalid, x.base)
      | none => (xs.find? (fun x => !sideAligned x)).map (fun x => (Code.misaligned, x.base))

/-- The record of a chain is read and well formed as far as its own bytes say: the fault, or none (R180). -/
def recFault (s : State) (j : Job) (bs : List Byte) (h : Option Shape) : Option (BitVec 8 × Dword) :=
  let w (i : Nat) : Dword := BitVec.ofNat 64 (leNat ((bs.drop i).take 8))
  let ctl := (w 24).toNat
  match h with
  | none => some (Code.shapeInvalid, j.recPtr)
  | some h =>
    if (ctl >>> 17) % 2 ^ 15 != 0 || (ctl >>> 13) % 8 != 0 then some (Code.shapeInvalid, j.recPtr)
    else
      match recSides s j
        [{ code := (ctl >>> 1) % 8, base := w 8, span := h.span, esz := h.esz },
         { code := (ctl >>> 4) % 8, base := w 16, span := h.span, esz := h.esz }] with
      | some e => some e
      | none =>
        if (w 0).toNat % 64 != 0 then some (Code.misaligned, w 0)
        else if (w 56).toNat % 4 != 0 then some (Code.misaligned, w 56)
        else if (w 56) != 0 && !isRecordWin (w 56) then some (Code.copySpace, w 56) else none

/-- The record starts: it is the chain's current one until it finishes. -/
def startRecord (s : State) (j : Job) (bs : List Byte) (h : Option Shape) (bad : Option (BitVec 8 × Dword)) : State :=
  let w (i : Nat) : Dword := BitVec.ofNat 64 (leNat ((bs.drop i).take 8))
  let sh := h.getD {}
  let j1 : Job :=
    { j with recLive := true, recCtl := w 24, recCwp := w 56, recNext := w 0, dst := jobPtr s j (w 8),
             src := jobPtr s j (w 16), wshape := sh, rshape := sh, done := [], failed := bad }
  let lines := if bad.isSome then [] else destLines s (j.blk.getD 0) (w 8) sh.span
  if bad.isNone && (footprintWaits s j1 j.recSeq (jobFootprint s j1) || padsHeld s j1) then s
  else
    let s1 := clearLines (updJob s j.id (fun _ => { j1 with cleared := lines })) j.id lines
    match j.blk with
    | some b => s1.updBlock b (fun x => { x with chans := tput 0 x.chans j.chan j.recPtr })
    | none => s1

/-- The engine reads the shape record that a record of `m` chunks from memory points to, its header first, and starts the
record. -/
def shapeRead (s : State) (j : Job) (bs : List Byte) (m : Nat) (p : Dword) : State :=
  let q := jobPtr s j p
  let start (s : State) (n m : Nat) (h : Option Shape) (bad : Option (BitVec 8 × Dword)) : State :=
    let t := startRecord s j bs h bad
    if (findJob t j.id).any (·.recLive) then
      recordReads s j [(j.recPtr, 64), (q, n)] m (fun u => startRecord u j bs h bad)
    else t
  -- the shape record lies in the global or private window, or a packet's in the host window (log entry 111)
  if !recordPtrOk j p then start s 0 m none (some (Code.copySpace, p))
  else
    let s1 := readMark s j q 8
    match engineRead s1 j q 8 with
    | .bad c a => start s1 0 m none (some (c, a))
    | .bytes hd hbad hm =>
      let w (i : Nat) : Word := BitVec.ofNat 32 (leNat ((hd.drop i).take 4))
      if hbad then start s1 8 (m + hm) none (some (Code.poison, q))
      else
        (match imageHead (w 0) (w 4) with
         | none => start s1 8 (m + hm) none (recFault s1 j bs none)
         | some (nd, _) =>
           let n := 8 + 16 * nd
           let s2 := readMark s1 j q n
           match engineRead s2 j q n with
           | .bad c a => start s2 8 (m + hm) none (some (c, a))
           | .bytes sb sbad sm =>
             let h := shapeOfBytes sb
             if sbad then start s2 n (m + sm) none (some (Code.poison, q)) else start s2 n (m + sm) h (recFault s2 j bs h)
           | _ => s2)
    | _ => s1

/-- CHAIN_RECORD_START: the engine reads and checks the chain's current record, in one turn (log entry 112), and starts it. The
fields of a poisoned record, by which it is written back, are its bytes as they stand (log entry 114). -/
def execChainRecordStart (job : Nat) (s : State) : Out :=
  .next (match findJob s job with
    | none => s
    | some j =>
      if j.kind != .chain || j.st != .running || j.recLive || j.chainEnd || jobHeld s j then s
      else
        let stop (s : State) (c : BitVec 8) (a : Dword) : State :=
          updJob (markFailed s job c a) job (fun x => { x with chainEnd := true })
        if !recordPtrOk j j.recPtr then stop s Code.copySpace j.recPtr
        else
        let t := readMark s j j.recPtr 64
        match engineRead t j j.recPtr 64 with
          | .bad c a => stop t c a
          | .bytes bs bad miss =>
            let start (h : Option Shape) (f : Option (BitVec 8 × Dword)) : State :=
              if (findJob (startRecord t j bs h f) job).any (·.recLive) then
                recordRead t j j.recPtr 64 miss (fun u => startRecord u j bs h f)
              else t
            if bad then start none (some (Code.poison, j.recPtr))
            else if !(leNat ((bs.drop 24).take 8)).testBit 0 then
              recordRead t j j.recPtr 64 miss (fun u => updJob u job (fun x => { x with chainEnd := true }))
            else
              (match recShape bs with
               | .inline h => start h (recFault t j bs h)
               | .at_ p => shapeRead t j bs miss p)
          | _ => t)

/-- CHAIN_RECORD_FINISH: CTL with OWN = 0 and the outcome, then the completion word, after every destination
byte; then the next record is current (R180). -/
def execChainRecordFinish (job : Nat) (s : State) : Out :=
  .next (match findJob s job with
    | none => s
    | some j =>
      if j.kind != .chain || !j.recLive || !(j.failed.isSome || allDone j) then s
      else
        let err := j.failed.isSome
        let ctl := (j.recCtl &&& ~~~(0x10001#64)) ||| (if err then 0x10000#64 else 0)
        let ws := [(j.recPtr + 24, leBytes 8 ctl.toNat)] ++
          cwpWord j s j.recCwp (BitVec.ofNat 32 (j.recCtl.toNat >>> 32))
        afterWords s j ws (fun st e =>
          let s1 := landLines st.tick job j.cleared
          let over_ := err || e.isSome || j.recNext == 0
          let moved := if err then 0 else j.done.length * jobEsz j
          let s2 := updJob s1 job (fun x =>
            { x with failed := x.failed <|> e, moved := x.moved + moved, recLive := false, chainEnd := over_, recPtr := if over_ then x.recPtr else jobPtr st j j.recNext,
                     recSeq := st.seq, wshape := {}, rshape := {}, done := [], cleared := [] })
          match j.blk with
          | some b => settleChannel s2 b j.chan
          | none => s2))

/-! ## Rendezvous (R182) -/

/-- Two cards agree. -/
def cardsAgree (a b : Card) : Bool :=
  a.kind == b.kind && a.ty == b.ty && a.op == b.op && a.p == b.p && a.n == b.n

/-- COLLECTIVE_RENDEZVOUS: a job arrives at the orrery that homes its name. Once as many ranks as the first card counts
have arrived, the instance starts, or fails as a whole (log entry 131). -/
def execCollectiveRendezvous (job : Nat) (s : State) : Out :=
  .next (match findJob s job with
    | none => s
    | some j =>
      if j.st != .meeting || j.inst != 0 then s
      else budgeted s j.part 6 job 1 (fun st =>
        let d := homeDie st (st.part j.part).inForce.nsid j.card.name
        match st.colls.find? (fun c => c.part == j.part && c.name == j.card.name) with
        | none =>
          let s1 := st.tick
          let c : Coll := { id := st.seq, die := d, part := j.part, name := j.card.name, jobs := [job],
                            started := j.card.p == 1 }
          updJob { s1 with colls := s1.colls ++ [c] } job (fun x =>
            { x with inst := st.seq, st := if j.card.p == 1 then .running else .meeting })
        | some c =>
          let js := st.jobs.filter (fun x => c.jobs.contains x.id)
          let all := js ++ [j]
          let ranks := (js.head?.map (·.card.p)).getD 0
          if c.started || js.any (fun x => x.card.rank == j.card.rank) then s
          else if all.length == ranks && all.any (fun x => all.any (fun y => !cardsAgree x.card y.card)) then
            let s1 := { st with colls := st.colls.filter (fun x => x.id != c.id) }
            all.foldl (fun s x =>
              updJob (markFailed s x.id Code.shapeInvalid x.recPtr) x.id (fun y => { y with st := .running })) s1
          else
            let full := all.length == ranks
            let s1 := { st with colls := st.colls.map (fun x =>
              if x.id == c.id then { x with jobs := x.jobs ++ [job], started := full } else x) }
            let s2 := updJob s1 job (fun x => { x with inst := c.id })
            if full then all.foldl (fun s x => updJob s x.id (fun y => { y with st := .running })) s2 else s2))

/-- COLLECTIVE_COMPLETE: every element of every rank is written; each job's completion words and its end follow, as its
budgets admit them. -/
def execCollectiveComplete (die k : Nat) (s : State) : Out :=
  .next (match s.colls.find? (fun c => c.id == k && c.die == die) with
    | none => s
    | some c =>
      let js := s.jobs.filter (fun x => c.jobs.contains x.id)
      if !c.started || s.frozen c.part || js.any (fun j => j.failed.isSome || !allDone j) then s
      else
        let t := js.foldl (fun s j => afterWords s j (cardWords s j false) (fun t e =>
          match e with | some e => endJob (reportJob t j e.1 e.2) j true | none => endJob t j false)) s
        if t.jobs.any (fun x => c.jobs.contains x.id) then t
        else { t with colls := t.colls.filter (fun x => x.id != k) })

end Sys2Proof.Machine
end

