-- ==== Sys2Proof/Machine/Launch.lean ====
section
/-! DEFINITION. Queues, doorbells, request packets and events (R260 to R267, R274), the launch record and its
checks (R268, R269, R293), residency and dispatch (R209 to R214, R217, R282, R350), completion and the release of
a tag (R292, R296). -/
namespace Sys2Proof.Machine

/-! ## The package's parts (R9, R338) -/

/-- The node die of package die `d`. -/
def nodeDie (s : State) (d : Nat) : Nat := 4 * s.package.nodePos + d
/-- A die of the node lies on this package. -/
def ownDie (s : State) (die : Nat) : Bool := die / 4 == s.package.nodePos
/-- The package pier of a pier. -/
def pkgPier (s : State) (p : Nat) : Nat := p - 256 * s.package.nodePos
/-- A pier is in a set of package piers. -/
def inPiers (s : State) (m : BitVec 256) (p : Nat) : Bool := ownDie s (p / 64) && m.getLsbD (pkgPier s p)
/-- A pier is a partition's, and takes dispatches. -/
def ownsPier (s : State) (part p : Nat) : Bool := (s.part part).inForce.v && inPiers s (s.part part).inForce.piers p
/-- Pier `k` of a cluster. -/
def pierAt (die cluster k : Nat) : Nat := 64 * die + 4 * cluster + k
/-- The clusters of the package, by node die and number. -/
def clusters (s : State) : List (Nat × Nat) :=
  (List.range 4).flatMap (fun d => (List.range 16).map (fun c => (nodeDie s d, c)))

/-! ## Queue descriptors (R260) -/

structure Desc where
  ring    : Dword
  evring  : Dword
  lastAcc : Word
  lastEmit : Word
  tail    : Word
  evHead  : Word
  ctl     : Dword
  /-- Bytes 63:40. -/
  rest    : Nat
  deriving DecidableEq, Repr

def descAddr (s : State) (q : Nat) : Nat := s.package.qdbase.toNat + 64 * q

def descOf (s : State) (q : Nat) : Desc :=
  let a := descAddr s q
  let d (i : Nat) : Dword := BitVec.ofNat 64 (rdNat s.mem (a + i) 8)
  let w (i : Nat) : Word := BitVec.ofNat 32 (rdNat s.mem (a + i) 4)
  { ring := d 0, evring := d 8, lastAcc := w 16, lastEmit := w 20, tail := w 24, evHead := w 28, ctl := d 32,
    rest := rdNat s.mem (a + 40) 24 }

def ctlState (c : Dword) : Nat := (c.toNat >>> 42) % 4
def ctlVec (c : Dword) : Nat := (c.toNat >>> 36) % 64
def ctlPrio (c : Dword) : Nat := (c.toNat >>> 34) % 4
def ctlIface (c : Dword) : Nat := (c.toNat >>> 24) % 1024
def ctlPart (c : Dword) : Nat := (c.toNat >>> 18) % 64
def ctlEvlog (c : Dword) : Nat := (c.toNat >>> 10) % 16
def ctlRlog (c : Dword) : Nat := (c.toNat >>> 6) % 16
def ctlPend (c : Dword) : Bool := c.getLsbD 44

/-- A ring or packet pointer names the global or host window. -/
def queueWindow (p : Dword) : Bool := (windowOf p == .global || windowOf p == .host) && ptrZeroOk p

/-- A descriptor that may be mapped (R260). -/
def descOk (d : Desc) : Bool :=
  let c := d.ctl.toNat
  c >>> 45 == 0 && ctlState d.ctl != 3 && (c >>> 14) % 16 == 0 && c % 64 == 0 && 4 ≤ ctlEvlog d.ctl &&
  4 ≤ ctlRlog d.ctl && d.rest == 0 && queueWindow d.ring && d.ring.toNat % 64 == 0 && queueWindow d.evring &&
  d.evring.toNat % 32 == 0

/-- Write a field of a descriptor. -/
def putDesc (s : State) (q off n v : Nat) : State :=
  let a := descAddr s q + off
  homeWrite (clearOwners s (physWords a n)) a (leBytes n v)

/-- The CTL of a queue: as loaded, or in its descriptor. -/
def queueCtl (s : State) (q : Nat) : Dword := if (s.queue q).mapped then (s.queue q).ctl else (descOf s q).ctl

/-- The link of a queue interface is up (R258). -/
def ifaceUp (s : State) (i : Nat) : Bool := s.linkUp.getLsbD (s.iface i).link
def queueUp (s : State) (q : Nat) : Bool := ifaceUp s (ctlIface (s.queue q).ctl)

def ifaceError (s : State) (i : Nat) : State :=
  s.setIface i { s.iface i with errors := (s.iface i).errors + 1 }

/-! ## Reads and writes for a queue (R264, R266, R267) -/

/-- What a queue finds at a global or host pointer, for a partition and a space. -/
def queueRead (s : State) (part pasid : Nat) (p : Dword) (n : Nat) : GRead :=
  if windowOf p = .host then
    (if hostPagesOk s pasid (ptrOff56 p) n then .ok (rdBytes s.hostMem (hostByteKey pasid (ptrOff56 p)) n) false 0
     else .fault codeLease 1 p)
  else globalRead s part none (chunkPieces p n)

/-- Such a read marks what it used (R278, R341). -/
def queueMark (s : State) (part : Nat) (p : Dword) (n : Nat) : State :=
  if windowOf p = .host then s else globalMark s part none (chunkPieces p n)

/-- What a queue's read of `n` bytes is charged, `miss` chunks from memory (R342). -/
def readCharges (p : Dword) (n miss : Nat) : List (Nat × Nat) := [(0, 64 * miss), (5, hostBytes (some p) n)]

/-- The outcome of a write for a queue: done, refused by translation, or waiting for a migration. -/
inductive QWrite where
  | done (s : State)
  | refused
  | waits (s : State)

/-- Write for a queue, with the order number `q` of the operation, by which it waits for its budget (R342, R343). -/
def queueWrite (s : State) (part pasid q : Nat) (p : Dword) (bs : List Byte) : QWrite :=
  let acts := [(1, if windowOf p = .host then 0 else 64), (5, hostBytes (some p) bs.length)]
  match acts.find? (fun a => a.2 != 0 && !budgetOk s part a.1 q) with
  | some a => .waits (stall s part a.1 q)
  | none =>
    let t := acts.foldl (fun s a => if a.2 = 0 then s else charge s part a.1 q a.2) s
    if windowOf p = .host then
      (if hostPagesOk s pasid (ptrOff56 p) bs.length then
        .done { t with hostMem := wrBytes t.hostMem (hostByteKey pasid (ptrOff56 p)) bs } else .refused)
    else match xlatGlobal s part none p bs.length .write with
      | .ok pa lf => .done (homeWrite (setU (clearOwners t (physWords pa bs.length)) lf) pa bs)
      | .waits => .waits s
      | .fault _ _ => .refused

/-- The PASID under which rings in the host window are reached (log entry 20). -/
def ringPasid : Nat := 0

/-- The space of a queue's rings. -/
def ringSpace (s : State) (q : Nat) : Nat := hostSpace s (ctlIface (s.queue q).ctl) ringPasid

/-! ## Mapping (R261, R263) -/

/-- `a` lies ahead of `b` by 1 to 2^31 − 1 (R150, R262). -/
def ahead (a b : Word) : Bool := let d := (a - b).toNat; 1 ≤ d && d < 2 ^ 31

/-- A WAITVAL of the queue is pending. -/
def waitPending (x : Queue) : Bool := x.packets.any (fun p => p.type == 2 && p.started)

/-- The next accepted packet that has not started, where nothing before it holds it back (R266). -/
def nextStart (x : Queue) : Option Packet :=
  if waitPending x then none
  else match x.packets.find? (fun p => !p.started) with
    | none => none
    | some p => if p.flags.getLsbD 0 && (x.packets.head?.map (·.seq)) != some p.seq then none else some p

/-- A descriptor's queue has events for which its ring has room. -/
def eventsDue (s : State) (q : Nat) (d : Desc) : Bool :=
  !(s.queue q).events.isEmpty && (d.lastEmit + 1 - d.evHead).toNat ≤ 2 ^ ctlEvlog d.ctl

/-- A descriptor's queue has work: requests, a notify, events to write, a WAITVAL to read again, or a packet to start. -/
def hasWork (s : State) (q : Nat) (d : Desc) : Bool :=
  ctlPend d.ctl || (ahead d.tail d.lastAcc && !(s.queue q).resting) || eventsDue s q d || waitPending (s.queue q) || (nextStart (s.queue q)).isSome

/-- A queue could be mapped now; one that is stopped, or whose partition is frozen or gone, only for its last events
(R306, step 6). -/
def mappable (s : State) (q : Nat) : Bool :=
  let d := descOf s q
  let events := eventsDue s q d
  let p := ctlPart d.ctl
  !(s.queue q).mapped && descOk d && (ctlState d.ctl == 1 || (ctlState d.ctl == 2 && events)) && hasWork s q d &&
  ((!s.frozen p && (s.part p).inForce.v) || events)

def slotsTotal : Nat := 128
/-- The hardware slots in use, of the package or of a partition. -/
def mappedQueues (s : State) : List (Nat × Queue) := s.queues.filter (fun q => q.2.mapped)
def mappedOf (s : State) (part : Nat) : List (Nat × Queue) :=
  (mappedQueues s).filter (fun q => ctlPart q.2.ctl == part)

/-- QUEUE_MAP: higher priority first within a partition, round-robin within one priority, within the slot share. -/
def execQueueMap (queue : Nat) (s : State) : Out :=
  let d := descOf s queue
  let p := ctlPart d.ctl
  let pr := ctlPrio d.ctl
  let peers := (List.range 4096).filter (fun q =>
    q != queue && mappable s q && ctlPart (descOf s q).ctl == p)
  let last := tget 0 (s.part p).turn pr
  let turn (q : Nat) : Nat := (q + 4096 - last - 1) % 4096
  .next <|
    if !mappable s queue || (mappedQueues s).length ≥ slotsTotal || (mappedOf s p).length ≥ (s.part p).inForce.slots ||
       peers.any (fun q => ctlPrio (descOf s q).ctl < pr ||
         (ctlPrio (descOf s q).ctl == pr && turn q < turn queue)) then s
    else
      let s1 := s.tick.updQueue queue (fun x =>
        { x with since := s.seq, mapped := true, resting := x.resting && !ctlPend d.ctl, ring := d.ring, evring := d.evring, ctl := d.ctl &&& ~~~(0x1000_0000_0000#64),
                 lastAcc := d.lastAcc, lastEmit := d.lastEmit, tail := d.tail, evHead := d.evHead,
                 descErr := false })
      s1.updPart p (fun x => { x with turn := tput 0 x.turn pr queue })

/-- The ring slot of a queue's next request. -/
def ringSlot (x : Queue) : Dword := x.ring + BitVec.ofNat 64 (64 * ((x.lastAcc + 1).toNat % 2 ^ ctlRlog x.ctl))

/-- What the slot of the next request holds: a request, with the chunks that come from memory; nothing yet; or what a read
through a migrating page or a retraining link will tell. -/
inductive SlotRead where
  | request (bs : List Byte) (miss : Nat)
  | unwritten (miss : Nat)
  | none
  deriving DecidableEq, Repr

/-- The next request's slot is read, where the request is announced and the queue does not wait for a doorbell (R265). A
slot that cannot be read or is poisoned counts as not yet written (log entry 84). -/
def slotRead (s : State) (q : Nat) : SlotRead :=
  let x := s.queue q
  let n := x.lastAcc + 1
  if x.resting || !ahead (x.tail + 1) n then .none
  else match queueRead s (ctlPart x.ctl) (ringSpace s q) (ringSlot x) 64 with
    | .ok bs bad m =>
      if !bad && leNat ((bs.drop 4).take 4) == n.toNat && leNat ((bs.drop 2).take 2) % 4096 == q then .request bs m
      else .unwritten m
    | .waits => .none
    | .fault _ _ _ => .unwritten 0

/-- The next request, where its slot holds one. -/
def nextRequest (s : State) (q : Nat) : Option (List Byte × Nat) :=
  match slotRead s q with
  | .request bs m => some (bs, m)
  | .unwritten _ | .none => Option.none

/-- QUEUE_UNMAP: there is nothing to accept and no WAITVAL pending, or a queue of higher priority needs the slot. -/
def execQueueUnmap (queue : Nat) (s : State) : Out :=
  let x := s.queue queue
  let p := ctlPart x.ctl
  let idle := (nextRequest s queue).isNone && !waitPending x
  let full := (mappedQueues s).length ≥ slotsTotal || (mappedOf s p).length ≥ (s.part p).inForce.slots
  let wanted := full && (List.range 4096).any (fun q =>
    mappable s q && ctlPart (descOf s q).ctl == p && ctlPrio (descOf s q).ctl < ctlPrio x.ctl)
  .next <|
    if !x.mapped || !(idle || wanted) then s
    else
      let s1 := putDesc (putDesc (putDesc (putDesc s queue 16 4 x.lastAcc.toNat) queue 20 4 x.lastEmit.toNat)
        queue 24 4 x.tail.toNat) queue 28 4 x.evHead.toNat
      let ctl := (descOf s queue).ctl &&& ~~~(0x1000_0000_0000#64)
      (putDesc s1 queue 32 8 ctl.toNat).updQueue queue (fun y => { y with mapped := false })

/-! ## Doorbells (R262, R263) -/

/-- The queue that a doorbell value names, where the write is a proper one (R262). -/
def doorbellQueue (s : State) (iface size : Nat) (v : Dword) : Option Nat :=
  let q := (v.toNat >>> 32) % 4096
  let own := match (s.iface iface).vf with | some p => ctlPart (queueCtl s q) == p | none => true
  if size != 8 || v.toNat >>> 44 != 0 || ctlIface (queueCtl s q) != iface || !own then none else some q

/-- A doorbell: into the slot of a mapped queue, else into its descriptor with PEND. -/
def doorbell (iface size : Nat) (v : Dword) (off : Nat) (old : State → Nat → Word) (upd : Queue → Word → Queue)
    (s : State) : State :=
  match doorbellQueue s iface size v with
  | none => ifaceError s iface
  | some q =>
    let n : Word := v.setWidth 32
    if (s.queue q).mapped then
      (if ahead n (old s q) then s.updQueue q (fun x => { upd x n with resting := false })
       else s.updQueue q (fun x => { x with resting := false }))
    else
      let d := descOf s q
      let cur := if off = 24 then d.tail else d.evHead
      let s1 := if ahead n cur then putDesc s q off 4 n.toNat else s
      let s2 := putDesc s1 q 32 8 (d.ctl ||| 0x1000_0000_0000#64).toNat
      if descOk d then s2 else (ifaceError s2 iface).updQueue q (fun x => { x with descErr := true })

/-- The doorbells of a notify page, TAIL and EVHEAD. -/
def doorbellTail (iface size : Nat) (value : Dword) (s : State) : State :=
  doorbell iface size value 24 (fun s q => (s.queue q).tail) (fun x n => { x with tail := n }) s
def doorbellEvhead (iface size : Nat) (value : Dword) (s : State) : State :=
  doorbell iface size value 28 (fun s q => (s.queue q).evHead) (fun x n => { x with evHead := n }) s

/-- DOORBELL_TAIL, from the host: its link must be up. -/
def execDoorbellTail (iface size : Nat) (value : Dword) (s : State) : Out :=
  .next (if ifaceUp s iface then doorbellTail iface size value s else s)

/-- DOORBELL_EVHEAD. -/
def execDoorbellEvhead (iface size : Nat) (value : Dword) (s : State) : Out :=
  .next (if ifaceUp s iface then doorbellEvhead iface size value s else s)

/-- A write of a notify page at any offset: elsewhere than at the two doorbells it is ignored and counted (R262). -/
def notifyWrite (iface off size : Nat) (value : Dword) (s : State) : State :=
  if !ifaceUp s iface then s
  else match off with
    | 0 => doorbellTail iface size value s
    | 8 => doorbellEvhead iface size value s
    | _ => ifaceError s iface

/-- A read of a notify page returns 0 (R262). -/
def notifyRead (iface : Nat) (s : State) : State :=
  if ifaceUp s iface then { s with sent := s.sent ++ [.value 0] } else s

/-! ## Events (R267) -/

/-- The event ring has room for the queue's next event. -/
def eventRoom (x : Queue) : Bool := (x.lastEmit + 1 - x.evHead).toNat ≤ 2 ^ ctlEvlog x.ctl

/-- The 32 bytes of an event record. -/
def eventBytes (q : Nat) (e : Event) (seq : Word) (down : Bool) (now : Nat) : List Byte :=
  leBytes 1 e.kind ++ leBytes 1 e.status ++ leBytes 2 q ++ leBytes 4 seq.toNat ++ leBytes 4 e.rseq.toNat ++
  leBytes 2 e.tag ++ [e.fcode] ++ leBytes 1 (e.fsum.toNat % 64 + (if down then 64 else 0)) ++ leBytes 8 0 ++
  leBytes 8 now

/-- A message for a guest file of an application core of the partition: its interrupt is pending there (R337). -/
def guestMessage (s : State) (part : Nat) (v : Dword) : State :=
  let h := (v.toNat >>> 14) % 512
  let f := (v.toNat >>> 11) % 8
  if hartPart s h == some part && 2 ≤ f && f < 7 then
    s.setHart h { s.hart h with imsic := (s.hart h).imsic ++ [(f, v.toNat % 2 ^ 11)] }
  else s

/-- The interrupt of an event: the remap entry's message, dropped and counted where the entry is invalid. A valid
entry is held as its value plus 1: a vector, or with bit 62 a guest file of an IMSIC (log entry 39). -/
def raiseMsi (s : State) (q : Nat) : State :=
  let c := (s.queue q).ctl
  let i := ctlIface c
  match tfind (ctlVec c) (s.iface i).remap with
  | some v => if (v - 1).getLsbD 62 then guestMessage s (ctlPart c) (v - 1) else { s with msix := s.msix ++ [(i, v - 1)] }
  | none => ifaceError s i

/-- An event follows the fault record that it tells of: a COMPLETE event the record's final header, a LATE_FAULT event its
entry (R295). -/
def recordUnderWay (s : State) (e : Event) : Bool :=
  (e.kind == 1 || e.kind == 4) && s.frWrites.any (fun w => w.tag == e.tag)

/-- The next event of a queue is written, where its ring has room and its budget admits it. -/
def eventWrite (s : State) (queue : Nat) : State :=
  let x := s.queue queue
  let part := ctlPart x.ctl
  match x.events with
  | [] => s
  | e :: es =>
    let n := x.lastEmit + 1
    let p := x.evring + BitVec.ofNat 64 (32 * (n.toNat % 2 ^ ctlEvlog x.ctl))
    if !x.mapped || !eventRoom x || !queueUp s queue || recordUnderWay s e then s
    else
      match queueWrite s part (ringSpace s queue) e.id p (eventBytes queue e n x.linkDown s.now) with
      | .done t =>
        let t1 := t.updQueue queue (fun y => { y with events := es, lastEmit := n, linkDown := false })
        if e.irq then raiseMsi t1 queue else t1
      | .waits t => t
      | .refused => s

/-- EVENT_WRITE. -/
def execEventWrite (queue : Nat) (s : State) : Out := .next (eventWrite s queue)

/-! ## The launch record (R268) -/

/-- Little-endian field of a record. -/
def fieldAt (bs : List Byte) (i n : Nat) : Nat := leNat ((bs.drop i).take n)

def launchRecOf (bs : List Byte) : LaunchRec :=
  let d (i : Nat) : Dword := BitVec.ofNat 64 (fieldAt bs i 8)
  let attr := fieldAt bs 30 2
  { entry := d 0, handler := d 8, maxBlk := fieldAt bs 16 4, lanes := fieldAt bs 20 2, window := fieldAt bs 22 2,
    scratch := fieldAt bs 24 4, accRows := fieldAt bs 28 2, span := attr % 8, coop := attr.testBit 3,
    idem := attr.testBit 4, supv := attr.testBit 5, heat := (attr >>> 6) % 4, privBase := d 32,
    privSize := fieldAt bs 40 4, privSlots := fieldAt bs 44 4, objBase := d 48, objCount := fieldAt bs 56 2,
    nLease := fieldAt bs 58 2, frptr := d 64, deadline := fieldAt bs 72 4, work := fieldAt bs 76 4,
    slots := (List.range 8).map (fun i => d (128 + 8 * i)),
    leases := (List.range 16).map (fun i => (d (256 + 16 * i), fieldAt bs (264 + 16 * i) 8)) }

/-- Groups of a block (R209). -/
def LaunchRec.groups (r : LaunchRec) : Nat := (r.lanes + 31) / 32
/-- Scratchpad bytes that the pier sets aside (R209). -/
def LaunchRec.aside (r : LaunchRec) : Nat := (r.scratch + 4095) / 4096 * 4096
def LaunchRec.regs (r : LaunchRec) : Nat := 32 * r.groups * r.window
/-- Spans of the launch: the last may hold fewer blocks. -/
def LaunchRec.spans (r : LaunchRec) : Nat := (r.maxBlk + r.span) / r.span

/-- An entry address that can be a program counter (R52). -/
def pcValue (p : Dword) : Bool := pcSlot p ≤ 4 && !p.msb

/-- Bytes `p` to `p + n` lie in one lease range (R293). -/
def inOneLease (r : LaunchRec) (p : Dword) (n : Nat) : Bool :=
  (r.leases.take r.nLease).any (fun l => l.1.toNat ≤ p.toNat && p.toNat + n ≤ l.1.toNat + l.2)

/-- What status 4 RECORD refuses (R269). -/
def recordBad (bs : List Byte) (r : LaunchRec) : Bool :=
  let attr := fieldAt bs 30 2
  !pcValue r.entry || (r.handler != 0 && !pcValue r.handler) || r.lanes == 0 || r.lanes > 1024 || r.window < 8 ||
  r.window > 512 || r.window % 8 != 0 || r.scratch > 2097152 || r.accRows > 4096 || r.span == 0 || r.span > 4 ||
  attr >>> 8 != 0 || windowOf r.privBase != .global || r.privBase.toNat % 4096 != 0 || r.privSize % 16 != 0 ||
  (r.privSize != 0 && r.privSlots == 0) || r.objBase.toNat % 32 != 0 || windowOf r.objBase != .global ||
  r.objCount > 512 || r.nLease > 16 || fieldAt bs 60 4 != 0 || windowOf r.frptr != .global ||
  r.frptr.toNat % 64 != 0 || fieldAt bs 80 48 != 0 || fieldAt bs 192 64 != 0 || r.slots.any slotRefused ||
  (r.leases.take r.nLease).any (fun l => l.2 == 0 || !queueWindow l.1) ||
  (r.leases.drop r.nLease).any (fun l => l.1 != 0 || l.2 != 0) || !inOneLease r r.frptr 4096

/-! ## What fits (R211 to R214) -/

def pierRegs : Nat := 131072
def pierGroups : Nat := 64
def pierScratch : Nat := 2097152
def pierRows : Nat := 4096

/-- The pier sets in a cluster for a span of `n` blocks, by the first pier (R213). -/
def spanFirsts (n : Nat) : List Nat :=
  match n with
  | 1 => [0, 1, 2, 3]
  | 2 => [0, 2]
  | _ => [0]

/-- Blocks of a launch that an empty pier holds. -/
def pierCapacity (r : LaunchRec) : Nat :=
  let n := min (pierRegs / r.regs) (pierGroups / r.groups)
  let m := if r.scratch = 0 then n else min n (pierScratch / r.aside)
  if r.accRows = 0 then m else min m 1

/-- The pier sets of a partition that a span may take. -/
def spanSets (s : State) (part n : Nat) : List (Nat × Nat × Nat) :=
  (clusters s).flatMap (fun c => ((spanFirsts n).filter (fun f =>
    (List.range n).all (fun k => ownsPier s part (pierAt c.1 c.2 (f + k))))).map (fun f => (c.1, c.2, f)))

/-- What status 5 FIT refuses (R269, R349). -/
def fitBad (s : State) (part : Nat) (r : LaunchRec) : Bool :=
  let sets := (spanSets s part r.span).length
  pierCapacity r == 0 || sets == 0 || (r.coop && sets * pierCapacity r < r.spans) || r.heat > (settledPart s part).maxHeat

/-! ## Leases and pins (R282 to R284) -/

/-- The size of the page that holds an address, as a power of two: of a page that is not resident as the backing store has
it, 16 where no page is known. -/
def pageShift (s : State) (part : Nat) (p : Dword) : Nat :=
  match walkRoot s (ptrDie p) part (ptrOff56 p) with
  | .ok _ lf => lf.shift
  | _ => (((s.backing.map (·.page)) ++ s.evicts).find? (fun x =>
      x.part == part && x.addr ≤ p.toNat && p.toNat < x.addr + 2 ^ x.shift)).map (·.shift) |>.getD 16

/-- The 64-KiB units that a global range pins, from the first to one past the last. -/
def leaseUnits (s : State) (part : Nat) (l : Dword × Nat) : Nat × Nat :=
  let a := l.1.toNat
  let b := a + l.2 - 1
  let sa := pageShift s part l.1
  let sb := pageShift s part (BitVec.ofNat 64 b)
  (a / 2 ^ sa * 2 ^ (sa - 16), (b / 2 ^ sb + 1) * 2 ^ (sb - 16))

/-- Put an interval in its place by its start. -/
def insertSpan (x : Nat × Nat) : List (Nat × Nat) → List (Nat × Nat)
  | [] => [x]
  | y :: r => if x.1 ≤ y.1 then x :: y :: r else y :: insertSpan x r

/-- The numbers that intervals in order of start cover, from `lo` on. -/
def covered (lo : Nat) : List (Nat × Nat) → Nat
  | [] => 0
  | x :: r => (x.2 - max lo x.1) + covered (max lo x.2) r

/-- Frames that the leases of some launches pin, in 64-KiB units (R284). -/
def pinnedUnits (s : State) (part : Nat) (rs : List LaunchRec) : Nat :=
  covered 0 ((rs.flatMap (fun r => (r.leases.take r.nLease).filterMap (fun l =>
    if windowOf l.1 = .global then some (leaseUnits s part l) else none))).foldl (fun acc x => insertSpan x acc) [])

/-- What status 7 LEASE refuses. -/
def leaseBad (s : State) (part : Nat) (r : LaunchRec) : Bool :=
  let others := (s.launches.filter (fun l => l.2.used && !l.2.complete && l.2.part == part)).map (·.2.rec_)
  pinnedUnits s part (r :: others) > (s.part part).inForce.framesB

/-- The status that refuses a LAUNCH (R269); 0 for none. -/
def launchStatus (s : State) (q : Nat) (bs : List Byte) : Nat :=
  let c := (s.queue q).ctl
  let part := ctlPart c
  let r := launchRecOf bs
  if recordBad bs r then 4
  else if fitBad s part r then 5
  else if r.supv && (s.iface (ctlIface c)).vf.isSome then 6
  else if leaseBad s part r then 7 else 0

/-! ## Accepting requests (R265) -/

/-- The address field of a packet. -/
def packetAddr (bs : List Byte) : Dword := BitVec.ofNat 64 (fieldAt bs 16 8)

/-- Bytes `i` to 63 of a packet are zero. -/
def zeroFrom (bs : List Byte) (i : Nat) : Bool := (bs.drop i).all (· == 0)

/-- Status 1: a reserved type, flag bit or field (R264). -/
def fieldBad (bs : List Byte) : Bool :=
  let t := fieldAt bs 0 1
  t == 0 || t > 6 || fieldAt bs 1 1 ≥ 8 || fieldAt bs 2 2 ≥ 4096 || fieldAt bs 8 4 ≥ 2 ^ 20 || fieldAt bs 12 4 != 0 ||
  (match t with
   | 1 => !zeroFrom bs 24
   | 2 => fieldAt bs 40 1 ≥ 8 || !zeroFrom bs 41
   | 3 => fieldAt bs 32 8 != 0 || fieldAt bs 40 1 &&& 0xFB != 0 || !zeroFrom bs 41
   | 4 => fieldAt bs 24 1 ≥ 2 || fieldAt bs 25 1 ≥ 4 || !zeroFrom bs 26
   | 5 => !zeroFrom bs 16
   | _ => !zeroFrom bs 24)

/-- Alignment of a packet's pointer. -/
def packetAlign (bs : List Byte) : Nat :=
  match fieldAt bs 0 1 with
  | 1 | 4 => 64
  | 2 | 3 => if fieldAt bs 40 1 &&& 4 != 0 then 8 else 4
  | _ => 8

/-- Bytes that a packet's pointer must be readable for. -/
def packetReach (bs : List Byte) : Nat :=
  match fieldAt bs 0 1 with
  | 1 => 512
  | 4 => 64
  | _ => packetAlign bs

/-- A PASID stands in an interface's table, which holds each valid entry plus 1. -/
def pasidValid (x : Iface) (pasid : Nat) : Bool := x.pasids.any (fun e => e.2 == pasid + 1)

/-- What a packet's pointer reads. -/
def packetRead (s : State) (q : Nat) (bs : List Byte) : GRead :=
  let c := (s.queue q).ctl
  queueRead s (ctlPart c) (hostSpace s (ctlIface c) (fieldAt bs 8 4)) (packetAddr bs) (packetReach bs)

/-- Status of order 1 to 3 of R265; 0 for none. -/
def packetStatus (s : State) (q : Nat) (bs : List Byte) : Nat :=
  let c := (s.queue q).ctl
  let pasid := fieldAt bs 8 4
  let p := packetAddr bs
  if fieldBad bs then 1
  else if !pasidValid (s.iface (ctlIface c)) pasid then 2
  else if fieldAt bs 0 1 == 5 then 0
  else if !queueWindow p || p.toNat % packetAlign bs != 0 then 3
  else match packetRead s q bs with
    | .ok _ false _ | .waits => 0
    | _ => 3

/-- The lowest free launch tag; 0 means no launch (R267), so no launch takes it. -/
def freeTag (s : State) : Option Nat := ((List.range 65536).drop 1).find? (fun t => !(s.launch t).used)

/-- Bytes of one page as they stand, in their frame or in the backing store; none where the page is in neither. -/
def standingPiece (s : State) (part : Nat) (q : Dword × Nat) : Option (List Byte) :=
  match walkRoot s (ptrDie q.1) part (ptrOff56 q.1) with
  | .ok pa _ => some (rdBytes s.mem pa q.2)
  | _ => (s.backing.find? (fun b => b.page.part == part && b.page.addr ≤ q.1.toNat &&
      q.1.toNat < b.page.addr + 2 ^ b.page.shift)).map (fun b => rdBytes b.cells (q.1.toNat - b.page.addr) q.2)

/-- Bytes of the global window as they stand. -/
def standingBytes (s : State) (part : Nat) (p : Dword) (n : Nat) : Option (List Byte) :=
  (chunkPieces p n).foldr (fun q acc =>
    match standingPiece s part q, acc with | some a, some b => some (a ++ b) | _, _ => none) (some [])

/-- A launch is accepted under a tag with its object table as it stands (R116), and its fault record's header is written
(R293). -/
def newLaunch (s : State) (q tag : Nat) (bs : List Byte) (r : LaunchRec) : State :=
  let c := (s.queue q).ctl
  let fl := fieldAt bs 1 1
  let l : Launch :=
    { used := true, rec_ := r, part := ctlPart c, queue := q, seq := BitVec.ofNat 32 (fieldAt bs 4 4),
      pasid := hostSpace s (ctlIface c) (fieldAt bs 8 4), iface := ctlIface c, evt := fl.testBit 1, irq := fl.testBit 2,
      objs := (standingBytes s (ctlPart c) r.objBase (32 * r.objCount)).getD [] }
  putHeader (s.setLaunch tag l) tag

/-- The request takes its place in the queue. -/
def takeRequest (s : State) (q : Nat) (bs : List Byte) (tag : Nat) : State :=
  let n := (s.queue q).lastAcc + 1
  s.tick.updQueue q (fun x =>
    { x with lastAcc := n, since := s.seq,
             packets := x.packets ++
               [{ type := fieldAt bs 0 1, flags := BitVec.ofNat 8 (fieldAt bs 1 1), seq := n,
                  pasid := hostSpace s (ctlIface x.ctl) (fieldAt bs 8 4), payload := bs.drop 16, tag := tag,
                  id := s.seq }] })

/-- A refused request leaves only its event (R265). -/
def refuseRequest (s : State) (q : Nat) (bs : List Byte) (status : Nat) : State :=
  let n := (s.queue q).lastAcc + 1
  pushEvent (s.tick.updQueue q (fun x => { x with lastAcc := n, since := s.seq })) q
    { kind := 2, status := status, rseq := n, tag := 0, fcode := 0, fsum := 0,
      irq := (BitVec.ofNat 8 (fieldAt bs 1 1)).getLsbD 2 }

/-- The queue's next event waits for its budget: so do its packets (R343). -/
def eventStalls (s : State) (q : Nat) : Bool :=
  let part := ctlPart (s.queue q).ctl
  let k := if windowOf (s.queue q).evring = .host then 5 else 1
  match (s.queue q).events with
  | e :: _ => !budgetOk s part k e.id
  | [] => false

/-- A queue may accept a request: it is mapped and ready, its link is up, its events have room and budget, and its
partition exists and is not frozen. -/
def mayAccept (s : State) (q : Nat) : Bool :=
  let x := s.queue q
  x.mapped && ctlState x.ctl == 1 && queueUp s q && (x.events.isEmpty || eventRoom x) && !eventStalls s q &&
  !s.frozen (ctlPart x.ctl) && (s.part (ctlPart x.ctl)).inForce.v

/-- A request of the queue is copied in full, checked, and refused or taken (R265, R269). `m` counts the chunks of the
slot from memory. -/
def acceptRequest (s : State) (q : Nat) (bs : List Byte) (m : Nat) : State :=
  let x := s.queue q
  let part := ctlPart x.ctl
  let st := packetStatus s q bs
  let slot := readCharges (ringSlot x) 64 m
  let read (s : State) : State := queueMark s part (ringSlot x) 64
  if st != 0 then budgetAll s part x.since slot (fun t => refuseRequest (read t) q bs st)
  else if fieldAt bs 0 1 != 1 then budgetAll s part x.since slot (fun t => takeRequest (read t) q bs 0)
  else match packetRead s q bs with
    | .ok rb _ rm =>
      budgetAll s part x.since
        [(0, 64 * (m + rm)), (5, hostBytes (some (ringSlot x)) 64 + hostBytes (some (packetAddr bs)) 512)] (fun t =>
        let u := queueMark (read t) part (packetAddr bs) 512
        let ls := launchStatus u q rb
        if ls != 0 then refuseRequest u q bs ls
        else match freeTag u with
          | none => s
          | some tag => takeRequest (newLaunch u q tag bs (launchRecOf rb)) q bs tag)
    | _ => s

/-- REQUEST_ACCEPT. Where the slot is not yet written the queue waits for the next doorbell. -/
def execRequestAccept (queue : Nat) (s : State) : Out :=
  .next (if mayAccept s queue then
    (match slotRead s queue with
     | .none => s
     | .request bs m => acceptRequest s queue bs m
     | .unwritten m =>
       let x := s.queue queue
       let part := ctlPart x.ctl
       budgetAll s part x.since (readCharges (ringSlot x) 64 m) (fun t =>
         (queueMark t part (ringSlot x) 64).updQueue queue (fun y => { y with resting := true })))
  else s)

/-! ## Starting packets (R266) -/

/-- The queue's next packet to start, where it may start and has the type. -/
def startable (s : State) (q type : Nat) : Option Packet :=
  let x := s.queue q
  if !x.mapped || ctlState x.ctl != 1 || !queueUp s q || s.frozen (ctlPart x.ctl) then none
  else match nextStart x with
    | none => none
    | some p => if p.type == type then some p else none

def setStarted (s : State) (q : Nat) (seq : Word) (g : Packet → Packet) : State :=
  s.updQueue q (fun x =>
    { x with packets := x.packets.map (fun p => if p.seq == seq then { g p with started := true } else p) })

/-- A payload field, by its byte number in the packet. -/
def Packet.field (p : Packet) (i n : Nat) : Nat := fieldAt p.payload (i - 16) n
def Packet.addr (p : Packet) : Dword := BitVec.ofNat 64 (p.field 16 8)

/-- LAUNCH: the launch starts; its leases are made resident next (R282). -/
def execLaunch (queue : Nat) (s : State) : Out :=
  .next (match startable s queue 1 with
    | none => s
    | some p => (setStarted s queue p.seq id).updLaunch p.tag (fun l => { l with started := true }))

/-- The condition of a WAITVAL (R264). -/
def waitHolds (p : Packet) (mem : Nat) : Bool :=
  let w := if (p.field 40 1).testBit 2 then 2 ^ 64 else 2 ^ 32
  let a := (mem &&& p.field 32 8) % w
  let b := (p.field 24 8 &&& p.field 32 8) % w
  match p.field 40 1 % 4 with
  | 0 => a == b
  | 1 => a != b
  | 2 => a ≥ b
  | _ => a < b

/-- Read a WAITVAL's word: it completes when its condition holds. A word that cannot be read, or is poisoned, is one
whose condition does not hold (log entry 84). -/
def pollWait (s : State) (q : Nat) (p : Packet) : State :=
  let n := if (p.field 40 1).testBit 2 then 8 else 4
  let part := ctlPart (s.queue q).ctl
  let read (t : State) : State := setStarted t q p.seq (fun y => { y with polled := some s.now })
  match queueRead s part p.pasid p.addr n with
  | .ok bs bad m =>
    budgetAll s part p.id (readCharges p.addr n m) (fun t =>
      let u := read (queueMark t part p.addr n)
      if !bad && waitHolds p (leNat bs) then packetDone u q p.seq 0 else u)
  | _ => read s

def execWaitval (queue : Nat) (s : State) : Out :=
  .next (match startable s queue 2 with
    | none => s
    | some p => pollWait (setStarted s queue p.seq id) queue p)

/-- WAITVAL_POLL: at most every 1 µs. -/
def execWaitvalPoll (queue : Nat) (s : State) : Out :=
  .next (match (s.queue queue).packets.find? (fun p => p.type == 2 && p.started) with
    | none => s
    | some p =>
      let early := match p.polled with | some t => decide (s.now < t + 1000) | none => false
      if !(s.queue queue).mapped || !queueUp s queue || s.frozen (ctlPart (s.queue queue).ctl) || early then s
      else pollWait s queue p)

/-- A packet that writes bytes and is done. -/
def writePacket (s : State) (q : Nat) (p : Packet) (bs : List Byte) : State :=
  match queueWrite s (ctlPart (s.queue q).ctl) p.pasid p.id p.addr bs with
  | .done t => packetDone (setStarted t q p.seq id) q p.seq 0
  | .waits t => t
  | .refused => packetDone (setStarted s q p.seq id) q p.seq 1

def execWriteval (queue : Nat) (s : State) : Out :=
  .next (match startable s queue 3 with
    | none => s
    | some p => writePacket s queue p (leBytes (if (p.field 40 1).testBit 2 then 8 else 4) (p.field 24 8)))

def execTimestamp (queue : Nat) (s : State) : Out :=
  .next (match startable s queue 6 with
    | none => s
    | some p => writePacket s queue p (leBytes 8 s.now))

def execMarker (queue : Nat) (s : State) : Out :=
  .next (match startable s queue 5 with
    | none => s
    | some p => packetDone (setStarted s queue p.seq id) queue p.seq 0)

/-- COPYJOB: the chain or card becomes a job of a die's engine complex. -/
def execCopyjob (queue : Nat) (s : State) : Out :=
  .next (match startable s queue 4 with
    | none => s
    | some p =>
      let s1 := s.tick
      let j : Job :=
        { id := s.seq, seq := s.seq, kind := if p.field 24 1 % 2 = 0 then .chain else .coll,
          die := nodeDie s (p.field 25 1 % 4), part := ctlPart (s.queue queue).ctl, src := p.addr, recPtr := p.addr,
          packet := some (queue, p.seq), pasid := p.pasid }
      { setStarted s1 queue p.seq (fun y => { y with job := s.seq }) with jobs := s1.jobs ++ [j] })

/-! ## Pinning (R282) -/

/-- Every page of `n` bytes at a global pointer translates; at most `fuel` pages are walked. -/
def pagesOk (s : State) (part : Nat) : Nat → Nat → Nat → Bool
  | 0, _, _ => true
  | fuel + 1, a, end_ =>
    if end_ ≤ a then true
    else match walkRoot s ((a >>> 56) % 128) part (a % 2 ^ 56) with
      | .ok _ lf => pagesOk s part fuel ((a / 2 ^ lf.shift + 1) * 2 ^ lf.shift) end_
      | _ => false

def rangeOk (s : State) (l : Launch) (r : Dword × Nat) : Bool :=
  let a := r.1.toNat
  if windowOf r.1 = .host then hostPagesOk s l.pasid (ptrOff56 r.1) r.2
  else pagesOk s l.part (r.2 / 65536 + 2) a (a + r.2)

/-- LEASE_PIN_COMPLETE: every page that a lease touches is resident; it is pinned while the tag is in use. -/
def execLeasePinComplete (tag : Nat) (s : State) : Out :=
  let l := s.launch tag
  .next <|
    if l.used && l.started && !l.terminating && (l.rec_.leases.take l.rec_.nLease).all (rangeOk s l) then
      s.updLaunch tag (fun x => { x with pinned := true })
    else s

/-! ## Residency (R211, R300) -/

/-- The blocks resident on a pier. -/
def residents (s : State) (p : Nat) : List Block :=
  (s.blocks.filter (fun b => b.2.onPier == some p)).map (·.2)

def sumOf (f : Block → Nat) (bs : List Block) : Nat := bs.foldl (fun n b => n + f b) 0

def asideOf (b : Block) : Nat := (b.scratchSize + 4095) / 4096 * 4096

/-- A pier has the free resources of R211 for a block of `g` groups. -/
def pierFree (s : State) (p g window scratch acc : Nat) : Bool :=
  let bs := residents s p
  sumOf (fun b => 32 * b.groups * b.window) bs + 32 * g * window ≤ pierRegs &&
  sumOf (·.groups) bs + g ≤ pierGroups &&
  sumOf asideOf bs + (scratch + 4095) / 4096 * 4096 ≤ pierScratch &&
  sumOf (·.accRows) bs + acc ≤ pierRows && (acc == 0 || (quadBlock s p).isNone)

/-- IMGSIZE (R301). -/
def imgSize (g window scratch acc : Nat) : Nat :=
  let a := (scratch + 4095) / 4096 * 4096
  256 + 8192 * g + 128 * g * window + a + (a / 1024 + 255) / 256 * 256 + 512 * acc +
  (if acc = 0 then 0 else 81920) + 49152 + 69632

def blockImg (b : Block) : Nat := imgSize b.groups b.window b.scratchSize b.accRows

/-- A block holds an image slot. -/
def holdsSlot (b : Block) : Bool :=
  match b.place with | .resident _ | .saving _ | .saved => true | .nowhere => false | .retired _ => false

/-- The lowest free stretch of the save pool (R300); `taken` are stretches in use, as start and end. -/
def imageSlot (base size n : Nat) (taken : List (Nat × Nat)) : Option Nat :=
  let up (a : Nat) : Nat := (a + 4095) / 4096 * 4096
  let starts := (base :: taken.map (fun t => up t.2)).filter (fun a =>
    base ≤ a && a + n ≤ base + size && taken.all (fun t => a + n ≤ t.1 || t.2 ≤ a))
  starts.foldl (fun best a => match best with | some b => some (min a b) | none => some a) none

/-- Image slots in use in a partition's pool. -/
def takenSlots (s : State) (part : Nat) : List (Nat × Nat) :=
  (s.blocks.filter (fun b => holdsSlot b.2 && (s.launch b.2.tag).part == part)).map (fun b =>
    (b.2.image, b.2.image + blockImg b.2))

/-! ## Coolant admission (R350) -/

def countPiers (s : State) (part : Nat) : Nat :=
  ((List.range 256).filter (fun i => (s.part part).inForce.piers.getLsbD i)).length
def countIn (s : State) (part die cluster : Nat) : Nat :=
  ((List.range 4).filter (fun k => ownsPier s part (pierAt die cluster k))).length

/-- A(p, c). -/
def coolShare (s : State) (part die cluster : Nat) : Nat :=
  (settledPart s part).share * countIn s part die cluster / countPiers s part

/-- The blocks of a partition resident on a cluster. -/
def clusterBlocks (s : State) (die cluster : Nat) : List (Nat × Block) :=
  s.blocks.filter (fun b => match b.2.onPier with | some p => p / 4 == 16 * die + cluster | none => false)

def heatOf (s : State) (b : Block) : Nat := (s.launch b.tag).rec_.heat + 1

/-- Zone, heat class and allocation admit `n` more blocks of heat class `h` on a cluster. While the OUTLET_HIGH trap stands
and HEATOK is 0 no block is dispatched, of whatever class (R351; log entry 132). -/
def coolOk (s : State) (part die cluster h n : Nat) : Bool :=
  let z : Zone := tget {} (s.die die).zones cluster
  let used := sumOf (heatOf s) (((clusterBlocks s die cluster).filter (fun b =>
    (s.launch b.2.tag).part == part)).map (·.2))
  z.st == 0 && z.seqRuns == 0 && h ≤ z.heatNow && !(z.trap.getLsbD 0 && z.heatNow == 0) && used + n * (h + 1) ≤ coolShare s part die cluster && !s.package.moisture

/-! ## Dispatch (R210, R213, R214, R217) -/

/-- The scheduler of a pier that holds the fewest groups, `extra` of each counted in. -/
def leastSched (s : State) (p : Nat) (extra : Nat → Nat) : Nat :=
  let held (sc : Nat) : Nat := (schedGroups s p sc).length + extra sc
  (List.range 4).foldl (fun b sc => if held sc < held b then sc else b) 0

/-- Place a block's groups on schedulers, in order (R217). -/
def placeGroups (s : State) (p : Nat) (n : Nat) : List Nat :=
  (List.range n).foldl (fun acc _ =>
    acc ++ [leastSched s p (fun sc => (acc.filter (· == sc)).length)]) []

/-- A lane at a block's first dispatch (R210). -/
def firstLane (old : Lane) (live : Bool) (entry : Dword) : Lane :=
  if live then { live := true, used := true, fib := old.fib + 1, pc := entry, entering := true } else { fib := old.fib }

/-- A block as it is dispatched onto a pier. -/
def firstBlock (s : State) (tag idx p k q image : Nat) (key : BitVec 64) (old : Block) : Block :=
  let r := (s.launch tag).rec_
  let scs := placeGroups s p r.groups
  { tag := tag, idx := idx, place := .resident p, groups := r.groups, window := r.window, scratchSize := r.scratch,
    accRows := r.accRows, origin := p, spos := k, privSlot := if r.privSize = 0 then none else some q,
    ctxKey := (key.setWidth 12) ||| 1,
    lanes := ((List.range (32 * r.groups)).map (fun l => (l, firstLane (old.lane l) (l < r.lanes) r.entry))).filter
      (fun x => x.2 != {}),
    grps := ((List.range r.groups).zip scs).map (fun x => (x.1, { sched := x.2, born := s.seq + x.1, placed := s.seq + x.1 })),
    step := if r.deadline = 0 || r.work = 0 then {}
            else { deadline := s.now + r.deadline, total := r.work, opened := true },
    image := image }

/-- The lowest free private slot of a launch (R111). -/
def freeSlot (l : Launch) : Option Nat :=
  if l.rec_.privSize = 0 then some 0 else lowestFree l.rec_.privSlots (fun q => l.privUsed.contains q)

/-- Groups of a pier enter the active sets. -/
def fillPier (s : State) (p : Nat) : State :=
  (List.range 4).foldl (fun s sc => fillActive activeSize s p sc) s

/-- The L1 instruction cache drops the lines of a launch's code (R51). -/
def dropCode (s : State) (p : Nat) (r : LaunchRec) : State :=
  s.updCore p (fun c => { c with l1i := c.l1i.filter (fun x => !inLease r (64 * x.1)) })

/-- Dispatch one block onto a pier; none where it lacks a private slot or an image slot. -/
def dispatchBlock (s : State) (tag idx p k : Nat) : Option State :=
  let l := s.launch tag
  let r := l.rec_
  let pf := (s.part l.part).inForce
  match freeSlot l, imageSlot pf.saveBase pf.saveSize (imgSize r.groups r.window r.scratch r.accRows)
      (takenSlots s l.part) with
  | some q, some im =>
    let d := s.drawFree
    let b := 2 ^ 32 * tag + idx
    let x := firstBlock d.2 tag idx p k q im d.1 (s.block b)
    let s1 := (({ dropCode d.2 p r with seq := d.2.seq + r.groups } : State).setBlock b x).updLaunch tag (fun y =>
      { y with privUsed := if r.privSize = 0 then y.privUsed else y.privUsed ++ [q] })
    some (fillPier s1 p)
  | _, _ => none

/-- Dispatch the blocks of a span, in order, from pier `first` of a cluster on. -/
def dispatchAll (tag die cluster first span : Nat) : List Nat → State → Option State
  | [], s => some s
  | i :: r, s =>
    let k := i % span
    match dispatchBlock s tag i (pierAt die cluster (first + k)) (first + k) with
    | some t => dispatchAll tag die cluster first span r t
    | none => none

/-- The next span of a launch to dispatch, with its blocks: discarded ones afresh, else the next (R214, R299). -/
def nextSpan (l : Launch) : Option (Nat × List Nat) :=
  let n := l.rec_.span
  let fresh := (List.range n).map (fun k => n * l.nextSpan + k) |>.filter (· ≤ l.rec_.maxBlk)
  let old := l.again.foldl (fun b i => match b with | some x => some (min x (i / n)) | none => some (i / n)) none
  match old with
  | some sp => if sp < l.nextSpan || fresh.isEmpty then some (sp, l.again.filter (fun i => i / n == sp)) else some (l.nextSpan, fresh)
  | none => if fresh.isEmpty then none else some (l.nextSpan, fresh)

/-- A launch may dispatch blocks. -/
def mayDispatch (s : State) (tag : Nat) : Bool :=
  let l := s.launch tag
  l.used && l.started && l.pinned && !l.terminating && !l.complete && !s.frozen l.part

/-- A cluster can take the blocks `is` of a launch's span from pier `first` on, power apart. The blocks of a span are
dispatched together: none of it is still being discarded (R213, R299). -/
def clusterTakes (s : State) (tag die cluster first : Nat) (is : List Nat) : Bool :=
  let l := s.launch tag
  let r := l.rec_
  ownDie s die && (spanFirsts r.span).contains first &&
  (List.range r.span).all (fun k => ownsPier s l.part (pierAt die cluster (first + k))) &&
  is.all (fun i => pierFree s (pierAt die cluster (first + i % r.span)) r.groups r.window r.scratch r.accRows) &&
  coolOk s l.part die cluster r.heat is.length &&
  !s.blocks.any (fun b => b.2.tag == tag &&
    ((b.2.dropping && is.any (fun i => i / r.span == b.2.idx / r.span)) ||
     (b.2.drainBy != 0 && (match b.2.onPier with | some p => p / 4 == 16 * die + cluster | none => false))))

/-- Free places for whole spans on the partition's piers now (R214). -/
def coopRoom (s : State) (tag : Nat) : Nat :=
  let l := s.launch tag
  let r := l.rec_
  let place (p : Nat) : Nat := ((List.range (pierCapacity r + 1)).filter (fun n =>
    n != 0 && pierFree s p (n * r.groups) r.window (n * r.aside) (n * r.accRows))).length
  (spanSets s l.part r.span).foldl (fun n c =>
    n + ((List.range r.span).map (fun k => place (pierAt c.1 c.2.1 (c.2.2 + k)))).foldl min 64) 0

def updCluster (s : State) (die c : Nat) (g : Cluster → Cluster) : State :=
  s.updDie die (fun x => { x with clusters := tput {} x.clusters c (g (tget {} x.clusters c)) })

def getCluster (s : State) (die c : Nat) : Cluster := tget {} (s.die die).clusters c

/-- A slice starts with a launch's first block on a cluster (R297); the blocks of one that has ended do not count. -/
def startSlice (s : State) (die c tag : Nat) : State :=
  let held := (clusterBlocks s die c).any (fun b => b.2.tag == tag)
  if held && (tfind tag (getCluster s die c).slices).isSome then s else updCluster s die c (fun x => { x with slices := tins tag s.now x.slices })

/-- A span goes onto the piers of a cluster; none where a block of it lacks a private or an image slot. -/
def placeSpan (s : State) (tag sp die cluster first : Nat) (is : List Nat) : Option State :=
  let l := s.launch tag
  let s0 := updCluster (startSlice s die cluster tag) die cluster (fun c => { c with st := 0, idle := false })
  (dispatchAll tag die cluster first l.rec_.span is s0).map (fun t =>
    t.updLaunch tag (fun y =>
      { y with nextSpan := if sp == l.nextSpan then l.nextSpan + 1 else y.nextSpan,
               again := y.again.filter (fun i => !is.contains i) }))

/-- A cluster runs. -/
def clusterRuns (s : State) (c : Nat × Nat) : Bool := (getCluster s c.1 c.2).st < 2

/-- The package's clusters, those that run first. -/
def runningFirst (s : State) : List (Nat × Nat) :=
  (clusters s).filter (clusterRuns s) ++ (clusters s).filter (fun c => !clusterRuns s c)

/-- The next `n` spans of a launch go on together, one after the other where there is room for each: the state, and the
clusters used; none where one does not fit (R211, R214, R350). The places of a span are all of one size, so the first that
takes it will do. -/
def placeRest (tag : Nat) : Nat → State → Option (State × List (Nat × Nat))
  | 0, s => some (s, [])
  | n + 1, s =>
    match nextSpan (s.launch tag) with
    | none => some (s, [])
    | some (sp, is) =>
      match (runningFirst s).findSome? (fun c => ((List.range 4).find? (fun f => clusterTakes s tag c.1 c.2 f is)).map (fun f =>
          (c.1, c.2, f))) with
      | none => none
      | some (d, c, f) =>
        match placeSpan s tag sp d c f is with
        | none => none
        | some t => (placeRest tag n t).map (fun r => (r.1, (d, c) :: r.2))

/-- Some cluster that is not gated or waking could take the blocks. -/
def ungatedTakes (s : State) (tag : Nat) (is : List Nat) : Bool :=
  (clusters s).any (fun c => (getCluster s c.1 c.2).st < 2 &&
    (List.range 4).any (fun f => clusterTakes s tag c.1 c.2 f is))

/-- A gated cluster starts to wake (R320). -/
def wakeCluster (s : State) (die c : Nat) : State :=
  updCluster s die c (fun x => if x.st = 2 then { x with st := 3, wakeAt := s.now + 2000 } else x)

/-! ## Where saved spans may go (R304, R251) -/

/-- The saved blocks of a span. -/
def savedOf (s : State) (tag span : Nat) : List (Nat × Block) :=
  s.blocks.filter (fun b => b.2.tag == tag && b.2.idx / (s.launch tag).rec_.span == span && b.2.place == .saved)

/-- The pier that the `i`-th saved block of a span would go to: digit `i` of `first`, in base 4, in the cluster. -/
def restorePier (die cluster first i : Nat) : Nat := pierAt die cluster (first / 4 ^ i % 4)

/-- The spans of a launch that wait to be restored. -/
def savedSpans (s : State) (tag : Nat) : List Nat :=
  ((s.blocks.filter (fun b => b.2.tag == tag && b.2.place == .saved)).map (fun b =>
    b.2.idx / (s.launch tag).rec_.span)).eraseDups

/-- A cluster can take a saved span, power apart: all its blocks that have not retired are saved, and come back
together on distinct owned piers with room, each on its span position where the configuration is not single. -/
def restoreFits (s : State) (tag span die cluster first : Nat) : Bool :=
  let l := s.launch tag
  let r := l.rec_
  let bs := savedOf s tag span
  let ps := (List.range bs.length).map (restorePier die cluster first)
  let fused := bs.any (fun b => b.2.cfg.set && b.2.cfg.shape != 0)
  !bs.isEmpty && ownDie s die && mayDispatch s tag && ps.eraseDups.length == ps.length &&
  !s.blocks.any (fun b => b.2.tag == tag && b.2.idx / r.span == span && b.2.onPier.isSome) &&
  (bs.zip ps).all (fun x =>
    ownsPier s l.part x.2 && pierFree s x.2 r.groups r.window r.scratch r.accRows &&
    (!fused || x.2 % 4 == x.1.2.spos) && (s.core x.2).record.length + x.1.2.savedRec.length ≤ recordSize) &&
  coolOk s l.part die cluster r.heat bs.length

/-- The saved blocks of a span as they would stand on their piers. -/
def standOn (s : State) (tag span die cluster first : Nat) : State :=
  let bs := savedOf s tag span
  ((List.range bs.length).zip bs).foldl (fun (t : State) x =>
    let p := restorePier die cluster first x.1
    (t.setBlock x.2.1 { x.2.2 with place := .resident p }).updCore p (fun c =>
      { c with record := c.record ++ x.2.2.savedRec })) s

/-- Where saved spans can come back one after the other: each with its cluster and first pier; none where one does not
fit. -/
def restorePlan (tag : Nat) : List Nat → State → Option (List (Nat × Nat × Nat × Nat))
  | [], _ => some []
  | sp :: r, s =>
    match (runningFirst s).findSome? (fun c =>
        ((List.range 256).find? (fun f => restoreFits s tag sp c.1 c.2 f)).map (fun f => (c.1, c.2, f))) with
    | none => none
    | some (d, c, f) => (restorePlan tag r (standOn s tag sp d c f)).map (fun q => (sp, d, c, f) :: q)

/-- The restore of a span, and with it of every other span of a cooperative launch, whose blocks are all resident at once
(R214): each span's cluster and first pier; none where they do not fit. -/
def restoreAll (s : State) (tag span die cluster first : Nat) : Option (List (Nat × Nat × Nat × Nat)) :=
  if !restoreFits s tag span die cluster first then none
  else if !(s.launch tag).rec_.coop then some [(span, die, cluster, first)]
  else if s.blocks.any (fun b => b.2.tag == tag && b.2.onPier.isSome) then none
  else (restorePlan tag ((savedSpans s tag).filter (· != span)) (standOn s tag span die cluster first)).map (fun q =>
    (span, die, cluster, first) :: q)

/-- Some cluster can take the span. -/
def restorable (s : State) (tag span : Nat) : Bool :=
  (clusters s).any (fun c => (List.range 256).any (fun f => (restoreAll s tag span c.1 c.2 f).isSome))

/-- An orrery asked earlier than `q` for a context of the partition that can be restored: it comes first (R251). -/
def wantedBefore (s : State) (part q : Nat) : Bool :=
  s.blocks.any (fun b => b.2.place == .saved && b.2.wanted != 0 && b.2.wanted < q &&
    (s.launch b.2.tag).part == part && restorable s b.2.tag (b.2.idx / (s.launch b.2.tag).rec_.span))

/-- SPAN_DISPATCH: the blocks of the launch's next span go onto the piers of a cluster, from pier `first` on; with a
cooperative launch's first span go all its others, each where there is room (R214). A gated cluster that is needed wakes
first (R320). -/
def execSpanDispatch (tag die cluster first : Nat) (s : State) : Out :=
  let l := s.launch tag
  .next (match nextSpan l with
    | none => s
    | some (sp, is) =>
      if !mayDispatch s tag || !clusterTakes s tag die cluster first is || wantedBefore s l.part s.seq then s
      else if (getCluster s die cluster).st ≥ 2 && ungatedTakes s tag is then s
      else match placeSpan s tag sp die cluster first is with
        | none => s
        | some t =>
          match (if l.rec_.coop && l.nextSpan == 0 then placeRest tag l.rec_.spans t else some (t, [])) with
          | none => s
          | some r =>
            let gated := ((die, cluster) :: r.2).filter (fun c => !clusterRuns s c)
            if gated.isEmpty then r.1 else gated.foldl (fun u c => wakeCluster u c.1 c.2) s)

/-! ## Completion (R266, R292, R295, R296) -/

/-- Engine and matrix work of a launch is left. -/
def workLeft (s : State) (tag : Nat) : Bool :=
  s.jobs.any (fun j => j.tag == tag && j.packet.isNone) ||
  s.blocks.any (fun b => b.2.tag == tag && !b.2.mq.isEmpty && !b.2.mqDead)

/-- Every block has been dispatched and has retired. -/
def allRetired (l : Launch) : Bool := l.again.isEmpty && l.retired == l.rec_.maxBlk + 1

/-- The launch is over: the fault record's header is final before the COMPLETE event (R295). -/
def completeLaunch (s : State) (tag : Nat) : State :=
  let s1 := putHeader (s.updLaunch tag (fun l => { l with complete := true, tDone := s.now })) tag
  let l := s1.launch tag
  packetDone s1 l.queue l.seq (if l.termBit then 1 else 0)

/-- LAUNCH_COMPLETE. -/
def execLaunchComplete (tag : Nat) (s : State) : Out :=
  let l := s.launch tag
  .next <|
    if !l.used || l.complete || workLeft s tag then s
    else if l.terminating then (if l.stopped then completeLaunch s tag else s)
    else if allRetired l then completeLaunch s tag else s

/-- A request that bears the tag has not drained (R269, R296). -/
def tagBusy (s : State) (tag : Nat) : Bool :=
  let mine (b : Nat) : Bool := b < 2 ^ 60 && b / 2 ^ 32 == tag
  s.cores.any (fun c => c.2.record.any (fun e => e.tag == tag && e.ctx < 2 ^ 60) || c.2.fills.any (fun f => f.tag == tag && c.1 < 2048)) ||
  s.memops.any (fun m => mine m.blk) || s.jobs.any (fun j => j.tag == tag && j.packet.isNone) ||
  s.sgreqs.any (fun r => mine r.blk)

/-- TAG_RELEASE: FREE is set, and the tag and its blocks' numbers are free. -/
def execTagRelease (tag : Nat) (s : State) : Out :=
  let l := s.launch tag
  .next <|
    if !l.used || !l.complete || tagBusy s tag then s
    else
      let s1 := putHeader (s.updLaunch tag (fun x => { x with free := true })) tag
      { s1.setLaunch tag {} with blocks := s1.blocks.filter (fun b => b.2.tag != tag) }

end Sys2Proof.Machine
end

