-- ==== Sys2Proof/Machine/Image.lean ====
section
/-! DEFINITION. The context image (R301 to R303) and the record entries of an image (R228): the bytes a save writes
at the block's slot, and what a restore reads back from them. Sections 6 and 8, which only the device that wrote
them reads, stand in the image as open bytes, and their content stays with the block (log entry 31). -/
namespace Sys2Proof.Machine

/-! ## Layout (R302) -/

def up256 (n : Nat) : Nat := (n + 255) / 256 * 256

/-- Lengths of the eight sections. -/
def sectionLens (x : Block) (nrec : Nat) : List Nat :=
  [8192 * x.groups, 128 * x.groups * x.window, asideOf x, up256 (asideOf x / 1024), 512 * x.accRows,
   if x.accRows = 0 then 0 else 81920, 96 * nrec, 69632]

/-- Offset and length of each section; each starts at a multiple of 256. -/
def sectionsFrom (o : Nat) : List Nat → List (Nat × Nat)
  | [] => []
  | n :: r => (o, n) :: sectionsFrom (up256 (o + n)) r

def sections (x : Block) (nrec : Nat) : List (Nat × Nat) := sectionsFrom 256 (sectionLens x nrec)

/-- Where section `k` (1 to 8) starts; the first seven do not depend on the record entries. -/
def sectionAt (x : Block) (k : Nat) : Nat := ((sections x 0).getD (k - 1) (0, 0)).1

/-- A word of one bit for each group. -/
def groupBits (x : Block) (p : Nat → Bool) : Nat :=
  (List.range x.groups).foldl (fun n g => if p g then n + 2 ^ g else n) 0

/-- The 256-B header. -/
def imageHeader (x : Block) (nrec : Nat) : List Byte :=
  leBytes 2 1 ++ leBytes 2 x.tag ++ leBytes 4 x.idx ++
  leBytes 2 (x.origin % 64 + 256 * (x.origin / 64)) ++ leBytes 2 x.ctxKey.toNat ++
  leBytes 1 x.groups ++ leBytes 1 x.spos ++ leBytes 2 x.window ++
  leBytes 4 (x.privSlot.getD 0) ++ leBytes 4 x.scratchSize ++ leBytes 2 x.accRows ++ leBytes 2 nrec ++ leBytes 4 0 ++
  leBytes 8 x.step.deadline ++ leBytes 4 x.step.total ++ leBytes 4 x.step.done ++
  leBytes 8 (if x.step.opened then 1 else 0) ++ leBytes 8 (x.cyc / 100) ++ leBytes 8 x.cpb.toNat ++
  leBytes 4 x.haltMask.toNat ++ leBytes 4 x.stepGrp.toNat ++
  leBytes 4 (groupBits x (fun g => (x.grp g).event)) ++ leBytes 4 (groupBits x (inHandler x)) ++ leBytes 40 0 ++
  (sections x nrec).flatMap (fun e => leBytes 8 e.1 ++ leBytes 8 e.2)

/-- The code of a lane's pending cause, 0 for none. -/
def pendingCode (x : Block) (l : Nat) : Nat :=
  if (x.lane l).park == .trapPending then
    (match (x.grp (l / 32)).pending.find? (fun c => c.mask.getLsbD (l % 32)) with
     | some c => c.code.toNat | none => 0)
  else match (x.lane l).due with
    | some c => c.1.toNat
    | none => 0

/-- A lane's last signed round on a convergence register, as the image holds it. -/
def signedBits (g : Signed) : Nat :=
  g.round.toNat + (if g.st == .issued then 2 ^ 32 else 0) + (if g.st == .never then 0 else 2 ^ 33)

/-- The 16 bytes of a handle: only LIVE is laid down; the rest is open. -/
def handleBytes (n : Nat) (h : Handle) : List Byte :=
  ((Config.freeValue n).setWidth 8 &&& 0xFE ||| (if h.live then 1 else 0)) ::
  (List.range 15).map (fun i => (Config.freeValue n).setWidth 8 ^^^ (Config.freeValue (n + 1 + i)).setWidth 8)

/-- A lane record (R303); `n` numbers its free values. -/
def laneRecord (x : Block) (n l : Nat) : List Byte :=
  let y := x.lane l
  let c := pendingCode x l
  leBytes 8 y.pc.toNat ++ leBytes 2 y.preds.toNat ++
  leBytes 1 ((if y.live then 1 else 0) + (if y.used then 2 else 0) + (if y.hmode then 4 else 0) + (if c = 0 then 0 else 8)) ++
  leBytes 1 y.fpstat.toNat ++ leBytes 1 c ++ leBytes 3 0 ++ leBytes 8 y.inst.toNat ++
  (List.range 8).flatMap (fun k => leBytes 8 (signedBits (y.sign k))) ++
  (List.range 8).flatMap (fun h => handleBytes (n + 16 * h) (y.handle h)) ++ leBytes 40 0

/-- An entry's CTL word (R228). -/
def entryCtl (e : Entry) : Nat :=
  e.age.toNat * 2 ^ 48 + (if e.rel then e.relLane * 2 ^ 38 + 2 ^ 37 else 0)

/-- The 96 bytes of a record entry (R228). -/
def entryBytes (e : Entry) : List Byte :=
  leBytes 64 e.data.toNat ++ leBytes 8 e.be.toNat ++ leBytes 8 e.chunk.toNat ++ leBytes 8 (entryCtl e) ++ leBytes 8 0

/-- A context's entries in AGE order. -/
def inAgeOrder (es : List Entry) : List Entry :=
  es.foldl (fun l e => l.filter (fun o => o.id < e.id) ++ [e] ++ l.filter (fun o => e.id ≤ o.id)) []

/-- Poisoned 64-B chunks of an image, as offsets / 64: those of poisoned data that a save writes (R302). -/
def imagePoison (x : Block) (es : List Entry) : List Nat :=
  let at_ (k : Nat) : Nat := sectionAt x k
  ((x.regPoison.map (fun r => at_ 2 + 128 * (r / 512 / 32 * x.window + r % 512) + 4 * (r / 512 % 32))) ++
   (x.scratchPoison.map (fun w => at_ 3 + 4 * w)) ++ (x.accPoison.map (fun w => at_ 5 + 4 * w)) ++
   ((List.range es.length).filter (fun i => (es[i]?.map (·.poisoned)).getD false)).map (fun i => at_ 7 + 96 * i)).map (· / 64)

/-! ## Writing -/

/-- Write the save pool or the capture log: physical memory, without translation (R300, R306). -/
def poolWrite (s : State) (pa : Nat) (bs : List Byte) : State :=
  homeWrite s pa bs

/-- `n` open bytes. -/
def openBytes (s : State) (n : Nat) : List Byte × State :=
  ((List.range n).map (fun i => (Config.freeValue (s.free + i)).setWidth 8), { s with free := s.free + n })

/-- The words of section 2: register i of lane l of group g at 128 × (g × WINDOW + i) + 4l. -/
def regSection (x : Block) : List Byte :=
  (List.range x.groups).flatMap (fun g => (List.range x.window).flatMap (fun i =>
    allLanes.flatMap (fun l => leBytes 4 ((x.lane (32 * g + l)).reg i).toNat)))

/-- Section 4: bit j of byte k for line 8k + j; the lines beyond the allocation are present. -/
def presenceSection (x : Block) : List Byte :=
  (List.range (up256 (asideOf x / 1024))).map (fun k =>
    BitVec.ofNat 8 ((List.range 8).foldl (fun n j =>
      if (tget [] x.absent (8 * k + j)).isEmpty then n + 2 ^ j else n) 0))

def accSection (x : Block) : List Byte :=
  (List.range (128 * x.accRows)).flatMap (fun k => leBytes 4 (tget 0 x.acc k).toNat)

/-- Write the image of a block with its record entries at its slot (R300, step 5). -/
def writeImage (s : State) (x : Block) (es : List Entry) : State :=
  let o := sections x es.length
  let put (s : State) (k : Nat) (bs : List Byte) : State := poolWrite s (x.image + (o.getD (k - 1) (0, 0)).1) bs
  let n := s.free
  let s1 := poolWrite { s with free := s.free + 4096 * x.groups } x.image (imageHeader x es.length)
  let s2 := put s1 1 ((List.range (32 * x.groups)).flatMap (fun l => laneRecord x (n + 128 * l) l))
  let s3 := put s2 2 (regSection x)
  let s4 := put s3 3 (rdBytes x.scratch 0 (asideOf x))
  let s5 := put s4 4 (presenceSection x)
  let s6 := put s5 5 (accSection x)
  let m := openBytes s6 (if x.accRows = 0 then 0 else 81920)
  let s7 := put (put m.2 6 m.1) 7 (es.flatMap entryBytes)
  let e := openBytes s7 69632
  let s8 := put e.2 8 e.1
  { s8 with memPoison := (imagePoison x es).foldl (fun l c => addTo (x.image / 64 + c) l) s8.memPoison }

/-! ## Reading back (R304) -/

/-- The stretch of memory that a saved block's image covers. -/
def imageEnd (x : Block) (nrec : Nat) : Nat :=
  x.image + (match (sections x nrec).getLast? with | some e => e.1 + e.2 | none => 256)

/-- Some byte of the image is uncorrectable: its chunk is poisoned, and the save did not write it so (R305). -/
def imageLost (s : State) (x : Block) (es : List Entry) : Bool :=
  let ok := (imagePoison x es).map (x.image / 64 + ·)
  s.memPoison.any (fun c => x.image ≤ 64 * c && 64 * c < imageEnd x es.length && !ok.contains c) ||
  (!s.memLinks.isEmpty && (List.range ((imageEnd x es.length - x.image) / 65536 + 2)).any (fun i =>
    frameLost s (x.image + 65536 * i)))

/-- What a restore reads of a lane: its record and its registers. -/
def readLane (s : State) (x : Block) (l : Nat) : Lane :=
  let y := x.lane l
  let a := x.image + sectionAt x 1 + 256 * l
  let st := rdNat s.mem (a + 10) 1
  let sg (k : Nat) : Signed :=
    let v := rdNat s.mem (a + 24 + 8 * k) 8
    { round := BitVec.ofNat 32 v,
      st := if !v.testBit 33 then .never else if v.testBit 32 then .issued
            else if (y.sign k).st == .issued then .pending else if (y.sign k).st == .never then .pending else (y.sign k).st }
  let regs := (List.range x.window).foldl (fun (t : Tbl Word) i =>
    tput 0 t i (BitVec.ofNat 32 (rdNat s.mem (x.image + sectionAt x 2 + 128 * (l / 32 * x.window + i) + 4 * (l % 32)) 4))) []
  { y with pc := BitVec.ofNat 64 (rdNat s.mem a 8), preds := BitVec.ofNat 16 (rdNat s.mem (a + 8) 2),
           live := st.testBit 0, used := st.testBit 1, hmode := st.testBit 2,
           fpstat := BitVec.ofNat 5 (rdNat s.mem (a + 11) 1), inst := BitVec.ofNat 64 (rdNat s.mem (a + 16) 8),
           signed := (List.range 8).foldl (fun (t : Tbl Signed) k => tput {} t k (sg k)) [], regs := regs }

/-- A block as the header and sections 1 to 5 of its image give it; what sections 6 and 8 hold comes from the
block as it was saved. -/
def readImage (s : State) (x : Block) : Block :=
  let a := x.image
  let n (o k : Nat) : Nat := rdNat s.mem (a + o) k
  let scratch := (List.range x.scratchSize).foldl (fun (t : Tbl Byte) i =>
    tput 0 t i (rdByte s.mem (a + sectionAt x 3 + i))) []
  let acc := (List.range (128 * x.accRows)).foldl (fun (t : Tbl Word) i =>
    tput 0 t i (BitVec.ofNat 32 (rdNat s.mem (a + sectionAt x 5 + 4 * i) 4))) []
  let present (ln : Nat) : Bool := (rdNat s.mem (a + sectionAt x 4 + ln / 8) 1).testBit (ln % 8)
  let absent := (List.range ((x.scratchSize + 127) / 128)).foldl (fun (t : Tbl (List Nat)) ln =>
    tput [] t ln (if present ln then [] else tget [] x.absent ln)) []
  let lanes := (List.range (32 * x.groups)).foldl (fun (t : Tbl Lane) l => tput {} t l (readLane s x l)) []
  { x with
    origin := n 8 1 + 64 * (n 9 1 % 32), ctxKey := BitVec.ofNat 12 (n 10 2), spos := n 13 1 % 4,
    privSlot := x.privSlot.map (fun _ => n 16 4),
    step := { x.step with deadline := n 32 8, total := n 40 4, done := n 44 4, opened := (n 48 1).testBit 0 },
    cyc := 100 * n 56 8 + x.cyc % 100, cpb := BitVec.ofNat 64 (n 64 8),
    haltMask := BitVec.ofNat 32 (n 72 4), stepGrp := BitVec.ofNat 32 (n 76 4),
    lanes := lanes, scratch := scratch, acc := acc, absent := absent }

/-- A saved entry as section 7 gives it: the stores of the entry as saved where the bytes stand unchanged, else one
store of the entry's bytes. -/
def readEntry (s : State) (x : Block) (i : Nat) (e : Entry) : Entry :=
  let a := x.image + sectionAt x 7 + 96 * i
  if rdBytes s.mem a 96 = entryBytes e then e
  else
    let ctl := rdNat s.mem (a + 80) 8
    { e with
      chunk := BitVec.ofNat 64 (rdNat s.mem (a + 72) 8), age := BitVec.ofNat 16 (ctl / 2 ^ 48),
      rel := ctl.testBit 37, relLane := ctl / 2 ^ 38 % 1024,
      stores := [{ lane := (e.stores.head?.map (·.lane)).getD 0, seq := (e.stores.head?.map (·.seq)).getD 0,
                   be := BitVec.ofNat 64 (rdNat s.mem (a + 64) 8), data := BitVec.ofNat 512 (rdNat s.mem a 64),
                   poison := e.poisoned }] }

end Sys2Proof.Machine
end

