-- ==== Sys2Proof/Machine/Faults.lean ====
section
/-! DEFINITION. Termination of a launch (R292), and tenant capture and reset with the capture log (R306, R307). -/
namespace Sys2Proof.Machine

/-! ## Termination (R292) -/

/-- A block of a terminated launch stops: its fibres end with their members lost, its open rounds are reported, its
queued operations, its image and the entries saved in it are discarded (R292, steps 2 and 4 to 6). -/
def stopBlock (s : State) (b : Nat) : State :=
  let x := s.block b
  let live := (blockLanes x).filter (fun l => (x.lane l).live)
  let s1 := dropRounds (live.foldl (fun s l => endFibre s b l) s) b
  (vacate s1 b).updBlock b emptied

/-- An outstanding access waits at a migrating page (R287). -/
def parkedOnPage (s : State) (m : MemOp) : Bool :=
  spotOf s (s.block m.blk).tag m.ptr (m.t.bits / 8) (if m.kind == MemKind.load then .read else .atomic) == .waits

/-- A job stops: its lines are present again, and the instance it takes part in fails (R182, R187). -/
def stopJob (s : State) (j : Job) : State :=
  let s1 := landLines { s with jobs := s.jobs.filter (fun x => x.id != j.id) } j.id j.cleared
  if j.inst = 0 then s1 else failPeers s1 j.inst

/-- Everything of a launch stops. -/
def stopLaunch (s : State) (tag : Nat) : State :=
  let mine (b : Nat) : Bool := (s.block b).tag == tag && b / 2 ^ 32 == tag
  let js := s.jobs.filter (fun j => j.tag == tag && j.packet.isNone)
  let s1 := { s with memops := s.memops.filter (fun m => !(mine m.blk && parkedOnPage s m)) }
  let s2 := (s1.blocks.filter (fun b => b.2.tag == tag)).foldl (fun s b => stopBlock s b.1) s1
  let s3 := js.foldl stopJob s2
  let s4 := js.foldl (fun s j => wakeJobSlots s j.pier) s3
  s4.updLaunch tag (fun l => { l with stopped := true, again := [] })

/-- LAUNCH_TERMINATE. -/
def execLaunchTerminate (tag : Nat) (s : State) : Out :=
  let l := s.launch tag
  .next (if l.used && l.terminating && !l.stopped && !l.complete then stopLaunch s tag else s)

/-! ## What makes a capture due (R306) -/

/-- A partition's capture and reset are due, for the first reason there is. -/
def dueReset (s : State) (part reason : Nat) : State :=
  s.updPart part (fun x => if x.reason = 0 then { x with reason := reason, since := s.now } else x)

/-- TERMINATION_OVERDUE: the launch has been terminating for 10 ms. -/
def execTerminationOverdue (tag : Nat) (s : State) : Out :=
  let l := s.launch tag
  .next (if l.used && l.terminating && !l.complete && l.termAt + 10000000 ≤ s.now then dueReset s l.part 2 else s)

/-! ## The capture log (R307) -/

/-- A record of the log: TYPE, bytes 15:8 of its header, and its body. -/
structure CapRecord where
  type : Nat
  place : Nat
  body : List Byte
  deriving DecidableEq, Repr

/-- Bytes 15:8 for a pier: its die-local index and its node die (log entry 35). -/
def pierPlace (p : Nat) : Nat := p % 64 + 256 * (p / 64)

/-- Record entries of a context on a core. -/
def ctxEntries (s : State) (core ctx : Nat) : List Entry :=
  inAgeOrder ((s.core core).record.filter (fun e => e.ctx == ctx))

/-- The piers of the package. -/
def packagePiers (s : State) : List Nat := (List.range 256).map (256 * s.package.nodePos + ·)

/-- The piers that a partition owns, those being released among them. -/
def partPiers (s : State) (part : Nat) : List Nat :=
  (packagePiers s).filter (fun p =>
    ownsPier s part p || (s.part part).releasing.contains p)

/-- The harts that a partition owns, by mhartid. -/
def partHarts (s : State) (part : Nat) : List Nat :=
  ((List.range 64).filter (fun j => (s.part part).inForce.v && (s.part part).inForce.harts.getLsbD j)).map
    (64 * s.package.nodePos + ·)

/-- The queues of a partition that firmware has set up. -/
def partQueues (s : State) (part : Nat) : List Nat :=
  (List.range 4096).filter (fun q => ctlState (queueCtl s q) != 0 && ctlPart (queueCtl s q) == part)

/-- The 4 KiB fault record as it stands. -/
def faultRecord (s : State) (l : Launch) : List Byte :=
  (List.range 64).flatMap (fun i =>
    (peekRecord s l.part (l.rec_.frptr + BitVec.ofNat 64 (64 * i)) 64).getD (List.replicate 64 0))

/-- The descriptor of a queue with its live numbers. -/
def liveDesc (s : State) (q : Nat) : List Byte :=
  let x := s.queue q
  let bs := rdBytes s.mem (descAddr s q) 64
  if x.mapped then
    bs.take 16 ++ leBytes 4 x.lastAcc.toNat ++ leBytes 4 x.lastEmit.toNat ++ leBytes 4 x.tail.toNat ++ bs.drop 28
  else bs

/-- The records of a partition in the order of the table. The RAS records of its application cores (R336) have no type
there: they follow, with a free type and the poisoned address as their body (log entry 117). What their store records
hold is copied as a pier's is (R17; log entry 118). -/
def capRecords (s : State) (part : Nat) : List CapRecord :=
  let bs := s.blocks.filter (fun b => (s.launch b.2.tag).used && (s.launch b.2.tag).part == part)
  bs.filterMap (fun b => b.2.onPier.map (fun p =>
    { type := 1, place := pierPlace p,
      body := imageHeader b.2 (ctxEntries s p b.1).length ++
        (List.range (32 * b.2.groups)).flatMap (fun l => laneRecord b.2 (s.free + 128 * l) l) })) ++
  (partPiers s part).map (fun p =>
    { type := 2, place := pierPlace p, body := (inAgeOrder (s.core p).record).flatMap entryBytes }) ++
  (partHarts s part).map (fun h =>
    { type := 2, place := 2 ^ 16 + h, body := (inAgeOrder (s.core (2048 + h)).record).flatMap entryBytes }) ++
  (s.launches.filter (fun l => l.2.used && l.2.part == part)).map (fun l =>
    { type := 3, place := l.2.queue, body := faultRecord s l.2 }) ++
  (partQueues s part).map (fun q => { type := 4, place := q, body := liveDesc s q }) ++
  (bs.filter (fun b => b.2.place == .saved)).map (fun b =>
    { type := 5, place := pierPlace b.2.origin, body := leBytes 8 b.2.image }) ++
  (partHarts s part).flatMap (fun h => (s.hart h).rasLog.map (fun a =>
    { type := (Config.freeValue s.free).toNat % 256, place := h, body := leBytes 8 a }))

def capSize : Nat := 16777216

/-- The records that fit, in order, and whether one was omitted. -/
def fitRecords : List CapRecord → Nat → List CapRecord × Bool
  | [], _ => ([], false)
  | r :: rs, room =>
    let n := 16 + r.body.length
    if n ≤ room then let q := fitRecords rs (room - n); (r :: q.1, q.2)
    else ((fitRecords rs room).1, true)

/-- CAPTURE_LOG_WRITE. -/
def writeCapture (s : State) (part : Nat) : State :=
  let x := s.part part
  let f := fitRecords (capRecords s part) (capSize - 4096)
  let body := f.1.flatMap (fun r =>
    leBytes 1 r.type ++ leBytes 3 0 ++ leBytes 4 r.body.length ++ leBytes 8 r.place ++ r.body)
  let head := leBytes 2 1 ++ leBytes 1 part ++ leBytes 1 x.reason ++ leBytes 8 x.since ++
    leBytes 4 (4096 + body.length) ++ leBytes 1 (if f.2 then 1 else 0) ++ leBytes 4079 0
  (poolWrite { s with free := s.free + 4096 } x.inForce.capBase (head ++ body)).updPart part (fun y =>
    { y with capUsed := 4096 + body.length, capTrunc := f.2 })

/-! ## The reset (R306) -/

/-- A core's entries are discarded unapplied, its words disowned, and its caches invalidated. -/
def clearCore (s : State) (c : Nat) : State :=
  { s with cores := tdel c s.cores, dir := s.dir.filter (fun o => o.2 != c) }

/-- Invalidate some ways of a pier's slice. -/
def clearWays (ways : BitVec 16) (s : State) (p : Nat) : State :=
  s.updPier p (fun x => { x with slice := x.slice.filter (fun e => !ways.getLsbD e.2) })


/-- A launch of the partition is terminated with TENANT_RESET and over (R306, steps 4 and 6): its COMPLETE event is
written whatever its packet's EVT says. -/
def resetLaunch (s : State) (tag : Nat) : State :=
  let s1 := stopLaunch (report s tag { code := Code.tenantReset, deferred := false }) tag
  let s2 := putHeader (s1.updLaunch tag (fun l => { l with complete := true, tDone := s.now })) tag
  let l := s2.launch tag
  let s3 := s2.updQueue l.queue (fun x => { x with packets := x.packets.filter (fun y => y.seq != l.seq) })
  pushEvent s3 l.queue { kind := 1, status := 1, rseq := l.seq, tag := tag, fcode := l.first, fsum := fsumOf l, irq := l.irq }

/-- A queue stops in STATE 2 (R306, step 5). -/
def stopQueue (s : State) (q : Nat) : State :=
  let stop (c : Dword) : Dword := (c &&& ~~~(0xC00_0000_0000#64)) ||| 0x800_0000_0000#64
  let s1 := putDesc s q 32 8 (stop (descOf s q).ctl).toNat
  if (s1.queue q).mapped then s1.updQueue q (fun x => { x with ctl := stop x.ctl }) else s1

/-- Steps 3 to 5, and the completions of step 6. The ways of step 5 are those that the partition fills, in every slice of
the package (R341; log entry 134); a lost member's notice still reaches a group of another namespace (R249). -/
def clearPartition (s : State) (part : Nat) : State :=
  let x := s.part part
  let piers := partPiers s part
  let harts := partHarts s part
  let qs := partQueues s part
  let s1 := writeCapture (flushRecords s) part
  let s2 := (piers ++ harts.map (2048 + ·)).foldl clearCore s1
  let s3 := (s2.launches.filter (fun l => l.2.used && l.2.part == part && !l.2.complete)).foldl (fun s l => resetLaunch s l.1) s2
  let s4 := (s3.jobs.filter (fun j => j.part == part)).foldl (fun s j =>
    let t := stopJob s j
    match j.packet with | some (q, seq) => packetDone t q seq 1 | none => t) s3
  let s5 := reclaimEntries { s4 with colls := s4.colls.filter (fun c => c.part != part),
                                     sgreqs := s4.sgreqs.filter (fun r => r.part != part || r.kind == .lost) }
    (fun _ e => e.nsid == x.inForce.nsid)
  let s6 := qs.foldl stopQueue (harts.foldl (fun s h => s.setHart h {}) ((packagePiers s5).foldl (clearWays x.inForce.ways) s5))
  { s6 with pageReqs := s6.pageReqs.filter (fun r => r.part != part) }.updPart part (fun y =>
    { y with gen := y.gen + 1, shrinking := false, releasing := [], cleared := true })

/-- The events of a queue are written as far as its ring has room. -/
def writeEvents : Nat → State → Nat → State
  | 0, s, _ => s
  | n + 1, s, q => writeEvents n (eventWrite s q) q

/-- TENANT_RESET. The reset-done bit follows the events: where an event ring is full, a later turn goes on. -/
def execTenantReset (part : Nat) (s : State) : Out :=
  let x := s.part part
  .next <|
    if x.reason = 0 then s
    else
      let s1 := if x.cleared then s else clearPartition s part
      let qs := partQueues s1 part
      let s2 := qs.foldl (fun s q => writeEvents (s.queue q).events.length s q) s1
      if qs.all (fun q => (s2.queue q).events.isEmpty) then
        s2.updPart part (fun y => { y with reason := 0, since := 0, cleared := false, reset := false, rdone := true })
      else s2

/-- UNCORRECTABLE_SHARED_STATE is in Machine/Fleet.lean; PARTITION_RESET: firmware writes the reset bit (R339). -/
def execPartitionReset (part : Nat) (s : State) : Out :=
  .next (dueReset (s.updPart part (fun x => { x with reset := true })) part 4)

end Sys2Proof.Machine
end

