-- ==== Sys2Proof/Machine/Preempt.lean ====
section
/-! DEFINITION. Pre-emption, save and restore (R297 to R305, R233, R250, R251). -/
namespace Sys2Proof.Machine

/-! ## The choice of a cluster (R298, R299) -/

/-- PDEAD and SLICE of a partition in ns (R338). -/
def pdeadNs (s : State) (part : Nat) : Nat :=
  let n := (s.part part).inForce.pdead
  1000 * (if n = 0 then 250 else n)
def sliceNs (s : State) (part : Nat) : Nat :=
  let n := (s.part part).inForce.slice
  1000 * (if n = 0 then 20 else n)

/-- The blocks of a launch that run on a cluster, by block number. -/
def onCluster (s : State) (die cluster tag : Nat) : List (Nat × Block) :=
  (clusterBlocks s die cluster).filter (fun b => b.2.tag == tag && (match b.2.place with | .resident _ => true | _ => false))

/-- The latest projected finish of the blocks, where each has one (R298). -/
def latestFinish : List (Nat × Block) → Option Nat
  | [] => some 0
  | b :: r =>
    match (if b.2.step.opened then b.2.gov.finish else none), latestFinish r with
    | some a, some n => some (max a n)
    | _, _ => none

/-- The bytes of a block's image now. -/
def imageBytes (s : State) (b : Nat × Block) : Nat :=
  imageEnd b.2 (match b.2.onPier with | some p => (ctxEntries s p b.1).length | none => 0) - b.2.image

/-- The save estimate of a cluster in ns is at most `n`: for each pier, 64 bytes in a ns and 2 µs. -/
def saveWithin (s : State) (bs : List (Nat × Block)) (n : Nat) : Bool :=
  bs.all (fun b => ((bs.filter (fun o => o.2.onPier == b.2.onPier)).map (imageBytes s)).foldl (· + ·) (64 * 2000) ≤ 64 * n)

/-- A block is asked to save, by a time (R300); after MOISTURE no context is saved (R353). -/
def askSave (s : State) (b by_ : Nat) (evac : Bool) : State :=
  if s.package.moisture then s
  else s.updBlock b (fun x =>
    match x.place with
    | .resident p => { x with place := .saving p, saveBy := by_, evac := evac, drainBy := 0 }
    | .saving _ => if evac && !x.evac then { x with saveBy := by_, evac := true } else x
    | .nowhere => x
    | .saved => x
    | .retired _ => x)

/-- BLOCK_DISCARD: the block stops, its unstarted jobs and its queued operations go, and when its started jobs are
complete it gives everything up (R299). Its open rounds are dropped with no report (R145). -/
def discardBlock (s : State) (b : Nat) : State :=
  let x := s.block b
  let live := (blockLanes x).filter (fun l => (x.lane l).live)
  let js := s.jobs.filter (fun j => j.blk == some b && j.st != .running)
  let s1 := live.foldl (fun s l => endFibre s b l) s
  let s2 := js.foldl (fun s j =>
    let t := landLines { s with jobs := s.jobs.filter (fun y => y.id != j.id) } j.id j.cleared
    { t with colls := t.colls.map (fun (c : Coll) => { c with jobs := c.jobs.filter (· != j.id) }) }) s1
  let s3 := { s2 with runs := s2.runs.filter (fun r => r.2.blk != b) }
  let s4 := s3.updBlock b (fun y =>
    { y with place := (match y.place with | .resident p => .saving p | q => q), dropping := true,
             mq := [], mqFull := [], cvs := [] })
  let s5 := finishDiscard s4 b
  match x.onPier with | some p => wakeJobSlots s5 p | none => s5

/-- A cluster is pre-empted for a launch: drain, save or discard (R298). Blocks that drain already keep the deadline of
their request. -/
def preemptFor (s : State) (die cluster tag : Nat) : State :=
  let l := s.launch tag
  let bs := (onCluster s die cluster tag).filter (fun b => b.2.drainBy == 0)
  let dl := pdeadNs s l.part
  let drains : Bool := match latestFinish bs with | some n => decide (n ≤ s.now + dl) | none => false
  if bs.isEmpty || l.terminating || !l.used || s.package.moisture then s
  else if l.rec_.coop then
    (s.blocks.filter (fun b => b.2.tag == tag)).foldl (fun s b => askSave s b.1 (s.now + dl) false) s
  else if drains then
    bs.foldl (fun s b => s.updBlock b.1 (fun x => { x with drainBy := s.now + dl })) s
  else if saveWithin s bs dl || !l.rec_.idem then bs.foldl (fun s b => askSave s b.1 (s.now + dl) false) s
  else bs.foldl (fun s b => discardBlock s b.1) s

/-- A dry channel evacuates a cluster: every block on it is saved, with a deadline of 1 ms (R298, R352). A
cooperative launch is saved as a whole. -/
def evacuate (s : State) (die cluster : Nat) : State :=
  let bs := (clusterBlocks s die cluster).filter (fun b => !b.2.dropping && !(s.launch b.2.tag).terminating &&
    !s.frozen (s.launch b.2.tag).part)
  let s1 := bs.foldl (fun s b => askSave s b.1 (s.now + 1000000) true) s
  (bs.filter (fun b => (s.launch b.2.tag).rec_.coop)).foldl (fun s b =>
    (s.blocks.filter (fun o => o.2.tag == b.2.tag)).foldl (fun s o =>
      askSave s o.1 (s.now + pdeadNs s (s.launch o.2.tag).part) false) s) s1

/-- The launches with blocks on a cluster. -/
def clusterTags (s : State) (die cluster : Nat) : List Nat :=
  ((clusterBlocks s die cluster).map (·.2.tag)).eraseDups

/-! ## Whom a pre-emption would serve (R297) -/

/-- A span that waits: its launch and number, its blocks with their span positions, whether it is saved and, then,
whether each block must go on its own position. -/
structure WaitSpan where
  tag   : Nat
  span  : Nat
  blocks : List (Nat × Nat)
  saved : Bool
  fused : Bool
  deriving DecidableEq, Repr

/-- The waiting spans of a launch; of many undispatched ones the first 256, more than any cluster holds. -/
def waitingSpans (s : State) (tag : Nat) : List WaitSpan :=
  let l := s.launch tag
  let n := l.rec_.span
  let olds := (savedSpans s tag).map (fun sp =>
    let bs := savedOf s tag sp
    ({ tag := tag, span := sp, blocks := bs.map (fun b => (b.2.idx, b.2.spos)), saved := true,
       fused := bs.any (fun b => b.2.cfg.set && b.2.cfg.shape != 0) } : WaitSpan))
  let fresh (sp : Nat) (is : List Nat) : WaitSpan :=
    { tag := tag, span := sp, blocks := is.map (fun i => (i, i % n)), saved := false, fused := false }
  let again := ((l.again.map (· / n)).eraseDups).map (fun sp => fresh sp (l.again.filter (fun i => i / n == sp)))
  let next := ((List.range 256).map (l.nextSpan + ·)).filter (· < l.rec_.spans) |>.map (fun sp =>
    fresh sp (((List.range n).map (n * sp + ·)).filter (· ≤ l.rec_.maxBlk)))
  if mayDispatch s tag then olds ++ again ++ next else []

/-- The sets of piers of a cluster that a span may take, by pier number (R213, R304). -/
def spanPlaces (n : Nat) (w : WaitSpan) : List (List Nat) :=
  if w.fused then [w.blocks.map (·.2)]
  else if w.saved then
    ((List.range 256).map (fun c => (List.range w.blocks.length).map (fun i => c / 4 ^ i % 4))).filter (fun l =>
      l.eraseDups.length == l.length)
  else (spanFirsts n).map (fun f => w.blocks.map (fun b => f + b.2))

/-- Put a span's blocks on piers of a cluster that `ok` admits, as far as their resources go: the state, and the piers
taken; none where they do not fit. -/
def putSpan (s : State) (die cluster : Nat) (ok : Nat → Bool) (w : WaitSpan) : Option (State × List Nat) :=
  let l := s.launch w.tag
  let r := l.rec_
  let put (st : State) (i p : Nat) : State :=
    st.setBlock (2 ^ 32 * w.tag + i)
      { tag := w.tag, idx := i, place := .resident p, groups := r.groups, window := r.window, scratchSize := r.scratch,
        accRows := r.accRows }
  (spanPlaces r.span w).findSome? (fun ps =>
    let qs := ps.map (pierAt die cluster)
    if qs.all (fun p => ok p && ownsPier s l.part p && pierFree s p r.groups r.window r.scratch r.accRows) then
      some ((w.blocks.zip qs).foldl (fun st x => put st x.1.1 x.2) s, qs)
    else none)

/-- The piers of a cluster that hold blocks of a launch. -/
def tagPiers (s : State) (die cluster tag : Nat) : List Nat := (onCluster s die cluster tag).filterMap (·.2.onPier)

/-- The state without blocks that a test selects. -/
def without (s : State) (sel : Nat × Block → Bool) : State := { s with blocks := s.blocks.filter (fun b => !sel b) }

/-- The cluster without a launch's blocks. -/
def freed (s : State) (die cluster tag : Nat) : State :=
  without s (fun b => b.2.tag == tag && (match b.2.onPier with | some p => p / 4 == 16 * die + cluster | none => false))

/-! ## The steps -/

/-- A slice has ended: node die, cluster and launch. -/
def endedSlices (s : State) (part : Nat) : List (Nat × Nat × Nat) :=
  (clusters s).flatMap (fun c => ((getCluster s c.1 c.2).slices.filter (fun t =>
    (s.launch t.1).part == part && t.2 + sliceNs s part ≤ s.now && !(onCluster s c.1 c.2 t.1).isEmpty)).map (fun t =>
      (c.1, c.2, t.1)))

def setSlice (s : State) (die c tag : Nat) : State :=
  updCluster s die c (fun x => { x with slices := tins tag s.now x.slices })
def endSlice (s : State) (die c tag : Nat) : State :=
  updCluster s die c (fun x => { x with slices := tdel tag x.slices })

/-- Take the clusters with ended slices in order: `h` holds the blocks as they would stand, and `held` the spans that the
piers freed serve. A launch is pre-empted where a span of another one would go onto a pier that it holds. -/
def takeSlices (part : Nat) : List (Nat × Nat × List Nat) → State → State → List (Nat × Nat) → State
  | [], s, _, _ => s
  | (d, c, ts) :: r, s, h, held =>
    let h1 := ts.foldl (fun x t => freed x d c t) h
    let ok (w : WaitSpan) (p : Nat) : Bool := ts.any (fun t => t != w.tag && (tagPiers h d c t).contains p)
    let need := ((s.launches.filter (fun l => l.2.part == part)).flatMap (fun l => waitingSpans s l.1)).filter
      (fun w => !held.contains (w.tag, w.span))
    let q := need.foldl (fun (a : State × List (WaitSpan × List Nat)) w =>
      match putSpan a.1 d c (ok w) w with | some x => (x.1, a.2 ++ [(w, x.2)]) | none => a) (h1, [])
    let out (t : Nat) : Bool := q.2.any (fun w => w.1.tag != t && w.2.any (fun p => (tagPiers h d c t).contains p))
    let s1 := ts.foldl (fun s t =>
      if out t then endSlice (preemptFor s d c t) d c t else setSlice s d c t) s
    takeSlices part r s1 (if q.2.isEmpty then h else q.1) (held ++ q.2.map (fun w => (w.1.tag, w.1.span)))

/-- The ended slices of each cluster together. -/
def sliceSets (es : List (Nat × Nat × Nat)) : List (Nat × Nat × List Nat) :=
  ((es.map (fun e => (e.1, e.2.1))).eraseDups).map (fun k =>
    (k.1, k.2, (es.filter (fun e => (e.1, e.2.1) == k)).map (·.2.2)))

/-- SLICE_END: the slice ends of one partition that are due are taken as one set (R297). -/
def execSliceEnd (part : Nat) (s : State) : Out :=
  .next (if s.frozen part then s else takeSlices part (sliceSets (endedSlices s part)) s s [])

/-- The priority of a launch's queue (R260). -/
def launchPrio (s : State) (tag : Nat) : Nat := ctlPrio (queueCtl s (s.launch tag).queue)

/-- The state without the blocks that are on their way out. -/
def settled (s : State) : State :=
  without s (fun b => b.2.drainBy != 0 || (match b.2.place with | .saving _ => true | _ => false))

/-- Spans fit on the package's clusters, each where there is room. -/
def spansFit : List WaitSpan → State → Bool
  | [], _ => true
  | w :: r, h =>
    match (clusters h).findSome? (fun c => putSpan h c.1 c.2 (fun _ => true) w) with
    | some x => spansFit r x.1
    | none => false

/-- What must find room at once: a span, or all spans of a cooperative launch (R213, R214). -/
def waitingUnits (s : State) (tag : Nat) : List (List WaitSpan) :=
  let ws := waitingSpans s tag
  if (s.launch tag).rec_.coop then (if ws.isEmpty then [] else [ws]) else ws.map (fun w => [w])

/-- The launches of a partition on each cluster, of a queue of lower priority than `prio`: cluster and launch. -/
def lowerLaunches (s : State) (part prio : Nat) : List (Nat × Nat × Nat) :=
  (clusters s).flatMap (fun c => ((clusterTags s c.1 c.2).filter (fun t =>
    (s.launch t).part == part && prio < launchPrio s t && !(onCluster s c.1 c.2 t).isEmpty)).map (fun t => (c.1, c.2, t)))

/-- Those of some launches whose piers a unit needs: one of them, where one is enough; else a smallest part of them that is
enough, none where all are not (R297; log entry 133). -/
def neededLaunches (h : State) (u : List WaitSpan) (ls : List (Nat × Nat × Nat)) : List (Nat × Nat × Nat) :=
  let without (k : List (Nat × Nat × Nat)) : State := k.foldl (fun x c => freed x c.1 c.2.1 c.2.2) h
  match ls.find? (fun c => spansFit u (without [c])) with
  | some c => [c]
  | none =>
    if !spansFit u (without ls) then []
    else ls.foldl (fun keep c => let k := keep.filter (· != c); if spansFit u (without k) then k else keep) ls

/-- A queue of higher priority needs a launch's piers on a cluster: something of it fits nowhere without them (R297). -/
def priorityNeeds (s : State) (die cluster tag : Nat) : Bool :=
  let l := s.launch tag
  let h := settled s
  (s.launches.filter (fun o => o.1 != tag && o.2.part == l.part && launchPrio s o.1 < launchPrio s tag)).any (fun o =>
    (waitingUnits s o.1).any (fun u =>
      !spansFit u h && (neededLaunches h u (lowerLaunches h l.part (launchPrio s o.1))).contains (die, cluster, tag)))

/-- A launch's blocks stand on piers that its partition is giving up (R344). -/
def shrinkNeeds (s : State) (die cluster tag : Nat) : Bool :=
  (onCluster s die cluster tag).any (fun b =>
    match b.2.onPier with | some p => (s.part (s.launch tag).part).releasing.contains p | none => false)

/-- A cooperative launch no longer fits its partition's piers, or holds piers being given up (R344). -/
def coopDisplaced (s : State) (tag : Nat) : Bool :=
  let l := s.launch tag
  let empty := { s with blocks := s.blocks.filter (fun b => (s.launch b.2.tag).part != l.part) }
  l.rec_.coop && (coopRoom empty tag < l.rec_.spans ||
    s.blocks.any (fun b => b.2.tag == tag && (match b.2.onPier with
      | some p => (s.part l.part).releasing.contains p | none => false)))

/-- PREEMPT_REQUEST: a cluster chooses for each launch that a queue of higher priority, a shrink or a closing zone
displaces; a dry zone's cluster saves everything. A displaced cooperative launch waits for FORCE (R344). -/
def execPreemptRequest (die cluster : Nat) (evac : Bool) (s : State) : Out :=
  let z : Zone := tget {} (s.die die).zones cluster
  .next <|
    if evac then (if z.seqRuns = 1 then evacuate s die cluster else s)
    else (clusterTags s die cluster).foldl (fun s t =>
      let part := (s.launch t).part
      let shrink := shrinkNeeds s die cluster t && (!(s.launch t).rec_.coop || (s.part part).force)
      if !s.frozen part && (z.seqRuns = 2 || shrink || priorityNeeds s die cluster t) then preemptFor s die cluster t
      else s) s

/-- PREEMPT_DEADLINE_EXPIRY: an unfinished drain becomes a save. -/
def execPreemptDeadlineExpiry (die cluster tag : Nat) (s : State) : Out :=
  .next ((onCluster s die cluster tag).foldl (fun s b =>
    if b.2.drainBy != 0 && b.2.drainBy ≤ s.now then askSave s b.1 b.2.drainBy false else s) s)

/-! ## Saving (R300, R233) -/

/-- The block's matrix queue lets it be saved: it is empty or stopped, or its head waits by footprint behind a job that has
not started, and behind no started one (R172, R300, R305; log entry 36). -/
def queueQuiet (s : State) (b : Nat) : Bool :=
  let x := s.block b
  let started (j : Job) : Bool := j.st != .waiting && (j.kind != .chain || j.recLive)
  match x.mq with
  | [] => true
  | o :: _ =>
    let p := (quadPier x).getD 0
    x.mqDead || (!o.started && mopWaits s b p x.cfg o started && !mopWaits s b p x.cfg o (fun j => !started j))

/-- The conditions of R300, steps 1 to 4; a started job of a block of the span that reaches this scratchpad completes too
(R187). -/
def saveReady (s : State) (b p : Nat) : Bool :=
  let x := s.block b
  !s.runs.any (fun r => r.2.blk == b) && !s.lres.any (fun r => r.blk == b) &&
  (blockLanes x).all (fun l => (x.lane l).localOps.isEmpty) &&
  !s.memops.any (fun m => m.blk == b && m.kind != .acq) &&
  !s.jobs.any (fun j => j.st == .running && (j.kind != .chain || j.recLive) && (j.blk == some b || (jobPads s j).contains b)) &&
  queueQuiet s b &&
  (ctxEntries s p b).all (fun e => e.acks == 0 && e.requested == 0)

/-- The words of a context's entries are disowned (R233). -/
def disownEntries (s : State) (p : Nat) (es : List Entry) : State :=
  let ks := es.flatMap (fun e => e.words.map (fun w => e.key s + w))
  let pws := ks.filterMap (fun k => tfind k (s.core p).owned)
  let s1 := { s with dir := s.dir.filter (fun o => !(pws.contains o.1 && o.2 == p)) }
  s1.updCore p (fun c =>
    { c with record := c.record.filter (fun e => !es.any (fun x => x.id == e.id)),
             owned := c.owned.filter (fun o => !pws.contains o.2),
             l1Owned := c.l1Owned.filter (fun k => !ks.contains k) })

/-- A wait that a save ends: the instruction issues again after the restore, and a stepped group has not stepped (R224,
R281, R329). -/
def endPark (g : Group) : Group :=
  match g.park with
  | .presence _ _ => { g with park := .none }
  | .fence _ _ => { g with park := .none, stepped := false }
  | .none | .wmark | .release _ | .recordSpace | .outbox _ | .sealLimit _ => g

/-- The lanes of a block that stand at a translation fence. -/
def fenceLanes (x : Block) : List Nat :=
  x.grps.flatMap (fun g => match g.2.park with | .fence _ m => groupLanes g.1 m | _ => [])

/-- After a save, orreries look whether a phase now waits for saved members alone (R251). -/
def askAll (s : State) (b : Nat) : State :=
  s.dies.foldl (fun st d => d.2.orrery.foldl (fun st e =>
    if e.2.members.any (fun m => m.2.blk == b) then askRestores st d.1 e.1 else st) st) s

/-- CONTEXT_SAVE. -/
def execContextSave (blk : Nat) (s : State) : Out :=
  let x := s.block blk
  .next (match x.place with
    | .saving p =>
      if x.dropping || s.frozen (s.launch x.tag).part || s.package.moisture || !saveReady s blk p then s
      else
        let es := ctxEntries s p blk
        let s1 := disownEntries (writeImage s x es) p es
        let s2 := s1.updBlock blk (fun y0 =>
          let y := overLanes y0 (fenceLanes x) (fun _ l =>
            { l with due := l.due.filter (fun d => d.1 != Code.step) })
          { y with place := .saved, saveBy := 0, evac := false, savedRec := es, savedAt := s.now / 10000 + 1,
                   mq := y.mq.map (fun o => { o with started := false }),
                   grps := y.grps.map (fun g => (g.1, { endPark g.2 with active := false, parkedFor := 0, readyFor := 0 })) })
        wakeJobSlots (askAll s2 blk) p
    | _ => s)

/-- EVACUATION_ABANDON: an evacuation save is unfinished 1 ms after its request (R305). -/
def execEvacuationAbandon (tag : Nat) (s : State) : Out :=
  let late := s.blocks.any (fun b => b.2.tag == tag && b.2.evac && b.2.saveBy ≤ s.now &&
    (match b.2.place with | .saving _ => true | _ => false))
  .next (if late && (s.launch tag).used && !(s.launch tag).terminating then
      report s tag { code := Code.evacuated, deferred := false } else s)

/-! ## Restoring (R304, R305) -/

/-- Reload a context's entries in AGE order onto a core, and request their words (R233). -/
def reloadEntries (s : State) (p : Nat) (es : List Entry) : State :=
  es.foldl (fun s e =>
    let q := claimWords s p e.tag e.chunk e.be [] 0
    s.updCore p (fun c => { c with record := c.record ++ [{ e with acks := 0, grants := q.1, requested := q.2 }] })) s

/-- A phase completed for a lane while its block was saved: it goes on with its predicate (R255). -/
def takeGiven (l : Lane) : Lane :=
  match l.park with
  | .given d v => ({ l with park := .run } : Lane).setPred d v
  | _ => l

/-- Handles that a reclaim made stale while their block was saved: the lanes that waited on them fault (R252). -/
def raiseStale (s : State) (b : Nat) : State :=
  (blockLanes (s.block b)).foldl (fun s l =>
    (s.lane b l).stale.foldl (fun s h =>
      raiseCause (s.updLane b l (fun x => { x with stale := [], park := .run })) b (l / 32)
        { code := Code.sgHandle, pc := h.2, val := BitVec.ofNat 64 h.1, mask := laneMask [l % 32] } h.2) s) s

/-- What counts from the interval in which a block was saved: where it comes back within it, its units and its injected
cycles of that interval stand (R316, R326). -/
def resumeInterval (s : State) (x : Block) : Block :=
  if x.savedAt = s.now / 10000 + 1 then { x with savedAt := 0 }
  else { x with savedAt := 0, injected := 0, step := { x.step with fresh := 0, ahead := 0 } }

/-- A saved block comes back on a pier. The L1 of its new core keeps the words that this core owns alone (R238). The next
entry's AGE is one past the youngest reloaded (R311). -/
def restoreBlock (s : State) (b p : Nat) : State :=
  let x := s.block b
  let es := (List.range x.savedRec.length).filterMap (fun i => (x.savedRec[i]?).map (readEntry s x i))
  let scs := placeGroups s p x.groups
  let y0 := readImage s x
  let grps := ((List.range x.groups).zip scs).map (fun g =>
    (g.1, { x.grp g.1 with sched := g.2, placed := s.seq + g.1 }))
  let y1 := setEvents { resumeInterval s y0 with
                                place := .resident p, savedRec := [], wanted := 0, grps := grps,
                                age := (match es.getLast? with | some e => e.age + 1 | none => x.age) }
  let y := overLanes y1 (blockLanes y1) (fun _ l => takeGiven l)
  let s1 := { s with
    seq := s.seq + x.groups,
    memops := s.memops.map (fun (m : MemOp) => if m.blk == b then { m with core := p } else m),
    jobs := s.jobs.map (fun (j : Job) => if j.blk == some b then { j with pier := p, die := p / 64 } else j) }
  let s2 := reloadEntries ((s1.setBlock b y).updCore p acquireCore) p es
  fillPier (raiseStale (wakeJobSlots (acceptWaiting 64 s2 b) p) b) p

/-- The saved blocks of a span come back on the piers of a cluster. -/
def restoreSpan (s : State) (tag span die cluster first : Nat) : State :=
  let bs := savedOf s tag span
  let s0 := updCluster (startSlice s die cluster tag) die cluster (fun c => { c with st := 0, idle := false })
  ((List.range bs.length).zip bs).foldl (fun s x => restoreBlock s x.2.1 (restorePier die cluster first x.1)) s0

/-- CONTEXT_RESTORE: a saved span comes back, and with it every other of a cooperative launch; an uncorrectable byte of an
image is SAVE_LOST (R305). -/
def execContextRestore (tag span die cluster first : Nat) (s : State) : Out :=
  let l := s.launch tag
  let own := (savedOf s tag span).foldl (fun n (b : Nat × Block) =>
    if b.2.wanted != 0 && (n = 0 || b.2.wanted < n) then b.2.wanted else n) 0
  .next (match restoreAll s tag span die cluster first with
    | none => s
    | some plan =>
      let bs := plan.flatMap (fun q => savedOf s tag q.1)
      let gated := (plan.map (fun q => (q.2.1, q.2.2.1))).filter (fun c => !clusterRuns s c)
      if wantedBefore s l.part (if own = 0 then s.seq else own) then s
      else if !gated.isEmpty then
        (if !l.rec_.coop && (clusters s).any (fun c => clusterRuns s c &&
            (List.range 256).any (restoreFits s tag span c.1 c.2)) then s
         else gated.foldl (fun u c => wakeCluster u c.1 c.2) s)
      else match bs.find? (fun b => imageLost s b.2 b.2.savedRec) with
        | some b => dueReset (report s tag { code := Code.saveLost, deferred := false, block := b.2.idx }) l.part 1
        | none => plan.foldl (fun u q => restoreSpan u tag q.1 q.2.1 q.2.2.1 q.2.2.2) s)

end Sys2Proof.Machine
end

