-- ==== Sys2Proof/Machine/Partition.lean ====
section
/-! DEFINITION. The partition table (R338 to R345), budgets at a period boundary (R343), migration (R286 to R288), page ages (R285), page
responses and invalidations (R270, R271), and the host links (R258). -/
namespace Sys2Proof.Machine

/-! ## Fields of a partition entry (R338, R339) -/

def bitsAt (v lo n : Nat) : Nat := v / 2 ^ lo % 2 ^ n

def setBit256 (m : BitVec 256) (i v : Nat) : BitVec 256 :=
  BitVec.ofNat 256 (m.toNat % 2 ^ (64 * i) + v * 2 ^ (64 * i) + m.toNat / 2 ^ (64 * i + 64) * 2 ^ (64 * i + 64))

/-- The bits of a doubleword of an entry that are reserved. -/
def partReserved (o : Nat) : Nat :=
  if o = 0 then 0xFFFFFF00000FFF02
  else if o = 88 then 0xFFFFFFFFFFFF0000
  else if o = 120 || o = 152 then 0xFFFFFFFF00000000
  else if 160 ≤ o then 0xFFFFFFFFFFFFFFFF
  else 0

/-- A doubleword written at offset `o` of an entry. Of CTL only V and NSID are fields; its other bits act by steps of
their own. -/
def writeField (x : PartFields) (o v : Nat) : PartFields :=
  let y : PartFields :=
    if o = 0 then { x with v := v.testBit 0, nsid := BitVec.ofNat 16 (bitsAt v 24 16) }
    else if o < 40 then { x with piers := setBit256 x.piers ((o - 8) / 8) v }
    else if o = 40 then { x with harts := BitVec.ofNat 64 v }
    else if o = 48 then { x with framesG := bitsAt v 0 32, framesB := bitsAt v 32 32 }
    else if o = 56 then { x with slice := bitsAt v 0 16, pdead := bitsAt v 16 16, slots := bitsAt v 32 8, quota := bitsAt v 40 24 }
    else if o = 64 then { x with saveBase := v }
    else if o = 72 then { x with saveSize := v }
    else if o = 80 then { x with capBase := v }
    else if o = 88 then { x with ways := BitVec.ofNat 16 v }
    else if o < 128 && 96 ≤ o then
      let k := (o - 96) / 4
      let l := (List.range 7).map (fun i => x.limits.getD i 0)
      { x with limits := (l.set k (bitsAt v 0 32)).set (k + 1) (bitsAt v 32 32) }
    else x
  { y with bad := if v &&& partReserved o != 0 then addTo o y.bad else y.bad.filter (· != o) }

/-- Measurement 4 follows the tables (R360). -/
def measureTables (s : State) : State := { s with boot := { s.boot with m4 := tableDigest s.part } }

/-! ## APPLY (R340, R344) -/

/-- A physical range lies in device memory (R275). -/
def inMemory (s : State) (a n : Nat) : Bool :=
  a + n ≤ 2 ^ 46 && dieExists s (a / 2 ^ 41) && (n = 0 || dieExists s ((a + n - 1) / 2 ^ 41))

/-- Piers of an entry: those in force and those still being released. -/
def claimsPier (s : State) (part i : Nat) : Bool :=
  ((s.part part).inForce.v && (s.part part).inForce.piers.getLsbD i) ||
  (s.part part).releasing.contains (256 * s.package.nodePos + i)

/-- A hart that an entry names, or that has not been reset since it named it. -/
def claimsHart (s : State) (part j : Nat) : Bool :=
  let h := s.hart (64 * s.package.nodePos + j)
  ((s.part part).inForce.v && (s.part part).inForce.harts.getLsbD j) || (h.frozen && h.was == part)

/-- The reasons to refuse an APPLY. -/
def applyBad (s : State) (part : Nat) : Bool :=
  let x := s.part part
  let w := x.written
  let others := (s.parts.filter (fun p => p.1 != part)).map (·.1)
  let g := sumOfNat ((s.parts.filter (fun p => p.1 != part && p.2.inForce.v)).map (fun p => p.2.inForce.framesG))
  others.any (fun o =>
    (List.range 256).any (fun i => w.piers.getLsbD i && claimsPier s o i) ||
    (List.range 64).any (fun j => w.harts.getLsbD j && claimsHart s o j)) ||
  w.framesB < w.framesG || Config.packageFrames < g + (if w.v then w.framesG else 0) ||
  w.saveBase % 4096 != 0 || w.saveSize % 4096 != 0 || w.capBase % 4096 != 0 ||
  !inMemory s w.saveBase w.saveSize || !inMemory s w.capBase 16777216 ||
  w.slots < 1 || 128 < w.slots || 4096 * nodeDies s < w.quota || !w.bad.isEmpty || x.shrinking ||
  (!w.v && x.inForce.v && s.launches.any (fun l => l.2.used && l.2.part == part && !l.2.complete))
where
  sumOfNat (l : List Nat) : Nat := l.foldl (· + ·) 0

/-- Pre-empt what a shrink displaces: blocks on piers being given up, and with FORCE the displaced cooperative
launches as wholes (R344, steps 2 and 3). -/
def displace (s : State) (part : Nat) : State :=
  (clusters s).foldl (fun s c =>
    (clusterTags s c.1 c.2).foldl (fun s t =>
      let l := s.launch t
      if l.part != part then s
      else if l.rec_.coop then
        (if (s.part part).force && coopDisplaced s t then preemptFor s c.1 c.2 t else s)
      else if shrinkNeeds s c.1 c.2 t then preemptFor s c.1 c.2 t else s) s) s

/-- A cooperative launch of the partition waits to be displaced. -/
def coopWaits (s : State) (part : Nat) : Bool :=
  s.launches.any (fun l => l.2.used && l.2.part == part && !l.2.complete && l.2.rec_.coop &&
    s.blocks.any (fun b => b.2.tag == l.1 && b.2.onPier.isSome) && coopDisplaced s l.1)

/-- Requests outstanding at a function's reset or reassignment are answered as failed (R271). -/
def failRequests (s : State) (part : Nat) : State :=
  { s with pageReqs := s.pageReqs.filter (fun r => r.part != part) }

/-- APPLY. -/
def execApply (part : Nat) (s : State) : Out :=
  let x := s.part part
  let w := x.written
  let gone := (List.range 256).filter (fun i => x.inForce.v && x.inForce.piers.getLsbD i && !(w.v && w.piers.getLsbD i))
  let lost := (List.range 64).filter (fun j => x.inForce.v && x.inForce.harts.getLsbD j && !(w.v && w.harts.getLsbD j))
  .next <|
    if applyBad s part then s.updPart part (fun y => { y with cfgErr := true })
    else
      let rel := gone.map (256 * s.package.nodePos + ·)
      let s1 := updSettled s part (fun y =>
        { y with inForce := w, releasing := rel, shrinking := !rel.isEmpty,
                 gen := if x.inForce.v && !w.v then y.gen + 1 else y.gen })
      let s2 := lost.foldl (fun s j =>
        let h := 64 * s.package.nodePos + j
        resetFrozen (s.setHart h { s.hart h with frozen := true, was := part }) (2048 + h)) s1
      let s3 := displace s2 part
      measureTables (if x.inForce.v && !w.v then failRequests s3 part else s3)

/-- FORCE: it acts at once on a shrink that waits (R339, R344). -/
def execForce (part : Nat) (on : Bool) (s : State) : Out :=
  let s1 := s.updPart part (fun y => { y with force := on })
  .next (if on && (s.part part).shrinking then displace s1 part else s1)

/-- CFGERR_CLEAR. -/
def execCfgerrClear (part : Nat) (s : State) : Out := .next (s.updPart part (fun y => { y with cfgErr := false }))
/-- RDONE_CLEAR. -/
def execRdoneClear (part : Nat) (s : State) : Out := .next (s.updPart part (fun y => { y with rdone := false }))

/-- PIER_RELEASE: nothing of the partition is resident on a removed pier and its record is empty; its L1s are
invalidated, and it owns nothing any more (R344, step 4). What a block held on the pier went with the block: nothing of
the registers, the scratchpad, the accumulators and the planes is left to be cleared. SHRINKING clears with the last one,
unless a cooperative launch still waits. -/
def execPierRelease (pier : Nat) (s : State) : Out :=
  .next (match s.parts.find? (fun p => p.2.releasing.contains pier) with
    | none => s
    | some (k, _) =>
      let busy := s.blocks.any (fun b => b.2.onPier == some pier || quadPier b.2 == some pier)
      if busy || !(s.core pier).record.isEmpty || coopWaits s k then s
      else
        let s1 := s.updCore pier (fun c =>
          { c with l1 := [], l1Owned := [], l1i := [], strm := [], owned := [],
                   fills := c.fills.map (fun (f : Fill) => { f with dropped := true }) })
        { s1 with dir := s1.dir.filter (fun o => o.2 != pier) }.updPart k (fun y =>
          let r := y.releasing.filter (· != pier)
          { y with releasing := r, shrinking := !r.isEmpty }))

/-! ## Budgets at a period boundary (R343) -/

/-- BUDGET_PERIOD: the boundaries of 10,000 ns that have come are settled for every partition. -/
def execBudgetPeriod (s : State) : Out :=
  .next (if s.period < s.now / 10000 then
    measureTables { s with period := s.now / 10000, parts := s.parts.map (fun p => (p.1, settledPart s p.1)) }
  else s)

/-! ## Names of parts -/

def dieOf (s : State) (d : Nat) : Nat := nodeDie s d

def updZone (s : State) (d z : Nat) (g : Zone → Zone) : State :=
  s.updDie d (fun x => { x with zones := tput {} x.zones z (g (tget {} x.zones z)) })

/-! ## Migration (R286 to R288) -/

def migBytes (size : Nat) : Nat := match size with | 0 => 2 ^ 16 | 1 => 2 ^ 21 | _ => 2 ^ 30

/-- MIGRATION_GO. What it copies is settled here: later writes of the block's registers do not touch a copy that runs. -/
def execMigrationGo (die : Nat) (s : State) : Out :=
  let m := (s.die die).mig
  let n := migBytes m.size
  let a := m.src.toNat
  let b := m.dst.toNat
  let bad := m.busy || m.size == 3 || a % n != 0 || b % n != 0 || a / 2 ^ 41 != die || b / 2 ^ 41 != die
  .next (s.updDie die (fun x =>
    { x with mig := if bad then { m with refused := true }
                    else { m with refused := false, poisoned := false, busy := true, run := (a, b, m.size) } }))

/-- Physical words of a range that have an owner. -/
def ownedIn (s : State) (a n : Nat) : List Nat :=
  (s.dir.filter (fun o => a / 4 ≤ o.1 && o.1 < (a + n) / 4)).map (·.1)

/-- Poisoned 64-B chunks of a range of whole frames, as offsets. -/
def poisonIn (s : State) (a n : Nat) : List Nat :=
  (s.memPoison.filter (fun c => a / 64 ≤ c && c < (a + n) / 64)).map (· - a / 64) ++
  (if s.memLinks.isEmpty then [] else
    (List.range (n / 65536)).flatMap (fun i =>
      if frameLost s (a + 65536 * i) then (List.range 1024).map (1024 * i + ·) else []))

/-- Copy `n` bytes of whole frames from `a` to `b`, poison with them. -/
def copyFrames (s : State) (a b n : Nat) : State :=
  let cells := s.mem.filter (fun c => a ≤ c.1 && c.1 < a + n)
  let rest := s.mem.filter (fun c => c.1 < b || b + n ≤ c.1)
  { dropRange s b n with
    mem := cells.foldl (fun m c => wrByte m (b + (c.1 - a)) c.2) rest,
    memPoison := s.memPoison.filter (fun c => c < b / 64 || (b + n) / 64 ≤ c) ++ (poisonIn s a n).map (b / 64 + ·) }

/-- MIGRATION_COMPLETE: owners' bytes are drained first, then the copy ends. -/
def execMigrationComplete (die : Nat) (s : State) : Out :=
  let m := (s.die die).mig
  let n := migBytes m.run.2.2
  let a := m.run.1
  let b := m.run.2.1
  .next <|
    if !m.busy then s
    else
      let t := clearOwners s (ownedIn s a n ++ ownedIn s b n)
      (copyFrames t a b n).updDie die (fun x =>
        { x with mig := { m with busy := false, poisoned := !(poisonIn t a n).isEmpty } })

/-! ## Pages -/

/-- PAGE_AGE_UPDATE: another millisecond has passed; each resident page's U is read and cleared (R285). A U bit that is on
its way is set first, and what a core has of the entry's word drains or is ceded. -/
def execPageAgeUpdate (part : Nat) (s : State) : Out :=
  let x := s.part part
  let ls : List (Nat × Leaf) := partLeaves s part
  let s0 := ls.foldl (fun t (l : Nat × Leaf) => clearOwners (useMark t l.2.addr) [l.2.addr / 4]) s
  let used (l : Leaf) : Bool := (rdByte s0.mem (l.addr + 1)).getLsbD 1
  .next <|
    if s.now / 1000000 ≤ x.ageAt then s
    else
      let s1 := ls.foldl (fun (t : State) (l : Nat × Leaf) =>
        homeWrite t (l.2.addr + 1) [rdByte t.mem (l.2.addr + 1) &&& 0xFD]) s0
      s1.updPart part (fun y =>
        { y with ageAt := y.ageAt + 1,
                 ages := ls.foldl (fun (t : Tbl Nat) (l : Nat × Leaf) =>
                   tput 0 t l.1 (if used l.2 then 0 else min (tget 0 y.ages l.1 + 1) 255)) [] })

/-- A launch that is being made resident names a host page in its leases (R270, R282). -/
def pageNeeded (l : Launch) (page : Nat) : Bool :=
  l.used && l.started && !l.pinned && !l.complete && !l.terminating &&
  (l.rec_.leases.take l.rec_.nLease).any (fun r =>
    windowOf r.1 == .host && ptrOff56 r.1 / 4096 ≤ page && page ≤ (ptrOff56 r.1 + r.2 - 1) / 4096)

/-- The device asks the host for a page of a launch, with the function's generation in its page request group index
(R271). -/
def pageRequest (tag page : Nat) (s : State) : State :=
  let l := s.launch tag
  let r : PageReq := { part := l.part, gen := (s.part l.part).gen, space := l.pasid, page := page }
  if !pageNeeded l page || s.hostPages.contains (l.pasid * 2 ^ 44 + page) || s.pageReqs.contains r ||
     !ifaceUp s l.iface then s
  else { s with pageReqs := s.pageReqs ++ [r] }

/-- PAGE_REQUEST_RESPONSE: a stale generation is dropped and counted (R271). -/
def execPageRequestResponse (part : Nat) (gen : BitVec 4) (pasid page : Nat) (ok : Bool) (s : State) : Out :=
  .next <|
    if gen != (s.part part).gen then s.updPart part (fun y => { y with stale := y.stale + 1 })
    else
      match s.pageReqs.find? (fun r => r.part == part && r.gen == gen && r.space % 2 ^ 20 == pasid && r.page == page) with
      | none => s
      | some r =>
        { s with pageReqs := s.pageReqs.filter (· != r),
                 hostPages := if ok then addTo (r.space * 2 ^ 44 + page) s.hostPages else s.hostPages }

/-- The host answers an ATS request: the page of a space translates (R270). -/
def atsAnswer (space page : Nat) (s : State) : State :=
  { s with hostPages := addTo (space * 2 ^ 44 + page) s.hostPages }

/-- HOST_INVALIDATION of a page of a space, whose PASID is in bits 19:0 and whose function stands above them, 0 for a
physical one (`hostSpace`): it is completed at once (R270). -/
def execHostInvalidation (pasid page : Nat) (s : State) : Out :=
  .next { s with hostPages := s.hostPages.filter (· != pasid * 2 ^ 44 + page) }

/-! ## Host links (R258) -/

/-- The queues of the interfaces on a link. -/
def linkQueues (s : State) (link : Nat) : List Nat :=
  (List.range 4096).filter (fun q =>
    ctlState (queueCtl s q) != 0 && (s.iface (ctlIface (queueCtl s q))).link == link)

/-- HOST_LINK_DOWN: the next event of each queue of the link's interfaces carries LINKDOWN. -/
def execHostLinkDown (link : Nat) (s : State) : Out :=
  let s1 := { s with linkUp := s.linkUp &&& ~~~(BitVec.ofNat 2 (2 ^ link)) }
  .next ((linkQueues s link).foldl (fun s q => s.updQueue q (fun x => { x with linkDown := true })) s1)

/-- HOST_LINK_TRAINED. -/
def execHostLinkTrained (link : Nat) (s : State) : Out :=
  .next { s with linkUp := s.linkUp ||| BitVec.ofNat 2 (2 ^ link) }

end Sys2Proof.Machine
end

