-- ==== Sys2Proof/Machine/Governor.lean ====
section
/-! DEFINITION. The transit governor (R312 to R328): steps, cadences, permits, risk decisions, canaries, the current
limiter and power gating. -/
namespace Sys2Proof.Machine

/-- The clock of a step in hundredths of a cycle in a ns (R312). -/
def stepClock (n : Nat) : Nat := [42, 63, 84, 105, 120, 135].getD n 105

/-- The supply applied to a die, in quarters of a mV: the base, 0.65 V or 0.75 V, and the offset's steps of 6.25 mV, never
above 0.85 V (R312, R314). -/
def supplyOf (d : Die) : Nat := min 3400 ((if d.supHi then 3000 else 2600) + 25 * d.offset)

/-! ## Measuring and projecting (R316, R326, R327) -/

/-- A step's projection: what is left, and the interval in which R was measured. Its finish lies
left × (c0 × (cycles − injected) + injected × c) / (units × f(s) × c0) ns ahead: f0 times the interval's length is the
interval's cycles, so that the length cancels. -/
structure Proj where
  left   : Nat
  units  : Nat
  cycles : Nat
  inj    : Nat
  c0     : Nat
  deriving DecidableEq, Repr

def Proj.num (p : Proj) (c : Nat) : Nat := p.left * (p.c0 * (p.cycles - p.inj) + p.inj * c)
def Proj.den (p : Proj) (st : Nat) : Nat := p.units * stepClock st * p.c0

/-- The projection that a block's step has. -/
def projOf (x : Block) : Option Proj :=
  let done := x.step.done - x.step.ahead
  if x.step.opened && done < x.step.total && x.gov.known then
    some { left := x.step.total - done, units := x.gov.units, cycles := x.gov.cycles,
           inj := min x.gov.inj x.gov.cycles, c0 := x.gov.c0 }
  else none

/-- finish(s, c) is at most now + 0.95 × (DEADLINE − now) (R316, steps 4 and 5). -/
def meets (p : Proj) (deadline now st c : Nat) : Bool :=
  20 * p.num c + 19 * now * p.den st ≤ 19 * deadline * p.den st

/-- The step a block requires. -/
def needStep (now : Nat) (x : Block) : Nat :=
  match projOf x with
  | none => 3
  | some p => ((List.range 6).find? (fun st => meets p x.step.deadline now st 1)).getD 5

/-- The cadence a block's requirement gives at a step. -/
def needCadence (now st : Nat) (x : Block) : Nat :=
  match projOf x with
  | none => 1
  | some p => (((List.range 17).drop 1).reverse.find? (fun c => meets p x.step.deadline now st c)).getD 1

/-- The chosen cadence of quadrant `q` of a cluster. -/
def Cluster.cad (c : Cluster) (q : Nat) : Nat :=
  match q with | 0 => c.cad0 | 1 => c.cad1 | 2 => c.cad2 | _ => c.cad3

/-- What the interval just ended brought a block (R316, step 1). -/
def measure (s : State) (x : Block) : Block :=
  match x.onPier with
  | none => x
  | some p =>
    let y := { x with injected := 0, step := { x.step with fresh := 0 }, gov := { x.gov with finish := none } }
    if !x.step.opened || x.step.fresh = 0 then y
    else
      { y with gov := { known := true, units := x.step.fresh, inj := x.injected,
                        cycles := max 1 ((s.pier p).cycles - (s.pier p).cycAt), c0 := (clusterAt s p).cad (p % 4),
                        finish := none } }

/-- The interval's units that counted at no boundary yet count at the next (R325). -/
def countAhead (x : Block) : Block := { x with step := { x.step with fresh := x.step.ahead, ahead := 0 } }

/-! ## Combining (R317 to R319) -/

/-- The slack of a claim as a fraction: DEADLINE − finish(N, 1), 0 for a block without a projection. -/
def claimSlack (now : Nat) (x : Block) : Int × Nat :=
  match projOf x with
  | none => (0, 1)
  | some p => (((x.step.deadline : Int) - now) * p.den 3 - p.num 1, p.den 3)

def fracLess (a b : Int × Nat) : Bool := a.1 * b.2 < b.1 * a.2

def leastSlack (now : Nat) (bs : List Block) : Int × Nat :=
  match bs with
  | [] => (0, 1)
  | b :: r => r.foldl (fun m x => if fracLess (claimSlack now x) m then claimSlack now x else m) (claimSlack now b)

/-- An evacuation or moisture holds a cluster at E3 with cadence 16 (R352, R353). -/
def overridden (s : State) (die c : Nat) : Bool :=
  (tget ({} : Zone) (s.die die).zones c).seqRuns != 0 || s.package.moisture

/-- The step a cluster wants, capped (R317). -/
def cappedWant (s : State) (die c : Nat) : Nat :=
  let bs := (clusterBlocks s die c).map (·.2)
  let want := bs.foldl (fun n x => max n (needStep s.now x)) 0
  if overridden s die c then 0
  else min want (min (s.die die).stepCap (tget ({} : Zone) (s.die die).zones c).capNow)

/-- Claims in rank order: ascending slack, the lower cluster on a tie (R319). -/
def rankClaims (l : List (Nat × (Int × Nat))) : List Nat :=
  (l.foldl (fun (acc : List (Nat × (Int × Nat))) x =>
    acc.takeWhile (fun y => !fracLess x.2 y.2) ++ [x] ++ acc.dropWhile (fun y => !fracLess x.2 y.2)) []).map (·.1)

/-- What is granted: the step and whether it is the uncharged B1 of a fall; and the pool left. A cluster whose B2 ends by
STEPCAP falls directly (R325). -/
def grantClaim (want held stepCap : Nat) (pool : Nat) : (Nat × Bool) × Nat :=
  if want = 5 && 2 ≤ pool then ((5, false), pool - 2)
  else if 1 ≤ pool then ((4, false), pool - 1)
  else if held = 2 && 5 ≤ stepCap then ((4, true), pool)
  else ((3, false), pool)

/-- The grants of a boundary, by cluster, and the pool that they leave. -/
def grants (s : State) (die : Nat) : Tbl (Nat × Bool) × Nat :=
  let want (c : Nat) : Nat := cappedWant s die c
  let claims := ((List.range 16).filter (fun c => 4 ≤ want c)).map (fun c =>
    (c, leastSlack s.now ((clusterBlocks s die c).map (·.2))))
  let base : Tbl (Nat × Bool) := (List.range 16).map (fun c => (c, (want c, false)))
  (rankClaims claims).foldl (fun acc c =>
    let g := grantClaim (want c) (getCluster s die c).held (s.die die).stepCap acc.2
    (tins c g.1 acc.1, g.2)) (base, (s.die die).pool)

/-! ## Slack and risk (R316 step 6, R318) -/

/-- DEADLINE − finish in whole ns: which of the two neighbours of a fraction is open (log entry 40). -/
def slackOf (deadline now num den : Nat) (bit : Bool) : Int :=
  let v := ((deadline : Int) - now) * den - num
  let q := Int.fdiv v den
  if Int.fmod v den = 0 || !bit then q else q + 1

/-- DEADLINE_RISK_DECISION for a block. -/
def decideRisk (s : State) (die b : Nat) (late : Nat) : State :=
  let x := s.block b
  let l := s.launch x.tag
  let s1 := s.updDie die (fun d =>
    { d with risk := true, riskCnt := d.riskCnt + 1, irqs := if d.riskIe then d.irqs + 1 else d.irqs })
  let s2 := pushEvent s1 l.queue
    { kind := 3, status := 0, rseq := l.seq, tag := x.tag, fcode := l.first, fsum := fsumOf l, irq := false }
  s2.updBlock b (fun y =>
    { y with step := { y.step with atRisk := true },
             risk := if l.rec_.handler = 0 then y.risk else y.risk ++ [BitVec.ofNat 64 late] })

/-- SLACK, the projected finish and the risk of a block at the setting its cluster is given; an overridden cluster holds
cadence 16. How SLACK and the projected lateness round is open (log entry 40). -/
def project (s : State) (die c b st cad : Nat) : State :=
  let x := s.block b
  match projOf x with
  | none => s
  | some p =>
    let d := s.drawFree
    let den := p.den st
    let s1 := d.2.updBlock b (fun y =>
      { y with slack := BitVec.ofInt 64 (slackOf x.step.deadline s.now (p.num cad) den (d.1.getLsbD 0)),
               gov := { y.gov with finish := some (s.now + (p.num cad + den - 1) / den) } })
    let ends := s.now * den + p.num (if overridden s die c then 16 else 1)
    if ends ≤ x.step.deadline * den || x.step.atRisk then s1
    else decideRisk s1 die b ((ends - x.step.deadline * den + if d.1.getLsbD 1 then den - 1 else 0) / den)

/-! ## The boundary -/

/-- The cluster as a boundary leaves it. -/
def setCluster (s : State) (die c : Nat) (g : Nat × Bool) (rise : Bool) (x : Cluster) : Cluster :=
  let cad (q : Nat) : Nat :=
    match quadHolder s (pierAt die c q) with
    | some b => if overridden s die c || (s.block b).onPier.isNone then 16 else needCadence s.now g.1 (s.block b)
    | none => 16
  let empty := (clusterBlocks s die c).isEmpty
  { x with step := g.1, held := if 4 ≤ g.1 then g.1 - 3 else 0, fall := g.2, boosted := 4 ≤ g.1,
           clk := if rise && 4 ≤ g.1 && x.clk < 4 then x.clk else g.1,
           cad0 := cad 0, cad1 := cad 1, cad2 := cad 2, cad3 := cad 3,
           st := if (s.die die).gateEn && x.st = 0 && x.idle && empty then 1 else x.st,
           idle := empty }

/-- The blocks resident on a die. -/
def dieBlocks (s : State) (die : Nat) : List (Nat × Block) :=
  s.blocks.filter (fun b => match b.2.onPier with | some p => p / 64 == die | none => false)

/-- GOVERNOR_INTERVAL: a boundary of 10 µs that the governor has not handled has come. GOVCTL as written takes effect
first (R321). -/
def execGovernorInterval (die : Nat) (s : State) : Out :=
  let d0 := s.die die
  .next <|
    if s.now / 10000 ≤ d0.boundary then s
    else
      let s1 := s.updDie die (fun d => { d with riskIe := d.riskIeW, gateEn := d.gateEnW, stepCap := d.stepCapW, boundary := s.now / 10000 })
      let s2 := (dieBlocks s1 die).foldl (fun st b => st.setBlock b.1 (measure s b.2)) s1
      let g := grants s2 die
      let step (c : Nat) : Nat × Bool := tget (0, false) g.1 c
      let hi := (List.range 16).any (fun c => 4 ≤ (step c).1)
      let washeld := (List.range 16).any (fun c => (getCluster s2 die c).boosted)
      let rise := hi && !d0.supHi
      let s3 := (List.range 16).foldl (fun st c => updCluster st die c (setCluster s2 die c (step c) rise)) s2
      let s4 := s3.updDie die (fun d =>
        { d with pool := if washeld || hi then g.2 else min 64 (g.2 + 2), supHi := hi,
                 settleAt := if rise then s.now + 4000 else if hi then d.settleAt else 0 })
      let s5 := (dieBlocks s4 die).foldl (fun st b =>
        match b.2.onPier with
        | none => st
        | some p => project st die (clusterOf p) b.1 (step (clusterOf p)).1
            ((tget ({} : Cluster) (st.die die).clusters (clusterOf p)).cad (p % 4))) s4
      let s6 := (dieBlocks s5 die).foldl (fun st b => st.updBlock b.1 countAhead) s5
      (List.range 64).foldl (fun st i => st.updPier (64 * die + i) (fun x => { x with cycAt := x.cycles })) s6

/-! ## Supply, canaries and the limiter (R313 to R315) -/

/-- SUPPLY_SETTLED: the clusters waiting for the supply take their clock, at most 4 µs after the boundary. -/
def execSupplySettled (die : Nat) (s : State) : Out :=
  .next (if (s.die die).settleAt = 0 then s else
    s.updDie die (fun d =>
      { d with settleAt := 0, clusters := d.clusters.map (fun c => (c.1, { c.2 with clk := c.2.step })) }))

/-- CANARY_WARNING. -/
def execCanaryWarning (die : Nat) (s : State) : Out :=
  .next (s.updDie die (fun d => { d with canary := true, offset := min 8 (d.offset + 1), decayAt := s.now + 1000000 }))

/-- CANARY_DECAY: a millisecond has passed without a warning. -/
def execCanaryDecay (die : Nat) (s : State) : Out :=
  .next (s.updDie die (fun d =>
    if d.offset = 0 || s.now < d.decayAt then d else { d with offset := d.offset - 1, decayAt := d.decayAt + 1000000 }))

/-- DROOP_WARNING: the limiter holds CADENCE at 16 until 2 µs have passed without another. -/
def execDroopWarning (die cluster : Nat) (s : State) : Out :=
  .next (updCluster s die cluster (fun c => { c with limit := s.now + 2000 }))

/-- LIMITER_RESTORE. -/
def execLimiterRestore (die cluster : Nat) (s : State) : Out :=
  .next (updCluster s die cluster (fun c => if c.limit ≤ s.now then { c with limit := 0 } else c))

/-- GOVSTAT_RISK_CLEAR. -/
def execGovstatRiskClear (die : Nat) (s : State) : Out := .next (s.updDie die (fun d => { d with risk := false }))
/-- GOVSTAT_CANARY_CLEAR. -/
def execGovstatCanaryClear (die : Nat) (s : State) : Out := .next (s.updDie die (fun d => { d with canary := false }))

/-! ## Power gating (R320, R309) -/

/-- A pier loses power: its caches were clean, and every word of them is invalid. Its records and the ownership at
the homes are untouched. -/
def dropCaches (s : State) (p : Nat) : State :=
  (s.updCore p (fun c =>
    { c with l1 := [], l1Owned := [], l1i := [], strm := [], fills := c.fills.map (fun (f : Fill) => { f with dropped := true }) })).updPier p
    (fun x => { x with slice := [] })

/-- A priming attempt begins: the valve is closed for 50 ms (R352, step 4). -/
def primeZone (s : State) (z : Zone) : Zone :=
  { z with st := 1, tries := z.tries + 1, valve := 0, opened := false, phaseEnd := s.now + 50000000, seqRuns := 0 }

/-- Steps 1 to 3 of a zone's sequence are complete: a dry zone primes, a closing one is closed (R352). After MOISTURE the
valve stays where it stands (R354). -/
def afterGate (s : State) (die z : Nat) : State :=
  if s.package.moisture then s
  else updZone s die z (fun y =>
    if y.seqRuns = 1 then primeZone s { y with tries := 0 }
    else if y.seqRuns = 2 then { y with st := 4, valve := 0, seqRuns := 0 } else y)

/-- GATE_COMMIT: nothing is resident or streaming on the cluster, and its four records are empty. A zone's sequence
gates its cluster whatever GATEEN holds (R352, step 3). -/
def execGateCommit (die cluster : Nat) (s : State) : Out :=
  let ps := (List.range 4).map (pierAt die cluster)
  let busy := !(clusterBlocks s die cluster).isEmpty || ps.any (fun p => !(s.core p).record.isEmpty || (quadHolder s p).isSome)
  let asked := (getCluster s die cluster).st = 1 ||
    ((getCluster s die cluster).st = 0 && (tget ({} : Zone) (s.die die).zones cluster).seqRuns != 0)
  .next <|
    if !asked || busy then s
    else afterGate (updCluster (ps.foldl dropCaches s) die cluster (fun c => { c with st := 2 })) die cluster

/-- CLUSTER_WAKE: the 2 µs of a wake have passed; the cluster starts at E3, and takes the dispatch that waits. -/
def execClusterWake (die cluster : Nat) (s : State) : Out :=
  .next (updCluster s die cluster (fun c =>
    if c.st = 3 && c.wakeAt ≤ s.now then { c with st := 0, step := 0, clk := 0, held := 0, fall := false, idle := false } else c))

end Sys2Proof.Machine
end

