-- ==== Sys2Proof/Machine/Coolant.lean ====
section
/-! DEFINITION. Coolant allocation, zones, their traps and sequences, and moisture (R346 to R354), with the fleet alarm
that a zone raises (R358). -/
namespace Sys2Proof.Machine

/-! ## Alarms and allocation -/

/-- FLEET_ALARM: sent as a platform event and latched; with the latch full it is counted (R358). -/
def raiseAlarm (s : State) (die : Nat) (at_ : AlarmAt) (cause : AlarmCause) : State :=
  let a : Alarm := { pkgid := s.package.pkgid, die := die, place := at_, cause := cause }
  let s1 := { s with sent := s.sent ++ [Response.event a] }
  if s.latch.length < Config.latchSize then { s1 with latch := s1.latch ++ [a] } else { s1 with latchLost := s1.latchLost + 1 }

def setCerr (s : State) : State := { s with package := { s.package with cerr := true } }

/-- CALLOC_WRITE: refused where the SHAREs would sum above 1,024; else in effect at the next boundary (R347). -/
def execCallocWrite (part : Nat) (value : Dword) (s : State) : Out :=
  let share := bitsAt value.toNat 0 11
  let sum := (List.range 64).foldl (fun n p => n + (if p = part then share else (s.part p).shareW)) 0
  .next (if 1024 < sum then setCerr s
         else updSettled s part (fun x => { x with shareW := share, maxHeatW := bitsAt value.toNat 11 2 }))

/-! ## Readings and conditions (R349 to R351) -/

def getZone (s : State) (die z : Nat) : Zone := tget {} (s.die die).zones z

/-- The flow that a cluster zone's valve must give: the allocations of the partitions with a block on it (R350). -/
def flowWanted (s : State) (die z : Nat) : Nat :=
  let ps := ((clusterBlocks s die z).map (fun b => (s.launch b.2.tag).part)).eraseDups
  ps.foldl (fun n p => n + coolShare s p die z) 0

/-- The condition of a trap: 0 OUTLET_HIGH, 1 DP_LOW, 2 DP_HIGH, 3 FLOW_LOW (R351). -/
def trapHolds (s : State) (die z bit : Nat) : Bool :=
  let y := getZone s die z
  match bit with
  | 0 => y.tLim.toInt < y.temp.toInt
  | 1 => y.dp < y.dpMin
  | 2 => y.dpMax < y.dp
  | _ => y.st = 0 && 4 * y.flow < 3 * (if z < 16 then flowWanted s die z else 0)

/-- Note since when each condition holds, as the time plus 1. -/
def watchZone (s : State) (die z : Nat) : State :=
  let since (t : Tbl Nat) (b : Nat) : Nat := if !trapHolds s die z b then 0 else if tget 0 t b = 0 then s.now + 1 else tget 0 t b
  updZone s die z (fun y => { y with since := (List.range 4).foldl (fun (t : Tbl Nat) b => tput 0 t b (since y.since b)) [] })

/-- The dry condition: WET, a low DP, and TEMP rising faster than SLOPE between the last readings (R352). -/
def dryHolds (y : Zone) : Bool := y.st = 0 && y.dp < y.dpMin && (y.slope : Int) * y.riseNs < y.rise * 1000000

/-- Note since when the dry condition holds, as the time plus 1. -/
def watchDry (s : State) (die z : Nat) : State :=
  updZone s die z (fun y => { y with drySince := if !dryHolds y then 0 else if y.drySince = 0 then s.now + 1 else y.drySince })

/-- Note since when each condition of a zone holds. -/
def watchAll (s : State) (die z : Nat) : State := watchDry (watchZone s die z) die z

/-- A zone's sensors are read. -/
def sense (s : State) (die z : Nat) (temp : BitVec 16) (dp flow : Nat) : State :=
  watchAll (updZone s die z (fun y =>
    let dt := s.now - y.lastAt
    { y with temp := temp, dp := dp, flow := flow, lastTemp := temp, lastAt := s.now,
             rise := if dt = 0 then y.rise else temp.toInt - y.lastTemp.toInt,
             riseNs := if dt = 0 then y.riseNs else dt })) die z

/-- The position of a WET zone's valve (R350); a DP_HIGH trap holds it at 15 (R351). -/
def valveOf (s : State) (die z : Nat) (y : Zone) : Nat :=
  if y.man then y.vpos
  else if 16 ≤ z || y.trap.getLsbD 2 then 15
  else (((List.range 16).drop 2).find? (fun v => flowWanted s die z ≤ Config.flowAt die z v)).getD 15

/-- CAP and HEATOK from TEMP (R349). -/
def capOf (y : Zone) : Nat :=
  let k := Int.fdiv (y.tLim.toInt - y.temp.toInt) 32 - 1
  if k < 0 then 0 else if 5 < k then 5 else k.toNat
def heatOkOf (cap : Nat) : Nat := if cap = 5 then 3 else if 3 ≤ cap then 2 else if 1 ≤ cap then 1 else 0

/-- ZONE_BOUNDARY: a boundary of 10 µs that the zone has not handled has come. -/
def execZoneBoundary (die zone : Nat) (s : State) : Out :=
  .next <|
    if s.now / 10000 ≤ (getZone s die zone).boundary then s
    else watchZone (updZone s die zone (fun y =>
      { y with boundary := s.now / 10000, cap := capOf y, heatOk := heatOkOf (capOf y),
               valve := if y.st = 0 then valveOf s die zone y else y.valve })) die zone

/-- ZONE_TRAP: a condition has held for 100 µs. -/
def execZoneTrap (die zone bit : Nat) (s : State) : Out :=
  let y := getZone s die zone
  let t := tget 0 y.since bit
  .next <|
    if t = 0 || s.now < t - 1 + 100000 || y.trap.getLsbD bit || !trapHolds s die zone bit then s
    else
      let s1 := (updZone s die zone (fun y =>
        { y with trap := y.trap ||| BitVec.ofNat 4 (2 ^ bit), alarm := y.alarm || 2 ≤ bit,
                 valve := if bit = 2 && !y.man then 15 else y.valve })).updDie die (fun d => { d with irqs := d.irqs + 1 })
      if bit = 2 then raiseAlarm s1 die (.zone zone) .dpHigh
      else if bit = 3 then raiseAlarm s1 die (.zone zone) .flowLow else s1

/-! ## Zone states (R352) -/

/-- Step 1: E3 and cadence 16, at once. The boost state as of the last boundary stands until the next (R203). -/
def slowCluster (s : State) (die c : Nat) : State :=
  updCluster s die c (fun x =>
    { x with step := 0, clk := 0, cad0 := 16, cad1 := 16, cad2 := 16, cad3 := 16 })

/-- A cluster that is gated already has nothing to save. -/
def gatedNow (s : State) (die c : Nat) : Bool := (getCluster s die c).st = 2

/-- ZONE_DRY: the dry condition has held for 2 ms. A periphery zone primes at once. -/
def execZoneDry (die zone : Nat) (s : State) : Out :=
  let y := getZone s die zone
  .next <|
    if y.st != 0 || y.drySince = 0 || s.now < y.drySince - 1 + 2000000 || !dryHolds y then s
    else
      let s1 := updZone s die zone (fun y => { y with st := 2, tries := 0, seqRuns := 1, drySince := 0 })
      if 16 ≤ zone then afterGate s1 die zone
      else
        let s2 := evacuate (slowCluster s1 die zone) die zone
        if gatedNow s2 die zone then afterGate s2 die zone else s2

/-- PRIMING_STEP: a valve phase ends; after the open one the check runs. -/
def execPrimingStep (die zone : Nat) (s : State) : Out :=
  let y := getZone s die zone
  .next <|
    if y.st != 1 || s.now < y.phaseEnd || s.package.moisture then s
    else if !y.opened then
      updZone s die zone (fun y => { y with opened := true, valve := 15, phaseEnd := s.now + 200000000 })
    else if y.dpMin ≤ y.dp && y.dp ≤ y.dpMax then
      updZone s die zone (fun y => { y with st := 0, valve := valveOf s die zone y, phaseEnd := 0, opened := false })
    else if 3 ≤ y.tries then
      raiseAlarm (updZone s die zone (fun y => { y with st := 3, alarm := true, phaseEnd := 0, opened := false })) die
        (.zone zone) .primingFailed
    else updZone s die zone (primeZone s)

/-- ZONE_CLOSE: CMD 1; any CMD but a close of a WET zone or a prime of a CLOSED or FAILED one is ignored. -/
def execZoneClose (die zone : Nat) (s : State) : Out :=
  let y := getZone s die zone
  .next <|
    if y.st != 0 || y.seqRuns != 0 then setCerr s
    else
      let s1 := updZone s die zone (fun y => { y with seqRuns := 2 })
      if 16 ≤ zone then afterGate s1 die zone
      else
        let s2 := (clusterTags s1 die zone).foldl (fun s t => preemptFor s die zone t) (slowCluster s1 die zone)
        if gatedNow s2 die zone then afterGate s2 die zone else s2

/-- ZONE_PRIME: CMD 2. -/
def execZonePrime (die zone : Nat) (s : State) : Out :=
  let y := getZone s die zone
  .next (if y.st = 3 || y.st = 4 then updZone s die zone (fun y => primeZone s { y with tries := 0 }) else setCerr s)

/-- ZONE_CMD_RESERVED: CMD 3. -/
def execZoneCmdReserved (_die _zone : Nat) (s : State) : Out := .next (setCerr s)

/-- ZSTAT_TRAP_CLEAR. -/
def execZstatTrapClear (die zone : Nat) (mask : BitVec 4) (s : State) : Out :=
  .next (updZone s die zone (fun y => { y with trap := y.trap &&& ~~~mask }))
/-- ZSTAT_ALARM_CLEAR. -/
def execZstatAlarmClear (die zone : Nat) (s : State) : Out := .next (updZone s die zone (fun y => { y with alarm := false }))
/-- CSTAT_CERR_CLEAR. -/
def execCstatCerrClear (s : State) : Out := .next { s with package := { s.package with cerr := false } }

/-- MOISTURE: every cluster goes to E3 with cadence 16, dispatch stops, and the board is asked to remove the power
(R353). A save that was asked for is not made. A warm reset that has started stops (R362). -/
def execMoisture (s : State) : Out :=
  let s0 := { s with blocks := s.blocks.map (fun b => (b.1, match b.2.place with
    | .saving p => if b.2.dropping then b.2 else { b.2 with place := .resident p, saveBy := 0, evac := false }
    | _ => b.2)) }
  let s1 := (clusters s0).foldl (fun s c => slowCluster s c.1 c.2) s0
  .next { s1 with package := { s1.package with moisture := true, shutReq := true, warmStopped := s1.package.warm.isSome } }

end Sys2Proof.Machine
end

