-- ==== Sys2Proof/Machine/Fleet.lean ====
section
/-! DEFINITION. The fleet's part: links and ports (R355, R357), telemetry (R358), soft errors (R359), firmware and
attestation (R360), the warm reset (R361, R362), and the package's power (R353). -/
namespace Sys2Proof.Machine

/-! ## Links and ports (R355, R357) -/

def portGet (s : State) : PortName → Port
  | .memoryLink i => tget {} s.memLinks i
  | .fabric i => tget {} s.fabric i
  | .ethernet i => tget {} s.ethernet i

def portUpd (s : State) (p : PortName) (g : Port → Port) : State :=
  match p with
  | .memoryLink i => { s with memLinks := tput {} s.memLinks i (g (tget {} s.memLinks i)) }
  | .fabric i => { s with fabric := tput {} s.fabric i (g (tget {} s.fabric i)) }
  | .ethernet i => { s with ethernet := tput {} s.ethernet i (g (tget {} s.ethernet i)) }

/-- Memory links and fabric ports carry flits and retrain; an Ethernet port does neither. -/
def hasFlits : PortName → Bool
  | .memoryLink _ => true
  | .fabric _ => true
  | .ethernet _ => false

/-- FLIT_CRC_RETRY: nothing is lost; the sensor's retry count rises (R358). -/
def execFlitCrcRetry (port : PortName) (s : State) : Out :=
  .next (if hasFlits port then portUpd s port (fun x => { x with retries := x.retries + 1 }) else s)

/-- A link or port goes down. -/
def portDown (s : State) (port : PortName) : State :=
  portUpd s port (fun x => if x.up then { x with up := false, downAt := s.now } else x)

/-- LINK_RETRAIN: it has not recovered within 1 ms. -/
def execLinkRetrain (port : PortName) (s : State) : Out :=
  .next (portUpd s port (fun x =>
    if hasFlits port && !x.up && x.downAt + 1000000 ≤ s.now then { x with training := true } else x))

/-- A port's training ends: it is up, unless the package at its far end holds this one's NODEPOS (R356). -/
def Port.trained (s : State) (pos : Nat) (x : Port) : Port :=
  if x.peer == some pos then { x with up := false, training := false, downAt := s.now }
  else { x with up := true, training := false, downAt := 0 }

/-- RETRAIN_COMPLETE. The frames of a lost memory link stay poisoned. -/
def execRetrainComplete (port : PortName) (s : State) : Out :=
  .next (portUpd s port (fun x => if x.training then x.trained s s.package.nodePos else x))

/-- The rates of R355 that a port can have; a memory link's is set at training alone, and a fabric port has one. -/
def rateOk (port : PortName) (x : Port) (rate : Nat) : Bool :=
  match port with
  | .memoryLink _ => x.training && [112, 200].contains rate
  | .fabric _ => false
  | .ethernet _ => [200, 400, 800].contains rate

/-- A port's rate is set. -/
def portRate (s : State) (port : PortName) (rate : Nat) : State :=
  portUpd s port (fun x => if rateOk port x rate then { x with rate := rate } else x)

/-- The package at a fabric port's far end announces its NODEPOS. -/
def fabricPeer (s : State) (port : Nat) (pos : Option Nat) : State :=
  portUpd s (.fabric port) (fun x => { x with peer := pos })

/-- The fabric reports the positions of the node at which no package trains: two hold one of them, or none does. -/
def nodeReport (s : State) (absent : List Nat) : State := { s with package := { s.package with absent := absent } }

/-- MEMORY_LINK_LOST: the link has been down for 10 ms. -/
def execMemoryLinkLost (link : Nat) (s : State) : Out :=
  let x := portGet s (.memoryLink link)
  .next (if x.up || x.lost || s.now < x.downAt + 10000000 then s
    else raiseAlarm (portUpd s (.memoryLink link) (fun y => { y with lost := true })) (nodeDie s (link / 8))
      (.memoryLink link) .memoryLinkLost)

/-- The bytes of a frame, cut where 64-B chunks end. -/
def framePieces : Nat → Nat → List Byte → List (Nat × List Byte)
  | 0, _, _ => []
  | n + 1, a, bs =>
    if bs.isEmpty then []
    else
      let k := 64 - a % 64
      (a, bs.take k) :: framePieces n (a + k) (bs.drop k)

/-- An RDMA WRITE is performed chunk by chunk, as far as the owning partition's translation admits it; the bytes that are
left when one waits. -/
def rdmaWrite (part q : Nat) : List (Nat × List Byte) → State → State × List Byte
  | [], s => (s, [])
  | x :: r, s =>
    match queueWrite s part ringPasid q (BitVec.ofNat 64 x.1) x.2 with
    | .done t => rdmaWrite part q r t
    | .waits t => (t, x.2 ++ (r.map (·.2)).flatten)
    | .refused => (s, [])

/-- The number of an operation's frames in `Config.frameBytes`. -/
def rdmaCode : RdmaOp → Nat
  | .write => 0
  | .read => 1
  | .send => 2

/-- An RDMA request is served as far as it goes: a READ's answer is a frame that the partition sends, charged to activity 4
(R342); a WRITE that waits keeps what is left. A READ that translation refuses has no answer. A frame of the partition's
own queue pairs is sent when its port is up and its budget admits it: a WRITE or a SEND with the bytes that it reads of
device memory, a READ with the address and size that it asks for (log entry 45). -/
def rdmaServe (k : Nat) (s : State) : State :=
  match s.rdmaReqs.find? (fun r => r.id == k) with
  | none => s
  | some r =>
    let gone (t : State) : State := { t with rdmaReqs := t.rdmaReqs.filter (fun x => x.id != k) }
    if s.frozen r.part then s
    else if r.out.any (fun o => !(portGet s (.ethernet o.1)).up) then s
    else if r.read then
      (match queueRead s r.part ringPasid (BitVec.ofNat 64 r.addr) r.size with
       | .ok bs bad m =>
         if bad then gone s
         else budgetAll s r.part k [(0, 64 * m), (4, Config.frameBytes (r.out.elim 3 (fun o => rdmaCode o.2)) r.size)] (fun t =>
           let u := gone (queueMark t r.part (BitVec.ofNat 64 r.addr) r.size)
           { u with sent := u.sent ++ [match r.out with
             | some o => Response.frame o.1 r.part o.2 bs
             | none => Response.bytes 8 bs] })
       | .waits => s
       | .fault _ _ _ => gone s)
    else if let some o := r.out then
      budgeted s r.part 4 k (Config.frameBytes (rdmaCode o.2) 0) (fun t =>
        let u := gone t
        { u with sent := u.sent ++ [Response.frame o.1 r.part o.2 (leBytes 8 r.addr ++ leBytes 8 r.size)] })
    else
      let w := rdmaWrite r.part k (framePieces (r.bytes.length + 1) r.addr r.bytes) s
      if w.2.isEmpty then gone w.1
      else
        let at_ := r.addr + (r.bytes.length - w.2.length)
        { w.1 with rdmaReqs := w.1.rdmaReqs.map (fun x => if x.id == k then { x with addr := at_, bytes := w.2 } else x) }

/-- ETHERNET_FRAME: a SEND is delivered; a READ or a WRITE is a request to serve, of the global window (R355). -/
def execEthernetFrame (port part : Nat) (op : RdmaOp) (addr size : Nat) (bytes : List Byte) (s : State) : Out :=
  let serve (r : RdmaReq) : State :=
    if windowOf (BitVec.ofNat 64 addr) != .global then s else rdmaServe s.seq { s.tick with rdmaReqs := s.rdmaReqs ++ [r] }
  .next <|
    if !(portGet s (.ethernet port)).up || !(s.part part).inForce.v || s.frozen part then s
    else match op with
      | .send => { s with rdma := s.rdma ++ [(part, .send, addr, bytes)] }
      | .write => serve { id := s.seq, part := part, read := false, addr := addr, size := size, bytes := bytes }
      | .read => serve { id := s.seq, part := part, read := true, addr := addr, size := size, bytes := [] }

/-- A queue pair of a partition has a frame to send (R355). -/
def ethernetSend (port part : Nat) (op : RdmaOp) (addr size : Nat) (s : State) : State :=
  if !(s.part part).inForce.v || s.frozen part || (op != .read && windowOf (BitVec.ofNat 64 addr) != .global) then s
  else rdmaServe s.seq { s.tick with rdmaReqs := s.rdmaReqs ++
    [{ id := s.seq, part := part, read := op != .read, out := some (port, op), addr := addr, size := size, bytes := [] }] }

/-! ## Telemetry (R358) -/

/-- ALARM_LATCH_READ: the read completes and clears the latch. -/
def execAlarmLatchRead (s : State) : Out :=
  .next { s with sent := s.sent ++ [Response.alarms s.latch s.latchLost], latch := [] }

def structureCode : Structure → Nat
  | .l1Data => 0
  | .l1Instr => 1
  | .homeSlice => 2
  | .hartCache => 3
  | .fetchLine => 4
  | .storeRecord => 5
  | .registerFile => 6
  | .scratchpad => 7
  | .accumulator => 8
  | .weightPlane => 9
  | .mainMemory => 10
  | .partitionEntries => 11
  | .sharedState => 12

def sensorValues (s : State) : Sensor → List Nat
  | .zone d z => let y := getZone s d z; [y.temp.toNat, y.dp, y.flow]
  | .die d => [supplyOf (s.die d) / 4, (s.die d).offset]
  | .packagePower => [Config.packagePower s.now]
  | .errors d w =>
    [(tget (0 : Word) (s.die d).errors (2 * structureCode w)).toNat,
     (tget (0 : Word) (s.die d).errors (2 * structureCode w + 1)).toNat]
  | .port p => let x := portGet s p; [if x.up then 2 else if x.training then 1 else 0, x.retries.toNat]

/-- PLDM_MONITORING: a type-2 read of a sensor. -/
def execPldmMonitoring (sensor : Sensor) (s : State) : Out :=
  .next { s with sent := s.sent ++ [Response.sensor (sensorValues s sensor)] }

/-! ## Soft errors (R359) -/

/-- A warm reset is due and starts: every partition freezes (R361). Of two causes at once the lower holds; a later one finds
the reset under way (R362). -/
def startWarm (s : State) (cause : Nat) : State :=
  { s with package := { s.package with
      warm := match s.package.warm with
        | some (c, t) => some (if t = s.now then min c cause else c, t)
        | none => some (cause, s.now) } }

/-- An error of a structure of a die is counted. -/
def countError (s : State) (die : Nat) (w : Structure) (correctable : Bool) : State :=
  let k := 2 * structureCode w + (if correctable then 0 else 1)
  s.updDie die (fun d => { d with errors := tput 0 d.errors k (tget 0 d.errors k + 1) })

/-- The node die of a core. -/
def coreDie (core : Nat) : Nat := if core < 2048 then core / 64 else (core - 2048) / 16
/-- The node die where a block stands. -/
def blockDie (x : Block) : Nat := (x.onPier.getD x.origin) / 64

/-- Word `w` of a store's bytes becomes poisoned; its other bytes do not. -/
def poisonWord (w : Nat) (c : Contribution) : List Contribution :=
  let m := beMask (4 * w) 4
  if c.be &&& m == 0 then [c]
  else (if c.be &&& ~~~m == 0 then [] else [{ c with be := c.be &&& ~~~m }]) ++ [{ c with be := c.be &&& m, poison := true }]

/-- An uncorrectable error in a block's storage poisons the word, or the column of a plane. -/
def poisonBlock (what : Structure) (i : Nat) (x : Block) : Block :=
  match what with
  | .registerFile =>
    if i / 512 < 32 * x.groups && i % 512 < x.window then { x with regPoison := addTo i x.regPoison } else x
  | .scratchpad => if 4 * i < x.scratchSize then { x with scratchPoison := addTo i x.scratchPoison } else x
  | .accumulator => if i / 128 < x.accRows then { x with accPoison := addTo i x.accPoison } else x
  | .weightPlane =>
    if i / 128 % 2 = 0 then
      (if x.plane0.loaded then { x with plane0 := { x.plane0 with poison := addTo (i % 128) x.plane0.poison } } else x)
    else if x.plane1.loaded then { x with plane1 := { x.plane1 with poison := addTo (i % 128) x.plane1.poison } } else x
  | _ => x

/-- SOFT_ERROR at a place of a structure: `at_` is a core, a pier, an application core, a block, a physical address or a node
die, and `idx` the line, the word, 16 × entry + word, 512 × lane + register, 128 × plane + column, or the partition. -/
def execSoftError (what : Structure) (at_ idx : Nat) (correctable : Bool) (s : State) : Out :=
  .next (match what with
    | .l1Data => cacheDrop (countError s (coreDie at_) what correctable) at_ idx
    | .l1Instr => instrDrop (countError s (coreDie at_) what correctable) at_ idx
    | .homeSlice =>
      (countError s (at_ / 64) what correctable).updPier at_ (fun x => { x with slice := x.slice.filter (fun e => e.1 != idx) })
    | .hartCache => (countError s (at_ / 16) what correctable).updCore (2048 + at_) (Core.loseLines (· == idx))
    | .fetchLine => instrDrop s at_ idx
    | .storeRecord =>
      let s1 := countError s (coreDie at_) what correctable
      if correctable then s1
      else updEntry s1 at_ (idx / 16) (fun e => { e with stores := e.stores.flatMap (poisonWord (idx % 16)) })
    | .mainMemory =>
      let s1 := countError s (paDie at_) what correctable
      if correctable then s1 else { s1 with memPoison := addTo (at_ / 64) s1.memPoison }
    | .partitionEntries =>
      let s1 := countError s at_ what correctable
      if correctable then s1 else dueReset s1 (idx % 64) 3
    | .sharedState =>
      let s1 := countError s at_ what correctable
      if correctable then s1 else startWarm s1 2
    | w =>
      let s1 := countError s (blockDie (s.block at_)) w correctable
      if correctable then s1 else s1.updBlock at_ (poisonBlock w idx))

/-- PATROL_SCRUB reads a chunk. A correctable error has been corrected when it is met, and poison is never cleared by a
read, so nothing changes. -/
def execPatrolScrub (_chunk : Nat) (s : State) : Out := .next s

/-! ## Firmware (R360) -/

def bankOf (b : Boot) (n : Nat) : List Byte := if n = 0 then b.bank0 else b.bank1

/-- An image is not refused: its stages verify and its version is not below the fused counter. -/
def imageValid (b : Boot) (img : List Byte) : Bool :=
  Config.signatureValid (Config.bootStage img) && Config.signatureValid (Config.runtimeStage img) &&
  b.fused ≤ Config.imageVersion img

/-- The boot chain from the active bank: each stage is verified, then measured, then runs. -/
def startBoot (b : Boot) : Boot :=
  let img := bankOf b b.active
  let first := Config.signatureValid (Config.bootStage img) && b.fused ≤ Config.imageVersion img
  let second := first && Config.signatureValid (Config.runtimeStage img)
  { b with stopped := !(second && Config.imageBoots img), m1 := extend 0 Config.romImage,
           m2 := if first then extend 0 (Config.bootStage img) else 0,
           m3 := if second then extend 0 (Config.runtimeStage img) else 0 }

/-- A pending update becomes active at a warm reset; a bank that fails to boot leaves the old one, and the failure is to be
reported (R360). -/
def activateUpdate (b : Boot) : Boot :=
  if !b.pendingUpdate then b
  else if b.updateHeld then { b with updateHeld := false }
  else
    let img := bankOf b (1 - b.active)
    if imageValid b img && Config.imageBoots img then { b with active := 1 - b.active, pendingUpdate := false }
    else { b with pendingUpdate := false, failReported := true }

/-- The package boots what is active, and reports a bank that failed to boot (R360). -/
def bootActive (s : State) : State :=
  let b := activateUpdate { s.boot with failReported := false }
  { s with boot := startBoot b, sent := if b.failReported then s.sent ++ [.updateFailed (1 - b.active)] else s.sent }

/-- PLDM_FIRMWARE_UPDATE: the image goes to the inactive bank and is verified there. -/
def execPldmFirmwareUpdate (image : List Byte) (s : State) : Out :=
  let b := if s.boot.active = 0 then { s.boot with bank1 := image } else { s.boot with bank0 := image }
  .next { s with boot := { b with pendingUpdate := imageValid b image, updateHeld := s.package.warm.isSome } }

/-! ## SPDM (R360) -/

def respond (s : State) (kind : Nat) (bs : List Byte) : State := { s with sent := s.sent ++ [Response.bytes kind bs] }

/-- GET_VERSION: 1.3. -/
def execGetVersion (s : State) : Out := .next (respond s 1 [0x13])
/-- GET_CAPABILITIES: the requests that are supported, as certificate, challenge and measurement. -/
def execGetCapabilities (s : State) : Out := .next (respond s 2 [1, 1, 1])
/-- NEGOTIATE_ALGORITHMS: ML-DSA-65 and SHAKE256 where the requester offers them. -/
def execNegotiateAlgorithms (mldsa65 shake256 : Bool) (s : State) : Out :=
  .next (respond s 3 [if mldsa65 then 1 else 0, if shake256 then 1 else 0])
/-- GET_DIGESTS: of the certificate chain. -/
def execGetDigests (s : State) : Out := .next (respond s 4 (leBytes 32 (Config.shake256 Config.certificateChain).toNat))
/-- GET_CERTIFICATE. -/
def execGetCertificate (s : State) : Out := .next (respond s 5 Config.certificateChain)

/-- The measurement of an index; none where there is no such index. -/
def measurement (b : Boot) : Nat → Option (BitVec 256)
  | 1 => some b.m1
  | 2 => some b.m2
  | 3 => some b.m3
  | 4 => some b.m4
  | _ => none

/-- CHALLENGE: the nonce, signed with the identity key. -/
def execChallenge (nonce : List Byte) (s : State) : Out :=
  .next (respond s 6 (Config.sign (nonce ++ leBytes 32 (Config.shake256 Config.certificateChain).toNat)))

/-- GET_MEASUREMENTS: one measurement, or for index 255 all of them, with a signature over it and the nonce. -/
def execGetMeasurements (index : Nat) (nonce : List Byte) (s : State) : Out :=
  let ms := ((if index = 255 then [1, 2, 3, 4] else [index]).filterMap (measurement s.boot)).flatMap (fun m => leBytes 32 m.toNat)
  .next (respond s 7 (ms ++ Config.sign (nonce ++ ms)))

/-! ## Power (R353, R360) -/

/-- POWER_REMOVAL: what is volatile is lost. The banks, the fused counter and the host's own memory are kept, and the
records of what was sent. -/
def execPowerRemoval (s : State) : Out :=
  .next { State.reset with
    powered := false, hostMem := s.hostMem, hostPages := s.hostPages,
    boot := { bank0 := s.boot.bank0, bank1 := s.boot.bank1, active := s.boot.active,
              pendingUpdate := s.boot.pendingUpdate, failReported := s.boot.failReported, fused := s.boot.fused },
    sent := s.sent, msix := s.msix, rdma := s.rdma, seq := s.seq, free := s.free, agenda := s.agenda }

/-- POWER_ON: the boot chain runs. -/
def execPowerOn (s : State) : Out :=
  .next (if s.powered then s else measureTables { s with powered := true, boot := startBoot s.boot })

/-! ## The warm reset (R361, R362) -/


/-- The capture log of a valid partition; one that was being captured has it already, or with its own reason. The
REASON of a warm reset is open (log entry 41). -/
def warmCapture (t0 : Nat) (s : State) (p : Nat) : State :=
  let x := s.part p
  if !x.inForce.v || x.cleared then s
  else if x.reason != 0 then writeCapture s p
  else
    let d := s.drawFree
    (writeCapture (d.2.updPart p (fun y => { y with reason := d.1.toNat % 256, since := t0 })) p).updPart p (fun y =>
      { y with reason := 0, since := 0 })

/-- A launch is over with COMPLETE, STATUS 1. -/
def warmLaunch (s : State) (tag : Nat) : State :=
  let s1 := putHeader (s.updLaunch tag (fun l => { l with complete := true, stopped := true, tDone := s.now, again := [] })) tag
  let l := s1.launch tag
  let s2 := s1.updQueue l.queue (fun x => { x with packets := x.packets.filter (fun y => y.seq != l.seq) })
  pushEvent s2 l.queue { kind := 1, status := 1, rseq := l.seq, tag := tag, fcode := l.first, fsum := fsumOf l, irq := l.irq }

/-- The ports of a kind after their training. -/
def retrained (s : State) (ps : Tbl Port) : Tbl Port :=
  ps.foldl (fun (t : Tbl Port) (p : Nat × Port) => tput {} t p.1 (p.2.trained s s.package.nodePosW)) []

/-- Another package of the node holds the NODEPOS that this one takes: its ports to it do not train (R356). -/
def clashes (s : State) : Bool := s.fabric.any (fun p => p.2.peer == some s.package.nodePosW)

/-- Every group entry is free, its GEN incremented where it was in use (R248, R252). -/
def freedGroups (t : Tbl SgEntry) : Tbl SgEntry :=
  t.map (fun e => (e.1, { gen := if e.2.used then e.2.gen + 1 else e.2.gen }))

/-- A die after its reset: its 10-µs boundaries are those to come. Its page-table root and its error counts are kept, with
the other registers of the management window (log entry 42). -/
def resetDie (s : State) (x : Die) : Die :=
  { root := x.root, errors := x.errors, orrery := freedGroups x.orrery, boundary := s.now / 10000,
    zones := (List.range 20).foldl (fun (t : Tbl Zone) z => tput {} t z { boundary := s.now / 10000 }) [] }

/-- The dies of other packages: their groups lose every member that this package has (R249), and are freed with the last
(R248). -/
def otherDies (s : State) : Tbl Die :=
  (s.dies.filter (fun d => d.1 / 4 != s.package.nodePos && d.1 / 4 != s.package.nodePosW)).map (fun d =>
    (d.1, { d.2 with orrery := freedGroups d.2.orrery }))

/-- The dies are reset, and every link trains. -/
def resetDies (s : State) : State :=
  { s with
    blocks := [], cores := [], piers := [], runs := [], memops := [], lres := [], mrdas := [], revokes := [], acks := [],
    sgreqs := [], jobs := [], colls := [], fences := [], pageReqs := [], rdmaReqs := [], cxlReqs := [], frWrites := [], uses := [],
    dir := [], hostLines := [], harts := [], cur := {},
    memLinks := retrained s s.memLinks, fabric := retrained s s.fabric, ethernet := retrained s s.ethernet,
    dies := (List.range 4).foldl (fun (t : Tbl Die) d =>
      tput {} t (4 * s.package.nodePosW + d) (resetDie s (s.die (nodeDie s d)))) (otherDies s) }

/-- A package that takes another place in the node takes its memory along: physical addresses name the node die
(R275, R356). -/
def moveMemory (s : State) : State :=
  let a := s.package.nodePos
  let b := s.package.nodePosW
  if a = b then s
  else
    let to_ (pa : Nat) : Nat := pa - 4 * a * 2 ^ 41 + 4 * b * 2 ^ 41
    let own (pa : Nat) : Bool := paDie pa / 4 == a
    let stays (pa : Nat) : Bool := paDie pa / 4 != a && paDie pa / 4 != b
    { s with
      mem := (s.mem.filter (fun c => own c.1)).foldl (fun m c => wrByte m (to_ c.1) c.2) (s.mem.filter (fun c => stays c.1)),
      memPoison := s.memPoison.filter (fun c => stays (64 * c)) ++
        (s.memPoison.filter (fun c => own (64 * c))).map (fun c => to_ (64 * c) / 64) }

/-- The partition table is applied: an entry that may not be applied stays as it was, with CFGERR. -/
def warmApply (s : State) (p : Nat) : State :=
  let x := s.part p
  let s1 := s.updPart p (fun y =>
    { y with gen := if y.inForce.v then y.gen + 1 else y.gen, shrinking := false, releasing := [],
             rdone := y.rdone || y.reason != 0, reset := false, reason := 0, since := 0, cleared := false,
             period := s.now / 10000, use := [], waited := [], stalled := [] })
  if !x.written.v && !x.inForce.v then s1
  else if applyBad s1 p then s1.updPart p (fun y => { y with cfgErr := true })
  else s1.updPart p (fun y => { y with inForce := y.written })

/-- Steps 2 to 5. -/
def finishWarm (s : State) (cause t0 : Nat) : State :=
  let s1 := (List.range 64).foldl (warmCapture t0) (flushUses (flushRecords s))
  let s2 := (s1.launches.filter (fun l => l.2.used && !l.2.complete)).foldl (fun s l => warmLaunch s l.1) s1
  let s3 := s2.jobs.foldl (fun s j => match j.packet with | some (q, seq) => packetDone s q seq 1 | none => s) s2
  let s4 := moveMemory (resetDies (flushRecords ((List.range 4096).foldl stopQueue s3)))
  let k := s4.package
  let s5 := { bootActive s4 with
    package := { k with pkgid := k.pkgidW, nodePos := k.nodePosW, nPkg := k.nPkgW,
                        rstCount := min 255 (k.rstCount + 1), rstCause := cause, warm := none, warmStopped := false,
                        left := k.absent, alone := clashes s3, moisture := false, shutReq := false, cerr := false } }
  measureTables ((List.range 64).foldl warmApply s5)

/-- WARM: PKGRST.WARM is written, and the reset runs; the reset that another cause started before goes on to its end. -/
def execWarm (s : State) : Out :=
  let s1 := startWarm s 1
  .next (match s1.package.warm with
    | some (c, t) => if s1.package.warmStopped then s1 else finishWarm s1 c t
    | none => s1)

/-- FIRMWARE_WATCHDOG. -/
def execFirmwareWatchdog (s : State) : Out := .next (startWarm s 4)

/-- NODE_MEMBER_LOST: another package of the node has been unreachable for 10 ms; no package trains at its position until
the fabric reports otherwise. -/
def execNodeMemberLost (package : Nat) (s : State) : Out :=
  .next (if package = s.package.nodePos || !(nodeMembers s).contains package then s
    else startWarm (raiseAlarm { s with package := { s.package with absent := addTo package s.package.absent } } (nodeDie s 0)
      (.package package) .nodeMemberLost) 3)

/-- UNCORRECTABLE_SHARED_STATE: the partition it belongs to is captured and reset, or the package is. It is counted; the step
does not name the die, which is a free value (log entry 135). -/
def execUncorrectableSharedState (what : SharedState) (s : State) : Out :=
  let d := s.drawFree
  let die := nodeDie s (d.1.toNat % 4)
  .next (match what with
    | .partitionEntries p => dueReset (countError d.2 die .partitionEntries false) p 3
    | .package => startWarm (countError d.2 die .sharedState false) 2)

end Sys2Proof.Machine
end

