-- ==== Sys2Proof/Machine/Window.lean ====
section
/-! DEFINITION. The management window (R273): what its registers hold, what a read of it returns, and what a write does
(R260, R276, R281, R286, R309, R321 to R324, R338, R339, R341, R346 to R348, R353, R356, R361), with the tables of the
queue interfaces (R259). A write with an effect that a step of its own names has that effect. -/
namespace Sys2Proof.Machine

/-- The state that a meaning leaves. -/
def nextOf (o : Out) (s : State) : State := match o with | .next t => t | .fault _ => s | .refused _ => s

/-- A bit of a register's value. -/
def bitNum (b : Bool) (i : Nat) : Nat := if b then 2 ^ i else 0

/-! ## What is read -/

/-- The live numbers of a queue (R273). -/
def queueStatus (s : State) (q o : Nat) : Nat :=
  let x := s.queue q
  let d := descOf s q
  let n (a b : Word) : Nat := (if x.mapped then a else b).toNat
  if o = 0 then n x.lastAcc d.lastAcc + n x.lastEmit d.lastEmit * 2 ^ 32
  else n x.tail d.tail + (ctlState (queueCtl s q) + bitNum x.descErr 2 + bitNum x.mapped 7) * 2 ^ 32

def migRead (m : Migration) (o : Nat) : Nat :=
  match o with
  | 0 => m.src.toNat
  | 8 => m.dst.toNat
  | 16 => m.size
  | 24 => bitNum m.refused 2 + bitNum m.poisoned 1 + bitNum m.busy 0
  | _ => 0

/-- CLSTAT (R324). CAP follows STEPCAP and the zone as they are. -/
def clstat (d : Die) (c : Nat) : Nat :=
  let x : Cluster := tget {} d.clusters c
  let cads := x.cad0 + x.cad1 * 2 ^ 5 + x.cad2 * 2 ^ 10 + x.cad3 * 2 ^ 15
  cads * 2 ^ 20 + x.st * 2 ^ 14 + x.step * 2 ^ 11 + x.held * 2 ^ 9 + bitNum x.fall 8 +
  min d.stepCap (tget ({} : Zone) d.zones c).capNow

/-- GOVSTAT (R323). -/
def govstat (d : Die) : Nat :=
  d.riskCnt.toNat * 2 ^ 32 + d.offset * 2 ^ 10 + bitNum d.supHi 9 + bitNum d.risk 8 + bitNum d.canary 7 + d.pool

/-- The governor's block (R321): GOVCTL reads as written. -/
def govRead (d : Die) (o : Nat) : Nat :=
  if o = 0 then bitNum d.riskIeW 5 + bitNum d.gateEnW 4 + d.stepCapW
  else if o = 8 then govstat d
  else if 0x100 ≤ o && o < 0x180 && o % 8 = 0 then clstat d ((o - 0x100) / 8)
  else 0

/-- ZCTL, ZSTAT and ZLIM (R348); a zone that is not WET reads CAP and HEATOK 0 (R349). -/
def zoneRead (y : Zone) (o : Nat) : Nat :=
  match o with
  | 0 => bitNum y.man 4 + y.vpos
  | 8 =>
    y.flow % 2 ^ 10 * 2 ^ 54 + y.valve * 2 ^ 50 + y.dp % 2 ^ 16 * 2 ^ 32 + y.temp.toNat * 2 ^ 16 + y.trap.toNat * 2 ^ 12 +
    bitNum y.alarm 11 + y.tries * 2 ^ 9 + y.capNow * 2 ^ 6 + y.heatNow * 2 ^ 4 + y.st
  | 16 => y.dpMax * 2 ^ 48 + y.dpMin * 2 ^ 32 + y.tLim.toNat * 2 ^ 16 + y.slope
  | _ => 0

/-- The 256 bytes of a partition's entry (R338, R339). -/
def partBytes (x : Part) : List Byte :=
  leBytes 8 (bitNum x.written.v 0 + bitNum x.reset 2 + bitNum x.rdone 3 + bitNum x.force 5 + bitNum x.shrinking 6 +
    bitNum x.cfgErr 7 + x.gen.toNat * 2 ^ 20 + x.written.nsid.toNat * 2 ^ 24) ++
  ((fieldBytes x.written).drop 8).take 120 ++ (List.range 7).flatMap (fun k => leBytes 4 (tget (0 : Word) x.stall k).toNat) ++
  leBytes 100 0

/-- L1CTL and SLICECTL of a pier (R194, R341). -/
def pierRead (x : Pier) (o : Nat) : Nat :=
  match o with
  | 0 => x.l1ctl.toNat
  | 8 => x.wayOff.toNat + bitNum x.sliceOff 16
  | _ => 0

/-- The package's own registers (R260, R281, R353, R356, R361). -/
def packageRead (s : State) (o : Nat) : Nat :=
  let k := s.package
  if o = 0 then k.qdbase.toNat
  else if o = 0x68 then bitNum (s.fences.any (·.mirror)) 0
  else if o = 0x200 then k.pkgidW * 2 ^ 11 + k.nodePosW * 2 ^ 8 + k.nPkgW
  else if o = 0x208 then k.rstCount * 2 ^ 8 + k.rstCause * 2 ^ 4 + bitNum k.warm.isSome 0
  else 0

/-- What a read of 8 bytes at an offset returns; other offsets read 0. -/
def readWindow (s : State) (o : Nat) : Nat :=
  let die (base size : Nat) : Die := s.die (dieOf s ((o - base) / size))
  if o % 8 ≠ 0 then 0
  else if 0x40 ≤ o && o < 0x60 then (die 0x40 8).root.toNat
  else if 0x100 ≤ o && o < 0x180 then migRead (die 0x100 32).mig (o % 32)
  else if 0x100000 ≤ o && o < 0x110000 then queueStatus s ((o - 0x100000) / 16) (o % 16)
  else if 0x200000 ≤ o && o < 0x204000 then (if o % 0x1000 = 0x18 then (die 0x200000 0x1000).eye.refused else 0)
  else if 0x300000 ≤ o && o < 0x304000 then govRead (die 0x300000 0x1000) (o % 0x1000)
  else if 0x400000 ≤ o && o < 0x400200 then
    (s.part ((o - 0x400000) / 8)).shareW + (s.part ((o - 0x400000) / 8)).maxHeatW * 2 ^ 11
  else if o = 0x400200 then bitNum s.package.cerr 2 + bitNum s.package.shutReq 1 + bitNum s.package.moisture 0
  else if 0x401000 ≤ o && o < 0x405000 then
    (if o % 0x1000 / 32 < 20 then zoneRead (tget {} (die 0x401000 0x1000).zones (o % 0x1000 / 32)) (o % 32) else 0)
  else if 0x1000000 ≤ o && o < 0x1004000 then
    pierRead (s.pier (256 * s.package.nodePos + (o - 0x1000000) / 64)) (o % 64)
  else if 0x2000000 ≤ o && o < 0x2004000 then
    leNat (((partBytes (settledPart s ((o - 0x2000000) / 256))).drop (o % 256)).take 8)
  else packageRead s o

/-- A read of the window: of an eyepiece's outbox it takes the oldest entry (R273). -/
def windowRead (o : Nat) (s : State) : State :=
  if 0x200000 ≤ o && o < 0x204000 && o % 0x1000 = 0 then nextOf (execOutboxRead (dieOf s ((o - 0x200000) / 0x1000)) s) s
  else { s with sent := s.sent ++ [.value (BitVec.ofNat 64 (readWindow s o))] }

/-! ## What is written -/

/-- A migration block: SIZE before GO (R286). -/
def writeMig (s : State) (d o v : Nat) : State :=
  match o with
  | 0 => s.updDie d (fun x => { x with mig := { x.mig with src := BitVec.ofNat 64 v } })
  | 8 => s.updDie d (fun x => { x with mig := { x.mig with dst := BitVec.ofNat 64 v } })
  | 16 =>
    let t := s.updDie d (fun x => { x with mig := { x.mig with size := v % 4 } })
    if v.testBit 8 then nextOf (execMigrationGo d t) t else t
  | _ => s

/-- A governor's block: GOVCTL takes effect at the next boundary; ones clear RISK and CANARY of GOVSTAT. -/
def writeGov (s : State) (d o v : Nat) : State :=
  if o = 0 then s.updDie d (fun x => { x with riskIeW := v.testBit 5, gateEnW := v.testBit 4, stepCapW := v % 8 })
  else if o = 8 then
    let t := if v.testBit 8 then nextOf (execGovstatRiskClear d s) s else s
    if v.testBit 7 then nextOf (execGovstatCanaryClear d t) t else t
  else s

/-- A zone's registers: a WET zone's valve with MAN is held at VPOS from then on; CMD comes after these fields. -/
def writeZone (s : State) (d z o v : Nat) : State :=
  match o with
  | 0 =>
    let t := updZone s d z (fun y =>
      { y with man := v.testBit 4, vpos := v % 16, valve := if y.st = 0 && v.testBit 4 then v % 16 else y.valve })
    (match bitsAt v 6 2 with
     | 0 => t
     | 1 => nextOf (execZoneClose d z t) t
     | 2 => nextOf (execZonePrime d z t) t
     | _ => nextOf (execZoneCmdReserved d z t) t)
  | 8 =>
    let t := nextOf (execZstatTrapClear d z (BitVec.ofNat 4 (bitsAt v 12 4)) s) s
    if v.testBit 11 then nextOf (execZstatAlarmClear d z t) t else t
  | 16 => watchAll (updZone s d z (fun y =>
      { y with dpMax := bitsAt v 48 16, dpMin := bitsAt v 32 16, tLim := BitVec.ofNat 16 (bitsAt v 16 16), slope := v % 65536 })) d z
  | _ => s

/-- A partition's entry: of CTL the fields and clears first, then APPLY, then RESET (R339). -/
def writePart (s : State) (p o v : Nat) : State :=
  let t := s.updPart p (fun x => { x with written := writeField x.written o v })
  if o ≠ 0 then t
  else
    let t1 := nextOf (execForce p (v.testBit 5) t) t
    let t2 := if v.testBit 7 then nextOf (execCfgerrClear p t1) t1 else t1
    let t3 := if v.testBit 3 then nextOf (execRdoneClear p t2) t2 else t2
    let t4 := if v.testBit 4 then nextOf (execApply p t3) t3 else t3
    if v.testBit 2 then nextOf (execPartitionReset p t4) t4 else t4

/-- L1CTL and SLICECTL of a pier. -/
def writePier (s : State) (p o : Nat) (v : Dword) : State :=
  match o with
  | 0 => nextOf (execL1ctlWrite p v s) s
  | 8 =>
    let t := nextOf (execSlicectlPower p v s) s
    if v.getLsbD 17 then nextOf (execSlicectlDrop p t) t else t
  | _ => s

/-- A write of 8 bytes at an offset; other offsets ignore it. -/
def writeWindow (s : State) (o : Nat) (value : Dword) : State :=
  let v := value.toNat
  let die (base size : Nat) : Nat := dieOf s ((o - base) / size)
  if o % 8 ≠ 0 then s
  else if o = 0 then { s with package := { s.package with qdbase := value } }
  else if 0x40 ≤ o && o < 0x60 then s.updDie (die 0x40 8) (fun x => { x with root := value })
  else if o = 0x60 then (if value.getLsbD 0 then nextOf (execXlfenceGo s) s else s)
  else if 0x100 ≤ o && o < 0x180 then writeMig s (die 0x100 32) (o % 32) v
  else if o = 0x200 then
    { s with package := { s.package with pkgidW := bitsAt v 11 18, nodePosW := bitsAt v 8 3, nPkgW := v % 8 } }
  else if o = 0x208 then (if value.getLsbD 0 then startWarm s 1 else s)
  else if 0x200000 ≤ o && o < 0x204000 then
    (if o % 0x1000 = 0x10 then nextOf (execInboxWrite (die 0x200000 0x1000) value s) s else s)
  else if 0x300000 ≤ o && o < 0x304000 then writeGov s (die 0x300000 0x1000) (o % 0x1000) v
  else if 0x400000 ≤ o && o < 0x400200 then nextOf (execCallocWrite ((o - 0x400000) / 8) value s) s
  else if o = 0x400200 then (if value.getLsbD 2 then nextOf (execCstatCerrClear s) s else s)
  else if 0x401000 ≤ o && o < 0x405000 then
    (if o % 0x1000 / 32 < 20 then writeZone s (die 0x401000 0x1000) (o % 0x1000 / 32) (o % 32) v else s)
  else if 0x1000000 ≤ o && o < 0x1004000 then
    writePier s (256 * s.package.nodePos + (o - 0x1000000) / 64) (o % 64) value
  else if 0x2000000 ≤ o && o < 0x2004000 then writePart s ((o - 0x2000000) / 256) (o % 256) v
  else s

def updIface (s : State) (i : Nat) (g : Iface → Iface) : State := s.setIface i (g (s.iface i))

/-- REGISTER_WRITE. A PASID or remap entry is valid with bit 63 set; an interface is assigned with bit 63 set, to the
virtual function of bits 5:0 with bit 62 set, on the link of bit 6 (log entry 39). -/
def execRegisterWrite (reg : RegName) (value : Dword) (s : State) : Out :=
  let v := value.toNat
  .next (match reg with
    | .window o => writeWindow s o value
    | .pasid i k => updIface s i (fun x =>
        { x with pasids := if value.getLsbD 63 then tins k (v % 2 ^ 20 + 1) x.pasids else tdel k x.pasids })
    | .remap i k => updIface s i (fun x =>
        { x with remap := if value.getLsbD 63 then tins k ((value &&& 0x7FFFFFFFFFFFFFFF#64) + 1) x.remap else tdel k x.remap })
    | .iface i => updIface s i (fun x =>
        { x with assigned := value.getLsbD 63, vf := if value.getLsbD 62 then some (v % 64) else none,
                 link := bitsAt v 6 1 }))

end Sys2Proof.Machine
end

