-- ==== Sys2Proof/Machine/Privilege.lean ====
section
/-! DEFINITION. The privilege of an application core (R331, R334, R336): its modes, the control and status registers that its
traps and translations use, traps and returns, and the interrupts of its IMSIC. R331 names the profile; what is here of it is
the RISC-V manuals' (log entry 116). -/
namespace Sys2Proof.Machine

/-! ## Control and status registers -/

namespace Csr
def sstatus : Nat := 0x100
def sie : Nat := 0x104
def stvec : Nat := 0x105
def sepc : Nat := 0x141
def scause : Nat := 0x142
def stval : Nat := 0x143
def sip : Nat := 0x144
def satp : Nat := 0x180
def vsstatus : Nat := 0x200
def vstvec : Nat := 0x205
def vsepc : Nat := 0x241
def vscause : Nat := 0x242
def vstval : Nat := 0x243
def vsatp : Nat := 0x280
def mstatus : Nat := 0x300
def medeleg : Nat := 0x302
def mideleg : Nat := 0x303
def mie : Nat := 0x304
def mtvec : Nat := 0x305
def mepc : Nat := 0x341
def mcause : Nat := 0x342
def mtval : Nat := 0x343
def mip : Nat := 0x344
def mtval2 : Nat := 0x34B
def hstatus : Nat := 0x600
def hedeleg : Nat := 0x602
def hideleg : Nat := 0x603
def hgeie : Nat := 0x607
def htval : Nat := 0x643
def hgatp : Nat := 0x680
def mtopei : Nat := 0x35C
def stopei : Nat := 0x15C
def vstopei : Nat := 0x25C
def mhartid : Nat := 0xF14
end Csr

namespace Hart

def csr (x : Hart) (n : Nat) : Dword := tget 0 x.csrs n
def setCsr (x : Hart) (n : Nat) (v : Dword) : Hart := { x with csrs := tput 0 x.csrs n v }

end Hart

/-- Bit `i` of a register becomes `b`. -/
def putBit (v : Dword) (i : Nat) (b : Bool) : Dword :=
  if b then v ||| BitVec.ofNat 64 (2 ^ i) else v &&& ~~~BitVec.ofNat 64 (2 ^ i)

namespace HartMode

/-- The mode runs in a guest. -/
def virt : HartMode → Bool
  | .vs | .vu => true
  | .m | .s | .u => false

/-- The nominal privilege. -/
def level : HartMode → Nat
  | .m => 3
  | .s | .vs => 1
  | .u | .vu => 0

/-- The mode of a nominal privilege, in a guest or not. -/
def of (level : Nat) (virt : Bool) : HartMode :=
  if level = 3 then .m else if level = 1 then (if virt then .vs else .s) else if virt then .vu else .u

end HartMode

/-! ## Traps -/

/-- The mode that takes an exception: delegated from M, and from there to the guest where it arose in one. -/
def exceptionTo (x : Hart) (code : Nat) : HartMode :=
  if x.mode == .m || !(x.csr Csr.medeleg).getLsbD code then .m
  else if x.mode.virt && (x.csr Csr.hedeleg).getLsbD code then .vs else .s

/-- The mode that takes an interrupt. Those of a guest, and of guest files, are always delegated from M. -/
def interruptTo (x : Hart) (code : Nat) : HartMode :=
  if !((x.csr Csr.mideleg).getLsbD code || [2, 6, 10, 12].contains code) then .m
  else if (x.csr Csr.hideleg).getLsbD code then .vs else .s

/-- Where a trap goes on: a table of interrupts where the register says so. -/
def vectorOf (v : Dword) (irq : Bool) (code : Nat) : Dword :=
  (v &&& ~~~3#64) + (if irq && v.getLsbD 0 then BitVec.ofNat 64 (4 * code) else 0)

/-- A trap is entered in mode `dst`: the program counter, the cause and its value are saved, with the guest-physical address
where it is one's; interrupts are disabled, and the mode before is kept in the status. -/
def trapEntry (x : Hart) (dst : HartMode) (irq : Bool) (code0 : Nat) (value gpa : Dword) : Hart :=
  let code := if irq && dst == .vs then code0 - 1 else code0
  let cause : Dword := BitVec.ofNat 64 (code + if irq then 2 ^ 63 else 0)
  let gva := x.mode.virt && !irq
  let high := x.mode.level != 0
  match dst with
  | .m =>
    let st := x.csr Csr.mstatus
    let st1 := putBit (putBit (putBit (putBit st 7 (st.getLsbD 3)) 3 false) 39 x.mode.virt) 38 gva
    let st2 := putBit (putBit st1 11 high) 12 (x.mode.level == 3)
    { ((((((x.setCsr Csr.mstatus st2).setCsr Csr.mepc x.pc).setCsr Csr.mcause cause).setCsr Csr.mtval value).setCsr
        Csr.mtval2 (gpa >>> 2))) with mode := .m, pc := vectorOf (x.csr Csr.mtvec) irq code }
  | .vs =>
    let st := x.csr Csr.vsstatus
    let st1 := putBit (putBit (putBit st 5 (st.getLsbD 1)) 1 false) 8 high
    { ((((x.setCsr Csr.vsstatus st1).setCsr Csr.vsepc x.pc).setCsr Csr.vscause cause).setCsr Csr.vstval value) with
      mode := .vs, pc := vectorOf (x.csr Csr.vstvec) irq code }
  | _ =>
    let st := x.csr Csr.mstatus
    let st1 := putBit (putBit (putBit st 5 (st.getLsbD 1)) 1 false) 8 high
    let hs := putBit (putBit (x.csr Csr.hstatus) 7 x.mode.virt) 6 gva
    let hs1 := if x.mode.virt then putBit hs 8 high else hs
    { ((((((x.setCsr Csr.mstatus st1).setCsr Csr.hstatus hs1).setCsr Csr.sepc x.pc).setCsr Csr.scause cause).setCsr
        Csr.stval value).setCsr Csr.htval (gpa >>> 2)) with mode := .s, pc := vectorOf (x.csr Csr.stvec) irq code }

/-- A trap ends the reservation (R334), and the hart no longer stands at what it was doing. -/
def Hart.ends (x : Hart) : Hart := { x with resv := none, held := none, fetching := none }

/-- An exception is taken. -/
def hartTrap (s : State) (h code : Nat) (value gpa : Dword) : State :=
  let x := s.hart h
  s.setHart h (trapEntry x (exceptionTo x code) false code value gpa).ends

/-- An access fault is taken: 1 for a fetch, 5 for a load, 7 for a store or an AMO. It is precise (R334, R336). Its value is the
virtual address of an access that had one. -/
def hartFault (s : State) (h addr code : Nat) : State :=
  let t := hartTrap s h code ((s.hart h).via.getD (BitVec.ofNat 64 addr)) 0
  t.setHart h { t.hart h with fault := some addr }

/-! ## Returns -/

/-- MRET, or SRET of a host or guest supervisor: the mode and the interrupt enable that the status kept; an illegal or virtual
instruction elsewhere. -/
def hartReturn (h : Nat) (machine : Bool) (s : State) : State :=
  let x := s.hart h
  let st := x.csr Csr.mstatus
  let hs := x.csr Csr.hstatus
  let vs := x.csr Csr.vsstatus
  if machine then
    if x.mode != .m then hartTrap s h 2 0 0
    else
      let lvl : Nat := (if st.getLsbD 11 then 1 else 0) + if st.getLsbD 12 then 2 else 0
      let md := HartMode.of lvl (st.getLsbD 39)
      let st1 := putBit (putBit (putBit (putBit (putBit st 3 (st.getLsbD 7)) 7 true) 11 false) 12 false) 39 false
      let st2 := if md == .m then st1 else putBit st1 17 false
      s.setHart h { x.setCsr Csr.mstatus st2 with mode := md, pc := x.csr Csr.mepc }
  else match x.mode with
  | .u => hartTrap s h 2 0 0
  | .vu => hartTrap s h 22 0 0
  | .vs =>
    if hs.getLsbD 22 then hartTrap s h 22 0 0
    else
      let md := HartMode.of (if vs.getLsbD 8 then 1 else 0) true
      s.setHart h { x.setCsr Csr.vsstatus (putBit (putBit (putBit vs 1 (vs.getLsbD 5)) 5 true) 8 false) with
        mode := md, pc := x.csr Csr.vsepc }
  | _ =>
    if x.mode == .s && st.getLsbD 22 then hartTrap s h 2 0 0
    else
      let md := HartMode.of (if st.getLsbD 8 then 1 else 0) (hs.getLsbD 7)
      let st1 := putBit (putBit (putBit st 1 (st.getLsbD 5)) 5 true) 8 false
      s.setHart h { (x.setCsr Csr.mstatus (putBit st1 17 false)).setCsr Csr.hstatus (putBit hs 7 false) with
        mode := md, pc := x.csr Csr.sepc }

/-! ## The IMSIC and interrupts (R331, R337) -/

/-- The least identity that a file presents: pending, enabled and below the threshold, while the file delivers. -/
def fileTop (x : Hart) (file : Nat) : Option Nat :=
  let th := tget 0 x.threshold file
  if !x.delivering.contains file then none
  else ((x.imsic.filter (fun i => i.1 == file && x.enabled.contains i && (th == 0 || i.2 < th))).map (·.2)).min?

/-- The guest file that hstatus selects. -/
def guestFile (x : Hart) : Nat := ((x.csr Csr.hstatus).toNat >>> 12) % 64 + 1

/-- An interrupt is pending: its bit was written, or a file presents one. Guest file `n` is file `n` + 1. -/
def interruptPending (x : Hart) (code : Nat) : Bool :=
  (x.csr Csr.mip).getLsbD code ||
  (match code with
   | 11 => (fileTop x 0).isSome
   | 9 => (fileTop x 1).isSome
   | 10 => 1 < guestFile x && (fileTop x (guestFile x)).isSome
   | 12 => (List.range 5).any (fun g => (x.csr Csr.hgeie).getLsbD (g + 1) && (fileTop x (g + 2)).isSome)
   | _ => false)

/-- A pending interrupt is enabled where it would be taken. -/
def interruptEnabled (x : Hart) (code : Nat) : Bool :=
  (x.csr Csr.mie).getLsbD code &&
  (match interruptTo x code with
   | .m => x.mode != .m || (x.csr Csr.mstatus).getLsbD 3
   | .vs => x.mode == .vu || (x.mode == .vs && (x.csr Csr.vsstatus).getLsbD 1)
   | _ => x.mode != .m && (x.mode != .s || (x.csr Csr.mstatus).getLsbD 1))

/-- The interrupts in their order of priority. -/
def interruptOrder : List Nat := [11, 3, 7, 9, 1, 5, 12, 10, 2, 6]

/-- The first interrupt that is pending and enabled is taken. -/
def hartInterrupt (h : Nat) (s : State) : State :=
  let x := s.hart h
  match interruptOrder.find? (fun c => interruptPending x c && interruptEnabled x c) with
  | some c => s.setHart h (trapEntry x (interruptTo x c) true c 0 0).ends
  | none => s

/-- A file's registers by selector: 0x70 delivery, 0x72 threshold, 0x80 to 0xBF pending and 0xC0 to 0xFF enabled identities, 64
to an even selector. -/
def hartImsic (h file sel : Nat) (value : Dword) (s : State) : State :=
  let x := s.hart h
  let ids (base : Nat) : List (Nat × Nat) :=
    ((List.range 64).filter (fun i => value.getLsbD i && 0 < 32 * (sel - base) + i)).map (fun i => (file, 32 * (sel - base) + i))
  let others (base : Nat) (l : List (Nat × Nat)) : List (Nat × Nat) :=
    l.filter (fun i => i.1 != file || i.2 / 64 != (sel - base) / 2)
  s.setHart h (if sel = 0x70 then
      { x with delivering := if value == 1 then addTo file x.delivering else x.delivering.filter (· != file) }
    else if sel = 0x72 then { x with threshold := tput 0 x.threshold file (value.toNat % 2 ^ 11) }
    else if 0x80 ≤ sel && sel < 0xC0 && sel % 2 = 0 then { x with imsic := others 0x80 x.imsic ++ ids 0x80 }
    else if 0xC0 ≤ sel && sel < 0x100 && sel % 2 = 0 then { x with enabled := others 0xC0 x.enabled ++ ids 0xC0 }
    else x)

/-! ## Reads and writes of the registers -/

/-- The register that a number names in a mode: a guest's supervisor numbers name the guest's own. -/
def csrName (x : Hart) (n : Nat) : Nat := if x.mode == .vs && n / 256 == 1 then n + 0x100 else n

/-- The exception that an access of a register raises, if any. -/
def csrBad (x : Hart) (n : Nat) (write : Bool) : Option Nat :=
  let need := n / 256 % 4
  if write && n / 1024 = 3 then some 2
  else if need ≤ x.mode.level && !(need = 2) then none
  else if need = 2 && (x.mode == .m || x.mode == .s) then none
  else if x.mode.virt && need != 3 then some 22 else some 2

/-- The bits of the machine's status that the supervisor's shows. -/
def sstatusMask : Dword := 0xC0122#64

/-- The file whose first interrupt a register shows, and a write of it claims. -/
def topFile (x : Hart) (k : Nat) : Option Nat :=
  if k = Csr.mtopei then some 0 else if k = Csr.stopei then some 1
  else if k = Csr.vstopei && 1 < guestFile x then some (guestFile x) else none

/-- The value of a register. -/
def csrRead (x : Hart) (h n : Nat) : Dword :=
  let k := csrName x n
  if let some f := topFile x k then
    (match fileTop x f with | some i => BitVec.ofNat 64 (i * 2 ^ 16 + i) | none => 0) else
  if k = Csr.mhartid then BitVec.ofNat 64 h
  else if k = Csr.sstatus then x.csr Csr.mstatus &&& sstatusMask
  else if k = Csr.sie then x.csr Csr.mie &&& x.csr Csr.mideleg
  else if k = Csr.sip then x.csr Csr.mip &&& x.csr Csr.mideleg
  else x.csr k

/-- A register is written; a translation mode that R331 does not implement leaves its register as it is. -/
def csrWrite (x : Hart) (n : Nat) (v : Dword) : Hart :=
  let k := csrName x n
  if let some f := topFile x k then
    { x with imsic := x.imsic.filter (fun i => i.1 != f || some i.2 != fileTop x f) } else
  let mix (m : Nat) (mask : Dword) : Hart := x.setCsr m ((x.csr m &&& ~~~mask) ||| (v &&& mask))
  if k = Csr.sstatus then mix Csr.mstatus sstatusMask
  else if k = Csr.sie then mix Csr.mie (x.csr Csr.mideleg)
  else if k = Csr.sip then mix Csr.mip (x.csr Csr.mideleg &&& 2#64)
  else if (k = Csr.satp || k = Csr.vsatp || k = Csr.hgatp) && !([0, 8, 9].contains (v.toNat >>> 60)) then x
  else x.setCsr k v

end Sys2Proof.Machine
end

