-- ==== Sys2Proof/Machine/Residency.lean ====
section
/-! DEFINITION. Residency (R282 to R285, R289): pins, resident frames, the choice of a victim, its eviction to the
backing store, and the return of an evicted page. -/
namespace Sys2Proof.Machine

/-- A size of 2^`n` bytes in 64-KiB units (R284). -/
def frameUnits (n : Nat) : Nat := 2 ^ (n - 16)

/-- A page is pinned: a tag in use whose leases touch it has had its pages pinned (R283). -/
def pagePinned (s : State) (part addr shift : Nat) : Bool :=
  s.launches.any (fun l => l.2.used && l.2.pinned && l.2.part == part &&
    (l.2.rec_.leases.take l.2.rec_.nLease).any (fun r =>
      windowOf r.1 == .global && r.1.toNat < addr + 2 ^ shift && addr < r.1.toNat + r.2))

/-- The resident units of a partition (R284). -/
def residentUnits (s : State) (part : Nat) : Nat :=
  ((partLeaves s part).map (fun x => frameUnits x.2.shift)).sum

/-- By how many units a partition is above its G. -/
def aboveG (s : State) (part : Nat) : Nat := residentUnits s part - (s.part part).inForce.framesG

/-- Of two candidate pages the one that goes first: the higher age, then the lower address (R285). -/
def goesFirst (ages : Tbl Nat) (a b : Nat × Leaf) : Bool :=
  let x := tget 0 ages a.1
  let y := tget 0 ages b.1
  y < x || (x == y && a.1 ≤ b.1)

/-- The page of a partition that R285 takes among its unpinned ones, of whatever size and die. -/
def oldestPage (s : State) (part : Nat) : Option (Nat × Leaf) :=
  ((partLeaves s part).filter (fun x => !pagePinned s part x.1 x.2.shift)).foldl (fun b x =>
      match b with
      | some y => if goesFirst (s.part part).ages x y then some x else some y
      | none => some x) none

/-- The victim where partition `req` needs a frame of a size: of the partition furthest above its G that has an unpinned
page, or of the requester itself where it is at B or no other is above its G (R285). -/
def victimOf (s : State) (req shift : Nat) : Option (Nat × (Nat × Leaf)) :=
  let page (p : Nat) : Option (Nat × (Nat × Leaf)) := (oldestPage s p).map (fun x => (p, x))
  let others := (List.range 64).filter (fun p => p != req && (s.part p).inForce.v && 0 < aboveG s p && (page p).isSome)
  let atB := (s.part req).inForce.framesB < residentUnits s req + frameUnits shift
  if atB || others.isEmpty then page req
  else
    let best := others.foldl (fun b p => match b with
      | some q => if aboveG s q < aboveG s p then some p else some q
      | none => some p) none
    best.bind page

/-! ## Free frames -/

/-- A frame holds no byte of another. -/
def framesApart (a b : Nat × Nat) : Bool := a.1 + 2 ^ a.2 ≤ b.1 || b.1 + 2 ^ b.2 ≤ a.1

/-- A frame of 2^`n` bytes on a die out of the free ones, with those that stay free: one of its size; or the first part of a
larger one; or smaller ones that make it up. Which of several is the firmware's own (log entry 115). -/
def takeFrame (fs : List (Nat × Nat)) (die n : Nat) : Option (Nat × List (Nat × Nat)) :=
  let here := fs.filter (fun f => paDie f.1 == die)
  match here.find? (fun f => f.2 == n) with
  | some f => some (f.1, fs.filter (· != f))
  | none =>
    match here.find? (fun f => n < f.2) with
    | some f =>
      some (f.1, fs.filter (· != f) ++ (List.range (2 ^ (f.2 - n) - 1)).map (fun i => (f.1 + (i + 1) * 2 ^ n, n)))
    | none =>
      (here.find? (fun f => f.1 % 2 ^ n == 0 &&
        ((here.filter (fun g => f.1 ≤ g.1 && g.1 + 2 ^ g.2 ≤ f.1 + 2 ^ n)).map (fun g => 2 ^ g.2)).sum == 2 ^ n)).map (fun f =>
          (f.1, fs.filter (fun g => framesApart g (f.1, n))))

/-- The sizes of a page: 64 KiB, 2 MiB and 1 GiB (R277). -/
def pageSizes : List Nat := [16, 21, 30]

/-- The residency firmware has a free frame of the package's memory: it holds nothing of a page, and is not free already
(R285). -/
def poolFrame (pa shift : Nat) (s : State) : State :=
  let f := (pa, shift)
  if !pageSizes.contains shift || pa % 2 ^ shift != 0 || paDie pa / 4 != s.package.nodePos || 2 ^ 46 ≤ pa ||
     !s.freeFrames.all (framesApart f) || !s.evicts.all (fun x => framesApart f (x.frame, x.shift)) ||
     !(List.range 64).all (fun p => (partLeaves s p).all (fun x => framesApart f (x.2.frame, x.2.shift))) then s
  else { s with freeFrames := s.freeFrames ++ [f] }

/-! ## Eviction and return -/

/-- An entry of a page table is written at its home. -/
def writeEntry (s : State) (at_ : Nat) (v : Dword) : State :=
  homeWrite (clearOwners s (physWords at_ 8)) at_ (leBytes 8 v.toNat)

/-- A page's eviction begins: its entry holds V = 0 with the backing locator, and a fence starts (R285, R281). The
locator is the firmware's own: a free value. -/
def startEvict (s : State) (part addr : Nat) (lf : Leaf) : State :=
  let d := s.drawFree
  let loc := d.1 &&& ~~~1#64
  let e := rdNat s.mem lf.addr 8
  let x : Evict :=
    { part := part, addr := addr, shift := lf.shift, frame := lf.frame, attrs := e % 2 ^ 9 - e % 2, entry := lf.addr,
      locator := loc, fence := d.2.seq }
  let t := startFence (writeEntry d.2 lf.addr loc) true
  { t with evicts := t.evicts ++ [x] }

/-- The eviction's fence has ended: the frame is copied to the backing store, with its poison, and is free. -/
def evictEnd (part addr : Nat) (s0 : State) : State :=
  match s0.evicts.find? (fun x => x.part == part && x.addr == addr) with
  | none => s0
  | some x =>
    if s0.fences.any (fun f => f.id == x.fence) then s0
    else
      let n := 2 ^ x.shift
      let s := clearOwners s0 (ownedIn s0 x.frame n)
      let b : Backed :=
        { page := x,
          cells := (s.mem.filter (fun c => x.frame ≤ c.1 && c.1 < x.frame + n)).map (fun c => (c.1 - x.frame, c.2)),
          poison := poisonIn s x.frame n }
      { s with evicts := s.evicts.filter (· != x), backing := s.backing ++ [b],
               freeFrames := s.freeFrames ++ [(x.frame, x.shift)] }

/-- The place of the entry of a page of 2^`shift` bytes under a table of level `lvl`, where it says that the page is not
resident (R277, R278). -/
def absentEntry (s : State) (off shift : Nat) : Nat → Nat → Option Nat
  | 0, _ => none
  | lvl + 1, tbl =>
    let sh := match lvl + 1 with | 4 => 39 | 3 => 30 | 2 => 21 | _ => 16
    let at_ := tbl + 8 * ((off >>> sh) % (if lvl = 0 then 32 else 512))
    let e := rdNat s.mem at_ 8
    if sh == shift then (if e.testBit 0 then none else some at_)
    else if e.testBit 0 && !e.testBit 1 then absentEntry s off shift lvl (pteAddr e)
    else none

/-- The backing store holds a page of a partition that is not resident, as its contents and what its leaf is to hold beside
ADDR and V: the firmware, or the host through it, has put it there (R278, R282; log entry 115). -/
def backPage (part addr shift attrs : Nat) (cells : List Host.Cell) (s : State) : State :=
  let die := addr / 2 ^ 56
  let root := rdNat s.mem ((s.die die).root.toNat + 8 * part) 8
  let listed := (s.backing.map (·.page) ++ s.evicts).any (fun x => x.part == part && !framesApart (addr, shift) (x.addr, x.shift))
  match (if root.testBit 0 then absentEntry s (addr % 2 ^ 56) shift 4 (pteAddr root) else none) with
  | none => s
  | some at_ =>
    if !pageSizes.contains shift || addr % 2 ^ shift != 0 || listed || attrs &&& 0x31D != attrs &&& 0x0C || !attrs.testBit 1 ||
       2 ^ 9 ≤ attrs || (attrs >>> 5) % 4 == 3 || !Memory.wf cells || !cells.all (fun c => c.1 < 2 ^ shift) then s
    else
      let x : Evict :=
        { part := part, addr := addr, shift := shift, frame := 0, attrs := attrs, entry := at_,
          locator := BitVec.ofNat 64 (rdNat s.mem at_ 8), fence := 0 }
      { s with backing := s.backing ++ [{ page := x, cells := cells, poison := [] }] }

/-- A page comes back into a frame, with `free` left: its bytes first, then its entry. No cache keeps a copy of what the
frame held before. -/
def putBack (s : State) (b : Backed) (frame : Nat) (free : List (Nat × Nat)) : State :=
  let n := 2 ^ b.page.shift
  let t := dropRange (clearOwners s (ownedIn s frame n)) frame n
  let rest := t.mem.filter (fun c => c.1 < frame || frame + n ≤ c.1)
  let u : State :=
    { t with mem := b.cells.foldl (fun m c => wrByte m (frame + c.1) c.2) rest,
             memPoison := t.memPoison.filter (fun c => c < frame / 64 || (frame + n) / 64 ≤ c) ++
               b.poison.map (frame / 64 + ·),
             backing := t.backing.filter (· != b),
             freeFrames := free }
  writeEntry u b.page.entry (BitVec.ofNat 64 (frame + b.page.attrs + 1))

/-- A launch's lease touches a page in the backing store. -/
def wantsPage (l : Launch) (b : Backed) : Bool :=
  l.used && l.started && !l.pinned && !l.terminating && !l.complete && l.part == b.page.part &&
  (l.rec_.leases.take l.rec_.nLease).any (fun r =>
    windowOf r.1 == .global && r.1.toNat < b.page.addr + 2 ^ b.page.shift && b.page.addr < r.1.toNat + r.2)

/-- The residency firmware works for a page in the backing store that a waiting launch needs: it takes a free frame of the
owning die where the partition stays within B, else it evicts the next victim, one at a time (R282, R284, R285). A page
whose entry firmware has changed since is no longer its concern. -/
def bringPage (tag addr : Nat) (s : State) : State :=
  let l := s.launch tag
  match s.backing.find? (fun b => b.page.addr == addr && wantsPage l b) with
  | none => s
  | some b =>
    let x := b.page
    if rdNat s.mem x.entry 8 != x.locator.toNat then s
    else
      let room := residentUnits s l.part + frameUnits x.shift ≤ (s.part l.part).inForce.framesB
      match (if room then takeFrame s.freeFrames (addr / 2 ^ 56) x.shift else none) with
      | some f => putBack s b f.1 f.2
      | none =>
        if !s.evicts.isEmpty then s
        else match victimOf s l.part x.shift with
          | some v => startEvict s v.1 v.2.1 v.2.2
          | none => s

end Sys2Proof.Machine
end

