-- ==== Sys2Proof/Machine/Hart.lean ====
section
/-! DEFINITION. The application cores' accesses (R331 to R337): device memory through a store record and clean caches,
instruction fetches, the notify pages and IMSIC files, LR, SC, AMO, fences and cache-block operations. The instructions
themselves are the RISC-V profile's (log entry 116). -/
namespace Sys2Proof.Machine

/-- The core and the context of an application core. -/
def hartCore (h : Nat) : Nat := 2048 + h
def hartCtx (h : Nat) : Nat := 2 ^ 60 + h
/-- Entries of its record (R333). -/
def hartRecord : Nat := 64

/-! ## Registers -/

/-- x0 reads as 0. -/
def hartReg (s : State) (h r : Nat) : Dword := if r = 0 then 0 else tget 0 (s.hart h).regs r
/-- A write of x0 is dropped. -/
def setHartReg (s : State) (h r : Nat) (v : Dword) : State :=
  if r = 0 then s else s.setHart h { s.hart h with regs := tput 0 (s.hart h).regs r v }

/-! ## Physical addresses (R332) -/

inductive HartPlace where
  | memory (leaf : Leaf)
  | notify (iface off : Nat)
  | imsic (hart file off : Nat)
  /-- An access fault. -/
  | none
  deriving DecidableEq, Repr

/-- The interface is the partition's. -/
def hartIface (s : State) (part i : Nat) : Bool := (s.iface i).vf == some part

def hartPlace (s : State) (h addr : Nat) : HartPlace :=
  let off := addr % 2 ^ 46
  match hartPart s h with
  | none => .none
  | some p =>
    if addr / 2 ^ 46 = 0 then (match hartLeaf s h addr with | some lf => .memory lf | none => .none)
    else if addr / 2 ^ 46 != 1 then .none
    else if off < 4096 * 1024 then (if hartIface s p (off / 4096) then .notify (off / 4096) (off % 4096) else .none)
    else
      let k := off - 2 ^ 32
      if 2 ^ 32 ≤ off && k / 0x8000 < 512 && k % 0x8000 / 4096 < 7 && hartPart s (k / 0x8000) == some p then
        .imsic (k / 0x8000) (k % 0x8000 / 4096) (k % 4096)
      else .none

/-- A poisoned load or fetch: an access fault, and a RAS record for a capture to come (R336). -/
def hartPoisoned (s : State) (h addr code : Nat) : State :=
  let t := hartFault s h addr code
  t.setHart h { t.hart h with rasLog := (t.hart h).rasLog ++ [addr] }

/-- The core may act: it has a partition that is not frozen, and was not removed from it. -/
def hartAwake (s : State) (h : Nat) : Option Nat :=
  match hartPart s h with
  | none => none
  | some p => if s.frozen p || (s.hart h).frozen then none else some p

/-- An operation of an application core: true with its outcome when it is done; false where it stands until its
conditions hold. No other operation of the core passes one that stands. `heldAt` is its order number meanwhile, by which
it waits for a budget (R343). -/
def hartRun (i : HartOp) (h : Nat) (s : State) (act : State → Bool × State) : State :=
  let x := s.hart h
  match hartAwake s h, x.held with
  | none, _ => s
  | some _, some j =>
    if j != i then s
    else
      let r := act s
      r.2.setHart h { r.2.hart h with held := if r.1 then none else some i }
  | some _, none =>
    let r := act (s.tick.setHart h { x with heldAt := s.seq })
    r.2.setHart h { r.2.hart h with held := if r.1 then none else some i }

/-! ## Reads -/

/-- The page is poisoned, or a table line that maps it (R279, checks 7 and 8). -/
def pagePoison (s : State) (lf : Leaf) (addr : Nat) : Bool := lf.bad || lf.p || frameLost s addr

/-- The page is poisoned, or the chunk. -/
def hartPoison (s : State) (lf : Leaf) (addr : Nat) : Bool := pagePoison s lf addr || chunkPoisoned s addr

/-- The bytes that a load reads: its own record's, else its caches', else the home's; none where they are poisoned. -/
def hartRead (s : State) (h addr size : Nat) (lf : Leaf) : Option Nat :=
  let bs := loadBytes (s.core (hartCore h)) (hartCtx h) (BitVec.ofNat 64 addr) 0 (rdBytes s.mem addr size) (fun _ => true)
  let bad := bs.any (fun b => (b.2.2 && hartPoison s lf addr) || (match b.2.1 with | some x => x.1.poison | none => false))
  if bad then none else some (leNat (bs.map (·.1)))

/-- Some byte of an access is neither in the core's record nor in its L1. -/
def hartFar (s : State) (h addr size : Nat) : Bool :=
  (loadBytes (s.core (hartCore h)) (hartCtx h) (BitVec.ofNat 64 addr) 0 (List.replicate size 0) (fun _ => true)).any (·.2.2)

/-- Lines of 64 B of the L1 data cache, 64 KiB, and of the L2, 1 MiB (R333). -/
def hartL1Lines : Nat := 1024
def hartL2Lines : Nat := 16384

/-- A cache of `size` lines has no room for a line. -/
def cacheFull (size line : Nat) (t : Tbl Word) : Bool :=
  let ls := (t.map (·.1 / 16)).eraseDups
  !ls.contains line && size ≤ ls.length

/-- A cache takes a line; where it is full, the line that `pick` chooses goes. -/
def cacheTake (size pick line : Nat) (word : Nat → Word) (t : Tbl Word) : Tbl Word :=
  let ls := (t.map (·.1 / 16)).eraseDups
  let gone := ls.getD (pick % ls.length) 0
  (List.range 16).foldl (fun (u : Tbl Word) i => tins (16 * line + i) (word i) u)
    (if cacheFull size line t then t.filter (fun x => x.1 / 16 != gone) else t)

/-- The L1 data cache, where `data` says so, and the L2 take a clean copy of the line from its home, which knows of it (R333);
where they are full a free value names the line that goes (log entry 107). -/
def hartFill (s : State) (h addr : Nat) (data : Bool := true) : State :=
  let k := hartCore h
  let line := addr / 64
  let c := s.core k
  if chunkPoisoned s addr || c.off then s
  else
    let d := s.drawFree
    let word (i : Nat) : Word := BitVec.ofNat 32 (rdNat s.mem (64 * line + 4 * i) 4)
    (if (data && cacheFull hartL1Lines line c.l1) || cacheFull hartL2Lines line c.l2 then d.2 else s).updCore k (fun c =>
      { c with l1 := if data then cacheTake hartL1Lines d.1.toNat line word c.l1 else c.l1,
               l2 := cacheTake hartL2Lines d.1.toNat line word c.l2 })

/-- Every word of a line is in the L2. -/
def inL2 (s : State) (h addr : Nat) : Bool :=
  (List.range 16).all (fun i => (tfind (addr / 64 * 16 + i) (s.core (hartCore h)).l2).isSome)

/-- The L1 data cache takes a line of the L2. -/
def hartPromote (s : State) (h addr : Nat) : State :=
  let c := s.core (hartCore h)
  let line := addr / 64
  if !inL2 s h addr || c.off then s
  else
    let d := s.drawFree
    (if cacheFull hartL1Lines line c.l1 then d.2 else s).updCore (hartCore h) (fun c =>
      { c with l1 := cacheTake hartL1Lines d.1.toNat line (fun i => tget 0 c.l2 (16 * line + i)) c.l1 })

/-- A read of order number `q` goes past the core's caches to its home: from the home's copy, else a line or a chunk of memory
(R342, R343); none where the budget is spent. -/
def hartHome (s : State) (h q addr : Nat) (lf : Leaf) : Option State :=
  let p := (hartPart s h).getD 0
  let al := allocates s p addr lf.pol
  if inSlice s addr then some (sliceTouch s addr)
  else if !budgetOk s p 0 q then none
  else
    let t := charge s p 0 q (if al then 128 else 64)
    some (if al then sliceFill t p (addr / 128) else t)

/-- A read of memory by an instruction that reports an access fault as `code`: of the record, the L1, the L2 and the home in
this order. -/
def hartAccess (s : State) (h addr size code : Nat) (lf : Leaf) (use_ : State → Nat → State) : Bool × State :=
  let take (t : State) (fill : State → State) : Bool × State :=
    match hartRead t h addr size lf with
    | none => (true, hartPoisoned t h addr code)
    | some v => (true, use_ (fill t) v)
  let near := hartPromote s h addr
  if pagePoison s lf addr then (true, hartPoisoned s h addr code)
  else if !hartFar s h addr size then take s id
  else if !hartFar near h addr size then take near id
  else if linkWaits s addr then (false, s)
  else match hartHome s h (s.hart h).heldAt addr lf with
    | none => (false, stall s ((hartPart s h).getD 0) 0 (s.hart h).heldAt)
    | some t => take t (fun u => hartFill u h addr)

/-- An application core fetches instructions: its instruction cache takes the line, from the L2 or the home (R333); poison is an
access fault (R336). A fetch that finds its budget spent waits under one order number (R343). What the core does with the
bytes is its own (log entry 116). -/
def hartFetch (h addr : Nat) (s : State) : State :=
  let k := hartCore h
  if (hartAwake s h).isNone || (s.hart h).held.isSome then s
  else match hartPlace s h addr with
    | .memory lf =>
      let ended (u : State) : State := u.setHart h { u.hart h with fetching := none }
      let install (u : State) (bs : List Byte) : State :=
        if (u.core k).ioff then ended u else instrInstall (ended u) k (addr / 64) bs
      if (tfind (addr / 64) (s.core k).l1i).isSome then ended s
      else if pagePoison s lf addr then hartPoisoned s h addr 1
      else if inL2 s h addr then
        install s ((List.range 16).flatMap (fun i => leBytes 4 (tget 0 (s.core k).l2 (addr / 64 * 16 + i)).toNat))
      else if linkWaits s addr then s
      else
        let t := if (s.hart h).fetching.any (fun f => f.1 == addr) then s
          else s.tick.setHart h { s.hart h with fetching := some (addr, s.seq) }
        let q := ((t.hart h).fetching.map (·.2)).getD 0
        (match hartHome t h q addr lf with
         | none => stall t ((hartPart t h).getD 0) 0 q
         | some u =>
           if chunkPoisoned u addr then hartPoisoned u h addr 1
           else install (hartFill u h addr false) (rdBytes u.mem (addr / 64 * 64) 64))
    | _ => hartFault s h addr 1

/-- A value of `size` bytes in a register. -/
def hartExtend (size : Nat) (signed : Bool) (v : Nat) : Dword :=
  if signed then BitVec.ofInt 64 (toInt (8 * size) v) else BitVec.ofNat 64 v

/-- HART_LOAD. A notify page and an IMSIC file read as 0 (R262). -/
def execHartLoad (hart rd addr size : Nat) (signed : Bool) (s : State) : Out :=
  .next (hartRun (.load rd addr size signed) hart s (fun s =>
    match hartPlace s hart addr with
    | .none => (true, hartFault s hart addr 5)
    | .memory lf => hartAccess s hart addr size 5 lf (fun t v => setHartReg t hart rd (hartExtend size signed v))
    | _ => (true, setHartReg s hart rd 0)))

/-! ## Stores -/

/-- A store enters the record, where it has room (R228, R333). -/
def hartWrite (s : State) (h addr : Nat) (bs : List Byte) (rel : Bool) : Bool × State :=
  let c := s.core (hartCore h)
  let p : Dword := BitVec.ofNat 64 addr
  if (openEntry c (hartCtx h) (chunkOf p)).isNone && hartRecord ≤ c.record.length then (false, s)
  else (true, storeRecord s (hartCore h) (hartCtx h) 0 0 p bs rel false)

/-- HART_STORE: to memory, to a notify page as a doorbell (R262, R337), or to an IMSIC file's interrupt register. -/
def execHartStore (hart rs addr size : Nat) (s : State) : Out :=
  .next (hartRun (.store rs addr size) hart s (fun s =>
    let v := hartReg s hart rs
    match hartPlace s hart addr with
    | .none => (true, hartFault s hart addr 7)
    | .memory lf => if lf.w then hartWrite s hart addr (leBytes size v.toNat) false else (true, hartFault s hart addr 7)
    | .notify i 0 => (true, doorbellTail i size v s)
    | .notify i 8 => (true, doorbellEvhead i size v s)
    | .notify i _ => (true, ifaceError s i)
    | .imsic k f o =>
      (true, if o = 0 && size = 4 then
        s.setHart k { s.hart k with imsic := (s.hart k).imsic ++ [(f, v.toNat % 2 ^ 32)] } else s)))

/-- HART_ACCESS_FAULT: an access outside the partition (R332). The step does not name the kind of access, so which of the three
causes it has is a free value. -/
def execHartAccessFault (hart addr : Nat) (s : State) : Out :=
  let d := s.drawFree
  .next (match hartPart s hart, hartPlace s hart addr with
    | some p, .none =>
      if s.frozen p || (s.hart hart).frozen then s else hartFault d.2 hart addr ([1, 5, 7].getD (d.1.toNat % 3) 5)
    | _, _ => s)

/-! ## LR, SC and AMO (R334) -/

/-- The home records the core as the owner of a word, and revokes it from another. -/
def hartOwn (core : Nat) (s : State) (w : Nat) : State :=
  if (tfind w (s.core core).owned).isSome then s
  else
    let s1 := clearOwner s w
    { s1.updCore core (fun c => { c with owned := tins w w c.owned }) with dir := tins w core s1.dir }

/-- HART_LR. Its request for ownership waits for a migration as a write's does (R335). -/
def execHartLr (hart rd addr size : Nat) (aq : Bool) (s : State) : Out :=
  .next (hartRun (.lr rd addr size aq) hart s (fun s =>
    match hartPlace s hart addr with
    | .memory lf =>
      if lf.m then (false, s) else
      hartAccess ((physWords addr size).foldl (hartOwn (hartCore hart)) s) hart addr size 5 lf (fun t v =>
        setHartReg (t.setHart hart { t.hart hart with resv := some (addr, size) }) hart rd (hartExtend size true v))
    | _ => (true, hartFault s hart addr 5)))

/-- The reservation stands on the bytes, and their words are still owned. -/
def hartReserved (s : State) (h addr size : Nat) : Bool :=
  (match (s.hart h).resv with | some (a, n) => a ≤ addr && addr + size ≤ a + n | none => false) &&
  (physWords addr size).all (fun w => (tfind w (s.core (hartCore h)).owned).isSome)

/-- HART_SC: 0 in `rd` for success, 1 for failure; either ends the reservation (log entry 8). -/
def execHartSc (hart rd rs addr size : Nat) (rl : Bool) (s : State) : Out :=
  let ends (t : State) (v : Dword) : State := setHartReg (t.setHart hart { t.hart hart with resv := none }) hart rd v
  .next (hartRun (.sc rd rs addr size rl) hart s (fun s =>
    match hartPlace s hart addr with
    | .memory lf =>
      if !lf.w then (true, hartFault s hart addr 7)
      else if !hartReserved s hart addr size then (true, ends s 1)
      else
        let r := hartWrite s hart addr (leBytes size (hartReg s hart rs).toNat) rl
        if r.1 then (true, ends r.2 0) else r
    | _ => (true, hartFault s hart addr 7)))

/-- What an AMO writes. -/
def amoNew (op : AmoOp) (n old b : Nat) : Nat :=
  let a := old % 2 ^ n
  let c := b % 2 ^ n
  match op with
  | .swap => c
  | .add => (a + c) % 2 ^ n
  | .xor => Nat.xor a c
  | .and => Nat.land a c
  | .or => Nat.lor a c
  | .min => if toInt n a ≤ toInt n c then a else c
  | .max => if toInt n a ≤ toInt n c then c else a
  | .minu => min a c
  | .maxu => max a c

/-- The core's record holds bytes of one of the words. -/
def hartHolds (s : State) (h : Nat) (ws : List Nat) : Bool :=
  (s.core (hartCore h)).record.any (fun e => e.words.any (fun w => ws.contains (e.key s + w)))

/-- The release conditions of R125 for the core. -/
def hartReleased (s : State) (h : Nat) : Bool := releaseOk s (hartCtx h) 0 s.seq

/-- HART_AMO, performed at the word's home, which revokes the word first (R124); its write registers the core as the owner
(R229, R333). It is charged as an atomic of a
kernel is (R342). -/
def execHartAmo (hart rd rs addr size : Nat) (op : AmoOp) (aq rl : Bool) (s : State) : Out :=
  .next (hartRun (.amo rd rs addr size op aq rl) hart s (fun s =>
    match hartPlace s hart addr with
    | .memory lf =>
      let p := (hartPart s hart).getD 0
      let q := (s.hart hart).heldAt
      if !(lf.w && lf.a) then (true, hartFault s hart addr 7)
      else if lf.m || linkWaits s addr || hartHolds s hart (physWords addr size) || (rl && !hartReleased s hart) then (false, s)
      else if hartPoison s lf addr then (true, hartPoisoned s hart addr 7)
      else if !budgetOk s p 3 q then (false, stall s p 3 q)
      else if !budgetOk s p 1 q then (false, stall s p 1 q)
      else match hartHome s hart q addr lf with
        | none => (false, stall s p 0 q)
        | some t =>
          let s1 := charge (charge (hostBack (clearOwners t (physWords addr size)) addr) p 3 q 1) p 1 q 64
          let old := rdNat s1.mem addr size
          let s2 := homeWrite s1 addr (leBytes size (amoNew op (8 * size) old (hartReg s hart rs).toNat))
          (true, setHartReg ((physWords addr size).foldl (hartOwn (hartCore hart)) s2) hart rd (hartExtend size true old))
    | _ => (true, hartFault s hart addr 7)))

/-! ## Fences and cache-block operations (R334) -/

/-- HART_FENCE: a release stands until the conditions of R125 hold. A hart's loads are fresh (R333), so an acquire
leaves nothing to do. -/
def execHartFence (hart : Nat) (acquire release : Bool) (s : State) : Out :=
  .next (hartRun (.fence acquire release) hart s (fun s => (!release || hartReleased s hart, s)))

/-- HART_FENCE_I: once the record has drained. -/
def execHartFenceI (hart : Nat) (s : State) : Out :=
  .next (hartRun (.fenceI) hart s (fun s =>
    if (s.core (hartCore hart)).record.isEmpty then (true, s.updCore (hartCore hart) (fun c => { c with l1i := [] }))
    else (false, s)))

/-- SFENCE.VMA and HFENCE: the core's own stores are visible to its later implicit accesses once its record has drained (R335).
Its TLBs keep nothing that its home has not (log entry 116). -/
def hartSfence (hart : Nat) (s : State) : State :=
  hartRun .sfence hart s (fun s => ((s.core (hartCore hart)).record.isEmpty, s))

/-- The caches drop a block's copies. -/
def hartDrop (s : State) (h addr : Nat) : State :=
  s.updCore (hartCore h) (fun c =>
    { c.loseLines (· == addr / 64) with l1Owned := c.l1Owned.filter (fun w => w / 16 != addr / 64) })

/-- A cache-block operation stands until the entries that fall in the block have drained; no store data is lost. -/
def cboRun (i : HartOp) (h addr : Nat) (s : State) (after_ : State → State) : State :=
  hartRun i h s (fun s =>
    match hartPlace s h addr with
    | .memory _ =>
      if (s.core (hartCore h)).record.any (fun e => e.chunk.toNat / 64 == addr / 64) then (false, s) else (true, after_ s)
    | _ => (true, hartFault s h addr 7))

/-- CBO_CLEAN. -/
def execCboClean (hart addr : Nat) (s : State) : Out := .next (cboRun (.clean addr) hart addr s id)
/-- CBO_FLUSH. -/
def execCboFlush (hart addr : Nat) (s : State) : Out :=
  .next (cboRun (.flush addr) hart addr s (fun s => hartDrop s hart addr))
/-- CBO_INVAL. -/
def execCboInval (hart addr : Nat) (s : State) : Out :=
  .next (cboRun (.inval addr) hart addr s (fun s => hartDrop s hart addr))
/-- CBO_ZERO: 64 zero bytes through the record. -/
def execCboZero (hart addr : Nat) (s : State) : Out :=
  .next (hartRun (.zero addr) hart s (fun s =>
    match hartPlace s hart addr with
    | .memory lf =>
      if lf.w then hartWrite s hart (addr / 64 * 64) (List.replicate 64 0) false else (true, hartFault s hart addr 7)
    | _ => (true, hartFault s hart addr 7)))

end Sys2Proof.Machine
end

