-- ==== Sys2Proof/Machine/HartVirtual.lean ====
section
/-! DEFINITION. An application core's virtual addresses (R331): Sv39 and Sv48, and Sv39x4 and Sv48x4 for guests, as the RISC-V
manuals define them (log entry 116); its operations at virtual addresses, and what an instruction of its profile leaves. -/
namespace Sys2Proof.Machine

/-! ## Page-table walks -/

/-- What an access is, for its checks and the codes of its faults. -/
inductive SvKind where
  | fetch | load | store
  deriving DecidableEq, Repr

namespace SvKind
def access : SvKind → Nat | .fetch => 1 | .load => 5 | .store => 7
def page : SvKind → Nat | .fetch => 12 | .load => 13 | .store => 15
def guest : SvKind → Nat | .fetch => 20 | .load => 21 | .store => 23
end SvKind

/-- The outcome of a translation: a physical address; a fault, with the guest-physical address of a guest-page fault; or a wait
for a link (R357). -/
inductive SvOut where
  | ok (pa : Nat)
  | fault (code gpa : Nat)
  | waits
  deriving DecidableEq, Repr

/-- The levels of a translation register's mode: none translates nothing. -/
def svLevels (reg : Dword) : Option Nat :=
  match reg.toNat >>> 60 with
  | 8 => some 3
  | 9 => some 4
  | _ => none

/-- A page-table entry at a physical address, read for a walk (R332, R335, R336). -/
def pteRead (s : State) (h : Nat) (k : SvKind) (a : Nat) : SvOut × Nat :=
  match hartPlace s h a with
  | .memory lf =>
    if hartPoison s lf a then (.fault k.access 0, 0)
    else if linkWaits s a then (.waits, 0) else (.ok a, rdNat s.mem a 8)
  | _ => (.fault k.access 0, 0)

/-- A leaf allows an access: its permissions, its A bit, and for a store its D bit (Svade). -/
def leafAllows (user sum mxr : Bool) (k : SvKind) (e : Nat) : Bool :=
  let u := e.testBit 4
  (if user then u else !u || (sum && k != .fetch)) && e.testBit 6 &&
  (match k with
   | .fetch => e.testBit 3
   | .load => e.testBit 1 || (mxr && e.testBit 3)
   | .store => e.testBit 2 && e.testBit 7)

/-- Walk from a table with `lvl` levels left of `top`: `rd` reads an entry, `allows` checks a leaf, and `bad` is the fault of
the stage. The table of the top level of a G-stage has 2,048 entries. -/
def svWalk (rd : Nat → SvOut × Nat) (allows : Nat → Bool) (bad : SvOut) (va top : Nat) : Nat → Nat → SvOut
  | 0, _ => bad
  | lvl + 1, tbl =>
    let idx := (va >>> (12 + 9 * lvl)) % (if lvl + 1 = top then 2048 else 512)
    match rd (tbl + 8 * idx) with
    | (.ok _, e) =>
      let ppn := (e >>> 10) % 2 ^ 44
      if !e.testBit 0 || (e.testBit 2 && !e.testBit 1) || (e >>> 54) % 128 != 0 || (e >>> 61) % 4 == 3 then bad
      else if !e.testBit 1 && !e.testBit 3 then
        (if e.testBit 4 || e.testBit 6 || e.testBit 7 || e >>> 61 != 0 then bad
         else svWalk rd allows bad va top lvl (4096 * ppn))
      else if ppn % 2 ^ (9 * lvl) != 0 || !allows e then bad
      else if e.testBit 63 then
        (if lvl = 0 && ppn % 16 = 8 then .ok (65536 * (ppn / 16) + va % 65536) else bad)
      else .ok (4096 * ppn + va % 2 ^ (12 + 9 * lvl))
    | (x, _) => x

/-- The G-stage: a guest-physical address by hgatp, as a user access. -/
def svGuest (s : State) (h : Nat) (k report : SvKind) (gpa : Nat) : SvOut :=
  let g := (s.hart h).csr Csr.hgatp
  let bad := SvOut.fault report.guest gpa
  match svLevels g with
  | none => .ok gpa
  | some n =>
    if gpa >>> (14 + 9 * n) != 0 then bad
    else svWalk (pteRead s h report) (leafAllows true false ((s.hart h).csr Csr.mstatus |>.getLsbD 19) k) bad gpa n n
      (4096 * (g.toNat % 2 ^ 44 / 4 * 4))

/-- A virtual address is sign-extended from its top bit. -/
def canonical (va n : Nat) : Bool :=
  let top := va >>> (11 + 9 * n)
  top == 0 || top == 2 ^ (53 - 9 * n) - 1

/-- The mode whose translation a hart's access takes: its own, but for data that M reads and writes as another (MPRV). -/
def accessMode (x : Hart) (k : SvKind) : HartMode :=
  let st := x.csr Csr.mstatus
  if x.mode == .m && st.getLsbD 17 && k != .fetch then
    HartMode.of ((if st.getLsbD 11 then 1 else 0) + if st.getLsbD 12 then 2 else 0) (st.getLsbD 39)
  else x.mode

/-- Translate a virtual address. -/
def svTranslate (s : State) (h : Nat) (k : SvKind) (va : Nat) : SvOut :=
  let x := s.hart h
  let md := accessMode x k
  let stage1 (reg status : Dword) (rd : Nat → SvOut × Nat) : SvOut :=
    match svLevels reg with
    | none => .ok va
    | some n =>
      if !canonical va n then .fault k.page 0
      else svWalk rd (leafAllows (md.level == 0) (status.getLsbD 18) (status.getLsbD 19 || (x.csr Csr.mstatus).getLsbD 19) k)
        (.fault k.page 0) (va % 2 ^ (12 + 9 * n)) n n (4096 * (reg.toNat % 2 ^ 44))
  if md == .m then .ok va
  else if md.virt then
    match stage1 (x.csr Csr.vsatp) (x.csr Csr.vsstatus) (fun a =>
      match svGuest s h .load k a with
      | .ok pa => pteRead s h k pa
      | y => (y, 0)) with
    | .ok gpa => svGuest s h k k gpa
    | y => y
  else stage1 (x.csr Csr.satp) (x.csr Csr.mstatus) (pteRead s h k)

/-! ## Operations at virtual addresses -/

/-- The address of an operation, and what it is for a check. -/
def HartOp.at_ : HartOp → Option (Nat × SvKind)
  | .load _ a _ _ | .lr _ a _ _ => some (a, .load)
  | .store _ a _ | .sc _ _ a _ _ | .amo _ _ a _ _ _ _ | .zero a => some (a, .store)
  | .clean a | .flush a | .inval a => some (a, .store)
  | .fence _ _ | .fenceI | .sfence => none

/-- The operation at another address. -/
def HartOp.moved (a : Nat) : HartOp → HartOp
  | .load rd _ n sg => .load rd a n sg
  | .store rs _ n => .store rs a n
  | .lr rd _ n aq => .lr rd a n aq
  | .sc rd rs _ n rl => .sc rd rs a n rl
  | .amo rd rs _ n op aq rl => .amo rd rs a n op aq rl
  | .clean _ => .clean a
  | .flush _ => .flush a
  | .inval _ => .inval a
  | .zero _ => .zero a
  | .fence x y => .fence x y
  | .fenceI => .fenceI
  | .sfence => .sfence

/-- An operation with a physical address, as its step has it. -/
def hartOp (h : Nat) (op : HartOp) (s : State) : State :=
  match op with
  | .load rd a n sg => nextOf (execHartLoad h rd a n sg s) s
  | .store rs a n => nextOf (execHartStore h rs a n s) s
  | .lr rd a n aq => nextOf (execHartLr h rd a n aq s) s
  | .sc rd rs a n rl => nextOf (execHartSc h rd rs a n rl s) s
  | .amo rd rs a n o aq rl => nextOf (execHartAmo h rd rs a n o aq rl s) s
  | .fence x y => nextOf (execHartFence h x y s) s
  | .fenceI => nextOf (execHartFenceI h s) s
  | .clean a => nextOf (execCboClean h a s) s
  | .flush a => nextOf (execCboFlush h a s) s
  | .inval a => nextOf (execCboInval h a s) s
  | .zero a => nextOf (execCboZero h a s) s
  | .sfence => hartSfence h s

/-- The operation that a hart stands at is this one at another address: its page was mapped anew meanwhile. -/
def hartMoves (s : State) (h : Nat) (op : HartOp) : State :=
  match (s.hart h).held with
  | some j => if j != op && j.moved 0 == op.moved 0 then s.setHart h { s.hart h with held := some op } else s
  | none => s

/-- An application core performs an operation at a virtual address: the translation's fault is a trap, and the operation is done
at the physical address; an access fault there names the virtual one (R336). -/
def hartVirtual (h : Nat) (op : HartOp) (s : State) : State :=
  if (hartAwake s h).isNone || (s.hart h).held.any (fun j => j.moved 0 != op.moved 0) then s
  else match op.at_ with
  | none => hartOp h op s
  | some (va, k) =>
    match svTranslate s h k va with
    | .waits => s
    | .fault c gpa => hartTrap s h c (BitVec.ofNat 64 va) (BitVec.ofNat 64 gpa)
    | .ok pa =>
      let t := hartMoves s h (op.moved pa)
      let u := hartOp h (op.moved pa) (t.setHart h { t.hart h with via := some (BitVec.ofNat 64 va) })
      u.setHart h { u.hart h with via := none }

/-- It fetches from where its program counter is. -/
def hartFetchPc (h : Nat) (s : State) : State :=
  let va := (s.hart h).pc.toNat
  if (hartAwake s h).isNone then s
  else match svTranslate s h .fetch va with
  | .waits => s
  | .fault c gpa => hartTrap s h c (BitVec.ofNat 64 va) (BitVec.ofNat 64 gpa)
  | .ok pa =>
    let u := hartFetch h pa (s.setHart h { s.hart h with via := some (BitVec.ofNat 64 va) })
    u.setHart h { u.hart h with via := none }

/-! ## What an instruction of the profile leaves -/

/-- A step of the core that is neither frozen nor without a partition. -/
def whenAwake (h : Nat) (s : State) (g : State → State) : State :=
  if (hartAwake s h).isNone || (s.hart h).held.isSome then s else g s

/-- An instruction ends: a register and the program counter hold what the profile gives (log entry 116). -/
def hartExec (h rd : Nat) (value pc : Dword) (s : State) : State :=
  whenAwake h s (fun s =>
    let t := setHartReg s h rd value
    t.setHart h { t.hart h with pc := pc })

/-- A control and status register is read into `rd`, and written. -/
def hartCsr (h rd n : Nat) (value : Option Dword) (s : State) : State :=
  whenAwake h s (fun s =>
    let x := s.hart h
    match csrBad x n value.isSome with
    | some c => hartTrap s h c 0 0
    | none =>
      let t := setHartReg s h rd (csrRead x h n)
      match value with
      | some v => t.setHart h (csrWrite (t.hart h) n v)
      | none => t)

end Sys2Proof.Machine
end

