-- ==== Sys2Proof/Machine/Time.lean ====
section
/-! DEFINITION. The passing of time: the timer, the piers' cycles and the waits counted in them (R122, R159, R187,
R204, R217, R316). -/
namespace Sys2Proof.Machine

/-- Hundredths of a cycle that pass on a pier in some ns; none while its cluster has no power. -/
def pierTicks (s : State) (p ns : Nat) : Nat :=
  let c := clusterAt s p
  if c.st < 2 then stepClock c.clk * ns else 0

/-- The wait for a line goes on. -/
def tickPark (n : Nat) : GPark → GPark
  | .presence ls w => .presence ls (w + n)
  | k => k

/-- A group's counters after `n` hundredths of a cycle. -/
def tickGroup (s : State) (p b g n : Nat) (q : Group) : Group :=
  let parked := groupParked s p b g
  let idle := groupIdle s p b g
  let ready := (candidates s p b g).isSome
  { q with parkedFor := if idle then q.parkedFor + n else 0, parkTotal := if parked then q.parkTotal + n else q.parkTotal,
           readyFor := if ready && !running s b g then q.readyFor + n else 0, park := tickPark n q.park }

/-- The quadrant of a block injects rows: an MSTR is under way and waits for no line. -/
def injecting (s : State) (b : Nat) (x : Block) : Bool :=
  match x.mq with
  | o :: _ => !x.mqDead && o.started && o.sig.op == 0xC3 && (mopAbsent s b o).isEmpty
  | [] => false

/-- The wait of the operation at the head of a matrix queue for the first line that it lacks (R159). -/
def tickQueue (s : State) (b n : Nat) : List MOp → List MOp
  | o :: r =>
    (match (if o.started then mopAbsent s b o else []).head? with
     | some k => if o.waitOn == some k then { o with waited := o.waited + n } else { o with waitOn := some k, waited := n }
     | none => { o with waitOn := none, waited := 0 }) :: r
  | [] => []

/-- A block's counters after some ns. -/
def tickBlock (s : State) (ns b : Nat) (x : Block) : Block :=
  match quadPier x, x.onPier with
  | none, none => x
  | q, r =>
    let p := r.getD (q.getD 0)
    let n := pierTicks s p ns
    let y := { x with mq := tickQueue s b n x.mq, injected := if injecting s b x then x.injected + n else x.injected }
    if r.isNone then y
    else
      ((List.range x.groups).foldl (fun (z : Block) g => z.updGrp g (tickGroup s p b g n)) { y with cyc := y.cyc + n })

/-- A job's waits, one for each line (R179). -/
def tickJob (s : State) (ns : Nat) (j : Job) : Job :=
  { j with waits := j.waits.map (fun w => (w.1, w.2.1, w.2.2 + pierTicks s j.pier ns)) }

/-- The piers whose clusters run. -/
def clockedPiers (s : State) : List Nat :=
  ((clusters s).filter (fun c => (getCluster s c.1 c.2).st < 2)).flatMap (fun c => (List.range 4).map (pierAt c.1 c.2))

/-- The conditions of every zone of the package, as they stand now (R351, R352). -/
def watchZones (s : State) : State :=
  (List.range 4).foldl (fun t d => (List.range 20).foldl (fun t z => watchAll t (nodeDie s d) z) t) s

/-- Some ns pass. The zones' conditions are those that have stood since the last change. -/
def advance (ns : Nat) (s0 : State) : State :=
  let s := watchZones s0
  let s1 := { s with now := s.now + ns, blocks := s.blocks.map (fun b => (b.1, tickBlock s ns b.1 b.2)),
                     jobs := s.jobs.map (tickJob s ns) }
  (clockedPiers s).foldl (fun (t : State) p => t.updPier p (fun x => { x with cycles := x.cycles + pierTicks s p ns })) s1

/-! ## What may act -/

/-- An operation of an application core as its steps may have it, at an aligned address. -/
def hartOpOk : HartOp → Bool
  | .load rd a n _ => rd < 32 && [1, 2, 4, 8].contains n && a % n == 0
  | .store rs a n => rs < 32 && [1, 2, 4, 8].contains n && a % n == 0
  | .lr rd a n _ => rd < 32 && [4, 8].contains n && a % n == 0
  | .sc rd rs a n _ => rd < 32 && rs < 32 && [4, 8].contains n && a % n == 0
  | .amo rd rs a n _ _ _ => rd < 32 && rs < 32 && [4, 8].contains n && a % n == 0
  | .fence _ _ | .fenceI | .sfence | .clean _ | .flush _ | .inval _ | .zero _ => true

/-- A turn that names parts that the device has; a Shaoc instruction is no turn, since it is issued alone. -/
def turnOk : Turn → Bool
  | .event i => i.wf && i.opFields.isNone
  | .issue p sc => p < 2048 && sc < 4
  | .sense d z _ dp f => d < 32 && z < 20 && dp < 2 ^ 16 && f < 2 ^ 10
  | .portDown p => p.ok
  | .portRate p _ => p.ok
  | .fabricPeer p k => p < 8 && k.all (· < 8)
  | .nodeReport ks => ks.all (· < 8)
  | .ethernetSend p q _ a _ => p < 16 && q < 64 && a < 2 ^ 64
  | .cacheDrop c _ => c < 2560
  | .instrDrop c _ => c < 2560
  | .sliceLose p _ => p < 2048
  | .cachePower c _ _ => c < 2560
  | .advance _ => true
  | .jobProgress _ _ => true
  | .jobHostError _ _ _ => true
  | .localAccess b l => b < 2 ^ 60 && l < 1024
  | .recordWrite t => t < 2 ^ 16
  | .useMark _ => true
  | .cxlServe _ => true
  | .notifyWrite i _ _ _ => i < 1024
  | .notifyRead i _ => i < 1024
  | .windowRead o => o < 2 ^ 26
  | .rdmaServe _ => true
  | .hartFetch h a => h < 512 && a < 2 ^ 48
  | .hartFetchPc h => h < 512
  | .hartVirtual h op => h < 512 && hartOpOk op
  | .hartExec h rd _ _ => h < 512 && rd < 32
  | .hartCsr h rd n _ => h < 512 && rd < 32 && n < 4096
  | .hartImsic h f _ _ => h < 512 && f < 7
  | .hartReturn h _ => h < 512
  | .hartTrap h c _ => h < 512 && c < 24
  | .hartInterrupt h => h < 512
  | .hartSfence h => h < 512
  | .pageRequest t p => t < 2 ^ 16 && p < 2 ^ 44
  | .atsAnswer sp p => sp < 2 ^ 27 && p < 2 ^ 44
  | .bringPage t _ => t < 2 ^ 16
  | .poolFrame _ _ => true
  | .backPage p a _ _ _ => p < 64 && a < 2 ^ 63
  | .evictEnd p _ => p < 64

/-- Events that a package without power, or one whose boot stopped, answers to (R353, R360). -/
def answers (s : State) : Instr → Bool
  | .powerOn | .powerRemoval => true
  | .getVersion | .getCapabilities | .negotiateAlgorithms _ _ | .getDigests | .getCertificate | .challenge _
  | .getMeasurements _ _ | .pldmFirmwareUpdate _ => s.powered
  | _ => s.powered && !s.boot.stopped

/-- A package that is neither answers to no turn of its own. -/
def awake (s : State) : Bool := s.powered && !s.boot.stopped

/-! ## The turn when the agenda is empty (log entry 4) -/

/-- A scheduler without a run that has a batch to pick. -/
def readySched (s : State) : Option (Nat × Nat) :=
  s.blocks.findSome? (fun b =>
    match b.2.onPier with
    | none => none
    | some p => (List.range b.2.groups).findSome? (fun g =>
        let q := b.2.grp g
        if q.active && (s.run? p q.sched).isNone && (candidates s p b.1 g).isSome then some (p, q.sched) else none))

/-- A pending group whose promotion is due (R217, R220). -/
def duePromotion (s : State) : Option (Nat × Nat) :=
  s.blocks.findSome? (fun b =>
    match b.2.onPier with
    | none => none
    | some p => (List.range b.2.groups).findSome? (fun g => if promotable s p b.1 g then some (b.1, g) else none))

/-- A lane whose core can perform a local access that it holds back (R126, R238). -/
def dueLocal (s : State) : Option (Nat × Nat) :=
  s.blocks.findSome? (fun b =>
    if b.2.onPier.isNone then none
    else (b.2.lanes.find? (fun l => match l.2.localOps with | o :: _ => localReady s b.1 l.1 o | [] => false)).map
      (fun l => (b.1, l.1)))

/-- What is under way at a home and can be done there: a fault record's write, a U bit, or a host's access. -/
def dueHome (s : State) : Option Turn :=
  match s.frWrites.find? (fun w => recordReady s w.tag), s.uses, s.cxlReqs.find? (fun r => (cxlAccess s r).2) with
  | some w, _, _ => some (.recordWrite w.tag)
  | none, a :: _, _ => if linkWaits s a then none else some (.useMark a)
  | none, [], some r => some (.cxlServe r.id)
  | none, [], none => none

/-- What goes on when nothing else is asked for: a run, a promotion, a pick, a result, an outstanding operation, what is under
way at a home, or time. -/
def idleTurn (s : State) : Turn :=
  match s.runs with
  | (k, r) :: _ =>
    if r.refetch then .event (.lineRefetchReturn (k / 4) (k % 4)) else .issue (k / 4) (k % 4)
  | [] =>
    match duePromotion s, readySched s with
    | some (b, g), _ => .event (.groupPromote b g)
    | none, some (p, sc) => .event (.issueSchedulerPick p sc)
    | none, none =>
      match s.lres, s.memops, dueLocal s, dueHome s with
      | r :: _, _, _, _ => .event (.lResultWrite r.id)
      | [], m :: _, _, _ =>
        (match m.kind with
         | .load | .acq => .event (.loadReturn m.id)
         | _ => .event (.atomicPerform m.id))
      | [], [], some (b, l), _ => .localAccess b l
      | [], [], none, some t => t
      | [], [], none, none => .advance 1

/-! ## Placing one instruction (the loader of log entry 43) -/

/-- A line whose slot 0 holds a word, the rest NOPs, with TGT set for slot 0 and its PAR bits (R47, R48). -/
def oneLine (w : BitVec 96) : List Byte :=
  let body := leBytes 12 w.toNat ++ List.replicate 48 0
  body ++ leBytes 4 (1 + 2 ^ 16 * parOf (leNat body))

/-- A launch record whose lease covers the line at address 0. -/
def fetchRec : LaunchRec :=
  { lanes := 1, window := 512, supv := true, nLease := 1, leases := [(0, 64)] }

/-- A block of one fibre at address 0, in handler mode where the word is RTE, which runs nowhere else (R192). -/
def fetchBlock (w : BitVec 96) : Block :=
  { tag := 1, place := .resident 0, groups := 1, window := 512,
    lanes := [(0, { live := true, used := true, fib := 1, hmode := wordOp w == 0xF2 })],
    grps := [(0, { active := true })] }

/-- The machine with a word where the next step fetches. -/
def placeWord (s : State) (w : BitVec 96) : State :=
  { s with
    launches := [(1, { used := true, started := true, pinned := true, rec_ := fetchRec, nextSpan := 1 })],
    blocks := [(2 ^ 32, fetchBlock w)], cores := [(0, { l1i := [(0, oneLine w)] })],
    runs := [(0, { blk := 2 ^ 32, grp := 0, lanes := 1 })], agenda := [.issue 0 0] }

end Sys2Proof.Machine
end

