-- ==== Sys2Proof/Machine/Dispatch.lean ====
section
/-! DEFINITION. The meaning of every step: one arm for each constructor of Instr. -/
namespace Sys2Proof.Machine
open Sys2Proof

def exec (i : Instr) (s : State) : Host.Outcome State Fault Refusal :=
  match i with
  | .nop f => Sys2Proof.Machine.execNop f s
  | .mov f => Sys2Proof.Machine.execMov f s
  | .sel f => Sys2Proof.Machine.execSel f s
  | .iadd f => Sys2Proof.Machine.execIadd f s
  | .isub f => Sys2Proof.Machine.execIsub f s
  | .imul f => Sys2Proof.Machine.execImul f s
  | .imulh f => Sys2Proof.Machine.execImulh f s
  | .imad f => Sys2Proof.Machine.execImad f s
  | .idiv f => Sys2Proof.Machine.execIdiv f s
  | .irem f => Sys2Proof.Machine.execIrem f s
  | .imin f => Sys2Proof.Machine.execImin f s
  | .imax f => Sys2Proof.Machine.execImax f s
  | .iabs f => Sys2Proof.Machine.execIabs f s
  | .ineg f => Sys2Proof.Machine.execIneg f s
  | .iaddc f => Sys2Proof.Machine.execIaddc f s
  | .lea f => Sys2Proof.Machine.execLea f s
  | .and f => Sys2Proof.Machine.execAnd f s
  | .or f => Sys2Proof.Machine.execOr f s
  | .xor f => Sys2Proof.Machine.execXor f s
  | .andn f => Sys2Proof.Machine.execAndn f s
  | .not f => Sys2Proof.Machine.execNot f s
  | .shl f => Sys2Proof.Machine.execShl f s
  | .shr f => Sys2Proof.Machine.execShr f s
  | .sar f => Sys2Proof.Machine.execSar f s
  | .rotl f => Sys2Proof.Machine.execRotl f s
  | .popc f => Sys2Proof.Machine.execPopc f s
  | .clz f => Sys2Proof.Machine.execClz f s
  | .ctz f => Sys2Proof.Machine.execCtz f s
  | .brev f => Sys2Proof.Machine.execBrev f s
  | .bfx f => Sys2Proof.Machine.execBfx f s
  | .bfi f => Sys2Proof.Machine.execBfi f s
  | .prmt f => Sys2Proof.Machine.execPrmt f s
  | .icmp f => Sys2Proof.Machine.execIcmp f s
  | .pset f => Sys2Proof.Machine.execPset f s
  | .pget f => Sys2Proof.Machine.execPget f s
  | .pput f => Sys2Proof.Machine.execPput f s
  | .idot4 f => Sys2Proof.Machine.execIdot4 f s
  | .bra f => Sys2Proof.Machine.execBra f s
  | .brx f => Sys2Proof.Machine.execBrx f s
  | .call f => Sys2Proof.Machine.execCall f s
  | .callx f => Sys2Proof.Machine.execCallx f s
  | .ret f => Sys2Proof.Machine.execRet f s
  | .yield f => Sys2Proof.Machine.execYield f s
  | .fadd f => Sys2Proof.Machine.execFadd f s
  | .fsub f => Sys2Proof.Machine.execFsub f s
  | .fmul f => Sys2Proof.Machine.execFmul f s
  | .ffma f => Sys2Proof.Machine.execFfma f s
  | .fmin f => Sys2Proof.Machine.execFmin f s
  | .fmax f => Sys2Proof.Machine.execFmax f s
  | .fcmp f => Sys2Proof.Machine.execFcmp f s
  | .fclass f => Sys2Proof.Machine.execFclass f s
  | .frcp f => Sys2Proof.Machine.execFrcp f s
  | .frsq f => Sys2Proof.Machine.execFrsq f s
  | .fsqrt f => Sys2Proof.Machine.execFsqrt f s
  | .fdiv f => Sys2Proof.Machine.execFdiv f s
  | .fexp2 f => Sys2Proof.Machine.execFexp2 f s
  | .flog2 f => Sys2Proof.Machine.execFlog2 f s
  | .fsin f => Sys2Proof.Machine.execFsin f s
  | .fcos f => Sys2Proof.Machine.execFcos f s
  | .ftanh f => Sys2Proof.Machine.execFtanh f s
  | .fsigm f => Sys2Proof.Machine.execFsigm f s
  | .ffrac f => Sys2Proof.Machine.execFfrac f s
  | .frnd f => Sys2Proof.Machine.execFrnd f s
  | .fdot2 f => Sys2Proof.Machine.execFdot2 f s
  | .fscale f => Sys2Proof.Machine.execFscale f s
  | .cvtf f => Sys2Proof.Machine.execCvtf f s
  | .cvtfi f => Sys2Proof.Machine.execCvtfi f s
  | .cvtif f => Sys2Proof.Machine.execCvtif f s
  | .cvtn f => Sys2Proof.Machine.execCvtn f s
  | .cvtw f => Sys2Proof.Machine.execCvtw f s
  | .qntComputed f => Sys2Proof.Machine.execQntComputed f s
  | .qntGiven f => Sys2Proof.Machine.execQntGiven f s
  | .dqnt f => Sys2Proof.Machine.execDqnt f s
  | .cmpr f => Sys2Proof.Machine.execCmpr f s
  | .dpwe f => Sys2Proof.Machine.execDpwe f s
  | .scaleq f => Sys2Proof.Machine.execScaleq f s
  | .qswz f => Sys2Proof.Machine.execQswz f s
  | .qbcast f => Sys2Proof.Machine.execQbcast f s
  | .qred f => Sys2Proof.Machine.execQred f s
  | .gshfl f => Sys2Proof.Machine.execGshfl f s
  | .gvote f => Sys2Proof.Machine.execGvote f s
  | .gred f => Sys2Proof.Machine.execGred f s
  | .gscan f => Sys2Proof.Machine.execGscan f s
  | .gbar f => Sys2Proof.Machine.execGbar f s
  | .gmatch f => Sys2Proof.Machine.execGmatch f s
  | .gelect f => Sys2Proof.Machine.execGelect f s
  | .ld f => Sys2Proof.Machine.execLd f s
  | .st f => Sys2Proof.Machine.execSt f s
  | .atom f => Sys2Proof.Machine.execAtom f s
  | .atomcas f => Sys2Proof.Machine.execAtomcas f s
  | .red f => Sys2Proof.Machine.execRed f s
  | .rel f => Sys2Proof.Machine.execRel f s
  | .acq f => Sys2Proof.Machine.execAcq f s
  | .syncf f => Sys2Proof.Machine.execSyncf f s
  | .sptest f => Sys2Proof.Machine.execSptest f s
  | .spcast f => Sys2Proof.Machine.execSpcast f s
  | .objq f => Sys2Proof.Machine.execObjq f s
  | .objptr f => Sys2Proof.Machine.execObjptr f s
  | .recdrn f => Sys2Proof.Machine.execRecdrn f s
  | .recst f => Sys2Proof.Machine.execRecst f s
  | .pfch f => Sys2Proof.Machine.execPfch f s
  | .cdrop f => Sys2Proof.Machine.execCdrop f s
  | .prstest f => Sys2Proof.Machine.execPrstest f s
  | .fspawn f => Sys2Proof.Machine.execFspawn f s
  | .fend f => Sys2Proof.Machine.execFend f s
  | .fid f => Sys2Proof.Machine.execFid f s
  | .fstat f => Sys2Proof.Machine.execFstat f s
  | .cvset f => Sys2Proof.Machine.execCvset f s
  | .cvsign f => Sys2Proof.Machine.execCvsign f s
  | .cvwait f => Sys2Proof.Machine.execCvwait f s
  | .blkbar f => Sys2Proof.Machine.execBlkbar f s
  | .sgjoin f => Sys2Proof.Machine.execSgjoin f s
  | .sgleave f => Sys2Proof.Machine.execSgleave f s
  | .sgarrive f => Sys2Proof.Machine.execSgarrive f s
  | .sgwait f => Sys2Proof.Machine.execSgwait f s
  | .sgbar f => Sys2Proof.Machine.execSgbar f s
  | .sgvote f => Sys2Proof.Machine.execSgvote f s
  | .sgred f => Sys2Proof.Machine.execSgred f s
  | .sgbcast f => Sys2Proof.Machine.execSgbcast f s
  | .sgquery f => Sys2Proof.Machine.execSgquery f s
  | .sgclose f => Sys2Proof.Machine.execSgclose f s
  | .mcfg f => Sys2Proof.Machine.execMcfg f s
  | .mldw f => Sys2Proof.Machine.execMldw f s
  | .mswap f => Sys2Proof.Machine.execMswap f s
  | .mstr f => Sys2Proof.Machine.execMstr f s
  | .mrdaF32 f => Sys2Proof.Machine.execMrdaF32 f s
  | .mrdaSlot f => Sys2Proof.Machine.execMrdaSlot f s
  | .mwra f => Sys2Proof.Machine.execMwra f s
  | .mclra f => Sys2Proof.Machine.execMclra f s
  | .msync f => Sys2Proof.Machine.execMsync f s
  | .mquery f => Sys2Proof.Machine.execMquery f s
  | .shdef f => Sys2Proof.Machine.execShdef f s
  | .cpt f => Sys2Proof.Machine.execCpt f s
  | .cpchain f => Sys2Proof.Machine.execCpchain f s
  | .cpseal f => Sys2Proof.Machine.execCpseal f s
  | .cpwait f => Sys2Proof.Machine.execCpwait f s
  | .gth f => Sys2Proof.Machine.execGth f s
  | .sct f => Sys2Proof.Machine.execSct f s
  | .cljob f => Sys2Proof.Machine.execCljob f s
  | .cpquery f => Sys2Proof.Machine.execCpquery f s
  | .cpfill f => Sys2Proof.Machine.execCpfill f s
  | .dlset f => Sys2Proof.Machine.execDlset f s
  | .dlprog f => Sys2Proof.Machine.execDlprog f s
  | .dlend f => Sys2Proof.Machine.execDlend f s
  | .bstq f => Sys2Proof.Machine.execBstq f s
  | .cntrd f => Sys2Proof.Machine.execCntrd f s
  | .tmrd f => Sys2Proof.Machine.execTmrd f s
  | .zoneq f => Sys2Proof.Machine.execZoneq f s
  | .trap f => Sys2Proof.Machine.execTrap f s
  | .brk f => Sys2Proof.Machine.execBrk f s
  | .rte f => Sys2Proof.Machine.execRte f s
  | .sysrd f => Sys2Proof.Machine.execSysrd f s
  | .syswr f => Sys2Proof.Machine.execSyswr f s
  | .dbgmb f => Sys2Proof.Machine.execDbgmb f s
  | .wfe f => Sys2Proof.Machine.execWfe f s
  | .sev f => Sys2Proof.Machine.execSev f s
  | .halt f => Sys2Proof.Machine.execHalt f s
  | .udf f => Sys2Proof.Machine.execUdf f s
  | .issueSchedulerPick pier sched => Sys2Proof.Machine.execIssueSchedulerPick pier sched s
  | .lineRefetchReturn pier sched => Sys2Proof.Machine.execLineRefetchReturn pier sched s
  | .l1FillReturn pier k => Sys2Proof.Machine.execL1FillReturn pier k s
  | .loadReturn k => Sys2Proof.Machine.execLoadReturn k s
  | .lResultWrite k => Sys2Proof.Machine.execLResultWrite k s
  | .presenceTimeout blk grp => Sys2Proof.Machine.execPresenceTimeout blk grp s
  | .groupDemote blk grp => Sys2Proof.Machine.execGroupDemote blk grp s
  | .groupPromote blk grp => Sys2Proof.Machine.execGroupPromote blk grp s
  | .storeRecordDrain core entry => Sys2Proof.Machine.execStoreRecordDrain core entry s
  | .ownershipRequest core entry word => Sys2Proof.Machine.execOwnershipRequest core entry word s
  | .revokeReceived k => Sys2Proof.Machine.execRevokeReceived k s
  | .ackReceived k => Sys2Proof.Machine.execAckReceived k s
  | .atomicPerform k => Sys2Proof.Machine.execAtomicPerform k s
  | .hostAtomicComplete k err => Sys2Proof.Machine.execHostAtomicComplete k err s
  | .hostWriteComplete core entry => Sys2Proof.Machine.execHostWriteComplete core entry s
  | .hostCxlRead addr size cache => Sys2Proof.Machine.execHostCxlRead addr size cache s
  | .hostCxlWrite addr bytes => Sys2Proof.Machine.execHostCxlWrite addr bytes s
  | .sgJoinHandled k => Sys2Proof.Machine.execSgJoinHandled k s
  | .sgArrivalHandled k => Sys2Proof.Machine.execSgArrivalHandled k s
  | .matrixOpIssue pier => Sys2Proof.Machine.execMatrixOpIssue pier s
  | .fusedStreamStart pier => Sys2Proof.Machine.execFusedStreamStart pier s
  | .matrixOpComplete pier => Sys2Proof.Machine.execMatrixOpComplete pier s
  | .copyJobStart job => Sys2Proof.Machine.execCopyJobStart job s
  | .copyJobComplete job => Sys2Proof.Machine.execCopyJobComplete job s
  | .copyJobFail job => Sys2Proof.Machine.execCopyJobFail job s
  | .copyPresenceTimeout job => Sys2Proof.Machine.execCopyPresenceTimeout job s
  | .chainRecordStart job => Sys2Proof.Machine.execChainRecordStart job s
  | .chainRecordFinish job => Sys2Proof.Machine.execChainRecordFinish job s
  | .collectiveRendezvous job => Sys2Proof.Machine.execCollectiveRendezvous job s
  | .collectiveComplete die k => Sys2Proof.Machine.execCollectiveComplete die k s
  | .spanDispatch tag die cluster first => Sys2Proof.Machine.execSpanDispatch tag die cluster first s
  | .leasePinComplete tag => Sys2Proof.Machine.execLeasePinComplete tag s
  | .doorbellTail iface size value => Sys2Proof.Machine.execDoorbellTail iface size value s
  | .doorbellEvhead iface size value => Sys2Proof.Machine.execDoorbellEvhead iface size value s
  | .queueMap queue => Sys2Proof.Machine.execQueueMap queue s
  | .queueUnmap queue => Sys2Proof.Machine.execQueueUnmap queue s
  | .requestAccept queue => Sys2Proof.Machine.execRequestAccept queue s
  | .launch queue => Sys2Proof.Machine.execLaunch queue s
  | .waitval queue => Sys2Proof.Machine.execWaitval queue s
  | .waitvalPoll queue => Sys2Proof.Machine.execWaitvalPoll queue s
  | .writeval queue => Sys2Proof.Machine.execWriteval queue s
  | .copyjob queue => Sys2Proof.Machine.execCopyjob queue s
  | .marker queue => Sys2Proof.Machine.execMarker queue s
  | .timestamp queue => Sys2Proof.Machine.execTimestamp queue s
  | .eventWrite queue => Sys2Proof.Machine.execEventWrite queue s
  | .launchComplete tag => Sys2Proof.Machine.execLaunchComplete tag s
  | .tagRelease tag => Sys2Proof.Machine.execTagRelease tag s
  | .launchTerminate tag => Sys2Proof.Machine.execLaunchTerminate tag s
  | .terminationOverdue tag => Sys2Proof.Machine.execTerminationOverdue tag s
  | .sliceEnd part => Sys2Proof.Machine.execSliceEnd part s
  | .preemptRequest die cluster evac => Sys2Proof.Machine.execPreemptRequest die cluster evac s
  | .preemptDeadlineExpiry die cluster tag => Sys2Proof.Machine.execPreemptDeadlineExpiry die cluster tag s
  | .contextSave blk => Sys2Proof.Machine.execContextSave blk s
  | .contextRestore tag span die cluster first => Sys2Proof.Machine.execContextRestore tag span die cluster first s
  | .evacuationAbandon tag => Sys2Proof.Machine.execEvacuationAbandon tag s
  | .tenantReset part => Sys2Proof.Machine.execTenantReset part s
  | .apply part => Sys2Proof.Machine.execApply part s
  | .partitionReset part => Sys2Proof.Machine.execPartitionReset part s
  | .force part on => Sys2Proof.Machine.execForce part on s
  | .cfgerrClear part => Sys2Proof.Machine.execCfgerrClear part s
  | .rdoneClear part => Sys2Proof.Machine.execRdoneClear part s
  | .pierRelease pier => Sys2Proof.Machine.execPierRelease pier s
  | .budgetPeriod => Sys2Proof.Machine.execBudgetPeriod s
  | .l1ctlWrite pier value => Sys2Proof.Machine.execL1ctlWrite pier value s
  | .slicectlDrop pier => Sys2Proof.Machine.execSlicectlDrop pier s
  | .slicectlPower pier value => Sys2Proof.Machine.execSlicectlPower pier value s
  | .haltmaskWrite blk value => Sys2Proof.Machine.execHaltmaskWrite blk value s
  | .eyestAck die count => Sys2Proof.Machine.execEyestAck die count s
  | .xlfenceGo => Sys2Proof.Machine.execXlfenceGo s
  | .xlfenceComplete k => Sys2Proof.Machine.execXlfenceComplete k s
  | .registerWrite reg value => Sys2Proof.Machine.execRegisterWrite reg value s
  | .inboxWrite die word => Sys2Proof.Machine.execInboxWrite die word s
  | .outboxRead die => Sys2Proof.Machine.execOutboxRead die s
  | .migrationGo die => Sys2Proof.Machine.execMigrationGo die s
  | .migrationComplete die => Sys2Proof.Machine.execMigrationComplete die s
  | .pageRequestResponse part gen pasid page ok => Sys2Proof.Machine.execPageRequestResponse part gen pasid page ok s
  | .hostInvalidation pasid page => Sys2Proof.Machine.execHostInvalidation pasid page s
  | .hostLinkDown link => Sys2Proof.Machine.execHostLinkDown link s
  | .governorInterval die => Sys2Proof.Machine.execGovernorInterval die s
  | .supplySettled die => Sys2Proof.Machine.execSupplySettled die s
  | .canaryWarning die => Sys2Proof.Machine.execCanaryWarning die s
  | .canaryDecay die => Sys2Proof.Machine.execCanaryDecay die s
  | .droopWarning die cluster => Sys2Proof.Machine.execDroopWarning die cluster s
  | .limiterRestore die cluster => Sys2Proof.Machine.execLimiterRestore die cluster s
  | .govstatRiskClear die => Sys2Proof.Machine.execGovstatRiskClear die s
  | .govstatCanaryClear die => Sys2Proof.Machine.execGovstatCanaryClear die s
  | .gateCommit die cluster => Sys2Proof.Machine.execGateCommit die cluster s
  | .clusterWake die cluster => Sys2Proof.Machine.execClusterWake die cluster s
  | .callocWrite part value => Sys2Proof.Machine.execCallocWrite part value s
  | .zoneBoundary die zone => Sys2Proof.Machine.execZoneBoundary die zone s
  | .zoneTrap die zone bit => Sys2Proof.Machine.execZoneTrap die zone bit s
  | .zoneDry die zone => Sys2Proof.Machine.execZoneDry die zone s
  | .primingStep die zone => Sys2Proof.Machine.execPrimingStep die zone s
  | .zoneClose die zone => Sys2Proof.Machine.execZoneClose die zone s
  | .zonePrime die zone => Sys2Proof.Machine.execZonePrime die zone s
  | .zoneCmdReserved die zone => Sys2Proof.Machine.execZoneCmdReserved die zone s
  | .zstatTrapClear die zone mask => Sys2Proof.Machine.execZstatTrapClear die zone mask s
  | .zstatAlarmClear die zone => Sys2Proof.Machine.execZstatAlarmClear die zone s
  | .cstatCerrClear => Sys2Proof.Machine.execCstatCerrClear s
  | .moisture => Sys2Proof.Machine.execMoisture s
  | .flitCrcRetry port => Sys2Proof.Machine.execFlitCrcRetry port s
  | .linkRetrain port => Sys2Proof.Machine.execLinkRetrain port s
  | .memoryLinkLost link => Sys2Proof.Machine.execMemoryLinkLost link s
  | .nodeMemberLost package => Sys2Proof.Machine.execNodeMemberLost package s
  | .uncorrectableSharedState what => Sys2Proof.Machine.execUncorrectableSharedState what s
  | .patrolScrub chunk => Sys2Proof.Machine.execPatrolScrub chunk s
  | .warm => Sys2Proof.Machine.execWarm s
  | .powerOn => Sys2Proof.Machine.execPowerOn s
  | .firmwareWatchdog => Sys2Proof.Machine.execFirmwareWatchdog s
  | .alarmLatchRead => Sys2Proof.Machine.execAlarmLatchRead s
  | .pldmMonitoring sensor => Sys2Proof.Machine.execPldmMonitoring sensor s
  | .pldmFirmwareUpdate image => Sys2Proof.Machine.execPldmFirmwareUpdate image s
  | .getVersion => Sys2Proof.Machine.execGetVersion s
  | .getCapabilities => Sys2Proof.Machine.execGetCapabilities s
  | .negotiateAlgorithms mldsa65 shake256 => Sys2Proof.Machine.execNegotiateAlgorithms mldsa65 shake256 s
  | .getDigests => Sys2Proof.Machine.execGetDigests s
  | .getCertificate => Sys2Proof.Machine.execGetCertificate s
  | .challenge nonce => Sys2Proof.Machine.execChallenge nonce s
  | .getMeasurements index nonce => Sys2Proof.Machine.execGetMeasurements index nonce s
  | .hartLr hart rd addr size aq => Sys2Proof.Machine.execHartLr hart rd addr size aq s
  | .hartSc hart rd rs addr size rl => Sys2Proof.Machine.execHartSc hart rd rs addr size rl s
  | .hartAmo hart rd rs addr size op aq rl => Sys2Proof.Machine.execHartAmo hart rd rs addr size op aq rl s
  | .hartFenceI hart => Sys2Proof.Machine.execHartFenceI hart s
  | .cboClean hart addr => Sys2Proof.Machine.execCboClean hart addr s
  | .cboFlush hart addr => Sys2Proof.Machine.execCboFlush hart addr s
  | .cboInval hart addr => Sys2Proof.Machine.execCboInval hart addr s
  | .cboZero hart addr => Sys2Proof.Machine.execCboZero hart addr s
  | .hartAccessFault hart addr => Sys2Proof.Machine.execHartAccessFault hart addr s
  | .softError what at_ idx correctable => Sys2Proof.Machine.execSoftError what at_ idx correctable s
  | .matrixPresenceTimeout pier => Sys2Proof.Machine.execMatrixPresenceTimeout pier s
  | .retrainComplete port => Sys2Proof.Machine.execRetrainComplete port s
  | .hostLinkTrained link => Sys2Proof.Machine.execHostLinkTrained link s
  | .powerRemoval => Sys2Proof.Machine.execPowerRemoval s
  | .pageAgeUpdate part => Sys2Proof.Machine.execPageAgeUpdate part s
  | .hartLoad hart rd addr size signed => Sys2Proof.Machine.execHartLoad hart rd addr size signed s
  | .hartStore hart rs addr size => Sys2Proof.Machine.execHartStore hart rs addr size s
  | .hartFence hart acquire release => Sys2Proof.Machine.execHartFence hart acquire release s
  | .ethernetFrame port part op addr size bytes => Sys2Proof.Machine.execEthernetFrame port part op addr size bytes s

end Sys2Proof.Machine
end

