-- ==== Sys2Proof/Machine/Step.lean ====
section
/-! DEFINITION. One step: the agenda's next turn is taken, or, with nothing on the agenda, the one that `idleTurn`
names. Everything a turn does is in the meanings and in the functions of the other files. -/
namespace Sys2Proof.Machine

/-- Go on with the next state of an outcome. -/
def andThen (r : Host.Outcome State Fault Refusal) (g : State → Host.Outcome State Fault Refusal) :
    Host.Outcome State Fault Refusal :=
  match r with
  | .next t => g t
  | .fault e => .fault e
  | .refused e => .refused e

/-- A scheduler issues the next slot or pair of its run: the checks, the instruction or the two, and what ends
them (R57, R58). -/
def issueTurn (p sc : Nat) (s : State) : Host.Outcome State Fault Refusal :=
  match prepareIssue s p sc with
  | .done t => .next t
  | .one a t => andThen (exec a.i t) (fun u => .next (finishIssue p sc [a] a u))
  | .two a b t =>
    andThen (exec a.i t) (fun u =>
      andThen (exec b.i (secondSlot a b u)) (fun v => .next (finishIssue p sc [a, b] b v)))

/-- One turn. -/
def takeTurn (t : Turn) (s : State) : Host.Outcome State Fault Refusal :=
  if !turnOk t then .fault .illFormedTurn
  else match t with
  | .event i => if answers s i then exec i s else .next s
  | .issue p sc => if awake s then issueTurn p sc s else .next s
  | .advance n => .next (if s.powered then advance n s else s)
  | .jobProgress j i => .next (if awake s then jobProgress s j i else s)
  | .jobHostError j i n => .next (if awake s then jobHostError s j i n else s)
  | .notifyWrite i o n v => .next (if awake s then notifyWrite i o n v s else s)
  | .notifyRead i _ => .next (if awake s then notifyRead i s else s)
  | .windowRead o => .next (if awake s then windowRead o s else s)
  | .rdmaServe k => .next (if awake s then rdmaServe k s else s)
  | .hartFetch h a => .next (if awake s then hartFetch h a s else s)
  | .hartFetchPc h => .next (if awake s then hartFetchPc h s else s)
  | .hartVirtual h op => .next (if awake s then hartVirtual h op s else s)
  | .hartExec h rd v pc => .next (if awake s then hartExec h rd v pc s else s)
  | .hartCsr h rd n v => .next (if awake s then hartCsr h rd n v s else s)
  | .hartImsic h f n v => .next (if awake s then whenAwake h s (hartImsic h f n v) else s)
  | .hartReturn h m => .next (if awake s then whenAwake h s (hartReturn h m) else s)
  | .hartTrap h c v => .next (if awake s then whenAwake h s (fun t => hartTrap t h c v 0) else s)
  | .hartInterrupt h => .next (if awake s && (hartAwake s h).isSome then hartInterrupt h s else s)
  | .hartSfence h => .next (if awake s then hartSfence h s else s)
  | .pageRequest t p => .next (if awake s then pageRequest t p s else s)
  | .atsAnswer sp p => .next (if awake s then atsAnswer sp p s else s)
  | .bringPage t a => .next (if awake s then bringPage t a s else s)
  | .poolFrame a k => .next (if awake s then poolFrame a k s else s)
  | .backPage p a k at_ cs => .next (if awake s then backPage p a k at_ cs s else s)
  | .evictEnd p a => .next (if awake s then evictEnd p a s else s)
  | .localAccess b l => .next (if awake s then localTurn s b l else s)
  | .recordWrite t => .next (if awake s then recordWrite s t else s)
  | .useMark a => .next (if awake s then useMark s a else s)
  | .cxlServe k => .next (if awake s then cxlServe s k else s)
  | .cacheDrop c l => .next (cacheDrop s c l)
  | .instrDrop c l => .next (instrDrop s c l)
  | .sliceLose p l => .next (sliceLose s p l)
  | .cachePower c d on => .next (cachePower s c d on)
  | .sense d z t dp f => .next (if awake s then sense s d z t dp f else s)
  | .portDown p => .next (portDown s p)
  | .portRate p r => .next (portRate s p r)
  | .fabricPeer p k => .next (fabricPeer s p k)
  | .nodeReport ks => .next (nodeReport s ks)
  | .ethernetSend p q o a n => .next (if awake s then ethernetSend p q o a n s else s)

/-- One step of the machine. -/
def step (s : State) : Host.Outcome State Fault Refusal :=
  match s.agenda with
  | t :: ts => takeTurn t { s with agenda := ts }
  | [] => takeTurn (idleTurn s) s

/-- The instruction of `nbits` bits, and zeros above them, stands where the next step fetches it. -/
def State.withFetchWord (s : State) (nbits w : Nat) : State :=
  placeWord s (BitVec.ofNat 96 (w % 2 ^ nbits))

end Sys2Proof.Machine
end

