-- ==== Sys2Proof/Safety.lean ====
section
/-! DEFINITION. What counts as a safe run, and the properties of states that every step keeps. -/
namespace Sys2Proof.Machine

/-- The next turn is a proper one: only another one makes the model stop. -/
def State.safe (s : State) : Prop := ∀ t, s.agenda.head? = some t → turnOk t = true

/-- Both byte memories have their canonical form. -/
def State.memWf (s : State) : Prop := Memory.wf s.mem = true ∧ Memory.wf s.hostMem = true

end Sys2Proof.Machine
end

