-- ==== Sys2Proof/Certificates/Slice0/Obligations.lean ====
section
/-! DEFINITION. The statements for the provers, each with the rule it formalises, and the few predicates they are said
with. -/

namespace Sys2Proof.Claim
open Sys2Proof.Machine

/-! ## How the claims are said -/

/-- Of the whole state only lanes of the issuing block may differ: registers, flags, special registers, memory and every
other block are as they were. -/
def OnlyLanes (s u : State) : Prop :=
  u = { s with blocks := u.blocks } ∧ (∀ b, b ≠ s.cur.blk → u.block b = s.block b) ∧
  u.block s.cur.blk = { s.block s.cur.blk with lanes := (u.block s.cur.blk).lanes }

/-- Each lane with guard 1 changes as `P` says of its number, its operands and itself before and after; nothing else
changes. -/
def PerLane (f : Fields) (s u : State) (P : Nat → Src → Lane → Lane → Prop) : Prop :=
  OnlyLanes s u ∧ ∀ l,
    (l ∈ activeLanes f s → P l (s.src l) (s.lane s.cur.blk l) (u.lane s.cur.blk l)) ∧
    (l ∉ activeLanes f s → u.lane s.cur.blk l = s.lane s.cur.blk l)

/-- The `n` registers from `d` on hold the number `v`, lowest word first; every other register, and by `upd` the rest of
the lane, is as it was. -/
def RegsSet (d n v : Nat) (upd : Lane → Lane) (x y : Lane) : Prop :=
  y = { upd x with regs := y.regs } ∧ (∀ k, k < n → y.reg (d + k) = BitVec.ofNat 32 (v / 2 ^ (32 * k))) ∧
  ∀ k, k < d ∨ d + n ≤ k → y.reg k = x.reg k

/-- Predicate `d` holds `v`, where it is not p15; every other predicate, and by `upd` the rest of the lane, is as it was. -/
def PredSet (d : Nat) (v : Bool) (upd : Lane → Lane) (x y : Lane) : Prop :=
  y = { upd x with preds := y.preds } ∧
  ∀ k, k < 16 → y.preds.getLsbD k = if k = d ∧ d ≠ 15 then v else x.preds.getLsbD k

/-- For every form and every state the instruction completes: each lane with guard 1 has `val` of its operands in the
registers of its result of type `ty`, and nothing else has changed. -/
def Writes (mk : Fields → Instr) (ty : Fields → Ty) (val : Fields → Src → Nat) : Prop :=
  ∀ (f : Fields) (s : State), ∃ u, exec (mk f) s = .next u ∧
    PerLane f s u (fun _ x l l' => RegsSet f.d.toNat (ty f).regs (extT (ty f) (val f x)) id l l')

/-- The same, with the flags that the result raises added to FPSTAT. -/
def WritesF (mk : Fields → Instr) (ty : Fields → Ty) (val : Fields → State → Src → Nat × Flags) : Prop :=
  ∀ (f : Fields) (s : State), ∃ u, exec (mk f) s = .next u ∧
    PerLane f s u (fun _ x l l' => RegsSet f.d.toNat (ty f).regs (extT (ty f) (val f s x).1)
      (fun y => { y with fpstat := y.fpstat ||| (val f s x).2 }) l l')

/-- The same for a predicate result. -/
def WritesP (mk : Fields → Instr) (val : Fields → Src → Bool) : Prop :=
  ∀ (f : Fields) (s : State), ∃ u, exec (mk f) s = .next u ∧
    PerLane f s u (fun _ x l l' => PredSet f.d.toNat (val f x) id l l')

/-- A long-latency result: nothing changes but the list of outstanding results, which gains one for each lane with
guard 1, in order, with the words of its registers and its flags. -/
def Starts (mk : Fields → Instr) (ty : Fields → Ty) (val : Fields → State → Nat → Nat × Flags) : Prop :=
  ∀ (f : Fields) (s : State), ∃ u, exec (mk f) s = .next u ∧
    u = { s with lres := u.lres, seq := u.seq } ∧
    ∃ new : List LRes, u.lres = s.lres ++ new ∧ new.map (·.lane) = activeLanes f s ∧
      ∀ r ∈ new, r.blk = s.cur.blk ∧ r.pred = none ∧ r.handle = none ∧ s.seq ≤ r.id ∧
        r.regs = regPairs f.d.toNat (wordsOf (ty f).regs (extT (ty f) (val f s r.lane).1)) ∧ r.flags = (val f s r.lane).2

/-- The type in T. -/
def ofT (f : Fields) : Ty := f.t
/-- The 32-bit types of results that do not follow T. -/
def b32 (_ : Fields) : Ty := .b32
def f32 (_ : Fields) : Ty := .f32

/-- The operands at SA, at SB or IMM, and at SC, as bits of the type. -/
def opA (f : Fields) (x : Src) : Nat := rdT x f.t f.sa.toNat
def opB (f : Fields) (x : Src) : Nat := rdB f x f.t
def opC (f : Fields) (x : Src) : Nat := rdT x f.t f.sc.toNat
/-- The same as numbers. -/
def intA (f : Fields) (x : Src) : Int := valT f.t (opA f x)
def intB (f : Fields) (x : Src) : Int := valT f.t (opB f x)
def intC (f : Fields) (x : Src) : Int := valT f.t (opC f x)
/-- Wrapped, or clamped with `.sat` (SUB bit 32). -/
def wrapOrSat (f : Fields) (v : Int) : Nat := if f.sub.getLsbD 0 then satT f.t v else ofInt f.t.bits v
/-- The 32-bit second source. -/
def wordB (f : Fields) (x : Src) : Nat := (rdB32 f x).toNat
/-- The operands as bit vectors of the type's width. -/
def bitsA (f : Fields) (x : Src) : BitVec f.t.bits := BitVec.ofNat _ (opA f x)
def bitsB (f : Fields) (x : Src) : BitVec f.t.bits := BitVec.ofNat _ (opB f x)

/-- The byte that PRMT makes from the control byte `c` and its candidates (R80). -/
def permByte (a b c : Nat) : Nat :=
  let x := if c % 8 < 4 then byteAt a (c % 8) else byteAt b (c % 8 - 4)
  let x := if c.testBit 4 then (if x.testBit 7 then 0xFF else 0) else x
  let x := if c.testBit 3 then 0 else x
  if c.testBit 5 then 0xFF - x else x

end Sys2Proof.Claim

open Sys2Proof Sys2Proof.Machine Sys2Proof.Claim

/-! ## Integer and predicate instructions -/

/-- R81: NOP has no effect, MOV writes its source unchanged, SEL chooses by p[SC]. -/
def Obligations.MovesAndSelects : Prop :=
  (∀ (f : Fields) (s : State), exec (.nop f) s = .next s) ∧ Writes .mov ofT opB ∧
  Writes .sel ofT (fun f x => if x.pred f.sc.toNat then opA f x else opB f x)

/-- The arithmetic results of R74, R75 and R77, with what they leave unchanged. -/
def Sys2Proof.Claim.IntegerArithmetic : Prop :=
  Writes .iadd ofT (fun f x => wrapOrSat f (intA f x + intB f x)) ∧
  Writes .isub ofT (fun f x => wrapOrSat f (intA f x - intB f x)) ∧
  Writes .imul ofT (fun f x => opA f x * opB f x % 2 ^ f.t.bits) ∧
  Writes .imulh ofT (fun f x => ofInt f.t.bits (intA f x * intB f x / (2 ^ f.t.bits : Nat))) ∧
  Writes .imad ofT (fun f x => (opA f x * opB f x + opC f x) % 2 ^ f.t.bits) ∧
  Writes .imin ofT (fun f x => if intA f x ≤ intB f x then opA f x else opB f x) ∧
  Writes .imax ofT (fun f x => if intA f x ≤ intB f x then opB f x else opA f x) ∧
  Writes .iabs ofT (fun f x => wrapOrSat f (intA f x).natAbs) ∧
  Writes .ineg ofT (fun f x => wrapOrSat f (-(intA f x))) ∧
  Writes .lea ofT (fun f x => (opA f x + (if f.t = .s64 then ofInt 64 (toInt 32 (wordB f x)) else wordB f x) *
    2 ^ f.subBits 34 32) % 2 ^ 64)

/-- The bitwise results and counts of R74 and R75. -/
def Sys2Proof.Claim.BitwiseResults : Prop :=
  Writes .and ofT (fun f x => (bitsA f x &&& bitsB f x).toNat) ∧
  Writes .or ofT (fun f x => (bitsA f x ||| bitsB f x).toNat) ∧
  Writes .xor ofT (fun f x => (bitsA f x ^^^ bitsB f x).toNat) ∧
  Writes .andn ofT (fun f x => (bitsA f x &&& ~~~ bitsB f x).toNat) ∧
  Writes .not ofT (fun f x => (~~~ bitsA f x).toNat) ∧
  Writes .brev ofT (fun f x => (bitsA f x).reverse.toNat) ∧
  Writes .popc b32 (fun f x => (List.range f.t.bits).countP (fun i => (opA f x).testBit i)) ∧
  Writes .clz b32 (fun f x => (List.range f.t.bits).countP (fun i => decide (opA f x < 2 ^ i))) ∧
  Writes .ctz b32 (fun f x => (List.range f.t.bits).countP (fun i => decide (opA f x % 2 ^ (i + 1) = 0)))

/-- R22: shifts and rotates take their count modulo the width of their type; SAR fills with the sign, SHL and SHR with zeros. -/
def Obligations.ShiftsAndRotates : Prop :=
  Writes .shl ofT (fun f x => (bitsA f x <<< (wordB f x % f.t.bits)).toNat) ∧
  Writes .shr ofT (fun f x => (bitsA f x >>> (wordB f x % f.t.bits)).toNat) ∧
  Writes .sar ofT (fun f x => ((bitsA f x).sshiftRight (wordB f x % f.t.bits)).toNat) ∧
  Writes .rotl ofT (fun f x => ((bitsA f x).rotateLeft (wordB f x % f.t.bits)).toNat)

/-- R78, R79, R80: dot product, bit fields and byte permutation. -/
def Sys2Proof.Claim.FieldsAndBytes : Prop :=
  Writes .bfx ofT (fun f x => bfx f.t (opA f x) (rdB32 f x)) ∧
  Writes .bfi ofT (fun f x =>
    let pos := wordB f x % 256
    let len := min (wordB f x / 256 % 256) f.t.bits
    ofBits f.t.bits (fun j => if pos ≤ j ∧ j < pos + len then (opA f x).testBit (j - pos) else (opC f x).testBit j)) ∧
  Writes .prmt b32 (fun f x =>
    let p (i : Nat) : Nat := permByte (x.reg f.sa.toNat).toNat (wordB f x) (byteAt (x.reg f.sc.toNat).toNat i)
    p 0 + p 1 * 2 ^ 8 + p 2 * 2 ^ 16 + p 3 * 2 ^ 24) ∧
  Writes .idot4 b32 (fun f x =>
    let e (v : Word) (i : Nat) : Int :=
      if f.t.signed then ((v.extractLsb' (8 * i) 8).toInt) else ((v.extractLsb' (8 * i) 8).toNat : Int)
    let v := e (x.reg f.sa.toNat) 0 * e (rdB32 f x) 0 + e (x.reg f.sa.toNat) 1 * e (rdB32 f x) 1 +
      e (x.reg f.sa.toNat) 2 * e (rdB32 f x) 2 + e (x.reg f.sa.toNat) 3 * e (rdB32 f x) 3 +
      valT f.t (x.reg f.sc.toNat).toNat
    if f.sub.getLsbD 0 then satT f.t v else ofInt 32 v)

/-- R82, R83, R84: what the predicate instructions write. -/
def Sys2Proof.Claim.PredicateWrites : Prop :=
  WritesP .icmp (fun f x => combine (f.subBits 36 35) (icond (f.subBits 34 32) (intA f x) (intB f x)) (x.pred f.sc.toNat)) ∧
  WritesP .pset (fun f x =>
    (f.subBits 35 32).testBit (2 * (x.pred f.sa.toNat).toNat + (x.pred f.sb.toNat).toNat)) ∧
  Writes .pget b32 (fun _ x => 2 ^ 15 + x.preds.toNat % 2 ^ 15) ∧
  ∀ (f : Fields) (s : State), ∃ u, exec (.pput f) s = .next u ∧ PerLane f s u (fun _ x l l' =>
    l' = { l with preds := l'.preds } ∧ ∀ i, i < 16 → l'.preds.getLsbD i =
      if i < 15 ∧ f.imm.getLsbD i then (x.reg f.sa.toNat).getLsbD i else l.preds.getLsbD i)

/-- R76: the sum modulo 2^n to the register, the carry to the predicate in SUB bits 35:32, from operands as they stood before
either write; SUB bit 36 = 0 with SC ≠ 0 is refused. -/
def Obligations.AddWithCarry : Prop :=
  (∀ (w : BitVec 96), wordOp w = 0x0E → (wordFields w).subBits 36 36 = 0 → (wordFields w).sc ≠ 0 →
    decodeWord w = .error .reservedField) ∧
  ∀ (f : Fields) (s : State), ∃ u, exec (.iaddc f) s = .next u ∧ PerLane f s u (fun _ x l l' =>
    let v := opA f x + opB f x + (if f.sub.getLsbD 4 && x.pred f.sc.toNat then 1 else 0)
    RegsSet f.d.toNat f.t.regs (extT f.t (v % 2 ^ f.t.bits)) (fun y => { y with preds := l'.preds }) l l' ∧
    PredSet (f.subBits 35 32) (decide (2 ^ f.t.bits ≤ v)) (fun y => { y with regs := l'.regs }) l l')

/-- R21, R56, R74: quotients and remainders become outstanding results: division by zero gives all ones and the
dividend, and the signed minimum divided by −1 wraps. -/
def Sys2Proof.Claim.DivisionStarts : Prop :=
  Starts .idiv ofT (fun f s l =>
    (if opB f (s.src l) = 0 then 2 ^ f.t.bits - 1
     else ofInt f.t.bits ((intA f (s.src l)).tdiv (intB f (s.src l))), 0)) ∧
  Starts .irem ofT (fun f s l =>
    (if opB f (s.src l) = 0 then opA f (s.src l)
     else ofInt f.t.bits ((intA f (s.src l)).tmod (intB f (s.src l))), 0))

namespace Sys2Proof.Claim
open Sys2Proof.Machine

/-- A float operation on each element of its operands at SA and at SB or IMM. -/
def map2 (g : Fields → Fmt → Nat → Nat → FRes) (f : Fields) (_ : State) (x : Src) : Nat × Flags :=
  mapElems f.t (fun k => g f (tyFmt f.t) (felem f.t (opA f x) k) (felem f.t (opB f x) k))
/-- The same on one operand. -/
def map1 (g : Fields → Fmt → Nat → FRes) (f : Fields) (_ : State) (x : Src) : Nat × Flags :=
  mapElems f.t (fun k => g f (tyFmt f.t) (felem f.t (opA f x) k))
/-- An element as a value, a subnormal as zero with `.ftz`. -/
def flo (f : Fields) (m : Fmt) (code : Nat) : FVal := m.decZ (ftzOf f) code
/-- Bits of register SA as an f32 value. -/
def f32A (f : Fields) (x : Src) : FVal := fmtF32.dec (x.reg f.sa.toNat).toNat
/-- The word at SA, at SC. -/
def wordA (f : Fields) (x : Src) : Nat := (x.reg f.sa.toNat).toNat
def wordC (f : Fields) (x : Src) : Nat := (x.reg f.sc.toNat).toNat

end Sys2Proof.Claim

/-! ## Float and conversion instructions -/

/-- R90, R93: element by element, one rounding in rm, with the flags added to FPSTAT. -/
def Sys2Proof.Claim.FloatArithmetic : Prop :=
  WritesF .fadd ofT (map2 fun f m a b => m.add (rmOf f) (ftzOf f) (flo f m a) (flo f m b)) ∧
  WritesF .fsub ofT (map2 fun f m a b => m.add (rmOf f) (ftzOf f) (flo f m a) (flo f m b).negate) ∧
  WritesF .fmul ofT (map2 fun f m a b => m.mul (rmOf f) (ftzOf f) (flo f m a) (flo f m b)) ∧
  WritesF .fmin ofT (map2 fun f m a b => m.minmax false (ftzOf f) a b) ∧
  WritesF .fmax ofT (map2 fun f m a b => m.minmax true (ftzOf f) a b) ∧
  WritesF .ffma ofT (fun f _ x => mapElems f.t (fun k =>
    (tyFmt f.t).fma (rmOf f) (ftzOf f) (flo f (tyFmt f.t) (felem f.t (opA f x) k))
      (flo f (tyFmt f.t) (felem f.t (opB f x) k)) (flo f (tyFmt f.t) (felem f.t (opC f x) k)))) ∧
  WritesF .fdot2 f32 (fun f _ x =>
    dot2 (tyFmt f.t) (rmOf f) (ftzOf f) (felem f.t (opA f x)) (felem f.t (opB f x)) (wordC f x)) ∧
  WritesF .fscale ofT (fun f _ x => mapElems f.t (fun k =>
    fscale (tyFmt f.t) (rmOf f) (ftzOf f) (felem f.t (opA f x) k) (rdB32 f x).toInt)) ∧
  WritesF .ffrac ofT (map1 fun f m a => fFrac m (rmOf f) (ftzOf f) a) ∧
  WritesF .frnd ofT (map1 fun f m a => fRnd m (rmOf f) (ftzOf f) a)

/-- R29, R93: the approximate instructions give the special results of R93, and elsewhere one of the results that the
bound of R29 admits: which one is `Config.approxPick`'s choice, of which nothing is known (log entry 9). -/
def Sys2Proof.Claim.ApproximateResults : Prop :=
  WritesF .frcp ofT (map1 fun f m a => fRcp m (ftzOf f) a) ∧ WritesF .frsq ofT (map1 fun f m a => fRsq m (ftzOf f) a) ∧
  WritesF .fexp2 ofT (map1 fun f m a => fExp2 m (ftzOf f) a) ∧
  WritesF .flog2 ofT (map1 fun f m a => fLog2 m (ftzOf f) a) ∧
  WritesF .fsin ofT (map1 fun f m a => fTrig false m (ftzOf f) a) ∧
  WritesF .fcos ofT (map1 fun f m a => fTrig true m (ftzOf f) a) ∧
  WritesF .ftanh ofT (map1 fun f m a => fTanh m (ftzOf f) a) ∧
  WritesF .fsigm ofT (map1 fun f m a => fSigm m (ftzOf f) a)

/-- R29, R90, R93: the rules name no trap and no wait for these instructions: each of the eighteen completes, for every form
and every state. `exec` answers a next state, which is that of the results above: of the machine only lanes with guard 1 have
changed. -/
def Sys2Proof.Claim.FloatFormsComplete : Prop :=
  ∀ mk ∈ [Instr.fadd, Instr.fsub, Instr.fmul, Instr.ffma, Instr.fmin, Instr.fmax, Instr.frcp, Instr.frsq, Instr.fexp2,
      Instr.flog2, Instr.fsin, Instr.fcos, Instr.ftanh, Instr.fsigm, Instr.fdot2, Instr.fscale, Instr.ffrac, Instr.frnd],
    ∀ (f : Fields) (s : State), ∃ u, exec (mk f) s = .next u ∧ OnlyLanes s u ∧
      ∀ l, l ∉ activeLanes f s → u.lane s.cur.blk l = s.lane s.cur.blk l

/-- R91, R92: the predicate of a comparison or a class test. A comparison adds NV to FPSTAT for a signalling NaN. -/
def Sys2Proof.Claim.FloatPredicates : Prop :=
  (∀ (f : Fields) (s : State), ∃ u, exec (.fcmp f) s = .next u ∧ PerLane f s u (fun _ x l l' =>
    let a := flo f (tyFmt f.t) (opA f x)
    let b := flo f (tyFmt f.t) (opB f x)
    PredSet f.d.toNat (combine (f.subBits 33 32) (fcond (f.subBits 37 35) a b) (x.pred f.sc.toNat))
      (fun y => { y with fpstat := y.fpstat ||| (if a.isSNaN || b.isSNaN then fNV else 0) }) l l')) ∧
  WritesP .fclass (fun f x => f.imm.toNat.testBit (fclass (tyFmt f.t) (ftzOf f) (opA f x)))

/-- R25: a value that a format holds exactly is rounded to its own code and sets no flag, in every mode. -/
def Obligations.RoundingKeepsExactValues : Prop :=
  ∀ m ∈ [fmtF32, fmtF16, fmtBF16], ∀ mode code n k e, code < 2 ^ m.width → m.dec code = .fin n k e →
    m.fin mode false n k e = (code, 0)

/-- R95 to R100: conversions between float, integer and narrow formats, with flags. The slot is that of the launch's
record. -/
def Sys2Proof.Claim.Conversions : Prop :=
  WritesF .cvtf ofT (fun f _ x =>
    cvtf (srcFmt (f.subBits 36 35)) (tyFmt f.t) (rmOf f) (ftzOf f) (wordA f x % 2 ^ (srcFmt (f.subBits 36 35)).width)) ∧
  WritesF .cvtfi ofT (fun f _ x =>
    cvtfi (srcFmt (f.subBits 36 35)) f.t (rmOf f) (ftzOf f) (wordA f x % 2 ^ (srcFmt (f.subBits 36 35)).width)) ∧
  WritesF .cvtif ofT (fun f _ x =>
    let v := valT (srcInt (f.subBits 37 35)) (rdT x (srcInt (f.subBits 37 35)) f.sa.toNat)
    (tyFmt f.t).fin (rmOf f) false (v < 0) v.natAbs 0) ∧
  WritesF .cvtn b32 (fun f s x =>
    let sl := fieldSlot f s
    let a := sl.fmt.into sl.rnd sl.sat (f32A f x)
    let b := sl.fmt.into sl.rnd sl.sat (fmtF32.dec (x.reg f.sb.toNat).toNat)
    let k := f.subBits 36 35
    (putElem sl.fmt.width (2 * k + 1) b.1 (putElem sl.fmt.width (2 * k) a.1 (wordC f x)), a.2 ||| b.2)) ∧
  WritesF .dqnt f32 (fun f s x =>
    dequant (fieldSlot f s) (getElem (fieldSlot f s).fmt.width (f.subBits 37 35) (wordA f x)) (scaleByte f x)) ∧
  WritesF .dpwe b32 (fun f s x =>
    let r := SFmt.into .dpw8 0 (fieldSlot f s).sat (f32A f x)
    (putElem 8 (f.subBits 36 35) r.1 (wordC f x), r.2))

/-- R97, R99, R100, R102: exact widening, scale codes, compression, and exchange within a quad: lane l of a quad gets
what its source lanes held when the instruction issued. -/
def Sys2Proof.Claim.ExactConversionsAndQuads : Prop :=
  WritesF .cvtw f32 (fun f s x =>
    (exactF32 ((fieldSlot f s).fmt.val (getElem (fieldSlot f s).fmt.width (f.subBits 37 35) (wordA f x))), 0)) ∧
  WritesF .scaleq b32 (fun f s x => (scaleCode (fieldSlot f s).fmt (blockMax [f32A f x]) * 2 ^ 24, 0)) ∧
  (∀ (f : Fields) (s : State), ∃ u, exec (.cmpr f) s = .next u ∧ PerLane f s u (fun _ x l l' =>
    let slot := f.subBits 35 35 = 1
    let w := if slot then 8 else 16
    let v := if slot then wordA f x else wordA f x + 2 ^ 32 * (x.reg (f.sa.toNat + 1)).toNat
    let k := compress (fun i => if slot then (fieldSlot f s).fmt.val (getElem w i v) else (tyFmt f.t).dec (getElem w i v))
    l' = { l with regs := l'.regs } ∧
    l'.reg f.d.toNat = BitVec.ofNat 32 (getElem w k.1 v + 2 ^ w * getElem w k.2 v) ∧
    l'.reg (f.d.toNat + 1) = BitVec.ofNat 32 (k.1 + 4 * k.2) ∧
    ∀ r, r < f.d.toNat ∨ f.d.toNat + 2 ≤ r → l'.reg r = l.reg r)) ∧
  (∀ (f : Fields) (s : State) (mk : Fields → Instr) (src : Nat → Nat),
    (mk = .qswz ∧ src = fun l => f.imm.toNat / 4 ^ (l % 4) % 4) ∨ (mk = .qbcast ∧ src = fun _ => f.imm.toNat % 4) →
    ∃ u, exec (mk f) s = .next u ∧ PerLane f s u (fun n _ l l' =>
      RegsSet f.d.toNat f.t.regs (extT f.t (opA f (s.src (4 * (n / 4) + src n)))) id l l')) ∧
  (∀ (f : Fields) (s : State), ∃ u, exec (.qred f) s = .next u ∧ PerLane f s u (fun n _ l l' =>
    let v (k : Nat) : Nat := opA f (s.src (4 * (n / 4) + k))
    let op := f.subBits 35 32
    let a := redOp op f.t (v 0) (v 1)
    let b := redOp op f.t (v 2) (v 3)
    let r := redOp op f.t a.1 b.1
    RegsSet f.d.toNat f.t.regs (extT f.t r.1) (fun y => { y with fpstat := y.fpstat ||| (a.2 ||| b.2 ||| r.2) }) l l'))

/-- R95 to R100: the rules name no trap and no wait for these instructions: each of the nine conversions and each of the three
exchanges within a quad completes, for every form and every state. `exec` answers a next state, which is that of the results
above: of the machine only lanes with guard 1 have changed. -/
def Sys2Proof.Claim.ConversionFormsComplete : Prop :=
  ∀ mk ∈ [Instr.cvtf, Instr.cvtfi, Instr.cvtif, Instr.cvtn, Instr.cvtw, Instr.dqnt, Instr.dpwe, Instr.scaleq, Instr.cmpr,
      Instr.qswz, Instr.qbcast, Instr.qred],
    ∀ (f : Fields) (s : State), ∃ u, exec (mk f) s = .next u ∧ OnlyLanes s u ∧
      ∀ l, l ∉ activeLanes f s → u.lane s.cur.blk l = s.lane s.cur.blk l

/-- R31, R56, R98: square roots, quotients and quantised elements become outstanding results with their flags. The
computed form of QNT takes its scale from all lanes with guard 1 of its block of lanes. -/
def Sys2Proof.Claim.LongLatencyStarts : Prop :=
  Starts .fsqrt ofT (fun f s l => map1 (fun f m a => m.sqrt (rmOf f) (ftzOf f) (flo f m a)) f s (s.src l)) ∧
  Starts .fdiv ofT (fun f s l => map2 (fun f m a b => m.div (rmOf f) (ftzOf f) (flo f m a) (flo f m b)) f s (s.src l)) ∧
  Starts .qntGiven b32 (fun f s l =>
    let r := quantElem (fieldSlot f s) (f32A f (s.src l)) (scaleByte f (s.src l))
    (r.1 + scaleByte f (s.src l) * 2 ^ 24, r.2)) ∧
  ∀ (f : Fields) (s : State), ∃ u, exec (.qntComputed f) s = .next u ∧ u = { s with lres := u.lres, seq := u.seq } ∧
    ∃ new : List LRes, u.lres = s.lres ++ new ∧ new.map (·.lane) = activeLanes f s ∧ ∀ r ∈ new, r.blk = s.cur.blk ∧
      let sl := fieldSlot f s
      let scale := scaleCode sl.fmt (blockMax (((activeLanes f s).filter (qntSame sl r.lane)).flatMap
        (fun k => qntElems sl f (s.src k))))
      let e (i : Nat) : Nat × Flags := quantElem sl (fmtF32.dec ((s.src r.lane).reg (f.sa.toNat + i)).toNat) scale
      r.regs = [(f.d.toNat, BitVec.ofNat 32
        ((if sl.blk = 64 then (e 0).1 % 2 ^ sl.fmt.width + 2 ^ sl.fmt.width * ((e 1).1 % 2 ^ sl.fmt.width)
          else (e 0).1 % 2 ^ sl.fmt.width) + scale * 2 ^ 24))] ∧
      r.flags = if sl.blk = 64 then (e 0).2 ||| (e 1).2 else (e 0).2

namespace Sys2Proof.Claim
open Sys2Proof.Machine

/-- Every lane with guard 1 may go to its target: the target passes the checks, and its line can be read (R53, R85). -/
def TargetsOk (f : Fields) (s : State) (target : Src → Dword) : Prop :=
  ∀ l ∈ activeLanes f s, targetOk s s.cur.pier s.curTag (target (s.src l)) = true ∧
    targetWaits s s.cur.pier s.curTag (target (s.src l)) = false

/-- The state with the mark that the run ends after this instruction (R57). -/
def runEnded (s : State) : State := { s with cur := { s.cur with ended := true } }

/-- Only the blocks may differ, and the mark that the run ends is set. -/
def OnlyBlocksRunEnds (s u : State) : Prop := u = { runEnded s with blocks := u.blocks }

/-- The launch's fault record is to be written in its turn with the header as it stands in `u`, and nothing else of it
(R293, R295). -/
def HeaderGoesOut (s u : State) (tag : Nat) : Prop :=
  u.frWrites = s.frWrites ++ [{ tag := tag, part := (s.launch tag).part, ptr := (s.launch tag).rec_.frptr,
                                bytes := frHeader tag (u.launch tag) }]

/-- What entering handler mode leaves of a lane (R190). -/
def entered (s : State) (y : Lane) : Lane :=
  { y with hmode := true, pc := s.curRec.handler, entering := true, park := .run, skip := false, due := none }

/-- Cause `c` is taken in the lanes `ls`: the trap registers of the group hold it, the lanes are in handler mode at the
handler's entry, HCOUNT counts it, the run ends, and of memory only the fault record's header is to be written (R190). -/
def TakesCause (s u : State) (ls : List Nat) (c : Cause) : Prop :=
  (u.grp s.cur.blk s.cur.grp).trap = c ∧ (∀ l ∈ ls, u.lane s.cur.blk l = entered s (s.lane s.cur.blk l)) ∧
  (u.launch s.curTag).hcount = min (s.curLaunch.hcount + 1) 65535 ∧ u.cur.ended = true ∧
  u.mem = s.mem ∧ u.hostMem = s.hostMem ∧ HeaderGoesOut s u s.curTag

/-- The cause waits until the group has no lane in handler mode any more (R190). -/
def CauseWaits (s u : State) (ls : List Nat) (c : Cause) : Prop :=
  u = { s with blocks := u.blocks, cur := u.cur } ∧ u.cur.ended = true ∧
  (u.grp s.cur.blk s.cur.grp).pending = s.curGrp.pending ++ [c] ∧
  ∀ l, u.lane s.cur.blk l = if l ∈ ls then { s.lane s.cur.blk l with park := .trapPending, pc := c.pc } else s.lane s.cur.blk l

/-- A fault whose fate is termination stops the lanes `ls` at `pc`: the launch is terminating, COUNT advances by one, the
first fault is named, and the entry that is to be written names the code and the address (R290, R292 to R295). -/
def Terminates (s u : State) (ls : List Nat) (pc : Dword) (code : BitVec 8) (addr : Dword) : Prop :=
  (∀ l ∈ ls, u.lane s.cur.blk l = { s.lane s.cur.blk l with park := .stopped, pc := pc }) ∧
  (u.launch s.curTag).terminating = true ∧ (u.launch s.curTag).count = min (s.curLaunch.count + 1) (2 ^ 32 - 1) ∧
  (s.curLaunch.count = 0 → (u.launch s.curTag).first = code ∧ (u.launch s.curTag).tFirst = s.now) ∧
  (s.curLaunch.written < 126 → ∃ w ∈ u.frWrites, w.tag = s.curTag ∧
    w.ptr = BitVec.ofNat 64 (s.curRec.frptr.toNat + (64 + 32 * s.curLaunch.written)) ∧ w.bytes.take 1 = [code] ∧
    w.bytes.drop 24 = leBytes 8 addr.toNat) ∧
  u.cur.ended = true ∧ u.mem = s.mem ∧ u.hostMem = s.hostMem

/-- The launch of the issuing block runs. -/
def Running (s : State) : Prop := s.curLaunch.used = true ∧ s.curLaunch.complete = false

/-- The value that the last lane with guard 1 gives a SYSWR. -/
def LastLane (f : Fields) (s : State) (l : Nat) : Prop := (activeLanes f s).getLast? = some l

end Sys2Proof.Claim

/-! ## Control, traps and system registers -/

/-- R52, R53, R85: where its target passes the checks, each lane with guard 1 goes to it; CALL and CALLX write the
program counter of the slot after to the pair D; nothing else changes. -/
def Sys2Proof.Claim.ControlTransfers : Prop :=
  ∀ (f : Fields) (s : State),
    let imm : Src → Dword := fun _ => immTarget f s.cur.pc
    let reg : Src → Dword := fun x => x.pair f.sa.toNat
    (∀ mk t, (mk, t) ∈ [(Instr.bra, imm), (Instr.brx, reg), (Instr.ret, reg)] → TargetsOk f s t →
      ∃ u, exec (mk f) s = .next u ∧ PerLane f s u (fun _ x l l' => l' = { l with pc := t x })) ∧
    (∀ mk t, (mk, t) ∈ [(Instr.call, imm), (Instr.callx, reg)] → TargetsOk f s t →
      ∃ u, exec (mk f) s = .next u ∧ PerLane f s u (fun _ x l l' =>
        RegsSet f.d.toNat 2 s.cur.next.toNat (fun y => { y with pc := t x }) l l'))

/-- R53, R85, R206: lanes whose target fails the checks stop at the transfer with BAD_TARGET, which ends the launch, with
the target of the lowest of them; they write no link. The other lanes with guard 1 go to their targets. -/
def Sys2Proof.Claim.BadTargetsStop : Prop :=
  ∀ (f : Fields) (s : State), Running s →
    let imm : Src → Dword := fun _ => immTarget f s.cur.pc
    let reg : Src → Dword := fun x => x.pair f.sa.toNat
    ∀ (mk : Fields → Instr) (t : Src → Dword) (link : Bool),
      (mk, t, link) ∈ [(Instr.bra, imm, false), (Instr.brx, reg, false), (Instr.ret, reg, false), (Instr.call, imm, true),
        (Instr.callx, reg, true)] →
      (∀ l ∈ activeLanes f s, targetWaits s s.cur.pier s.curTag (t (s.src l)) = false) →
      let bad := (activeLanes f s).filter (fun l => !targetOk s s.cur.pier s.curTag (t (s.src l)))
      ∀ l0, bad.head? = some l0 → ∃ u, exec (mk f) s = .next u ∧ Terminates s u bad s.cur.pc 0x03 (t (s.src l0)) ∧
        (∀ l, l ∉ activeLanes f s → u.lane s.cur.blk l = s.lane s.cur.blk l) ∧
        ∀ l ∈ activeLanes f s, l ∉ bad →
          if link then RegsSet f.d.toNat 2 s.cur.next.toNat (fun y => { y with pc := t (s.src l) }) (s.lane s.cur.blk l)
            (u.lane s.cur.blk l)
          else u.lane s.cur.blk l = { s.lane s.cur.blk l with pc := t (s.src l) }

/-- R57, R87: YIELD ends the run of its batch where a lane has guard 1, and does nothing else. -/
def Sys2Proof.Claim.YieldEndsRun : Prop :=
  ∀ (f : Fields) (s : State),
    (activeLanes f s ≠ [] → exec (.yield f) s = .next (runEnded s)) ∧
    (activeLanes f s = [] → exec (.yield f) s = .next s)

/-- R189, R190, R193: TRAP and BRK arise after they issue, with TRAPPC the slot after and TRAPVAL their number. With a
handler, and no lane of the group in handler mode, the cause is taken. While other lanes of the group are in handler mode
it waits for them. Without a handler, or in handler mode, it ends the launch. -/
def Sys2Proof.Claim.TrapTakesCause : Prop :=
  ∀ (f : Fields) (s : State) (mk : Fields → Instr) (code : BitVec 8) (v : Dword),
    (mk = .trap ∧ code = 0x40 ∧ v = BitVec.ofNat 64 (f.immBits 7 0)) ∨ (mk = .brk ∧ code = 0x41 ∧ v = 0xFF) →
    activeLanes f s ≠ [] →
    let c : Cause := { code := code, pc := s.cur.next, val := v, mask := lanesMask (activeLanes f s) }
    let own : Prop := ∃ l ∈ activeLanes f s, (s.lane s.cur.blk l).hmode = true
    (s.curRec.handler ≠ 0 → ¬ own → inHandler s.curBlock s.cur.grp = false →
      ∃ u, exec (mk f) s = .next u ∧ TakesCause s u (activeLanes f s) c ∧
        ∀ l, l ∉ activeLanes f s → u.lane s.cur.blk l = s.lane s.cur.blk l) ∧
    (s.curRec.handler ≠ 0 → ¬ own → inHandler s.curBlock s.cur.grp = true →
      ∃ u, exec (mk f) s = .next u ∧ CauseWaits s u (activeLanes f s) c) ∧
    (s.curRec.handler = 0 ∨ own → Running s →
      ∃ u, exec (mk f) s = .next u ∧ Terminates s u (activeLanes f s) s.cur.next code v ∧
        ∀ l, l ∉ activeLanes f s → u.lane s.cur.blk l = s.lane s.cur.blk l)

/-- R190, R192: RTE takes the lanes with guard 1 out of handler mode to TRAPPC; SUB bit 32 lets the next issue pass a
breakpoint. Where no lane of the group is left in handler mode, the oldest pending cause is taken by its lanes. -/
def Sys2Proof.Claim.ReturnFromHandler : Prop :=
  ∀ (f : Fields) (s : State),
    let back (l : Nat) : Lane := if l ∈ activeLanes f s then
        { s.lane s.cur.blk l with hmode := false, pc := s.curGrp.trap.pc, skip := f.sub.getLsbD 0 }
        else s.lane s.cur.blk l
    let handled : Prop := ∃ j < 32, (s.lane s.cur.blk (32 * s.cur.grp + j)).live = true ∧
      (s.lane s.cur.blk (32 * s.cur.grp + j)).hmode = true ∧ 32 * s.cur.grp + j ∉ activeLanes f s
    (s.curGrp.pending = [] ∨ handled → ∃ u, exec (.rte f) s = .next u ∧ OnlyBlocksRunEnds s u ∧
      ∀ l, u.lane s.cur.blk l = back l) ∧
    (∀ c cs, s.curGrp.pending = c :: cs → ¬ handled → c.mask ≠ 0 →
      (∀ j < 32, c.mask.getLsbD j = true → (s.lane s.cur.blk (32 * s.cur.grp + j)).live = true ∧
        (s.lane s.cur.blk (32 * s.cur.grp + j)).park = .trapPending) →
      ∃ u, exec (.rte f) s = .next u ∧ TakesCause s u ((maskLanes c.mask).map (32 * s.cur.grp + ·)) c ∧
        (u.grp s.cur.blk s.cur.grp).pending = cs ∧
        ∀ l, l ∉ (maskLanes c.mask).map (32 * s.cur.grp + ·) → u.lane s.cur.blk l = back l)

/-- R66, R290, R292: UDF is an illegal opcode on every lane of its batch: the lanes stop where they stand, and a launch
that was running is terminating, with the fault recorded. That one instruction of a batch of several lanes advances COUNT
by one is log entry 11 (DEDUCED). -/
def Sys2Proof.Claim.UdfTerminates : Prop :=
  ∀ (f : Fields) (s : State), s.curLanes ≠ [] → Running s →
    ∃ u, exec (.udf f) s = .next u ∧ Terminates s u s.curLanes s.cur.pc 0x01 0xFF ∧
      ∀ l, l ∉ s.curLanes → u.lane s.cur.blk l = s.lane s.cur.blk l

/-- R58, R194: SYSRD writes the register's value, as the lane reads it, to the pair D: in the second slot of a pair the
value from before the pair. -/
def Sys2Proof.Claim.SystemRegisterReads : Prop :=
  ∀ (f : Fields) (s : State), ∃ u, exec (.sysrd f) s = .next u ∧ PerLane f s u (fun n x l l' =>
    RegsSet f.d.toNat 2 (match x.seen with | some v => v.toNat | none => (sysRead s n (f.imm.toNat % 4096)).toNat) id l l')

/-- R194: a SYSWR with values that the register admits completes, and the register then reads as the last lane with
guard 1 gave it: FPSTAT, TRAPPC, and the registers of debug, halting and the L1 caches. Main memory, the general
registers and the predicates are unchanged. -/
def Sys2Proof.Claim.SystemRegisterWrites : Prop :=
  ∀ (f : Fields) (s : State) (l : Nat), LastLane f s l →
    (∀ k ∈ activeLanes f s, sysValueOk (f.imm.toNat % 4096) ((s.src k).pair f.sa.toNat) = true) →
    f.imm.toNat % 4096 ∈ [0x000, 0x101, 0x800, 0x801, 0x802, 0x803, 0x804, 0x808, 0x809, 0x80A, 0x80B, 0x820, 0x821,
      0x830] →
    ∃ u, exec (.syswr f) s = .next u ∧
      sysRead u l (f.imm.toNat % 4096) = (s.src l).pair f.sa.toNat ∧ u.mem = s.mem ∧ u.hostMem = s.hostMem ∧
      ∀ b n, (u.lane b n).regs = (s.lane b n).regs ∧ (u.lane b n).preds = (s.lane b n).preds ∧
        (u.lane b n).pc = (s.lane b n).pc

/-- R194, R198, R281, R341: a SYSWR of EYEST takes as many words from the die's inbox as its lanes say; one of SLICECTL sets
the power bits of the pier's home slice, which loses the copies in what has no power, and with DROP all of them; one of
XLFENCE with GO starts a fence behind the release of R125, at which its group waits. Nothing else changes. -/
def Sys2Proof.Claim.SystemRegisterCommands : Prop :=
  ∀ (f : Fields) (s : State),
    let val (k : Nat) : Dword := (s.src k).pair f.sa.toNat
    (∀ k ∈ activeLanes f s, sysValueOk (f.imm.toNat % 4096) (val k) = true) →
    (f.imm.toNat % 4096 = 0x810 → ∃ u, exec (.syswr f) s = .next u ∧ u = { s with dies := u.dies } ∧
      let d := s.cur.pier / 64
      u.die d = { s.die d with eye := { (s.die d).eye with
        inbox := (s.die d).eye.inbox.drop ((activeLanes f s).map (fun k => (val k).toNat % 16)).sum } } ∧
      ∀ e, e ≠ d → u.die e = s.die e) ∧
    (f.imm.toNat % 4096 = 0x831 → ∃ u, exec (.syswr f) s = .next u ∧ u = { s with piers := u.piers } ∧
      (∀ p, p ≠ s.cur.pier → u.pier p = s.pier p) ∧
      ∀ l, LastLane f s l → u.pier s.cur.pier = { s.pier s.cur.pier with
        sliceOff := (val l).getLsbD 16, wayOff := BitVec.ofNat 16 (val l).toNat,
        slice := if (activeLanes f s).any (fun k => (val k).getLsbD 16 || (val k).getLsbD 17) then []
          else (s.pier s.cur.pier).slice.filter (fun e => (activeLanes f s).all (fun k =>
            !(BitVec.ofNat 16 (val k).toNat).getLsbD e.2)) }) ∧
    (f.imm.toNat % 4096 = 0x840 →
      let go := (activeLanes f s).filter (fun k => (val k).getLsbD 0)
      (go = [] → exec (.syswr f) s = .next s) ∧
      ((∃ k ∈ go, releaseOk s s.cur.blk k s.seq = false) → ∃ u, exec (.syswr f) s = .next u ∧
        u = { s with blocks := u.blocks, cur := u.cur } ∧ u.cur.ended = true ∧ (u.grp s.cur.blk s.cur.grp).park =
          .release (lanesMask (go.filter (fun k => !releaseOk s s.cur.blk k s.seq)))) ∧
      (go ≠ [] → (∀ k ∈ go, releaseOk s s.cur.blk k s.seq = true) → ∃ u x, exec (.syswr f) s = .next u ∧
        u = { s with blocks := u.blocks, cur := u.cur, fences := s.fences ++ [x], seq := u.seq } ∧ x.id = s.seq ∧
        x.mirror = false ∧ u.cur.ended = true ∧ (u.grp s.cur.blk s.cur.grp).park = .fence x.id (lanesMask go) ∧
        (∀ l, u.lane s.cur.blk l = if l ∈ go then { s.lane s.cur.blk l with pc := s.cur.pc } else s.lane s.cur.blk l) ∧
        ∀ k e, (k, e) ∈ x.entries ↔ ∃ c, (k, c) ∈ s.cores ∧ ∃ y ∈ c.record, y.id = e ∧
          (2048 ≤ k ∨ ∃ g ∈ y.grants, y.staleGrant s g.2 = true)))

/-- R195: HALT sets the group's bit of HALTMASK, and a group that was not halted is owed HALT_REQ. That HALT ends the run is
log entry 15 (DEDUCED: R197 calls it a control transfer, R57 does not list it). -/
def Sys2Proof.Claim.HaltSetsMask : Prop :=
  ∀ (f : Fields) (s : State), activeLanes f s ≠ [] → s.cur.grp < s.curBlock.groups → s.curBlock.groups ≤ 32 →
    ∃ u, exec (.halt f) s = .next u ∧ OnlyBlocksRunEnds s u ∧ (∀ b, b ≠ s.cur.blk → u.block b = s.block b) ∧
      (∀ k, (u.block s.cur.blk).haltMask.getLsbD k = (decide (k = s.cur.grp) || s.curBlock.haltMask.getLsbD k)) ∧
      (s.curBlock.haltMask.getLsbD s.cur.grp = false → (u.grp s.cur.blk s.cur.grp).haltReq = true) ∧
      ∀ l, u.lane s.cur.blk l = s.lane s.cur.blk l

/-- R200: WFE with the event flag set clears it and goes on; with the flag clear its whole batch waits. SEV sets the flag of
every group of the block, and a group with waiting lanes uses it to let them go on. -/
def Sys2Proof.Claim.WaitForEvent : Prop :=
  (∀ (f : Fields) (s : State), activeLanes f s ≠ [] → s.curGrp.event = true →
    ∃ u, exec (.wfe f) s = .next u ∧ u = { s with blocks := u.blocks } ∧ (u.grp s.cur.blk s.cur.grp).event = false ∧
      ∀ l, u.lane s.cur.blk l = s.lane s.cur.blk l) ∧
  (∀ (f : Fields) (s : State), activeLanes f s ≠ [] → s.curGrp.event = false →
    ∃ u, exec (.wfe f) s = .next u ∧ u = { s with blocks := u.blocks } ∧ ∀ l, u.lane s.cur.blk l =
      if l ∈ s.curLanes then { s.lane s.cur.blk l with park := .wfe } else s.lane s.cur.blk l) ∧
  (∀ (f : Fields) (s : State), activeLanes f s ≠ [] →
    ∃ u, exec (.sev f) s = .next u ∧ u = { s with blocks := u.blocks } ∧ (∀ b, b ≠ s.cur.blk → u.block b = s.block b) ∧
      ∀ g < s.curBlock.groups,
        let waits : Prop := ∃ j < 32, (s.lane s.cur.blk (32 * g + j)).park = .wfe
        (waits → (u.grp s.cur.blk g).event = false) ∧ (¬ waits → (u.grp s.cur.blk g).event = true) ∧
        ∀ j < 32, u.lane s.cur.blk (32 * g + j) =
          if (s.lane s.cur.blk (32 * g + j)).park = .wfe then { s.lane s.cur.blk (32 * g + j) with park := .run }
          else s.lane s.cur.blk (32 * g + j))

/-- R201: DLSET opens a step with the deadline and total of its lowest lane, or closes it where either is 0; DLPROG adds
the units of all its lanes, saturating, for the interval that runs, or, at a boundary that the governor has not handled
yet, for the next (R325); DLEND closes. Nothing but the block's step record and what the governor keeps of
it changes. -/
def Sys2Proof.Claim.StepRecords : Prop :=
  ∀ (f : Fields) (s : State), activeLanes f s ≠ [] →
    ∃ u v w, exec (.dlset f) s = .next u ∧ exec (.dlprog f) s = .next v ∧ exec (.dlend f) s = .next w ∧
      (∀ t ∈ [u, v, w], t = { s with blocks := t.blocks } ∧ (∀ b, b ≠ s.cur.blk → t.block b = s.block b) ∧
        t.block s.cur.blk = { s.curBlock with step := (t.block s.cur.blk).step, gov := (t.block s.cur.blk).gov }) ∧
      (∀ l, (activeLanes f s).head? = some l →
        let a := ((s.src l).reg f.sa.toNat).toNat
        let b := ((s.src l).reg f.sb.toNat).toNat
        (u.block s.cur.blk).step = if a = 0 ∨ b = 0 then { s.curBlock.step with opened := false }
          else { deadline := s.now + a, total := b, opened := true }) ∧
      (let sum := ((activeLanes f s).map (fun l => (rdB32 f (s.src l)).toNat)).sum
       let late : Prop := (s.die (s.cur.pier / 64)).boundary < s.now / 10000
       let st := s.curBlock.step
       let more := min (st.done + sum) (2 ^ 32 - 1) - st.done
       ((v.block s.cur.blk).step = if st.opened then
         { st with done := min (st.done + sum) (2 ^ 32 - 1), fresh := if late then st.fresh else st.fresh + more,
                   ahead := if late then st.ahead + more else st.ahead }
         else st)) ∧
      (w.block s.cur.blk).step = { s.curBlock.step with opened := false }

/-- R138, R139, R203, R204, R131: what the instructions that read a number write: identity, population, the boost word,
counters, the timer, the zone, the record's state; in the second slot of a pair, as it was before the pair (R58). -/
def Sys2Proof.Claim.NumbersRead : Prop :=
  (∀ (f : Fields) (s : State), ∃ u, exec (.fid f) s = .next u ∧ PerLane f s u (fun n _ l l' =>
    RegsSet f.d.toNat 1 ((([n, n / 32, s.curBlock.groups, s.curBlock.idx, s.curRec.maxBlk, s.curBlock.idx / s.curRec.span,
      s.curBlock.spos, s.curRec.span] : List Nat).getD (f.subBits 35 32) s.curTag) % 2 ^ 32) id l l')) ∧
  WritesF .fstat b32 (fun f s x => ((match x.seen with | some v => v.toNat | none => (([s.cur.lanes, lanesMask (activeLanes f s),
    laneMask (allLanes.filter (fun j => (s.lane s.cur.blk (32 * s.cur.grp + j)).live))] : List Word).getD (f.subBits 33 32)
    (BitVec.ofNat 32 ((blockLanes s.curBlock).filter (fun l => (s.lane s.cur.blk l).live)).length)).toNat), 0)) ∧
  WritesF .bstq b32 (fun _ s _ =>
    ((256 * (clusterAt s s.cur.pier).held + (s.die (s.cur.pier / 64)).pool) % 2 ^ 32, 0)) ∧
  (∀ (f : Fields) (s : State), ∃ u, exec (.cntrd f) s = .next u ∧ PerLane f s u (fun n x l l' =>
    RegsSet f.d.toNat 2 (match x.seen with | some v => v.toNat | none => ([s.curBlock.cyc / 100, (s.lane s.cur.blk n).inst.toNat,
      (s.grp s.cur.blk (n / 32)).parkTotal / 100] : List Nat).getD (f.subBits 33 32) s.curBlock.cpb.toNat % 2 ^ 64) id l l')) ∧
  WritesF .tmrd (fun _ => .b64) (fun _ s _ => (s.now, 0)) ∧
  WritesF .zoneq b32 (fun f s _ =>
    let z := zoneAt s s.cur.pier
    (([z.st, z.valve, (z.temp.signExtend 32).toNat] : List Nat).getD (f.subBits 33 32)
      (if z.st = 0 then z.heatOk else 0), 0)) ∧
  WritesF .recst b32 (fun _ s x =>
    let es := (s.core s.cur.pier).record.filter (fun e => e.ctx == s.cur.blk)
    ((match x.seen with
      | some v => v.toNat
      | none => (2 ^ 16 * (es.filter (fun e => e.acks != 0)).length + es.length) % 2 ^ 32), 0))

/-- R199: DBGMB, with room in the outbox for all its lanes, posts the pair of each in lane order with the sequence number
that goes to its register D. -/
def Sys2Proof.Claim.DebugPost : Prop :=
  ∀ (f : Fields) (s : State),
    let d := s.cur.pier / 64
    let e := (s.die d).eye
    (activeLanes f s).length + e.outbox.length ≤ 256 →
    ∃ u, exec (.dbgmb f) s = .next u ∧ u = { s with blocks := u.blocks, dies := u.dies } ∧
      (u.die d).eye = { e with
        outSeq := e.outSeq + BitVec.ofNat 32 (activeLanes f s).length,
        outbox := e.outbox ++ (activeLanes f s).zipIdx.map (fun p =>
          ((s.src p.1).pair f.sa.toNat, e.outSeq + BitVec.ofNat 32 p.2, s.curTag)) } ∧
      ∀ p ∈ (activeLanes f s).zipIdx, (u.lane s.cur.blk p.1).reg f.d.toNat = e.outSeq + BitVec.ofNat 32 p.2

namespace Sys2Proof.Claim
open Sys2Proof.Machine

/-- No watchpoint of the issuing pier is enabled (R196). -/
def NoWatch (s : State) : Prop :=
  (s.pier s.cur.pier).dbgctl.getLsbD 4 = false ∧ (s.pier s.cur.pier).dbgctl.getLsbD 5 = false

/-- The accesses of an instruction whose lanes all pass their checks: each lane with its effective pointer. -/
def accesses (f : Fields) (s : State) (ptr : Nat → Dword) : List (Nat × Dword) :=
  (activeLanes f s).map (fun l => (l, ptr l))

/-- The accesses that match an enabled watchpoint, those of the lower-numbered one first (R196). -/
def watched (s : State) (acc : List (Nat × Dword)) (n : Nat) (rd wr : Bool) : List (Nat × Dword) :=
  let x := s.pier s.cur.pier
  acc.filter (fun a => watchHit x 0 a.2 n rd wr) ++
    acc.filter (fun a => !watchHit x 0 a.2 n rd wr && watchHit x 1 a.2 n rd wr)

/-- Every lane with guard 1 has an effective pointer that passes the checks, in a window that `win` admits. -/
def Reaches (f : Fields) (s : State) (short : Bool) (r : Right) (win : Dword → Prop) (ptr : Nat → Dword) : Prop :=
  ∀ l ∈ activeLanes f s, effective f s l short r (f.t.bits / 8) true = .ok (ptr l) ∧ win (ptr l)

/-- The windows whose stores go to the store record, and the others (R226). -/
def RecordWin (p : Dword) : Prop := isRecordWin p = true
def LocalWin (p : Dword) : Prop := isRecordWin p = false

/-- Where a lane's access of a record window goes: a private pointer by its backing address (R111). -/
def place (s : State) (l : Nat) (p : Dword) : Dword := recordPtr s s.cur.blk l p

/-- The bytes that a store reads from register SB. -/
def storeBytes (f : Fields) (s : State) (l : Nat) : List Byte := leBytes (f.t.bits / 8) (rdT (s.src l) f.t f.sb.toNat)

/-- Nothing holds the lanes' accesses to the local windows back: no earlier one of the fibre that is held, no acquire that is
outstanding (R126), before a write no earlier load or atomic (R238), and before an access to the accumulators no
unfinished matrix operation (R122). -/
def NotHeld (f : Fields) (s : State) (ptr : Nat → Dword) (writes : Bool) : Prop :=
  ∀ l ∈ activeLanes f s, (s.lane s.cur.blk l).localOps = [] ∧ (∀ q, noAcquire s s.cur.blk l q = true) ∧
    (writes = true → ∀ q, readsDone s s.cur.blk l q = true) ∧ (windowOf (ptr l) = .acc → s.curBlock.mq = [])

/-- Every lane with guard 1 meets the release conditions of R125. -/
def Released (f : Fields) (s : State) : Prop := ∀ l ∈ activeLanes f s, releaseOk s s.cur.blk l s.seq = true

/-- No line that the accesses touch is absent (R122). -/
def AllPresent (f : Fields) (s : State) (ptr : Nat → Dword) : Prop :=
  ∀ l ∈ activeLanes f s, absentLines s s.cur.blk l (ptr l) (f.t.bits / 8) = []

/-- A lane goes back to the slot that issued: what RTE.skip gave it holds again (R192), and the second slot of a pair
keeps the operands it read (R58) and passes the breakpoints, with which the pair was compared already (R197). -/
def GoesBack (s : State) (l : Nat) (p : Park) (x y : Lane) : Prop :=
  y = { x with pc := s.cur.pc, park := p, skip := s.cur.skips.getLsbD (l % 32) || s.cur.snap.isSome, due := none, held := y.held } ∧
  (s.cur.snap = none → y.held = x.held) ∧
  (s.cur.snap ≠ none → y.held = some { pc := s.cur.pc, hm := x.hmode, src := s.src l })

/-- The batch goes back to the slot and its group waits (R57). -/
def GroupWaits (s u : State) (p : GPark) : Prop :=
  u = { s with blocks := u.blocks, cur := u.cur } ∧ (u.grp s.cur.blk s.cur.grp).park = p ∧ u.cur.ended = true ∧
  ∀ l ∈ s.curLanes, GoesBack s l .run (s.lane s.cur.blk l) (u.lane s.cur.blk l)

/-- The address of the leaf that translates entry `i` of the issuing launch's object table. -/
def tableLeaf (s : State) (i : Nat) : Option Nat :=
  let p := s.curRec.objBase + BitVec.ofNat 64 (32 * i)
  match walkRoot s (ptrDie p) s.curLaunch.part (ptrOff56 p) with
  | .ok _ lf => some lf.addr
  | _ => none

/-- Outstanding operations that a memory instruction adds: one for each lane with guard 1, in order. -/
def AddsOps (f : Fields) (s u : State) (P : MemOp → Prop) : Prop :=
  ∃ new : List MemOp, u.memops = s.memops ++ new ∧ new.map (·.lane) = activeLanes f s ∧
    ∀ m ∈ new, m.core = s.cur.pier ∧ m.blk = s.cur.blk ∧ s.seq ≤ m.seq ∧ m.seq < u.seq ∧ m.dead = false ∧ P m

/-- The atomics and reductions: constructor, kind, operation and whether IMM is short (R117, R123). -/
def AtomForm (f : Fields) (mk : Fields → Instr) (kind : MemKind) (op : Nat) (short : Bool) : Prop :=
  (mk = .atom ∧ kind = .atom ∧ op = f.imm.toNat / 2 ^ 28 % 16 ∧ short = true) ∨
  (mk = .atomcas ∧ kind = .cas ∧ op = 0 ∧ short = false) ∨
  (mk = .red ∧ kind = .red ∧ op = f.imm.toNat / 2 ^ 28 % 16 ∧ short = true)

/-- Its order makes it a release, or an acquire (R123). -/
def releases (f : Fields) (kind : MemKind) : Bool := f.ord == 2 || (f.ord == 1 && kind == .red)
def acquires (f : Fields) (kind : MemKind) : Bool := (f.ord == 1 && kind != .red) || f.ord == 2

/-- The host performs FetchAdd, Swap and CAS of 32 and 64 bits alone (R124). -/
def HostAtomic (f : Fields) (kind : MemKind) (op : Nat) : Prop :=
  (f.t = .b32 ∨ f.t = .b64) ∧ (kind = .cas ∨ op = 0 ∨ op = 6)

/-- The byte that the lanes' stores leave at place `a` of what `reach` says a lane's store reaches: the last lane's. -/
def storedByte (f : Fields) (s : State) (ptr : Nat → Dword) (reach : Nat → Bool) (a : Nat) : Option Byte :=
  (activeLanes f s).foldl (fun r l =>
    if reach l && decide (ptrOff24 (ptr l) ≤ a ∧ a < ptrOff24 (ptr l) + (storeBytes f s l).length) then
      some ((storeBytes f s l).getD (a - ptrOff24 (ptr l)) 0) else r) none

end Sys2Proof.Claim

/-! ## Memory instructions

In mode 1 a memory instruction reads an entry of the launch's object table: `modeTouched f s` is the state after that read,
and in mode 0 the state itself. Where the partition's budget of memory reads is spent the batch stands at its slot and
tries again (`TableReads`); the other statements are about the reads that are admitted. After the access a watchpoint
may match: `watch` (`WatchpointsFire`). -/

/-- R12, R115, R278, R342, R343: reading an object-table entry asks for U of the leaf that translates it, may charge the
partition and fill a home slice, and draws the number of a free value; it changes nothing else. In mode 0 no entry is read.
While the budget does not admit the read the batch goes back to its slot. A U bit asked for is set at its home, where no
core owns the word, and no other byte of memory changes. -/
def Sys2Proof.Claim.TableReads : Prop :=
  (∀ (f : Fields) (s : State), f.mode1 = false → modeWaits f s = false ∧ modeTouched f s = s) ∧
  (∀ (f : Fields) (s : State), f.mode1 = true → modeWaits f s = objWaits s f.sc.toNat ∧
    modeTouched f s = objTouched s f.sc.toNat) ∧
  (∀ (s : State) (i : Nat), let t := objTouched s i
    t = { s with free := t.free, parts := t.parts, piers := t.piers, uses := t.uses } ∧
    (∀ p, t.pier p = { s.pier p with slice := (t.pier p).slice }) ∧ (s.curRec.objCount ≤ i → t = s) ∧
    (i < s.curRec.objCount → ∀ a, tableLeaf s i = some a → (rdByte s.mem (a + 1)).getLsbD 1 = true ∨ a ∈ t.uses) ∧
    ∀ a ∈ t.uses, a ∈ s.uses ∨ tableLeaf s i = some a) ∧
  (∀ (f : Fields) (s : State), objWaits s f.sc.toNat = true → ∀ mk : Fields → Instr,
    (mk ∈ [Instr.objq, .objptr] ∨ f.mode1 = true ∧ mk ∈ [Instr.ld, .st, .atom, .atomcas, .red, .pfch, .cdrop, .prstest]) →
    ∃ u, exec (mk f) s = .next u ∧ u = { s with blocks := u.blocks, parts := u.parts, cur := u.cur } ∧
      ∀ l, (l ∈ s.curLanes → GoesBack s l .run (s.lane s.cur.blk l) (u.lane s.cur.blk l)) ∧
        (l ∉ s.curLanes → u.lane s.cur.blk l = s.lane s.cur.blk l)) ∧
  ∀ (s : State) (a : Nat), a ∈ s.uses → linkWaits s a = false → (∀ c ∈ s.cores, ∀ o ∈ c.2.owned, o.2 ≠ a / 4) →
    (rdNat s.mem a 8).testBit 0 = true → (rdNat s.mem a 8).testBit 1 = true →
    let u := useMark s a
    u.uses = s.uses.filter (· ≠ a) ∧ ∀ x, rdByte u.mem x = if x = a + 1 then rdByte s.mem x ||| 2 else rdByte s.mem x

/-- R190, R196: without an enabled watchpoint an access raises nothing. The lanes whose accesses match raise WATCHPOINT at
the next slot with the pointer of the lowest lane that the lowest-numbered matching watchpoint matched; where lanes of
the group are in handler mode already the cause waits (log entry 121). Every memory, record and outstanding operation
stands as the access left it. -/
def Sys2Proof.Claim.WatchpointsFire : Prop :=
  ∀ (s : State) (acc : List (Nat × Dword)) (n : Nat) (rd wr : Bool), (∀ a ∈ acc, a.1 ∈ s.curLanes) →
    let u := watch s acc n rd wr
    let hits := (watched s acc n rd wr).map (·.1)
    (NoWatch s → u = s) ∧ (hits = [] → u = s) ∧
    ∀ a, (watched s acc n rd wr).head? = some a → s.curRec.handler ≠ 0 →
      (∀ l ∈ hits, (s.lane s.cur.blk l).hmode = false) →
      let c : Cause := { code := 0x42, pc := s.cur.next, val := a.2, mask := lanesMask hits }
      (inHandler s.curBlock s.cur.grp = false → TakesCause s u hits c ∧ u.memops = s.memops ∧ u.cores = s.cores ∧
        u.lres = s.lres ∧ ∀ l, l ∉ hits → u.lane s.cur.blk l = s.lane s.cur.blk l) ∧
      (inHandler s.curBlock s.cur.grp = true → CauseWaits s u hits c)

/-- R119, R120: a load of the global, private or host window whose lanes pass the checks is outstanding for each lane
with its effective pointer, type, register and policy; memory, registers and the store record are unchanged. -/
def Sys2Proof.Claim.LoadGoesOut : Prop :=
  ∀ (f : Fields) (s : State) (ptr : Nat → Dword), let t := modeTouched f s
    modeWaits f s = false → Reaches f t false .rd RecordWin ptr →
    ∃ u, exec (.ld f) s = .next (watch u (accesses f s ptr) (f.t.bits / 8) true false) ∧
      u = { t with memops := u.memops, cores := u.cores, seq := u.seq } ∧
      AddsOps f t u (fun m => m.kind = .load ∧ m.ptr = place s m.lane (ptr m.lane) ∧ m.t = f.t ∧ m.d = f.d.toNat ∧
        m.acquire = (f.ord == 1) ∧ m.pol = accessPol f t false m.lane) ∧
      ∀ c, (u.core c).record = (t.core c).record ∧ (u.core c).l1 = (t.core c).l1 ∧ (u.core c).owned = (t.core c).owned

/-- R120, R122, R126: a load of the scratchpad, cluster-shared or accumulator window that nothing holds back reads its bytes
at once: the extended value of each lane becomes an outstanding result, and an `.acq` load then acquires. One that is held
back waits at the core, in its fibre's order, and its group goes on (log entry 122). Nothing else changes. -/
def Sys2Proof.Claim.LocalLoadReads : Prop :=
  (∀ (f : Fields) (s : State) (ptr : Nat → Dword), let t := modeTouched f s
    modeWaits f s = false → f.ord = 0 → Reaches f t false .rd LocalWin ptr → NotHeld f t ptr false → AllPresent f t ptr →
    (∀ l ∈ activeLanes f s, (localRead s s.cur.blk (ptr l) (f.t.bits / 8)).2 = false) →
    ∃ u, exec (.ld f) s = .next (watch u (accesses f s ptr) (f.t.bits / 8) true false) ∧
      u = { t with lres := u.lres, seq := u.seq } ∧
      ∃ new : List LRes, u.lres = s.lres ++ new ∧ new.map (·.lane) = activeLanes f s ∧ ∀ r ∈ new, r.blk = s.cur.blk ∧
        r.regs = regPairs f.d.toNat (wordsOf f.t.regs
          (extT f.t (leNat (localRead s s.cur.blk (ptr r.lane) (f.t.bits / 8)).1)))) ∧
  (∀ (f : Fields) (s : State) (l : Nat) (p : Dword), activeLanes f s = [l] → let t := modeTouched f s
    modeWaits f s = false → f.ord = 1 → effective f t l false .rd (f.t.bits / 8) true = .ok p → LocalWin p →
    NotHeld f t (fun _ => p) false → AllPresent f t (fun _ => p) → (localRead s s.cur.blk p (f.t.bits / 8)).2 = false →
    ∃ v r, exec (.ld f) s = .next (watch (acquireAt v s.cur.pier s.cur.blk l s.seq s.cur.pc) [(l, p)] (f.t.bits / 8) true
        false) ∧ v = { t with lres := s.lres ++ [r], seq := v.seq } ∧ r.blk = s.cur.blk ∧ r.lane = l ∧
      r.regs = regPairs f.d.toNat (wordsOf f.t.regs (extT f.t (leNat (localRead s s.cur.blk p (f.t.bits / 8)).1)))) ∧
  ∀ (f : Fields) (s : State) (l : Nat) (p : Dword) (mk : Fields → Instr) (kind : MemKind) (r : Right),
    (mk, kind, r) ∈ [(Instr.ld, MemKind.load, Right.rd), (.st, .st, .wr)] → activeLanes f s = [l] →
    let t := modeTouched f s
    modeWaits f s = false → effective f t l false r (f.t.bits / 8) true = .ok p → LocalWin p →
    (kind = .load → AllPresent f t (fun _ => p)) → (kind = .st → (f.ord = 1 → Released f t) ∧
      (s.core s.cur.pier).record.length ≤ 512) →
    ((s.lane s.cur.blk l).localOps ≠ [] ∨ noAcquire s s.cur.blk l s.seq = false ∨
      (kind = .st ∧ readsDone s s.cur.blk l s.seq = false) ∨ (windowOf p = .acc ∧ s.curBlock.mq ≠ [])) →
    ∃ u o, exec (mk f) s = .next (watch u [(l, p)] (f.t.bits / 8) (kind == .load) (kind == .st)) ∧
      u = { t with blocks := u.blocks, seq := u.seq } ∧
      (∀ b n, u.lane b n = if b = s.cur.blk ∧ n = l then
        { s.lane b n with localOps := (s.lane b n).localOps ++ [o] } else s.lane b n) ∧
      o.id = s.seq ∧ o.kind = kind ∧ o.ptr = p ∧ o.t = f.t ∧ (kind = .load → o.d = f.d.toNat ∧ o.acquire = (f.ord == 1)) ∧
      (kind = .st → o.bytes = storeBytes f s l)

/-- R121, R228: a store of the global, private or host window goes to the store record of the core: each lane's bytes
stand there, at the chunk and place of its pointer, in the block's context. No byte of main memory or of the host changes
(an entry is written there when it drains), no register changes, and what the record held stays. Of the blocks only the
counter that numbers the context's entries moves on (R311). -/
def Obligations.StoreEntersRecord : Prop :=
  ∀ (f : Fields) (s : State) (ptr : Nat → Dword), let t := modeTouched f s
    modeWaits f s = false → Reaches f t false .wr RecordWin ptr →
    (s.core s.cur.pier).record.length + entriesNeeded (s.core s.cur.pier) s.cur.blk (f.ord == 1)
      ((activeLanes f s).map (fun l => (l, fibreOf s s.cur.blk l, chunkOf (place s l (ptr l))))) ≤ 512 →
    ∃ u, exec (.st f) s = .next (watch u (accesses f s ptr) (f.t.bits / 8) false true) ∧
      u = { t with blocks := u.blocks, cores := u.cores, seq := u.seq } ∧
      (∀ b, u.block b = { s.block b with age := (u.block b).age }) ∧
      (∀ c, c ≠ s.cur.pier → u.core c = t.core c) ∧ (u.core s.cur.pier).l1 = (t.core s.cur.pier).l1 ∧
      (∀ l ∈ activeLanes f s, ∃ e ∈ (u.core s.cur.pier).record, e.ctx = s.cur.blk ∧
        e.chunk = chunkOf (place s l (ptr l)) ∧ (f.ord = 1 → e.rel = true) ∧ ∃ x ∈ e.stores, x.lane = l ∧ s.seq ≤ x.seq ∧
          x.be = beMask ((place s l (ptr l)).toNat % 64) (f.t.bits / 8) ∧ x.pol = accessPol f t true l ∧
          x.data = BitVec.ofNat 512 (leNat (storeBytes f s l) * 2 ^ (8 * ((place s l (ptr l)).toNat % 64)))) ∧
      ∀ e ∈ (s.core s.cur.pier).record, ∃ e' ∈ (u.core s.cur.pier).record, e'.id = e.id ∧ e'.chunk = e.chunk ∧
        e.stores <+: e'.stores

/-- R121, R122: stores to scratchpad, cluster-shared and accumulator memory that nothing holds back are performed at once,
lane after lane: every byte of every scratchpad and of the block's accumulator rows is that of the last lane that stores
to it, and else as it was. No register, no byte of main memory and nothing else of any block changes. -/
def Sys2Proof.Claim.LocalStoreWrites : Prop :=
  ∀ (f : Fields) (s : State) (ptr : Nat → Dword), let t := modeTouched f s
    modeWaits f s = false → Reaches f t false .wr LocalWin ptr → NotHeld f t ptr true → (f.ord = 1 → Released f t) →
    (s.core s.cur.pier).record.length ≤ 512 →
    ∃ u, exec (.st f) s = .next (watch u (accesses f s ptr) (f.t.bits / 8) false true) ∧
      u = { t with blocks := u.blocks, seq := u.seq } ∧
      (∀ b, u.block b = { s.block b with
        scratch := (u.block b).scratch, scratchPoison := (u.block b).scratchPoison, older := (u.block b).older,
        acc := (u.block b).acc, accPoison := (u.block b).accPoison }) ∧
      (∀ b a, rdByte (u.block b).scratch a = (storedByte f s ptr (fun l =>
        windowOf (ptr l) != .acc && scratchBlock s s.cur.blk (ptr l) == b) a).getD (rdByte (s.block b).scratch a)) ∧
      (∀ a, accByte (u.block s.cur.blk) a = (storedByte f s ptr (fun l => windowOf (ptr l) == .acc) a).getD
        (accByte s.curBlock a)) ∧
      ∀ b, b ≠ s.cur.blk → (u.block b).acc = (s.block b).acc

/-- R123, R124: an atomic or reduction of the global or private window, or one of those of the host window that the host
performs, whose lanes pass the checks, is outstanding for each lane with its pointer, operation and operand words. No byte
of memory and no register changes until it is performed at its place. -/
def Sys2Proof.Claim.AtomicGoesOut : Prop :=
  ∀ (f : Fields) (s : State) (ptr : Nat → Dword) (mk : Fields → Instr) (kind : MemKind) (op : Nat) (short : Bool),
    AtomForm f mk kind op short → let t := modeTouched f s
    modeWaits f s = false → Reaches f t short .at_ (fun p => windowOf p = .global ∨ windowOf p = .priv ∨
      windowOf p = .host ∧ HostAtomic f kind op) ptr →
    ∃ u, exec (mk f) s = .next (watch u (accesses f s ptr) (f.t.bits / 8) true true) ∧
      u = { t with memops := u.memops, cores := u.cores, seq := u.seq } ∧
      AddsOps f t u (fun m => m.kind = kind ∧ m.ptr = place s m.lane (ptr m.lane) ∧ m.t = f.t ∧ m.d = f.d.toNat ∧
        m.op = op ∧ m.b = (s.src m.lane).words f.sb.toNat (if kind = .cas then 2 * f.t.regs else f.t.regs) ∧
        m.release = releases f kind ∧ m.acquire = acquires f kind ∧ m.pol = accessPol f t (kind == .red) m.lane)

/-- R119, R124: an atomic on the accumulator window, or on the host window one that the host does not perform, raises
SPACE_INVALID at its slot with the pointer of the lowest lane. -/
def Sys2Proof.Claim.AtomicRefused : Prop :=
  ∀ (f : Fields) (s : State) (ptr : Nat → Dword) (mk : Fields → Instr) (kind : MemKind) (op : Nat) (short : Bool),
    AtomForm f mk kind op short → let t := modeTouched f s
    modeWaits f s = false → Reaches f t short .at_ (fun p => windowOf p = .acc ∨
      windowOf p = .host ∧ ¬ HostAtomic f kind op) ptr →
    s.curRec.handler ≠ 0 → inHandler s.curBlock s.cur.grp = false →
    (∀ l ∈ activeLanes f s, (s.lane s.cur.blk l).hmode = false) → ∀ l0, (activeLanes f s).head? = some l0 →
    ∃ u, exec (mk f) s = .next u ∧
      TakesCause t u (activeLanes f s) { code := 0x11, pc := s.cur.pc, val := ptr l0, mask := lanesMask (activeLanes f s) } ∧
      u.memops = s.memops ∧ ∀ l, l ∉ activeLanes f s → u.lane s.cur.blk l = s.lane s.cur.blk l

/-- R123, R124: an atomic or reduction of the scratchpad or cluster-shared window that nothing holds back is performed at
its scratchpad's port at once, the lanes in some order. One lane's reads the old value, which but for RED becomes its
outstanding result, and writes the new one, where its compare admits it; every other byte is as it was; then it acquires
where its order says so. -/
def Sys2Proof.Claim.LocalAtomicsAct : Prop :=
  (∀ (f : Fields) (s : State) (ptr : Nat → Dword) (mk : Fields → Instr) (kind : MemKind) (op : Nat) (short : Bool),
    AtomForm f mk kind op short → let t := modeTouched f s
    modeWaits f s = false → Reaches f t short .at_ (fun p => windowOf p = .scratch ∨ windowOf p = .cluster) ptr →
    NotHeld f t ptr true → (releases f kind = true → Released f t) → AllPresent f t ptr →
    ∃ (order : List Nat) (w : Nat), order.Perm (activeLanes f s) ∧
      exec (mk f) s = .next (watch (order.foldl (fun x l => localAtom x s.cur.pier s.cur.blk l
        { id := x.seq, kind := kind, ptr := ptr l, t := f.t, d := f.d.toNat, op := op,
          b := (s.src l).words f.sb.toNat (if kind = .cas then 2 * f.t.regs else f.t.regs),
          acquire := acquires f kind, pc := s.cur.pc }) { t with free := w }) (accesses f s ptr) (f.t.bits / 8) true true)) ∧
  ∀ (s : State) (c b l : Nat) (o : LocalOp), o.kind ∈ [MemKind.atom, .cas, .red] →
    windowOf o.ptr = .scratch ∨ windowOf o.ptr = .cluster → let n := o.t.bits / 8
    (localRead s b o.ptr n).2 = false →
    let k := scratchBlock s b o.ptr
    let old := leNat (localRead s b o.ptr n).1
    ∃ v, localAtom s c b l o = (if o.acquire then acquireAt v c b l o.id o.pc else v) ∧
      v = { s with blocks := v.blocks, lres := v.lres, seq := v.seq } ∧ (o.kind = .red → v.lres = s.lres) ∧
      (o.kind ≠ .red → ∃ r, v.lres = s.lres ++ [r] ∧ r.blk = b ∧ r.lane = l ∧
        r.regs = regPairs o.d (wordsOf o.t.regs (extT o.t old))) ∧
      (∀ a, rdByte (v.block k).scratch a = match atomNew o.kind o.op o.t o.b old with
        | some x => if ptrOff24 o.ptr ≤ a ∧ a < ptrOff24 o.ptr + n then (leBytes n x).getD (a - ptrOff24 o.ptr) 0
          else rdByte (s.block k).scratch a
        | none => rdByte (s.block k).scratch a) ∧
      ∀ e, v.block e = { s.block e with scratch := (v.block e).scratch, scratchPoison := (v.block e).scratchPoison,
                                        older := (v.block e).older } ∧
        (e ≠ k → (v.block e).scratch = (s.block e).scratch)

/-- R125, R126: REL goes on where every lane with guard 1 meets the release conditions, and else its group waits for those
lanes that do not. ACQ never waits: for each lane it completes at once, or stands outstanding. SYNCF is REL, then ACQ. -/
def Sys2Proof.Claim.Fences : Prop :=
  (∀ (f : Fields) (s : State), Released f s →
    exec (.rel f) s = .next s ∧ ∃ u, exec (.acq f) s = .next u ∧ exec (.syncf f) s = .next u) ∧
  (∀ (f : Fields) (s : State), ¬ Released f s →
    ∃ u, exec (.rel f) s = .next u ∧ exec (.syncf f) s = .next u ∧
      GroupWaits s u (.release (lanesMask ((activeLanes f s).filter (fun l => !releaseOk s s.cur.blk l s.seq))))) ∧
  (∀ (f : Fields) (s : State), ∃ u, exec (.acq f) s = .next u ∧ u.mem = s.mem ∧ u.hostMem = s.hostMem ∧
    ((∀ l ∈ activeLanes f s, acquireOk s s.cur.pier s.cur.blk l s.seq = false) →
      u = { s with memops := u.memops, seq := u.seq } ∧ AddsOps f s u (fun m => m.kind = .acq)) ∧
    (∀ l, activeLanes f s = [l] → acquireOk s s.cur.pier s.cur.blk l s.seq = true →
      u.memops = s.memops ∧ (u.lane s.cur.blk l).tracked = [] ∧
      (u.core s.cur.pier).l1 = (s.core s.cur.pier).l1.filter (fun w => (s.core s.cur.pier).l1Owned.contains w.1)))

/-- R131: RECDRN neither parks nor orders anything: of itself it changes nothing. -/
def Sys2Proof.Claim.RecordDrainRequest : Prop := ∀ (f : Fields) (s : State), exec (.recdrn f) s = .next s

/-- R128, R130: SPTEST writes whether the pair's pointer passes the test that SUB names; OBJQ writes a field of an object,
with SIZE 0 and every other field 0 for an invalid entry. What the reading of the table leaves is
`TableReads`. -/
def Sys2Proof.Claim.PointerQueries : Prop :=
  (∀ (f : Fields) (s : State), ∃ u, exec (.sptest f) s = .next u ∧ PerLane f s u (fun _ x l l' =>
    PredSet f.d.toNat (if f.subBits 34 32 = 6 then (spaceCheck s s.cur.blk (x.pair f.sa.toNat) 1).isNone
      else spaceWindow (f.subBits 34 32) == some (windowOf (x.pair f.sa.toNat))) id l l')) ∧
  (∀ (f : Fields) (s : State), objWaits s f.sc.toNat = false → let t := objTouched s f.sc.toNat
    ∃ u, exec (.objq f) s = .next u ∧ PerLane f t u (fun n _ l l' =>
      let e := (objEntry t n f.sc.toNat).getD { base := 0, size := 0, attr := 0 }
      if f.subBits 33 32 = 0 then RegsSet f.d.toNat 2 e.size id l l'
      else if f.subBits 33 32 = 1 then RegsSet f.d.toNat 2 e.base.toNat id l l'
      else RegsSet f.d.toNat 1 (e.attr % 2 ^ 16) id l l'))

/-- R129, R130, R132: SPCAST, OBJPTR and PRSTEST, where every lane with guard 1 passes their checks, write the pointer or
offset, the pointer into the object, and whether the line is present. -/
def Sys2Proof.Claim.PointerMaking : Prop :=
  (∀ (f : Fields) (s : State) (v : Nat → Dword), (∀ l ∈ activeLanes f s, spcast f s l (s.src l) = some (v l)) →
    ∃ u, exec (.spcast f) s = .next u ∧ PerLane f s u (fun n _ l l' => RegsSet f.d.toNat 2 (v n).toNat id l l')) ∧
  (∀ (f : Fields) (s : State) (e : Nat → Obj), objWaits s f.sc.toNat = false → let t := objTouched s f.sc.toNat
    let o (x : Src) : Int := ((x.reg f.sa.toNat).toNat : Int) + f.imm.toInt
    (∀ l ∈ activeLanes f s, objEntry t l f.sc.toNat = some (e l) ∧ 0 ≤ o (s.src l) ∧ o (s.src l) ≤ (e l).size) →
    ∃ u, exec (.objptr f) s = .next u ∧ PerLane f t u (fun n x l l' =>
      RegsSet f.d.toNat 2 ((e n).base + BitVec.ofInt 64 (o x)).toNat id l l')) ∧
  (∀ (f : Fields) (s : State) (ptr : Nat → Dword), modeWaits f s = false →
    (∀ l ∈ activeLanes f s, effective f (modeTouched f s) l false .rd 1 false = .ok (ptr l)) →
    ∃ u, exec (.prstest f) s = .next u ∧ PerLane f (modeTouched f s) u (fun n _ l l' =>
      PredSet f.d.toNat (absentLines s s.cur.blk n (ptr n) 1).isEmpty id l l'))

/-- R132: PFCH and CDROP act on caches alone: where their lanes pass the checks, no memory, no register and no entry of a
store record changes. CDROP leaves no copy of a line in the core's L1, where the byte that its lane names translates within
the leases and is sound; a deferred condition drops it (R119). -/
def Sys2Proof.Claim.CacheManagement : Prop :=
  ∀ (f : Fields) (s : State) (ptr : Nat → Dword), let t := modeTouched f s
    modeWaits f s = false → (∀ l ∈ activeLanes f s, effective f t l false .rd 1 false = .ok (ptr l)) →
    ∃ u v, exec (.pfch f) s = .next u ∧ exec (.cdrop f) s = .next v ∧
      (∀ w ∈ [u, v], w = { t with cores := w.cores, piers := w.piers, seq := w.seq } ∧
        ∀ c, (w.core c).record = (t.core c).record ∧ (w.core c).owned = (t.core c).owned) ∧
      (∀ c, (u.core c).l1 = (t.core c).l1) ∧ v.seq = s.seq ∧
      ∀ l ∈ activeLanes f s, isRecordWin (ptr l) = true →
        let k := wordKey (place s l (ptr l)) (tagPasid s s.curTag) / 32
        physLine t s.curTag (place s l (ptr l)) ≠ none → ∀ w ∈ (v.core s.cur.pier).l1, w.1 / 32 ≠ k

namespace Sys2Proof.Claim
open Sys2Proof.Machine

/-- The lanes with guard 1 present mask `m`, which names exactly them, and no pending instance of the group names one of
them (R104): the instance that they form is complete at once. They wait for nothing. -/
def WholeInstance (f : Fields) (s : State) (m : Word) : Prop :=
  activeLanes f s ≠ [] ∧ (∀ l ∈ activeLanes f s, rdB32 f (s.src l) = m ∧ (s.lane s.cur.blk l).park = .run) ∧
  lanesMask (activeLanes f s) = m ∧ ∀ i ∈ s.curGrp.insts, i.mask &&& m = 0

/-- What a participant presents at SA, and what lane `k` of the group presents where the mask names it. -/
def given (f : Fields) (s : State) (l : Nat) : Nat := rdT (s.src l) f.t f.sa.toNat
def givenAt (f : Fields) (s : State) (m : Word) (k : Nat) : Option Nat :=
  if m.getLsbD k then some (given f s (32 * s.cur.grp + k)) else none

/-- A complete instance gives each participant `val` as an outstanding result of type `ty`; lanes, groups, memory and
everything else are as they were. -/
def InstanceStarts (mk : Fields → Instr) (ty : Fields → Ty) (val : Fields → State → Word → Nat → Nat × Flags) : Prop :=
  ∀ (f : Fields) (s : State) (m : Word), (mk f).wf = true → WholeInstance f s m →
    ∃ u, exec (mk f) s = .next u ∧ u = { s with lres := u.lres, seq := u.seq, blocks := u.blocks } ∧
      (∀ b l g, u.lane b l = s.lane b l ∧ u.grp b g = s.grp b g) ∧
      ∃ new : List LRes, u.lres = s.lres ++ new ∧ new.map (·.lane) = activeLanes f s ∧ ∀ r ∈ new, r.blk = s.cur.blk ∧
        r.regs = regPairs f.d.toNat (wordsOf (ty f).regs (extT (ty f) (val f s m r.lane).1)) ∧
        r.flags = (val f s m r.lane).2

/-- GSHFL's source lane (R105), where it lies in the group. -/
def shuffleFrom (mode : Nat) (l : Nat) (c : Word) : Option Nat :=
  match mode with
  | 0 => some (c.toNat % 32)
  | 1 => if c.toNat ≤ l then some (l - c.toNat) else none
  | 2 => if l + c.toNat < 32 then some (l + c.toNat) else none
  | _ => some (l ^^^ (c.toNat % 32))

/-- The participants' values in ascending lane order. -/
def givenList (f : Fields) (s : State) : List Nat := (activeLanes f s).map (given f s)

end Sys2Proof.Claim

/-! ## Masked group instructions -/

/-- R104, R105, R107, R108: the results of a complete instance: GSHFL a value chosen by each lane's own c, GRED the
reduction in the tree order of R107, GSCAN the running reductions in lane order (the exclusive form makes no operation
with the highest participant's value), GMATCH the lanes with an equal value. -/
def Sys2Proof.Claim.GroupResults : Prop :=
  InstanceStarts .gshfl ofT (fun f s m l =>
    ((((shuffleFrom (f.subBits 33 32) (l % 32) ((s.src l).reg f.sc.toNat)).bind (givenAt f s m)).getD (given f s l)), 0)) ∧
  InstanceStarts .gred ofT (fun f s m _ => treeRed (f.subBits 35 32) f.t 5 (allLanes.map (givenAt f s m))) ∧
  InstanceStarts .gscan ofT (fun f s _ l =>
    let all := scanRed (f.subBits 35 32) f.t none (if f.subBits 36 36 = 1 then (givenList f s).dropLast else givenList f s)
    let pos := (activeLanes f s).idxOf l
    (if f.subBits 36 36 = 1 then (if pos = 0 then redIdent (f.subBits 35 32) f.t else all.1.getD (pos - 1) 0)
     else all.1.getD pos 0, all.2)) ∧
  InstanceStarts .gmatch b32 (fun f s _ l =>
    ((lanesMask ((activeLanes f s).filter (fun k => given f s k == given f s l))).toNat, 0))

/-- R104, R106, R108: GVOTE, GBAR and GELECT of a complete instance: votes over the participants' predicates, nothing but
the end of the run where no participant's local store is held back, and a predicate that is 1 in the lowest lane alone.
That GBAR ends the run is log entry 14 (DEDUCED). Where a participant owes a STEP, those that leave a GBAR with it come to
owe it too (R197, log entry 97). -/
def Sys2Proof.Claim.GroupVotes : Prop :=
  ∀ (f : Fields) (s : State) (m : Word), WholeInstance f s m →
    let yes : List Nat := (activeLanes f s).filter (fun l => (s.src l).pred f.sa.toNat)
    let mode := f.subBits 33 32
    ((Instr.gvote f).wf = true → mode ≠ 3 → ∃ u, exec (.gvote f) s = .next u ∧ u = { s with blocks := u.blocks } ∧
      ∀ l, (l ∈ activeLanes f s → PredSet f.d.toNat
          (if mode = 0 then yes.length == (activeLanes f s).length else if mode = 1 then yes.length != 0
           else yes.length == 0 || yes.length == (activeLanes f s).length) id (s.lane s.cur.blk l) (u.lane s.cur.blk l)) ∧
        (l ∉ activeLanes f s → u.lane s.cur.blk l = s.lane s.cur.blk l)) ∧
    ((Instr.gvote f).wf = true → mode = 3 → ∃ u, exec (.gvote f) s = .next u ∧ u = { s with blocks := u.blocks } ∧
      ∀ l, (l ∈ activeLanes f s → RegsSet f.d.toNat 2
          ((lanesMask yes).toNat + 2 ^ 32 * (yes.length + 2 ^ 16 * (activeLanes f s).length)) id
          (s.lane s.cur.blk l) (u.lane s.cur.blk l)) ∧
        (l ∉ activeLanes f s → u.lane s.cur.blk l = s.lane s.cur.blk l)) ∧
    ((∀ l ∈ activeLanes f s, (s.lane s.cur.blk l).owesAny = false) →
      ∃ u, exec (.gbar f) s = .next u ∧ OnlyBlocksRunEnds s u ∧ (∀ b g, u.grp b g = s.grp b g) ∧
      (∀ b l, u.lane b l = { s.lane b l with due := (u.lane b l).due }) ∧
      ((∀ l ∈ activeLanes f s, (s.lane s.cur.blk l).due = none) → ∀ b l, u.lane b l = s.lane b l)) ∧
    (∃ u, exec (.gelect f) s = .next u ∧ u = { s with blocks := u.blocks } ∧ ∀ l,
      (l ∈ activeLanes f s → PredSet f.d.toNat (decide ((activeLanes f s).head? = some l)) id
        (s.lane s.cur.blk l) (u.lane s.cur.blk l)) ∧
      (l ∉ activeLanes f s → u.lane s.cur.blk l = s.lane s.cur.blk l))

/-- R104, steps 1 and 4, R108: where the mask names further lanes, all of them live and in no pending instance, the arriving
lanes wait in a new instance with their mask, opcode, type and SUB. So do those of a GBAR of which one still owes a store
to a local window (log entry 122). -/
def Sys2Proof.Claim.InstanceWaits : Prop :=
  ∀ (f : Fields) (s : State) (m : Word) (mk : Fields → Instr) (op : Nat),
    (mk, op) ∈ [(Instr.gshfl, 0x70), (Instr.gvote, 0x71), (Instr.gred, 0x72), (Instr.gscan, 0x73), (Instr.gbar, 0x74),
      (Instr.gmatch, 0x75), (Instr.gelect, 0x76)] →
    activeLanes f s ≠ [] → (∀ l ∈ activeLanes f s, rdB32 f (s.src l) = m) →
    (∀ j < 32, s.cur.lanes.getLsbD j = true ∧ m.getLsbD j = true ↔ 32 * s.cur.grp + j ∈ activeLanes f s) →
    (lanesMask (activeLanes f s) ≠ m ∨ op = 0x74 ∧ ∃ l ∈ activeLanes f s, (s.lane s.cur.blk l).owesAny = true) →
    (∀ i ∈ s.curGrp.insts, i.mask &&& m = 0) → (∀ i ∈ s.curGrp.insts, ∀ j < 32, i.mask.getLsbD j = true → (s.lane s.cur.blk (32 * s.cur.grp + j)).live = true) →
    (∀ j < 32, m.getLsbD j = true → (s.lane s.cur.blk (32 * s.cur.grp + j)).live = true) →
    ∃ u i, exec (mk f) s = .next u ∧ u = { s with blocks := u.blocks } ∧
      (u.grp s.cur.blk s.cur.grp).insts = s.curGrp.insts ++ [i] ∧ i.mask = m ∧ i.op = op ∧ i.t = f.t ∧ i.sub = f.sub ∧
      i.arrivals.map (·.1) = (activeLanes f s).map (· % 32) ∧ ∀ l, u.lane s.cur.blk l =
        if l ∈ activeLanes f s then { s.lane s.cur.blk l with park := .masked } else s.lane s.cur.blk l

namespace Sys2Proof.Claim
open Sys2Proof.Machine

/-- The matrix instructions and CVSIGN: opcode, convergence register, the values that a lane signs with, the check that
the lane must pass first, and how the lane waits (R143, R155). -/
structure Signing where
  ctor  : Fields → Instr
  op    : Nat
  cv    : Fields → Nat
  vals  : Fields → State → Nat → List Dword
  check : Fields → State → Nat → Prop
  park  : Fields → Park → Park

def row (s : State) (l : Nat) (i : BitVec 9) : Word := (s.src l).reg i.toNat

/-- The signing instructions (R134, R156). -/
def signings : List Signing :=
  let none_ : Fields → State → Nat → List Dword := fun _ _ _ => []
  let free : Fields → State → Nat → Prop := fun _ _ _ => True
  let goes : Fields → Park → Park := fun _ p => p
  let rowOk : Fields → State → Nat → Prop := fun f s l => rowWordOk s.curBlock.accRows (row s l f.sa) = true
  let below : Fields → State → Nat → Prop := fun f s l => (row s l f.sa).toNat < s.curBlock.accRows
  let one : Fields → State → Nat → List Dword := fun f s l => sigVals [row s l f.sa]
  [ ⟨.cvsign, 0xA5, fun f => f.d.toNat, none_, free, goes⟩,
    ⟨.mcfg, 0xC0, cvOf, none_, free, goes⟩,
    ⟨.mldw, 0xC1, cvOf, fun f s l => sigVals (mldwOffs f (s.src l)),
      fun f s l => ∀ w ∈ mldwOffs f (s.src l), w.toNat % 128 = 0, goes⟩,
    ⟨.mswap, 0xC2, cvOf, none_, free, goes⟩,
    ⟨.mstr, 0xC3, cvOf, fun f s l => sigVals (row s l f.sb :: mstrOffs f (s.src l)),
      fun f s l => rowWordOk s.curBlock.accRows (row s l f.sb) = true ∧ ∀ w ∈ mstrOffs f (s.src l), w.toNat % 128 = 0,
      goes⟩,
    ⟨.mrdaF32, 0xC4, cvOf, one, below, goes⟩,
    ⟨.mrdaSlot, 0xC4, cvOf, one, below, goes⟩,
    ⟨.mwra, 0xC5, cvOf, fun f s l => sigVals (row s l f.sa :: (s.src l).words f.sb.toNat 4),
      fun f s l => mwraOk s.curBlock.accRows (row s l f.sa) = true, goes⟩,
    ⟨.mclra, 0xC6, cvOf, one, rowOk, goes⟩,
    ⟨.msync, 0xC7, cvOf, none_, free, fun f _ => .msync (cvOf f)⟩,
    ⟨.mquery, 0xC8, cvOf, none_, free, fun f _ => .mquery (cvOf f) (f.subBits 36 35) f.d.toNat⟩ ]

/-- The lanes with guard 1 may sign: the block has accumulator rows, every lane passes its check, they present one list of
values, and it agrees with the round's first signature (R143), as the issuing slot finds the register (R58). -/
def MaySign (x : Signing) (f : Fields) (s : State) (vs : List Dword) : Prop :=
  s.curBlock.accRows ≠ 0 ∧ (s.curCv (x.cv f)).count ≠ 0 ∧
  (∀ l ∈ activeLanes f s, x.check f s l ∧ x.vals f s l = vs) ∧
  ∀ g, (s.curCv (x.cv f)).first = some g → g.op = x.op ∧ g.bits = joinWord x.op (sigFields f) ∧ g.vals = vs

end Sys2Proof.Claim

/-! ## Convergence registers and matrix instructions -/

/-- R143, R155: signatures that leave their round open: the register counts them, each lane has signed that round, and
MSYNC and MQUERY wait for it. Nothing else of any lane changes, and nothing outside the block but the list of results
that MRDA owes. -/
def Sys2Proof.Claim.SignaturesCount : Prop :=
  ∀ x ∈ signings, ∀ (f : Fields) (s : State) (vs : List Dword), MaySign x f s vs →
    let c := s.curCv (x.cv f)
    activeLanes f s ≠ [] → c.signed + (activeLanes f s).length < c.count →
    ∃ u, exec (x.ctor f) s = .next u ∧
      u = { s with blocks := u.blocks, mrdas := u.mrdas, cur := { s.cur with cvs := none } } ∧
      (∀ b, b ≠ s.cur.blk → u.block b = s.block b) ∧ ((u.block s.cur.blk).cv (x.cv f)).round = c.round ∧
      ((u.block s.cur.blk).cv (x.cv f)).signed = c.signed + (activeLanes f s).length ∧
      u.mrdas = s.mrdas ++ (if x.op = 0xC4 then (activeLanes f s).map (fun l =>
        { blk := s.cur.blk, lane := l, cv := x.cv f, round := c.round }) else []) ∧
      ∀ l, (l ∈ activeLanes f s → (u.lane s.cur.blk l).sign (x.cv f) = { round := c.round, st := .pending } ∧
          u.lane s.cur.blk l = { s.lane s.cur.blk l with
            signed := (u.lane s.cur.blk l).signed, park := x.park f (s.lane s.cur.blk l).park }) ∧
        (l ∉ activeLanes f s → u.lane s.cur.blk l = s.lane s.cur.blk l)

/-- R144, R155: the signature that completes a round of a matrix instruction hands its operation to the quadrant, whose
queue has room (and no save of the block is under way, R172): the operation stands last in the queue with the first signature's fields and values, the register opens
its next round, and the signers' round has issued. MQUERY's operation is complete at that moment and queues nothing. -/
def Sys2Proof.Claim.RoundIssues : Prop :=
  ∀ x ∈ signings, ∀ (f : Fields) (s : State) (vs : List Dword) (l : Nat), MaySign x f s vs → activeLanes f s = [l] →
    let c := s.curCv (x.cv f)
    c.signed + 1 = c.count → s.curBlock.mq.length < 32 → s.curBlock.mqFull = [] → l < 32 * s.curBlock.groups →
    (∃ p, s.curBlock.place = .resident p) →
    ∃ u, exec (x.ctor f) s = .next u ∧ u.mem = s.mem ∧ ((u.block s.cur.blk).cv (x.cv f)).round = c.round + 1 ∧
      ((u.block s.cur.blk).cv (x.cv f)).signed = 0 ∧
      ((u.lane s.cur.blk l).sign (x.cv f)) = { round := c.round, st := .issued } ∧
      (x.op = 0xA5 ∨ x.op = 0xC8 → (u.block s.cur.blk).mq = s.curBlock.mq) ∧
      (x.op ≠ 0xA5 → x.op ≠ 0xC8 → ∃ o, (u.block s.cur.blk).mq = s.curBlock.mq ++ [o] ∧ o.sig.op = x.op ∧ o.sig.vals = vs ∧
        o.round = c.round ∧ o.cv = x.cv f ∧ o.signers.map (·.1) = c.signers.map (·.1) ++ [l])

/-- R142, R144: CVSET gives an idle register its count where all lanes agree on at most 1,024; CVWAIT writes 1 where the
lane's last round on the register has issued or it never signed, 0 where the round was discarded, and waits for an open
one. -/
def Sys2Proof.Claim.ConvergenceRegisters : Prop :=
  (∀ (f : Fields) (s : State) (n : Nat), activeLanes f s ≠ [] → s.curBlock.accRows ≠ 0 → n ≤ 1024 →
    (∀ l ∈ activeLanes f s, (rdB32 f (s.src l)).toNat = n) → (s.curCv f.d.toNat).signed = 0 →
    ∃ u, exec (.cvset f) s = .next u ∧ u = { s with blocks := u.blocks, cur := { s.cur with cvs := none } } ∧ (∀ b, b ≠ s.cur.blk → u.block b = s.block b) ∧
      u.block s.cur.blk = { s.curBlock with cvs := (u.block s.cur.blk).cvs } ∧
      (u.block s.cur.blk).cv f.d.toNat = { s.curCv f.d.toNat with count := n } ∧
      ∀ c, c ≠ f.d.toNat → (u.block s.cur.blk).cv c = s.curBlock.cv c) ∧
  (∀ (f : Fields) (s : State), s.curBlock.accRows ≠ 0 →
    ∃ u, exec (.cvwait f) s = .next u ∧ PerLane f s u (fun _ x l l' =>
      match (x.sign f.sa.toNat).st with
      | .never | .issued => PredSet f.d.toNat true id l l'
      | .discarded => PredSet f.d.toNat false id l l'
      | .pending => l' = { l with park := .cvwait f.sa.toNat f.d.toNat }))

/-! ## Fibres -/

/-- R135: FSPAWN of one lane takes the lowest empty lane of its group, else of its block: a new fibre starts there at the
target with the registers named by N in v0 on, and D is 1; with no empty lane D is 0 and nothing starts. -/
def Sys2Proof.Claim.SpawnFibre : Prop :=
  ∀ (f : Fields) (s : State) (l : Nat), activeLanes f s = [l] →
    TargetsOk f s (fun _ => immTarget f s.cur.pc) →
    ∃ u, exec (.fspawn f) s = .next u ∧ u = { s with blocks := u.blocks } ∧ (∀ b, b ≠ s.cur.blk → u.block b = s.block b) ∧
      (emptyLane s.curBlock l = none → PredSet f.d.toNat false id (s.lane s.cur.blk l) (u.lane s.cur.blk l) ∧
        ∀ k, k ≠ l → u.lane s.cur.blk k = s.lane s.cur.blk k) ∧
      ∀ e, emptyLane s.curBlock l = some e → e ≠ l →
        PredSet f.d.toNat true id (s.lane s.cur.blk l) (u.lane s.cur.blk l) ∧
        (u.lane s.cur.blk e).live = true ∧ (u.lane s.cur.blk e).pc = immTarget f s.cur.pc ∧
        (u.lane s.cur.blk e).hmode = false ∧ (u.lane s.cur.blk e).preds = 0x8000 ∧ (u.lane s.cur.blk e).fpstat = 0 ∧
        (∀ k, k < f.subBits 33 32 → (u.lane s.cur.blk e).reg k =
          (s.src l).reg (([f.sa, f.sb, f.sc] : List (BitVec 9)).getD k 0).toNat) ∧
        (∀ k, f.subBits 33 32 ≤ k → (u.lane s.cur.blk e).reg k = (s.lane s.cur.blk e).reg k) ∧
        ∀ k, k ≠ l → k ≠ e → u.lane s.cur.blk k = s.lane s.cur.blk k

/-- R137: FEND ends the fibre of every lane with guard 1: the lanes become helper lanes without handles and without
outstanding results, and the run ends. -/
def Sys2Proof.Claim.FibreEnds : Prop :=
  ∀ (f : Fields) (s : State), ∃ u, exec (.fend f) s = .next u ∧ u.cur.ended = true ∧
    (∀ l ∈ activeLanes f s, (u.lane s.cur.blk l).live = false ∧ (u.lane s.cur.blk l).handles = []) ∧
    (∀ r ∈ u.lres, r.blk = s.cur.blk → r.lane ∉ activeLanes f s) ∧
    ∀ b l, (u.lane b l).live = true → (s.lane b l).live = true

/-- R140: BLKBAR parks its lanes until every live fibre of the block stands at the barrier, its local stores performed (log
entry 122); the last arriver lets all of them go on, those of a group at one slot with the STEP that one of them owes (R197,
log entry 97). That the met barrier ends the run is log entry 14 (DEDUCED). -/
def Sys2Proof.Claim.BlockBarrier : Prop :=
  ∀ (f : Fields) (s : State), (∀ l ∈ activeLanes f s, l < 32 * s.curBlock.groups) → activeLanes f s ≠ [] →
    let waits (l : Nat) : Prop := l ∈ activeLanes f s ∨ (s.lane s.cur.blk l).park = .blkbar
    let met : Prop := ∀ l < 32 * s.curBlock.groups, (s.lane s.cur.blk l).live = true →
      waits l ∧ (s.lane s.cur.blk l).owesAny = false
    ∃ u, exec (.blkbar f) s = .next u ∧ u.mem = s.mem ∧
      (¬ met → u = { s with blocks := u.blocks } ∧ ∀ l, u.lane s.cur.blk l =
        if l ∈ activeLanes f s then { s.lane s.cur.blk l with park := .blkbar } else s.lane s.cur.blk l) ∧
      (met → OnlyBlocksRunEnds s u ∧ (∀ l < 32 * s.curBlock.groups, waits l →
          u.lane s.cur.blk l = { s.lane s.cur.blk l with park := .run, due := (u.lane s.cur.blk l).due }) ∧
        ((∀ l < 32 * s.curBlock.groups, waits l → (s.lane s.cur.blk l).due = none) →
          ∀ l < 32 * s.curBlock.groups, waits l → (u.lane s.cur.blk l).due = none))

namespace Sys2Proof.Claim
open Sys2Proof.Machine

/-- Of the issuing block only lanes may differ, and of the other blocks nothing. -/
def BlockLanes (s u : State) : Prop :=
  (∀ b, b ≠ s.cur.blk → u.block b = s.block b) ∧
  u.block s.cur.blk = { s.curBlock with lanes := (u.block s.cur.blk).lanes }

/-- Each lane with guard 1 changes as `P` says, no other lane does, and nothing else of any block. -/
def LanesChange (f : Fields) (s u : State) (P : Nat → Lane → Lane → Prop) : Prop :=
  BlockLanes s u ∧ ∀ l,
    (l ∈ activeLanes f s → P l (s.lane s.cur.blk l) (u.lane s.cur.blk l)) ∧
    (l ∉ activeLanes f s → u.lane s.cur.blk l = s.lane s.cur.blk l)

/-- Handle register `h` holds `v`, the lane waits as `p` says, and the rest of the lane is as it was. -/
def HandleSet (h : Nat) (v : Handle) (p : Park) (x y : Lane) : Prop :=
  y = { x with handles := y.handles, park := p } ∧ y.handle h = v ∧ ∀ k, k ≠ h → y.handle k = x.handle k

/-- The handle that lane `l` names in SC. -/
def hnd (f : Fields) (s : State) (l : Nat) : Handle := (s.src l).handle f.sc.toNat

/-- The handle names a group that it still belongs to, and no join of it is outstanding (R146, R248). -/
def HandleGood (f : Fields) (s : State) (l : Nat) : Prop :=
  (hnd f s l).live = true ∧ (hnd f s l).joining = false ∧ sgCurrent s (hnd f s l) = true

/-- One request of each lane with guard 1 leaves the core, in order. -/
def Requests (f : Fields) (s u : State) (kind : Nat → SgKind) : Prop :=
  u = { s with sgreqs := u.sgreqs, blocks := u.blocks, seq := u.seq } ∧
  ∃ new : List SgReq, u.sgreqs = s.sgreqs ++ new ∧ new.map (·.lane) = activeLanes f s ∧ ∀ r ∈ new,
    r.blk = s.cur.blk ∧ r.h = f.sc.toNat ∧ r.kind = kind r.lane ∧ s.seq ≤ r.seq ∧ r.part = s.curLaunch.part ∧
    r.pc = s.cur.pc ∧ r.dead = false

/-- The instructions that arrive at a group's phase, with what they ask of it and how they wait (R149 to R151). -/
def arrivals (f : Fields) (s : State) : List ((Fields → Instr) × (Nat → SgKind) × (Nat → Park → Park)) :=
  let value (l : Nat) : Dword := BitVec.ofNat 64 (rdT (s.src l) f.t f.sa.toNat)
  [ (.sgarrive, fun _ => .arrive, fun _ p => p),
    (.sgbar, fun _ => .bar, fun l _ => .sgbar f.sc.toNat (hnd f s l).next f.d.toNat s.cur.pc),
    (.sgvote, fun l => .vote (f.subBits 33 32) ((s.src l).pred f.sa.toNat), fun _ p => p),
    (.sgred, fun l => .red (f.subBits 35 32) f.t (value l), fun _ p => p),
    (.sgbcast, fun l => .bcast (f.t == .b64) ((s.src l).pred f.sb.toNat) (value l), fun _ p => p) ]

/-- Jobs that the engine accepts: one for each lane with guard 1, in order, with the fibre's next batch number; each
lane's count of unsealed jobs grows, the destination lines are absent until their job completes, and no byte of any
memory and no register changes (R175, R179, R183). -/
def AddsJobs (f : Fields) (s u : State) (P : Job → Prop) : Prop :=
  u = { s with jobs := u.jobs, blocks := u.blocks, seq := u.seq } ∧
  (∃ new : List Job, u.jobs = s.jobs ++ new ∧ new.map (·.lane) = activeLanes f s ∧ ∀ j ∈ new, j.blk = some s.cur.blk ∧
    j.pier = s.cur.pier ∧ j.chan = f.sc.toNat ∧ j.tag = s.curTag ∧ j.st = .waiting ∧
    j.batch = nextBatch (s.lane s.cur.blk j.lane).sealed ∧ (∀ x ∈ j.cleared, j.id ∈ tget [] (u.block x.1).absent x.2) ∧ P j) ∧
  (∀ b, (u.block b).scratch = (s.block b).scratch ∧ (u.block b).acc = (s.block b).acc) ∧
  ∀ b l, u.lane b l = if b = s.cur.blk ∧ l ∈ activeLanes f s then
    { s.lane b l with unsealed := (s.lane b l).unsealed + 1 } else s.lane b l

/-- The pier has places for the jobs of all lanes with guard 1. -/
def JobRoom (f : Fields) (s : State) : Prop := pierJobs s s.cur.pier + (activeLanes f s).length ≤ 256

/-- A lane's pairs at D, SA and SB. -/
def pairD (f : Fields) (s : State) (l : Nat) : Dword := (s.src l).pair f.d.toNat
def pairA (f : Fields) (s : State) (l : Nat) : Dword := (s.src l).pair f.sa.toNat
def pairB (f : Fields) (s : State) (l : Nat) : Dword := (s.src l).pair f.sb.toNat

/-- The destination of a job and its source as `sidesFault` checks them. -/
def sideD (f : Fields) (s : State) (span esz l : Nat) : Side :=
  { code := f.subBits 37 35, base := pairD f s l, span := span, esz := esz }
def sideA (f : Fields) (s : State) (span esz l : Nat) : Side :=
  { code := f.subBits 34 32, base := pairA f s l, span := span, esz := esz }

end Sys2Proof.Claim

/-! ## Named groups -/

/-- R148, R149, R152, R153: joins, arrivals, leaves, queries and closings go to the orrery as requests. An arrival asks at the
handle's NEXT, which increments, and SGBAR waits for that phase; a leave empties the handle; a join's handle has its join
outstanding. Registers, flags and memory are unchanged. A lane whose handle names a group that is gone has it emptied and
stops with SG_HANDLE, which ends its launch (R248, R290). -/
def Sys2Proof.Claim.NamedGroupRequests : Prop :=
  ∀ (f : Fields) (s : State),
    ((∀ l ∈ activeLanes f s, (hnd f s l).live = false) →
      ∃ u, exec (.sgjoin f) s = .next u ∧ Requests f s u (fun l => .join (rdB32 f (s.src l))) ∧
        LanesChange f s u (fun _ x y => HandleSet f.sc.toNat { live := true, joining := true } x.park x y)) ∧
    ((∀ l ∈ activeLanes f s, HandleGood f s l) →
      (∀ a ∈ arrivals f s, ∃ u, exec (a.1 f) s = .next u ∧ Requests f s u a.2.1 ∧
        LanesChange f s u (fun l x y => HandleSet f.sc.toNat { hnd f s l with next := (hnd f s l).next + 1 } (a.2.2 l x.park) x y) ∧
        ∀ r ∈ u.sgreqs, r ∉ s.sgreqs → r.phase = (hnd f s r.lane).next ∧ r.hnd = hnd f s r.lane) ∧
      (∃ u, exec (.sgleave f) s = .next u ∧ Requests f s u (fun _ => .leave) ∧
        LanesChange f s u (fun _ x y => HandleSet f.sc.toNat {} x.park x y)) ∧
      (∃ u, exec (.sgquery f) s = .next u ∧ Requests f s u (fun _ => .query (f.subBits 33 32)) ∧
        LanesChange f s u (fun _ x y => y = x)) ∧
      ∃ u, exec (.sgclose f) s = .next u ∧ Requests f s u (fun _ => .close) ∧ LanesChange f s u (fun _ x y => y = x)) ∧
    ∀ (mk : Fields → Instr) (l : Nat), mk ∈ [Instr.sgarrive, .sgbar, .sgvote, .sgred, .sgbcast, .sgleave, .sgquery, .sgclose,
        .sgwait] → activeLanes f s = [l] → (hnd f s l).live = true → (hnd f s l).joining = false →
      sgCurrent s (hnd f s l) = false →
      ∃ u, exec (mk f) s = .next u ∧ u.sgreqs = s.sgreqs ∧ (u.lane s.cur.blk l).handle f.sc.toNat = {} ∧
        (u.lane s.cur.blk l).park = .stopped ∧ (u.lane s.cur.blk l).pc = s.cur.pc ∧ u.cur.ended = true ∧
        (s.curLaunch.used = true → s.curLaunch.complete = false → (u.launch s.curTag).terminating = true)

/-- R150: SGWAIT on a phase that has not completed parks its lanes; on one that has, a lane whose acquire can complete goes on
with 1 in its predicate where the phase lost no member, and 0 where it did. -/
def Sys2Proof.Claim.NamedGroupWait : Prop :=
  (∀ (f : Fields) (s : State), (∀ l ∈ activeLanes f s, HandleGood f s l ∧ phaseDone (sgEntry s (hnd f s l)).phase ((s.src l).reg f.sa.toNat) = false) →
    ∃ u, exec (.sgwait f) s = .next u ∧ PerLane f s u (fun _ x l l' =>
      l' = { l with park := .sgwait f.sc.toNat (x.reg f.sa.toNat) f.d.toNat s.cur.pc })) ∧
  ∀ (f : Fields) (s : State) (l : Nat), activeLanes f s = [l] → HandleGood f s l → phaseDone (sgEntry s (hnd f s l)).phase ((s.src l).reg f.sa.toNat) = true →
    acquireOk s s.cur.pier s.cur.blk l s.seq = true →
    ∃ u, exec (.sgwait f) s = .next u ∧ u = { s with blocks := u.blocks, cores := u.cores, seq := u.seq } ∧
      LanesChange f s u (fun k x y => PredSet f.d.toNat
        (tget 0 (sgEntry s (hnd f s k)).lost ((s.src k).reg f.sa.toNat).toNat == 0) (fun z => { z with tracked := [] }) x y) ∧
      (u.core s.cur.pier).l1 = (s.core s.cur.pier).l1.filter (fun w => (s.core s.cur.pier).l1Owned.contains w.1)

/-! ## Copies and collectives -/

/-- R176: SHDEF of a sound image in the register window puts the lowest lane's shape into its slot, and changes nothing
else. -/
def Sys2Proof.Claim.ShapeDefinition : Prop :=
  ∀ (f : Fields) (s : State) (l nd esz : Nat), (activeLanes f s).head? = some l →
    let a := f.sa.toNat
    let h : Shape := { esz := esz, dims := imageDims nd ((s.src l).words (a + 2) (4 * nd)) }
    imageHead ((s.src l).reg a) ((s.src l).reg (a + 1)) = some (nd, esz) → a + 4 * nd + 1 < s.curBlock.window →
    shapeLimits h = true →
    ∃ u, exec (.shdef f) s = .next u ∧ u = { s with blocks := u.blocks } ∧ (∀ b, b ≠ s.cur.blk → u.block b = s.block b) ∧
      u.block s.cur.blk = { s.curBlock with shapes := (u.block s.cur.blk).shapes } ∧ shapeAt (u.block s.cur.blk).shapes f.d.toNat = some h ∧
      ∀ k, k ≠ f.d.toNat → shapeAt (u.block s.cur.blk).shapes k = shapeAt s.curBlock.shapes k

/-- R175, R177, R178: a copy, gather, scatter or fill whose lanes pass the checks of R177 becomes one waiting job for each of
them, with its pointers, shapes and value. That a private side becomes its backing address at submission (`recordPtr`) is the
model's reading (log entry 67). -/
def Sys2Proof.Claim.CopyJobs : Prop :=
  ∀ (f : Fields) (s : State), JobRoom f s →
    let place (l : Nat) (p : Dword) : Dword := recordPtr s s.cur.blk l p
    let n := f.immBits 23 0
    let esz := 2 ^ f.immBits 26 24
    let iw := if f.immBits 27 27 = 1 then 8 else 4
    (∀ hw hr, (∀ l ∈ activeLanes f s, shapeAt (s.src l).shapes (f.immBits 3 0) = some hw ∧
        shapeAt (s.src l).shapes (f.immBits 7 4) = some hr) →
      hw.count = hr.count → hw.esz = hr.esz →
      (∀ l ∈ activeLanes f s, sidesFault s s.cur.blk l [sideD f s hw.span hw.esz l, sideA f s hr.span hr.esz l] none = none) →
      ∃ u, exec (.cpt f) s = .next u ∧ AddsJobs f s u (fun j => j.kind = .cpt ∧ j.dst = place j.lane (pairD f s j.lane) ∧
        j.src = place j.lane (pairA f s j.lane) ∧ j.wshape = hw ∧ j.rshape = hr ∧
        j.cleared = destLines s s.cur.blk (pairD f s j.lane) hw.span)) ∧
    ((∀ l ∈ activeLanes f s, sidesFault s s.cur.blk l [sideD f s (n * esz) esz l, sideA f s esz esz l]
        (some (pairB f s l, iw, n)) = none) →
      ∃ u, exec (.gth f) s = .next u ∧ AddsJobs f s u (fun j => j.kind = .gth ∧ j.dst = place j.lane (pairD f s j.lane) ∧
        j.src = place j.lane (pairA f s j.lane) ∧ j.idx = place j.lane (pairB f s j.lane) ∧ j.i64 = (iw == 8) ∧
        j.wshape.count = n ∧ j.wshape.esz = esz ∧ j.cleared = destLines s s.cur.blk (pairD f s j.lane) (n * esz))) ∧
    ((∀ l ∈ activeLanes f s, sidesFault s s.cur.blk l [sideD f s esz esz l, sideA f s (n * esz) esz l]
        (some (pairB f s l, iw, n)) = none) →
      ∃ u, exec (.sct f) s = .next u ∧ AddsJobs f s u (fun j => j.kind = .sct ∧ j.dst = place j.lane (pairD f s j.lane) ∧
        j.src = place j.lane (pairA f s j.lane) ∧ j.idx = place j.lane (pairB f s j.lane) ∧ j.i64 = (iw == 8) ∧
        j.rshape.count = n ∧ j.rshape.esz = esz)) ∧
    ∀ h, (∀ l ∈ activeLanes f s, shapeAt (s.src l).shapes (f.immBits 3 0) = some h) → fillAligned h.esz f.sa.toNat = true →
      (∀ l ∈ activeLanes f s, sidesFault s s.cur.blk l [sideD f s h.span h.esz l] none = none) →
      ∃ u, exec (.cpfill f) s = .next u ∧ AddsJobs f s u (fun j => j.kind = .fill ∧ j.wshape = h ∧
        j.dst = place j.lane (pairD f s j.lane) ∧ j.cleared = destLines s s.cur.blk (pairD f s j.lane) h.span ∧
        j.value = leBytes h.esz ((s.src j.lane).nat f.sa.toNat (max 1 (h.esz / 4))))

/-- R177, R180, R182: a chain or collective whose lanes name an aligned record or card of the global or private window becomes
a waiting job with that pointer, and a chain's head goes into the channel register. -/
def Sys2Proof.Claim.ChainAndCollectiveJobs : Prop :=
  ∀ (f : Fields) (s : State), JobRoom f s →
    (∀ l ∈ activeLanes f s, codeMatches 0 (pairA f s l) = true ∧ (pairA f s l).toNat % 64 = 0) →
    let at_ (l : Nat) : Dword := recordPtr s s.cur.blk l (pairA f s l)
    (∃ u, exec (.cljob f) s = .next u ∧ AddsJobs f s u (fun j => j.kind = .coll ∧ j.recPtr = at_ j.lane)) ∧
    ∃ u, exec (.cpchain f) s = .next u ∧ AddsJobs f s u (fun j => j.kind = .chain ∧ j.recPtr = at_ j.lane) ∧
      ∀ l, (activeLanes f s).getLast? = some l → tget 0 (u.block s.cur.blk).chans f.sc.toNat = at_ l

/-- R183, R184: CPSEAL numbers the unsealed jobs of each lane as its next batch, or waits where a lane has 16 unfinished
batches; CPWAIT waits while more than n are unfinished, and is then an acquire; CPQUERY reads the batch's word. -/
def Sys2Proof.Claim.CopyBatches : Prop :=
  (∀ (f : Fields) (s : State), (∀ l ∈ activeLanes f s, (s.lane s.cur.blk l).unfinished < 16) →
    ∃ u, exec (.cpseal f) s = .next u ∧ PerLane f s u (fun _ _ l l' =>
      RegsSet f.d.toNat 1 (nextBatch l.sealed).toNat Lane.sealJobs l l' ∧ l'.unsealed = 0 ∧ l'.sealed = nextBatch l.sealed)) ∧
  (∀ (f : Fields) (s : State), (∃ l ∈ activeLanes f s, 16 ≤ (s.lane s.cur.blk l).unfinished) →
    ∃ u, exec (.cpseal f) s = .next u ∧ GroupWaits s u (.sealLimit (lanesMask ((activeLanes f s).filter (fun l =>
      (s.lane s.cur.blk l).unfinished ≥ 16))))) ∧
  (∀ (f : Fields) (s : State), (∀ l ∈ activeLanes f s, f.immBits 4 0 < (s.lane s.cur.blk l).unfinished) →
    ∃ u, exec (.cpwait f) s = .next u ∧ PerLane f s u (fun _ _ l l' => l' = { l with park := .cpwait (f.immBits 4 0) })) ∧
  (∀ (f : Fields) (s : State) (l : Nat), activeLanes f s = [l] → (s.lane s.cur.blk l).unfinished ≤ f.immBits 4 0 →
    acquireOk s s.cur.pier s.cur.blk l s.seq = true →
    ∃ u, exec (.cpwait f) s = .next u ∧ u = { s with blocks := u.blocks, cores := u.cores, seq := u.seq } ∧
      LanesChange f s u (fun _ x y => y = { x with tracked := [] }) ∧
      (u.core s.cur.pier).l1 = (s.core s.cur.pier).l1.filter (fun w => (s.core s.cur.pier).l1Owned.contains w.1)) ∧
  ∀ (f : Fields) (s : State), ∃ u, exec (.cpquery f) s = .next u ∧ PerLane f s u (fun _ x l l' =>
    RegsSet f.d.toNat 1 (cpquery l (x.reg f.sa.toNat)).toNat id l l')

namespace Sys2Proof.Claim
open Sys2Proof.Machine

/-- No core owns one of the words (R229). -/
def Unowned (s : State) (ws : List Nat) : Prop := ∀ c ∈ s.cores, ∀ o ∈ c.2.owned, o.2 ∉ ws

/-- The outstanding operation, result, request of a number. -/
def opAt (s : State) (k : Nat) : Option MemOp := s.memops.find? (fun m => m.id == k)
def resAt (s : State) (k : Nat) : Option LRes := s.lres.find? (fun r => r.id == k)
def reqOf (s : State) (k : Nat) : Option SgReq := s.sgreqs.find? (fun r => r.id == k)

/-- Bytes of an operation, and the launch tag it belongs to. -/
def opBytes (m : MemOp) : Nat := m.t.bits / 8
def opTag (s : State) (m : MemOp) : Nat := (s.block m.blk).tag

/-- The operation leaves the list, and its words, but those of a reduction, become an outstanding result. -/
def Returns (s u : State) (m : MemOp) (ws : List Word) : Prop :=
  u.memops = s.memops.filter (fun o => o.id != m.id) ∧
  u.lres = if m.kind = .red then s.lres
    else s.lres ++ [{ id := s.seq, blk := m.blk, lane := m.lane, regs := regPairs m.d ws }]

/-- A load or atomic that is plain: it orders nothing and its fibre has not ended. -/
def Plain (m : MemOp) : Prop := m.acquire = false ∧ m.dead = false

/-- Byte `k` of a load (R120, R232): of its context's latest store that entered before it, else of the L1, else of the
home. -/
def loadByte (t : State) (m : MemOp) (home : Nat → Byte) (k : Nat) : Byte :=
  let c := t.core m.core
  let q := m.ptr + BitVec.ofNat 64 k
  match recordByte c m.blk (chunkOf q) (q.toNat % 64) (fun x => decide (x.seq < m.seq)) with
  | some x => x.1.byte (q.toNat % 64)
  | none => match tfind (wordKey q (tagPasid t (opTag t m))) c.l1 with
    | some w => wordByte w (q.toNat % 4)
    | none => home k

/-- A fill's read is admitted: paid for already, or its budget, of activity `a`, admits it (R343). -/
def FillPaid (s : State) (part a : Nat) (f : Fill) : Prop := f.paid = true ∨ budgetOk s part a f.id = true

/-- The read of a load is admitted: with the fill that brings its line, or by itself. -/
def ReadPaid (s : State) (m : MemOp) (a : Nat) : Prop :=
  let part := (s.launch (opTag s m)).part
  (∃ f, fillFor s m = some f ∧ FillPaid s part a f) ∨ (fillFor s m = none ∧ budgetOk s part a m.id = true)

/-- The L1 of a core has room for a line: no other is replaced. -/
def LineRoom (c : Core) (line : Nat) : Prop :=
  line ∈ c.l1.map (·.1 / 32) ∨ ((c.l1.map (·.1 / 32)).eraseDups).length < 2048

/-- What a written result leaves in its lane: registers, predicate and flags; the rest of its registers as they were. -/
def ResultIn (r : LRes) (x y : Lane) : Prop :=
  (∀ w ∈ r.regs, y.reg w.1 = w.2) ∧ (∀ n, n ∉ r.regs.map (·.1) → y.reg n = x.reg n) ∧ y.fpstat = x.fpstat ||| r.flags ∧
  (r.pred = none → y.preds = x.preds) ∧ ∀ d v, r.pred = some (d, v) → d < 15 → y.preds.getLsbD d = v

/-- No byte that a core's record holds is poisoned. -/
def CleanRecord (c : Core) : Prop := ∀ e ∈ c.record, ∀ x ∈ e.stores, x.poison = false

/-- The bytes from `pa` on are those of `v`, and every other byte of memory is as `old` has it. -/
def Stored (mem old : List Host.Cell) (pa n v : Nat) : Prop :=
  ∀ a, rdByte mem a = if pa ≤ a ∧ a < pa + n then BitVec.ofNat 8 (v / 256 ^ (a - pa)) else rdByte old a

/-- What an atomic leaves in memory: its new value, or nothing where a compare fails. -/
def AtomicStored (m : MemOp) (mem old : List Host.Cell) (pa : Nat) : Prop :=
  match atomNew m.kind m.op m.t m.b (rdNat old pa (opBytes m)) with
  | some v => Stored mem old pa (opBytes m) v
  | none => ∀ a, rdByte mem a = rdByte old a

/-- Bytes of an entry, at its place in a memory. -/
def EntryStored (e : Entry) (mem old : List Host.Cell) (at_ : Nat) : Prop :=
  ∀ a, rdByte mem a = if at_ ≤ a ∧ a < at_ + 64 ∧ e.be.getLsbD (a - at_) = true
    then BitVec.ofNat 8 (e.data.toNat / 256 ^ (a - at_)) else rdByte old a

/-- No earlier write of the host to one of the bytes waits (R234, R287). -/
def HostFree (s : State) (a n : Nat) : Prop :=
  ∀ o ∈ s.cxlReqs, ∀ bs, o.bytes = some bs → o.addr + bs.length ≤ a ∨ a + n ≤ o.addr

/-- The member that a join makes: its first phase is `p`. -/
def newMember (r : SgReq) (p : Word) : Member := { blk := r.blk, lane := r.lane, h := r.h, first := p, next := p }

/-- The group of a request. -/
def reqEntry (s : State) (r : SgReq) : SgEntry := getSg s r.hnd.die r.hnd.idx

end Sys2Proof.Claim

/-! ## The steps of the memory system and of issue -/

/-- R56, R150, R255: a result that is written reaches its lane: its registers, its predicate and its flags; every other lane
is as it was (but that, where it completes an MRDA, lanes in MSYNC may go on), and memory is unchanged. One that is the value of a completed phase makes an acquire, which completes at once
where it can. A result for a saved block waits for the restore. -/
def Sys2Proof.Claim.ResultsAreWritten : Prop :=
  (∀ (s : State) (k : Nat) (r : LRes), resAt s k = some r → (s.block r.blk).place = .saved →
    exec (.lResultWrite k) s = .next s) ∧
  (∀ (s : State) (k : Nat) (r : LRes), resAt s k = some r → (s.block r.blk).place ≠ .saved →
    (s.lane r.blk r.lane).live = true → (r.regs.map (·.1)).Nodup → r.mop = 0 → r.acq = none →
    ∃ u, exec (.lResultWrite k) s = .next u ∧ u = { s with lres := u.lres, blocks := u.blocks } ∧
      u.lres = s.lres.filter (fun x => x.id != k) ∧ (∀ b, b ≠ r.blk → u.block b = s.block b) ∧
      (∀ l, l ≠ r.lane → u.lane r.blk l = s.lane r.blk l) ∧ ResultIn r (s.lane r.blk r.lane) (u.lane r.blk r.lane)) ∧
  (∀ (s : State) (k p q : Nat) (pc : Dword) (r : LRes), resAt s k = some r → (s.block r.blk).onPier = some p →
    (s.lane r.blk r.lane).live = true → (r.regs.map (·.1)).Nodup → r.mop = 0 → r.acq = some (q, pc) →
    acquireOk s p r.blk r.lane q = true →
    ∃ u, exec (.lResultWrite k) s = .next u ∧ u = { s with lres := u.lres, blocks := u.blocks, cores := u.cores, seq := u.seq } ∧
      u.lres = s.lres.filter (fun x => x.id != k) ∧ (∀ l, l ≠ r.lane → u.lane r.blk l = s.lane r.blk l) ∧
      ResultIn r (s.lane r.blk r.lane) (u.lane r.blk r.lane) ∧ (u.lane r.blk r.lane).tracked = [] ∧
      (u.core p).l1 = (s.core p).l1.filter (fun w => (s.core p).l1Owned.contains w.1)) ∧
  (∀ (s : State) (k : Nat) (r : LRes), resAt s k = some r → (s.block r.blk).place ≠ .saved →
    (s.lane r.blk r.lane).live = true → (r.regs.map (·.1)).Nodup → r.acq = none → (s.block r.blk).mqFull = [] →
    ∃ u, exec (.lResultWrite k) s = .next u ∧ u = { s with lres := u.lres, blocks := u.blocks } ∧
      u.lres = s.lres.filter (fun x => x.id != k) ∧ (∀ b, b ≠ r.blk → u.block b = s.block b) ∧
      ResultIn r (s.lane r.blk r.lane) (u.lane r.blk r.lane) ∧
      ∀ l, l ≠ r.lane → ∃ q, u.lane r.blk l = { s.lane r.blk l with park := q }) ∧
  ∀ (s : State) (k : Nat) (r : LRes), resAt s k = some r → (s.block r.blk).place ≠ .saved →
    ∃ u, exec (.lResultWrite k) s = .next u ∧ u.lres = s.lres.filter (fun x => x.id != k) ∧ u.mem = s.mem ∧ u.hostMem = s.hostMem

/-- R120, R126, R232, R238: a load that is performed in its turn reads each byte from the latest store of its block's record
that entered before it, else from the L1, else from the home, and its extended value becomes an outstanding result; memory is
unchanged, and U of the page is asked for (R278). A load that would take another fibre's bytes too early waits. An acquire that
completes leaves no unowned word in the L1. -/
def Sys2Proof.Claim.LoadsArePerformed : Prop :=
  (∀ (s : State) (k : Nat) (m : MemOp) (pa : Nat) (lf : Leaf), opAt s k = some m → m.kind = .load → Plain m →
    inTurn s m = true → loadWaits s m = false → spotOf s (opTag s m) m.ptr (opBytes m) .read = .home pa lf →
    chunkPoisoned s pa = false → CleanRecord (s.core m.core) → (inSlice s pa = true ∨ ReadPaid s m 0) →
    ∃ u, exec (.loadReturn k) s = .next u ∧ u.mem = s.mem ∧ u.hostMem = s.hostMem ∧ u.uses = (setU s lf).uses ∧
      Returns s u m (resT m.t (leNat ((List.range (opBytes m)).map (loadByte s m (fun i => rdByte s.mem (pa + i))))))) ∧
  (∀ (s : State) (k : Nat) (m : MemOp) (key : Nat), opAt s k = some m → m.kind = .load → Plain m → inTurn s m = true →
    loadWaits s m = false → spotOf s (opTag s m) m.ptr (opBytes m) .read = .host key → CleanRecord (s.core m.core) →
    ReadPaid s m 5 →
    ∃ u, exec (.loadReturn k) s = .next u ∧ u.mem = s.mem ∧ u.hostMem = s.hostMem ∧
      Returns s u m (resT m.t (leNat ((List.range (opBytes m)).map (loadByte s m (fun i => rdByte s.hostMem (key + i))))))) ∧
  (∀ (s : State) (k : Nat) (m : MemOp), opAt s k = some m → m.kind = .load → loadWaits s m = true →
    exec (.loadReturn k) s = .next s) ∧
  ∀ (s : State) (k : Nat) (m : MemOp), opAt s k = some m → m.kind = .acq → (s.block m.blk).onPier = some m.core →
    noAcquire s m.blk m.lane m.seq = true → acquireOk s m.core m.blk m.lane m.seq = true →
    ∃ u, exec (.loadReturn k) s = .next u ∧ u.memops = s.memops.filter (fun o => o.id != k) ∧ u.mem = s.mem ∧
      (u.lane m.blk m.lane).tracked = [] ∧
      (u.core m.core).l1 = (s.core m.core).l1.filter (fun w => (s.core m.core).l1Owned.contains w.1)

/-- R231, R343: a fill that its budget admits, whose page translates, installs every word that is neither valid nor excluded
nor poisoned; where the cache is off or was dropped, or the fill is of the home slice alone, it installs nothing. The fill is
over. Memory is unchanged, and U of the page is asked for. Stated for an L1 with room for the line (which line makes room is open, log entry
107). -/
def Sys2Proof.Claim.FillsInstall : Prop :=
  (∀ (s : State) (p k : Nat) (f : Fill), (s.core p).fills[k]? = some f → windowOf (keyPtr (32 * f.line)) = .host →
    FillPaid s (s.launch f.tag).part 5 f → LineRoom (s.core p) f.line →
    let key := hostByteKey (keyPasid (32 * f.line)) (ptrOff56 (keyPtr (32 * f.line)))
    let goes : Prop := l1On s p = true ∧ f.dropped = false ∧ f.l1 = true ∧
      s.hostPages.contains (hostPageKey (keyPasid (32 * f.line)) (ptrOff56 (keyPtr (32 * f.line)))) = true
    ∃ u, exec (.l1FillReturn p k) s = .next u ∧ u = { s with cores := u.cores, parts := u.parts } ∧
      (∀ c, c ≠ p → u.core c = s.core c) ∧
      (u.core p).fills = (s.core p).fills.filter (fun g => g.id != f.id) ∧ (u.core p).record = (s.core p).record ∧
      (¬ goes → (u.core p).l1 = (s.core p).l1) ∧
      (goes → ∀ w, tfind w (u.core p).l1 = if 32 * f.line ≤ w ∧ w < 32 * f.line + 32 ∧ (tfind w (s.core p).l1).isNone ∧
          f.excluded.contains w = false
        then some (BitVec.ofNat 32 (rdNat s.hostMem (key + 4 * (w - 32 * f.line)) 4)) else tfind w (s.core p).l1)) ∧
  ∀ (s : State) (p k pa : Nat) (f : Fill) (lf : Leaf), (s.core p).fills[k]? = some f → windowOf (keyPtr (32 * f.line)) ≠ .host →
    p < 2048 → xlatGlobal s (s.launch f.tag).part none (keyPtr (32 * f.line)) 1 .read = .ok pa lf →
    (inSlice s pa = true ∨ FillPaid s (s.launch f.tag).part 0 f) → LineRoom (s.core p) f.line →
    ∃ u, exec (.l1FillReturn p k) s = .next u ∧ u.mem = s.mem ∧ u.hostMem = s.hostMem ∧ u.uses = (setU s lf).uses ∧
      (u.core p).fills = (s.core p).fills.filter (fun g => g.id != f.id) ∧ (u.core p).record = (s.core p).record ∧
      (l1On s p = true → f.dropped = false → f.l1 = true → ∀ w, tfind w (u.core p).l1 =
        if 32 * f.line ≤ w ∧ w < 32 * f.line + 32 ∧ (tfind w (s.core p).l1).isNone ∧
          f.excluded.contains w = false ∧ chunkPoisoned s (pa + 4 * (w - 32 * f.line)) = false
        then some (BitVec.ofNat 32 (rdNat s.mem (pa + 4 * (w - 32 * f.line)) 4)) else tfind w (s.core p).l1) ∧
      ((l1On s p = false ∨ f.dropped = true ∨ f.l1 = false) → (u.core p).l1 = (s.core p).l1)

/-- R230, R234, R281, R342, R371: the drain of an entry that may drain, with every word owned at its place and its writes, and
a line that it reads, admitted by the budgets, writes exactly the
entry's bytes there, and the host's completion writes them to host memory; the entry is gone from the record. An entry whose
access is refused when it drains is gone too, unperformed and recorded as a fault. -/
def Sys2Proof.Claim.DrainsWrite : Prop :=
  (∀ (s : State) (c k pa : Nat) (e : Entry) (lf : Leaf), findEntry s c k = some e → c < 2048 → drainOk s c e = true →
    windowOf e.chunk ≠ .host → entryPlace s c e = .ok pa lf → unownedWords s c e pa = [] →
    (∀ a ∈ drainActs s c e pa lf.pol, a.2 = 0 ∨ budgetOk s (entryPart s c e) a.1 k = true) →
    ∃ u, exec (.storeRecordDrain c k) s = .next u ∧ EntryStored e u.mem s.mem pa ∧
      u.hostMem = s.hostMem ∧ (u.core c).record = (s.core c).record.filter (fun x => x.id != e.id)) ∧
  (∀ (s : State) (c k cause : Nat) (code : BitVec 8) (e : Entry), findEntry s c k = some e → c < 2048 → drainOk s c e = true →
    windowOf e.chunk ≠ .host → entryPlace s c e = .fault code cause → (s.launch e.tag).used = true →
    ∃ u, exec (.storeRecordDrain c k) s = .next u ∧ u.hostMem = s.hostMem ∧
      (u.core c).record = (s.core c).record.filter (fun x => x.id != e.id) ∧
      (u.launch e.tag).count = min ((s.launch e.tag).count + 1) (2 ^ 32 - 1)) ∧
  ∀ (s : State) (c k : Nat) (e : Entry), findEntry s c k = some e → drainOk s c e = true → windowOf e.chunk = .host →
    let l := s.launch e.tag
    (∀ i ∈ e.bytes, inLease l.rec_ (e.chunk.toNat + i) = true) →
    s.hostPages.contains (hostPageKey l.pasid (ptrOff56 e.chunk)) = true → budgetOk s l.part 5 k = true →
    ∃ u, exec (.hostWriteComplete c k) s = .next u ∧
      EntryStored e u.hostMem s.hostMem (hostByteKey l.pasid (ptrOff56 e.chunk)) ∧ u.mem = s.mem ∧
      (u.core c).record = (s.core c).record.filter (fun x => x.id != e.id)

/-- R229: a request that the home grants makes the core the word's owner and revokes the word from another owner; a revoke
leaves the core without the word and sends an acknowledgement, which ends one of the entry's waits. -/
def Sys2Proof.Claim.OwnershipMoves : Prop :=
  (∀ (s : State) (c k w pa : Nat) (e : Entry) (lf : Leaf), findEntry s c k = some e → c < 2048 →
    e.requested.getLsbD w = true → entryXlat s c e (e.bytes.filter (fun i => i / 4 == w)) = .ok pa lf →
    ∃ u, exec (.ownershipRequest c k w) s = .next u ∧ u.mem = s.mem ∧ u.uses = (setU s lf).uses ∧
      tfind (e.key s + w) (u.core c).owned = some (pa / 4 + w) ∧ tfind (pa / 4 + w) u.dir = some c ∧
      (∀ old, tfind (pa / 4 + w) s.dir = some old → old ≠ c →
        ∃ r, u.revokes = s.revokes ++ [r] ∧ r.core = old ∧ r.word = pa / 4 + w ∧ r.reply = (c, k))) ∧
  (∀ (s : State) (k : Nat) (r : Revoke), s.revokes.find? (fun x => x.id == k) = some r →
    ∃ u a, exec (.revokeReceived k) s = .next u ∧ u.revokes = s.revokes.filter (fun x => x.id != k) ∧
      u.acks = s.acks ++ [a] ∧ a.core = r.reply.1 ∧ a.entry = r.reply.2 ∧ ∀ o ∈ (u.core r.core).owned, o.2 ≠ r.word) ∧
  ∀ (s : State) (k : Nat) (a : Ack), s.acks.find? (fun x => x.id == k) = some a →
    ∃ u, exec (.ackReceived k) s = .next u ∧ u = { s with acks := u.acks, cores := u.cores } ∧
      u.acks = s.acks.filter (fun x => x.id != k) ∧ (u.core a.core).record = (s.core a.core).record.map (fun e =>
        if e.id = a.entry then { e with acks := e.acks - 1 } else e)

/-- R123, R124: an atomic that may be performed, on words that no core owns, reads its old value and writes its new one in one
step, at the home or at the host; every other byte is unchanged, the old value becomes an outstanding result, and at a home the host loses its copy of the line,
whether the atomic writes or not. -/
def Sys2Proof.Claim.AtomicsArePerformed : Prop :=
  (∀ (s : State) (k : Nat) (m : MemOp) (pa : Nat) (lf : Leaf), opAt s k = some m → m.kind ≠ .load → m.kind ≠ .acq → Plain m →
    windowOf m.ptr ≠ .host → atomicReady s m = true → spotOf s (opTag s m) m.ptr (opBytes m) .atomic = .home pa lf →
    chunkPoisoned s pa = false → Unowned s (physWords pa (opBytes m)) →
    (∀ a ∈ [1, 3], budgetOk s (s.launch (opTag s m)).part a k = true) →
    (inSlice s pa = true ∨ budgetOk s (s.launch (opTag s m)).part 0 k = true) →
    ∃ u, exec (.atomicPerform k) s = .next u ∧ AtomicStored m u.mem s.mem pa ∧ u.hostMem = s.hostMem ∧
      pa / 64 ∉ u.hostLines ∧
      Returns s u m (resT m.t (rdNat s.mem pa (opBytes m)))) ∧
  ∀ (s : State) (k : Nat) (m : MemOp) (key : Nat), opAt s k = some m → m.kind ≠ .load → m.kind ≠ .acq → Plain m →
    windowOf m.ptr = .host → atomicReady s m = true → spotOf s (opTag s m) m.ptr (opBytes m) .atomic = .host key →
    budgetOk s (s.launch (opTag s m)).part 5 k = true →
    ∃ u, exec (.hostAtomicComplete k false) s = .next u ∧ AtomicStored m u.hostMem s.hostMem key ∧ u.mem = s.mem ∧
      Returns s u m (resT m.t (rdNat s.hostMem key (opBytes m)))

/-- R234, R287, R342, R357, R359: the host reads the bytes at their home, or learns that they are poisoned; a host write of
words without an owner, to a page that does not migrate, within its partition's budget, writes exactly its bytes there and
leaves the host no copy of their lines. Through a link that is down, and behind an earlier write that waits, an access
waits at the die, and so does a write to a migrating page (R287): that it stands there as a request of its own, in the
order of its arrival, is log entry 109 (DEDUCED). -/
def Sys2Proof.Claim.HostAccesses : Prop :=
  (∀ (s : State) (a n : Nat) (keep : Bool), linkWaits s a = false → HostFree s a n →
    ∃ u, exec (.hostCxlRead a n keep) s = .next u ∧
      u = { s with sent := u.sent, hostLines := u.hostLines, seq := u.seq } ∧ (keep = true → a / 64 ∈ u.hostLines) ∧
      ((∃ c ∈ chunksOf a n, chunkPoisoned s (64 * c) = true) → u.sent = s.sent ++ [.poison]) ∧
      ((∀ c ∈ chunksOf a n, chunkPoisoned s (64 * c) = false) → u.sent = s.sent ++ [.bytes 0 (rdBytes s.mem a n)])) ∧
  (∀ (s : State) (a : Nat) (bs : List Byte), Unowned s (physWords a bs.length) → linkWaits s a = false →
    HostFree s a bs.length → frameLost s a = false →
    (frameLeaf s a = none ∨ ∃ p lf, frameLeaf s a = some (p, lf) ∧ lf.m = false ∧ budgetOk s p 1 s.seq = true) →
    ∃ u, exec (.hostCxlWrite a bs) s = .next u ∧ Stored u.mem s.mem a bs.length (leNat bs) ∧ u.hostMem = s.hostMem ∧
      ∀ c ∈ chunksOf a bs.length, c ∉ u.hostLines) ∧
  (∀ (s : State) (a n : Nat) (keep : Bool), linkWaits s a = true → exec (.hostCxlRead a n keep) s = .next { s with
    seq := s.seq + 1, cxlReqs := s.cxlReqs ++ [{ id := s.seq, addr := a, bytes := none, size := n, cache := keep }] }) ∧
  ∀ (s : State) (a : Nat) (bs : List Byte),
    (linkWaits s a = true ∨ ∃ p lf, frameLeaf s a = some (p, lf) ∧ lf.m = true) →
    exec (.hostCxlWrite a bs) s = .next { s with
      seq := s.seq + 1, cxlReqs := s.cxlReqs ++ [{ id := s.seq, addr := a, bytes := some bs, size := 0 }] }

/-- R215 to R219: a pick of a free scheduler with its places filled begins a run of the candidate group that ran longest ago:
its lanes are those that stand, in one mode, where the lane stands that ran longest ago. A parked active group gives its place
to a ready pending one. A ready group enters an active set that has room; where it is full, a group ready for 4,096 cycles
takes the place of the active group that entered longest ago. No lane changes. -/
def Sys2Proof.Claim.SchedulerPicks : Prop :=
  (∀ (s : State) (p sc : Nat), s.run? p sc = none → (∀ x ∈ schedGroups s p sc, (s.grp x.1 x.2).active = true) →
    (∃ x ∈ schedGroups s p sc, (candidates s p x.1 x.2).isSome = true) →
    (∀ x ∈ schedGroups s p sc, ∀ k ls, candidates s p x.1 x.2 = some (k, ls) → k = .run ∨ k = .step) →
    ∃ u r ls, exec (.issueSchedulerPick p sc) s = .next u ∧ u = { s with runs := u.runs, blocks := u.blocks, seq := u.seq } ∧
      u.run? p sc = some r ∧ r.count = 0 ∧ r.refetch = false ∧ (r.blk, r.grp) ∈ schedGroups s p sc ∧
      candidates s p r.blk r.grp = some (if r.single then .step else .run, ls) ∧
      (∃ l0 ∈ ls, (∀ l ∈ ls, (s.lane r.blk l0).lastRun ≤ (s.lane r.blk l).lastRun) ∧ r.lanes = lanesMask (ls.filter (fun l =>
        (s.lane r.blk l).pc == (s.lane r.blk l0).pc && (s.lane r.blk l).hmode == (s.lane r.blk l0).hmode))) ∧
      (∀ x ∈ schedGroups s p sc, (candidates s p x.1 x.2).isSome = true →
        (s.grp r.blk r.grp).lastRun ≤ (s.grp x.1 x.2).lastRun) ∧ ∀ b l, u.lane b l = s.lane b l) ∧
  (∀ (s : State) (b g p : Nat) (x : Nat × Nat), (s.block b).onPier = some p → (s.grp b g).active = true →
    6400 ≤ (s.grp b g).parkedFor → groupIdle s p b g = true → running s b g = false → readyPending s p (s.grp b g).sched = some x →
    ∃ u, exec (.groupDemote b g) s = .next u ∧ (u.grp b g).active = false ∧ (u.grp x.1 x.2).active = true ∧
      ∀ b l, u.lane b l = s.lane b l) ∧
  ∀ (s : State) (b g p : Nat), (s.block b).onPier = some p → (s.grp b g).active = false →
    g < (s.block b).groups → (candidates s p b g).isSome = true →
    let active := (schedGroups s p (s.grp b g).sched).filter (fun x => (s.grp x.1 x.2).active)
    (active.length < 8 → ∃ u, exec (.groupPromote b g) s = .next u ∧ (u.grp b g).active = true ∧
      (∀ x : Nat × Nat, x ≠ (b, g) → u.grp x.1 x.2 = s.grp x.1 x.2) ∧ ∀ b l, u.lane b l = s.lane b l) ∧
    (8 ≤ active.length → 409600 ≤ (s.grp b g).readyFor →
      ∃ u, ∃ x ∈ active, exec (.groupPromote b g) s = .next u ∧ (u.grp b g).active = true ∧
        (u.grp x.1 x.2).active = false ∧ (∀ y ∈ active, (s.grp x.1 x.2).entered ≤ (s.grp y.1 y.2).entered) ∧
        ∀ b l, u.lane b l = s.lane b l)

/-- R50, R122, R224: a refetched line that is sound ends the wait of its run and stands in the instruction cache, and the
home slices are as they were, since the refetch passes them; a presence
wait that is over its bound stops the lanes whose lines are still absent, and the launch is terminating. -/
def Sys2Proof.Claim.FetchAndPresenceWaits : Prop :=
  (∀ (s : State) (p sc pa l0 : Nat) (ls : List Nat) (r : Run) (lf : Leaf), s.run? p sc = some r → r.refetch = true →
    (groupLanes r.grp r.lanes).filter (fun l => laneFree (s.lane r.blk l)) = l0 :: ls →
    let pc := (s.lane r.blk l0).pc
    let c := s.launch (s.block r.blk).tag
    xlatGlobal s c.part (some c.rec_) (pcLine pc) 64 .read = .ok pa lf →
    budgetOk s c.part 0 r.id = true → chunkPoisoned s pa = false → lineGood (rdBytes s.mem pa 64) = true →
    ∃ u, exec (.lineRefetchReturn p sc) s = .next u ∧ u.mem = s.mem ∧ u.hostMem = s.hostMem ∧ u.piers = s.piers ∧
      u.run? p sc = some { r with refetch := false } ∧ u.blocks = s.blocks ∧
      (l1iOn s p = true → tfind (pc.toNat / 64) (u.core p).l1i = some (rdBytes s.mem pa 64))) ∧
  ∀ (s : State) (b g w : Nat) (ls : List (Nat × Dword × Nat × Nat)), (s.grp b g).park = .presence ls w → 2 ^ 24 * 100 ≤ w →
    let gone := ls.filter (fun x => (tfind x.2.2.2 (s.block x.2.2.1).absent).isSome)
    gone ≠ [] → (∀ x ∈ ls, x.1 / 32 = g) → (s.launch (s.block b).tag).used = true →
    (s.launch (s.block b).tag).complete = false →
    ∃ u, exec (.presenceTimeout b g) s = .next u ∧ (u.launch (s.block b).tag).terminating = true ∧
      (∀ x ∈ gone, (u.lane b x.1).park = .stopped) ∧ ∀ l, (∀ x ∈ gone, l ≠ x.1) → u.lane b l = s.lane b l

/-- R148, R150, R152: a join of a group that exists makes a member of its next phase, with the lowest free index; of a name
that nobody has, a new group in the lowest free entry. An arrival counts its member; where others are missing the phase stays,
and the one that completes it moves PHASE on. A query answers and a closing closes. That a query of NEXT (n = 3) answers
the handle's value at issue is log entry 80 (DEDUCED). -/
def Sys2Proof.Claim.OrrerySteps : Prop :=
  (∀ (s : State) (k i mem : Nat) (r : SgReq) (name : Word) (e : SgEntry), reqOf s k = some r → r.kind = .join name →
    r.dead = false → reqFirst s r = true → budgetOk s r.part 6 k = true →
    let d := homeDie s (s.part r.part).inForce.nsid name
    (s.die d).orrery.find? (fun e => e.2.used && e.2.name == name && e.2.nsid == (s.part r.part).inForce.nsid) = some (i, e) →
    e.closing = false → lowestFree 65535 (fun m => (tfind m e.members).isSome) = some mem →
    ∃ u, exec (.sgJoinHandled k) s = .next u ∧ (getSg u d i).phase = e.phase ∧
      tfind mem (getSg u d i).members = some (newMember r (e.phase + 1)) ∧
      ∃ id, u.lres = s.lres ++ [
        { id := id, blk := r.blk, lane := r.lane, regs := [(r.d, 0), (r.d + 1, e.phase + 1)],
          handle := some (r.h, { live := true, die := d, idx := i, gen := e.gen, member := mem, next := e.phase + 1 }) }]) ∧
  (∀ (s : State) (k i : Nat) (r : SgReq) (name : Word), reqOf s k = some r → r.kind = .join name → r.dead = false →
    reqFirst s r = true → budgetOk s r.part 6 k = true →
    let nsid := (s.part r.part).inForce.nsid
    let d := homeDie s nsid name
    (s.die d).orrery.find? (fun e => e.2.used && e.2.name == name && e.2.nsid == nsid) = none →
    lowestFree 4096 (fun i => (getSg s d i).used) = some i → nsEntries s nsid < (s.part r.part).inForce.quota →
    ∃ u, exec (.sgJoinHandled k) s = .next u ∧
      getSg u d i = { used := true, name := name, nsid := nsid, gen := (getSg s d i).gen,
                      members := [(0, newMember r 0)] } ∧
      ∃ x ∈ u.lres, x.blk = r.blk ∧ x.lane = r.lane ∧ x.regs = [(r.d, 1), (r.d + 1, 0)]) ∧
  ∀ (s : State) (k : Nat) (r : SgReq), reqOf s k = some r → reqFirst s r = true → budgetOk s r.part 6 k = true →
    sgCurrent s r.hnd = true →
    (∀ m, r.kind = .arrive → tfind r.hnd.member (reqEntry s r).members = some m → m.left = false →
      (∃ o ∈ (reqEntry s r).members, o.1 ≠ r.hnd.member ∧ o.2.inPhase (reqEntry s r).phase = true ∧
        o.2.arrived (reqEntry s r).phase = false) →
      ∃ u, exec (.sgArrivalHandled k) s = .next u ∧ (reqEntry u r).phase = (reqEntry s r).phase ∧
        tfind r.hnd.member (reqEntry u r).members = some { m with next := r.phase + 1 }) ∧
    (∀ m, r.kind = .arrive → (reqEntry s r).members = [(r.hnd.member, m)] → m.left = false → m.first = (reqEntry s r).phase →
      r.phase = (reqEntry s r).phase →
      ∃ u, exec (.sgArrivalHandled k) s = .next u ∧ (reqEntry u r).phase = (reqEntry s r).phase + 1) ∧
    (∀ n, r.kind = .query n → r.live s = true → ∃ u v, exec (.sgArrivalHandled k) s = .next u ∧
      reqEntry u r = reqEntry s r ∧ (n = 1 → v = (reqEntry s r).phase) ∧ (n = 3 → v = r.phase) ∧
      ∃ id, u.lres = s.lres ++ [{ id := id, blk := r.blk, lane := r.lane, regs := [(r.d, v)] }]) ∧
    (r.kind = .close → ∃ u, exec (.sgArrivalHandled k) s = .next u ∧
      reqEntry u r = { reqEntry s r with closing := true })

namespace Sys2Proof.Claim
open Sys2Proof.Machine

/-- Operation `o` heads the queue of block `b`, which holds the quadrant of pier `p`. -/
def Heads (s : State) (p b : Nat) (o : MOp) : Prop := quadBlock s p = some b ∧ mqHead s b = some o

/-- Only block `b` may differ; its queue has lost its head, and lanes in MSYNC may go on. -/
def HeadDone (s u : State) (b : Nat) : Prop :=
  u = { s with blocks := u.blocks, free := u.free } ∧ (∀ k, k ≠ b → u.block k = s.block k) ∧
  (u.block b).mq = (s.block b).mq.tail

/-- Block `v` is `x` with its scratchpad as operation `o` may find it: each byte as it stands, or as a write that is not past
for the operation replaced it (R7, R159; log entry 55). -/
def Finds (x : Block) (o : MOp) (v : Block) : Prop :=
  v = { x with scratch := v.scratch } ∧
  ∀ a, rdByte v.scratch a = rdByte x.scratch a ∨ ∃ e ∈ olderAt x o a, rdByte v.scratch a = e.val

/-- No byte of the block's scratchpad is poisoned, nor one that a write replaced. -/
def CleanPad (x : Block) : Prop := x.scratchPoison = [] ∧ ∀ e ∈ x.older, e.bad = false

/-- Accumulator word `k` of block `b`, row by row. -/
def accAt (s : State) (b k : Nat) : Word := tget 0 (s.block b).acc k

/-- The plane that is not active, and the one that is. -/
def shadow (x : Block) : Plane := if x.sel then x.plane0 else x.plane1
def activePlane (x : Block) : Plane := if x.sel then x.plane1 else x.plane0

/-- Column sums of activation row `m` of a stream that output block `b` makes, over the scratchpads `pad`: 128 f32 codes (R45,
R46). A fused stream takes its rows where R163 has them enter, each under the operation at the head there. -/
def rowSums (s : State) (pad : Nat → Block) (b : Nat) (o : MOp) (m : Nat) : List Nat :=
  let x := s.block b
  let r := (s.launch x.tag).rec_
  if x.cfg.shape = 0 then columnSums (blockSums r x.cfg (activePlane x) (actRow pad r x.cfg o b none m))
  else columnSums ((feeds s r x.cfg b x.spos).flatMap (fun f => blockSums r x.cfg (activePlane (s.block f.blk))
    (actRow pad r x.cfg ((mqHead s f.left).getD o) f.left f.right m)))

/-- Block `b`'s accumulator rows hold what stream `o` makes of them, and else what they held (R45, R166). -/
def StreamIn (s u : State) (pad : Nat → Block) (b : Nat) (o : MOp) : Prop :=
  ∀ k, let m := k / 128 - rowFirst o.rows
    let v := (rowSums s pad b o m).getD (k % 128) 0
    accAt u b k =
      if 128 * rowFirst o.rows ≤ k ∧ k < 128 * (rowFirst o.rows + rowCount o.rows) ∧ k % 128 < (rowSums s pad b o m).length then
        BitVec.ofNat 32 (if o.bit35 then v else addF32 (accAt s b k).toNat v)
      else accAt s b k

/-- What MRDA gives lane `l` of the row: four columns as they are, or in the format of a slot (R168). -/
def readWords (s : State) (b : Nat) (o : MOp) (l : Nat) : List Word :=
  let a (i : Nat) : Word := accAt s b (128 * o.val 0 + 4 * (l % 32) + i)
  let t := slotAt (s.launch (s.block b).tag).rec_ (o.fields.subBits 37 35)
  let c (i : Nat) : Nat := (t.fmt.into t.rnd t.sat (fmtF32.dec (a i).toNat)).1
  if o.fields.t = .f32 then [a 0, a 1, a 2, a 3]
  else if t.fmt.width = 8 then [BitVec.ofNat 32 (c 0 + 2 ^ 8 * c 1 + 2 ^ 16 * c 2 + 2 ^ 24 * c 3)]
  else [BitVec.ofNat 32 (c 0 + 2 ^ 16 * c 1), BitVec.ofNat 32 (c 2 + 2 ^ 16 * c 3)]

/-- The job, with its changes, stands where it stood; the other jobs are as they were. -/
def JobBecomes (s u : State) (k : Nat) (g : Job → Job) : Prop := u.jobs = s.jobs.map (fun x => if x.id = k then g x else x)

/-- Job `k` has left the engine: the other jobs stand, and wait for no line that is present now. -/
def JobGone (s u : State) (k : Nat) : Prop :=
  u.jobs.map (fun x => { x with waits := [] }) = (s.jobs.filter (fun x => x.id != k)).map (fun x => { x with waits := [] })

/-- No block is saved or being saved. -/
def NoneSaved (s : State) : Prop := ∀ b ∈ s.blocks, b.2.place ≠ .saved ∧ ∀ p, b.2.place ≠ .saving p

/-- The partition's activities have no limit. -/
def NoLimits (s : State) (p : Nat) : Prop := (s.part p).inForce.limits = []

/-- The completion words of each job of an instance can be written when its turn comes. -/
def WordsGo : State → List Job → Prop
  | _, [] => True
  | s, j :: js => (∀ d ∈ engineWords s j (cardWords s j false), destWaits d.1 = false) ∧ NoLimits s j.part ∧
    WordsGo (afterWords s j (cardWords s j false) (fun t e =>
      match e with | some e => endJob (reportJob t j e.1 e.2) j true | none => endJob t j false)) js

end Sys2Proof.Claim

/-! ## The quadrant and the engine -/

/-- R158, R159, R163: an operation at the head of its queue that meets its checks, and waits for no footprint and for no
signer's earlier store that a core holds back, starts; a fused stream starts at all its quadrants together. -/
def Sys2Proof.Claim.MatrixOperationsStart : Prop :=
  (∀ (s : State) (p b : Nat) (o : MOp), Heads s p b o → o.started = false → mopFault s b o = none →
    (o.sig.op = 0xC0 → mcfgClash s b (mcfgNew o.fields) = []) → (o.sig.op = 0xC3 → (s.block b).cfg.shape = 0) →
    mopHeld s b p (s.block b).cfg o = false →
    ∃ u, exec (.matrixOpIssue p) s = .next u ∧ u = { s with blocks := u.blocks } ∧ (∀ k, k ≠ b → u.block k = s.block k) ∧
      u.block b = { s.block b with mq := { o with started := true } :: (s.block b).mq.tail }) ∧
  ∀ (s : State) (p b c : Nat) (o q : MOp), Heads s p b o → b ≠ c → (s.block b).cfg.shape ≠ 0 →
    partners s b (s.block b).cfg.shape = some [b, c] → mqHead s c = some q →
    (s.block c).cfg = (s.block b).cfg → (s.block c).mstrs = (s.block b).mstrs →
    (∀ x ∈ [o, q], x.sig.op = 0xC3 ∧ x.started = false) → mopFault s b o = none → mopFault s c q = none →
    (∀ x ∈ [(b, o), (c, q)], ∀ y ∈ [(b, o), (c, q)], mstrAgree (s.launch (s.block b).tag).rec_ (s.block b).cfg
      (s.block x.1).spos x.2 (s.block y.1).spos y.2 = true ∧
      mopHeld s x.1 ((quadPier (s.block x.1)).getD p) (s.block x.1).cfg x.2 = false) →
    ∃ u, exec (.fusedStreamStart p) s = .next u ∧ u = { s with blocks := u.blocks } ∧
      (u.block b).mq = { o with started := true } :: (s.block b).mq.tail ∧
      (u.block c).mq = { q with started := true } :: (s.block c).mq.tail

/-- R162 to R171: what an operation at the head of its queue has done when it is complete: MCFG the configuration, MLDW the
shadow plane from the scratchpad, MSWAP the exchange of the planes, MSTR of one quadrant the accumulator rows as R45 says, a fused stream those of every
quadrant that its shape writes, all its queues going on together (R163), MRDA has read its row for its signers, whose results
are now outstanding, and is complete when they are written, MWRA four columns of a row, MCLRA rows of zero, and MSYNC nothing
more. Of a scratchpad byte that was written meanwhile an operation may find an earlier value (log entry 55). -/
def Sys2Proof.Claim.MatrixOperationsComplete : Prop :=
  ∀ (s : State) (p b : Nat) (o : MOp), Heads s p b o → o.started = true → (s.block b).mqFull = [] →
    let x := s.block b
    let r := (s.launch x.tag).rec_
    (o.sig.op = 0xC0 → (mcfgNew o.fields).shape = 0 → partners s b 0 = some [b] →
      ∃ u, exec (.matrixOpComplete p) s = .next u ∧ HeadDone s u b ∧ (u.block b).cfg = mcfgNew o.fields) ∧
    (o.sig.op = 0xC1 → mopAbsent s b o = [] → CleanPad x →
      ∃ u v, exec (.matrixOpComplete p) s = .next u ∧ HeadDone s u b ∧ Finds x o v ∧ (u.block b).sel = x.sel ∧
        activePlane (u.block b) = activePlane x ∧ (shadow (u.block b)).loaded = true ∧ (shadow (u.block b)).cfg = x.cfg ∧
        (shadow (u.block b)).weights = rdBytes v.scratch o.wOff (128 * rowBytes (wSlot r x.cfg).fmt) ∧
        (o.bit35 = true → (shadow (u.block b)).meta_ = rdBytes v.scratch o.metaOff 4096) ∧
        (o.sc = true → (shadow (u.block b)).scales = rdBytes v.scratch o.wsOff (128 * cfgNB r x.cfg))) ∧
    (o.sig.op = 0xC2 → ∃ u, exec (.matrixOpComplete p) s = .next u ∧ HeadDone s u b ∧
      activePlane (u.block b) = shadow x ∧ shadow (u.block b) = activePlane x) ∧
    (o.sig.op = 0xC3 → x.cfg.shape = 0 → mopAbsent s b o = [] → x.accPoison = [] → CleanPad x →
      (activePlane x).poison = [] →
      ∃ u v, exec (.matrixOpComplete p) s = .next u ∧ HeadDone s u b ∧ Finds x o v ∧ StreamIn s u (fun _ => v) b o) ∧
    (∀ ps, o.sig.op = 0xC3 → x.cfg.shape ≠ 0 → partners s b x.cfg.shape = some ps → (∀ q ∈ ps,
        (s.block q).mqFull = [] ∧ (s.block q).cfg = x.cfg ∧ (s.block q).accPoison = [] ∧ CleanPad (s.block q) ∧
        (activePlane (s.block q)).poison = [] ∧ ∃ h, mqHead s q = some h ∧ h.sig.op = 0xC3 ∧ h.started = true ∧
          mopAbsent s q h = []) →
      ∃ u pad, exec (.matrixOpComplete p) s = .next u ∧ u = { s with blocks := u.blocks, free := u.free } ∧
        (∀ k, k ∉ ps → u.block k = s.block k) ∧
        ∀ q ∈ ps, ∀ h, mqHead s q = some h → (u.block q).mq = (s.block q).mq.tail ∧ Finds (s.block q) h (pad q) ∧
          (writesAcc x.cfg (s.block q).spos = true → StreamIn s u pad q h) ∧
          (writesAcc x.cfg (s.block q).spos = false → ∀ k, accAt u q k = accAt s q k)) ∧
    (o.sig.op = 0xC4 → o.read = false → x.accPoison = [] → o.signers ≠ [] → (∀ g ∈ o.signers, ∃ m ∈ s.mrdas,
        m.blk = b ∧ m.cv = o.cv ∧ m.round = o.round ∧ m.lane = g.1) →
      ∃ u, exec (.matrixOpComplete p) s = .next u ∧
        u = { s with lres := u.lres, mrdas := u.mrdas, blocks := u.blocks, seq := u.seq } ∧
        u.lres = s.lres ++ o.signers.zipIdx.map (fun g =>
          { id := s.seq + g.2, blk := b, lane := g.1.1, regs := regPairs g.1.2 (readWords s b o g.1.1), mop := o.id }) ∧
        u.mrdas = s.mrdas.filter (fun m => !(m.blk == b && m.cv == o.cv && m.round == o.round)) ∧
        (∀ k, k ≠ b → u.block k = s.block k) ∧
        u.block b = { x with mq := x.mq.map (fun q => if q.id = o.id then { q with read := true } else q) }) ∧
    (o.sig.op = 0xC4 → o.read = true → mrdaOwes s b o.id = false →
      ∃ u, exec (.matrixOpComplete p) s = .next u ∧ HeadDone s u b) ∧
    (o.sig.op = 0xC5 → ∃ u, exec (.matrixOpComplete p) s = .next u ∧ HeadDone s u b ∧ ∀ k,
      let k0 := 128 * (o.val 0 % 4096) + 4 * (o.val 0 / 2 ^ 16 % 32)
      accAt u b k = if k0 ≤ k ∧ k < k0 + 4 then BitVec.ofNat 32 (o.val (k - k0 + 1)) else accAt s b k) ∧
    (o.sig.op = 0xC6 → ∃ u, exec (.matrixOpComplete p) s = .next u ∧ HeadDone s u b ∧ ∀ k,
      accAt u b k = if 128 * rowFirst o.rows ≤ k ∧ k < 128 * (rowFirst o.rows + rowCount o.rows) then 0 else accAt s b k) ∧
    (o.sig.op = 0xC7 → ∃ u, exec (.matrixOpComplete p) s = .next u ∧ HeadDone s u b ∧ ∀ k, accAt u b k = accAt s b k)

/-- R159, R179, R155: a wait for one line that is over its bound: the queue of the operation stops and the launch is
terminating; a job fails with the pointer of its access that waits (R181). -/
def Sys2Proof.Claim.PresenceBounds : Prop :=
  (∀ (s : State) (p b k ln : Nat) (o : MOp), Heads s p b o → o.started = true → o.waitOn = some (k, ln) →
    mopAbsent s b o ≠ [] → 2 ^ 24 * 100 ≤ o.waited → (s.launch (s.block b).tag).used = true →
    (s.launch (s.block b).tag).complete = false →
    ∃ u, exec (.matrixPresenceTimeout p) s = .next u ∧ (u.block b).mqDead = true ∧
      (u.launch (s.block b).tag).terminating = true ∧ ∀ l < 32 * (s.block b).groups,
        ((s.lane b l).sign o.cv).round = o.round → ((s.lane b l).sign o.cv).st = .issued →
        ((u.lane b l).sign o.cv).st = .discarded) ∧
  ∀ (s : State) (k b ln n i : Nat) (j : Job), findJob s k = some j → j.st = .running →
    j.waits.find? (fun w => w.2.2 ≥ 2 ^ 24 * 100) = some (b, ln, n) → i ∈ tget [] (s.block b).absent ln → i ≠ j.id → j.failed = none →
    ∃ u, exec (.copyPresenceTimeout k) s = .next u ∧ u = { s with jobs := u.jobs } ∧
      JobBecomes s u k (fun x => { x with
        failed := some (x.failed.getD (0x18, waitPtr s j b ln)) })

/-- R175, R178, R181, R183, R185: a job whose turn it is on its channel, whose release conditions hold and whose footprint waits
for nothing starts; one that has written every element completes, and its lines are present, its batch counts it and CNTRD.cpb
grows by its bytes; a failed one is reported and counted as failed. An element that a copy moves is written whole at its
destination. -/
def Sys2Proof.Claim.JobsRun : Prop :=
  ∀ (s : State) (k : Nat) (j : Job), findJob s k = some j →
    (j.st = .waiting → jobHeld s j = false → channelOk s j = true → jobReleased s j = true →
      (j.kind ≠ .chain → j.kind ≠ .coll → footprintWaits s j j.seq (jobFootprint s j) = false → padsHeld s j = false →
        ∃ u, exec (.copyJobStart k) s = .next u ∧ u = { s with jobs := u.jobs } ∧
          JobBecomes s u k (fun x => { x with st := .running })) ∧
      (j.kind = .chain → ∃ u, exec (.copyJobStart k) s = .next u ∧ u = { s with jobs := u.jobs, seq := u.seq } ∧
        JobBecomes s u k (fun x => { x with st := .running, recSeq := s.seq }))) ∧
    (∀ b, j.kind ≠ .chain → j.kind ≠ .coll → j.blk = some b → j.packet = none → (s.block b).dropping = false →
      (s.lane b j.lane).live = true → (s.lane b j.lane).fib = j.fib →
      (j.st = .running → j.failed = none → allDone j = true →
        ∃ u, exec (.copyJobComplete k) s = .next u ∧ JobGone s u k ∧
          (∀ x ∈ j.cleared, j.id ∉ tget [] (u.block x.1).absent x.2) ∧ u.mem = s.mem ∧
          (u.block b).cpb = (s.block b).cpb + BitVec.ofNat 64 (j.moved + j.done.length * jobEsz j) ∧
          (u.lane b j.lane).batches = ((s.lane b j.lane).jobEnds j.batch false).batches) ∧
      (∀ c a, j.failed = some (c, a) → (s.launch j.tag).used = true →
        ∃ u, exec (.copyJobFail k) s = .next u ∧ JobGone s u k ∧
          (u.launch j.tag).count = min ((s.launch j.tag).count + 1) (2 ^ 32 - 1) ∧
          (u.block b).cpb = (s.block b).cpb ∧
          (u.lane b j.lane).batches = ((s.lane b j.lane).jobEnds j.batch true).batches)) ∧
    ∀ (i : Nat) (bs : List Byte) (miss pa : Nat) (lf : Leaf), j.kind = .cpt → j.st = .running → j.failed = none → i < j.wshape.count → j.done = [] →
      NoLimits s j.part → awake s = true →
      let p : Dword := j.src + BitVec.ofNat 64 (j.rshape.off i)
      let t := readMark s j p j.wshape.esz
      engineRead t j p j.wshape.esz = .bytes bs false miss →
      engineDest t j (j.dst + BitVec.ofNat 64 (j.wshape.off i)) bs.length = .home pa lf → pa % 64 + bs.length ≤ 64 →
      Unowned t (physWords pa bs.length) →
      ∃ u, takeTurn (.jobProgress k i) s = .next u ∧ Stored u.mem s.mem pa bs.length (leNat bs) ∧ u.hostMem = s.hostMem

/-- R180, R182: a chain at a record whose OWN is 0 has ended; one at a sound record with inline fields starts it; a record whose
bytes are all written is given back with OWN 0, and the chain goes on to the next or ends: the one inline shape serves both
sides of a record (log entry 69), and a record arrives at the scheduler with its own number (log entry 70). A collective's
first job opens the instance and its last one starts it, or fails all of them where their cards do not agree (log entry 131);
a complete one leaves the orrery. -/
def Sys2Proof.Claim.ChainsAndCollectivesRun : Prop :=
  (∀ (s : State) (k miss : Nat) (j : Job) (bs : List Byte), findJob s k = some j → j.kind = .chain → j.st = .running →
    j.recLive = false → j.chainEnd = false → jobHeld s j = false → recordPtrOk j j.recPtr = true → NoLimits s j.part →
    let t := readMark s j j.recPtr 64
    engineRead t j j.recPtr 64 = .bytes bs false miss →
    let ctl := leNat ((bs.drop 24).take 8)
    (ctl.testBit 0 = false → ∃ u, exec (.chainRecordStart k) s = .next u ∧ u = { t with jobs := u.jobs, parts := u.parts } ∧
      JobBecomes s u k (fun x => { x with chainEnd := true })) ∧
    ∀ h, ctl.testBit 0 = true → recShape bs = .inline (some h) → recFault t j bs (some h) = none → s.jobs = [j] →
      NoneSaved s → (∀ b ∈ s.blocks, quadPier b.2 = none) →
      ∃ u j', exec (.chainRecordStart k) s = .next u ∧ u.jobs = [j'] ∧ j'.recLive = true ∧ j'.wshape = h ∧ j'.rshape = h ∧
        j'.dst = jobPtr s j (BitVec.ofNat 64 (leNat ((bs.drop 8).take 8))) ∧
        j'.src = jobPtr s j (BitVec.ofNat 64 (leNat ((bs.drop 16).take 8))) ∧ j'.done = [] ∧ j'.failed = none) ∧
  (∀ (s : State) (k pa : Nat) (j : Job) (lf : Leaf), findJob s k = some j → j.kind = .chain → j.recLive = true →
    j.failed = none → allDone j = true → j.recCwp = 0 → engineDest s j (j.recPtr + 24) 8 = .home pa lf → pa % 64 + 8 ≤ 64 →
    Unowned s (physWords pa 8) → NoLimits s j.part →
    ∃ u, exec (.chainRecordFinish k) s = .next u ∧
      Stored u.mem s.mem pa 8 (j.recCtl &&& ~~~(0x10001#64)).toNat ∧
      ∀ j' ∈ u.jobs, j'.id = k → j'.recLive = false ∧ j'.chainEnd = (j.recNext == 0) ∧
        (s.jobs = [j] → j'.moved = j.moved + j.done.length * jobEsz j)) ∧
  (∀ (s : State) (k : Nat) (j : Job), findJob s k = some j → j.st = .meeting → j.inst = 0 → budgetOk s j.part 6 k = true →
    (s.colls.find? (fun c => c.part == j.part && c.name == j.card.name) = none →
      ∃ u c, exec (.collectiveRendezvous k) s = .next u ∧ u.colls = s.colls ++ [c] ∧ c.part = j.part ∧ c.name = j.card.name ∧
        c.jobs = [k] ∧ c.started = (j.card.p == 1)) ∧
    ∀ c, s.colls.find? (fun c => c.part == j.part && c.name == j.card.name) = some c → c.started = false →
      let js := s.jobs.filter (fun x => c.jobs.contains x.id)
      (∀ x ∈ js, x.card.rank ≠ j.card.rank) → (js.head?.map (·.card.p)) = some (js.length + 1) →
      ((∀ x ∈ js, cardsAgree x.card j.card = true) → ∃ u, exec (.collectiveRendezvous k) s = .next u ∧
        (∀ x ∈ u.jobs, c.jobs.contains x.id = true ∨ x.id = k → x.st = .running) ∧
        ∀ x ∈ u.colls, x.id = c.id → x.started = true) ∧
      ((∃ x ∈ js, cardsAgree x.card j.card = false) → ∃ u, exec (.collectiveRendezvous k) s = .next u ∧
        (∀ x ∈ u.jobs, c.jobs.contains x.id = true ∨ x.id = k → x.st = .running ∧ x.failed.isSome = true) ∧
        ∀ x ∈ u.colls, x.id ≠ c.id)) ∧
  ∀ (s : State) (d k : Nat) (c : Coll), s.colls.find? (fun x => x.id == k && x.die == d) = some c → c.started = true →
    s.frozen c.part = false → (∀ j ∈ s.jobs, c.jobs.contains j.id = true → j.failed = none ∧ allDone j = true) →
    WordsGo s (s.jobs.filter (fun x => c.jobs.contains x.id)) →
    ∃ u, exec (.collectiveComplete d k) s = .next u ∧ u.colls = s.colls.filter (fun x => x.id != k) ∧
      ∀ x ∈ u.jobs, c.jobs.contains x.id = false

namespace Sys2Proof.Claim
open Sys2Proof.Machine

/-- Of the whole state only queues may differ, and of them only queue `q`, which becomes `x`. -/
def QueueBecomes (s u : State) (q : Nat) (x : Queue) : Prop :=
  u = { s with queues := u.queues } ∧ u.queue q = x ∧ ∀ k, k ≠ q → u.queue k = s.queue k

/-- Of the whole state only queues and launches may differ. -/
def QueuesAndLaunches (s u : State) : Prop := u = { s with queues := u.queues, launches := u.launches }

/-- The packet has left its queue. -/
def PacketGone (u : State) (q : Nat) (p : Packet) : Prop := ∀ x ∈ (u.queue q).packets, x.seq ≠ p.seq

/-- The partition that a queue belongs to. -/
def queuePart (s : State) (q : Nat) : Nat := ctlPart (s.queue q).ctl

/-- Bytes written for a queue at a pointer: in the host window in a space, or at a home without owners. -/
def QueueStored (s u : State) (q space : Nat) (p : Dword) (n v : Nat) : Prop :=
  (windowOf p = .host → Stored u.hostMem s.hostMem (hostByteKey space (ptrOff56 p)) n v ∧ u.mem = s.mem) ∧
  ∀ pa lf, windowOf p ≠ .host → xlatGlobal s (queuePart s q) none p n .write = .ok pa lf →
    Stored u.mem s.mem pa n v ∧ u.hostMem = s.hostMem

/-- Such a write can be performed: its pages translate, and the budget that it draws on admits operation `k`. -/
def CanStore (s : State) (q space k : Nat) (p : Dword) (n : Nat) : Prop :=
  (windowOf p = .host → hostPagesOk s space (ptrOff56 p) n = true ∧ budgetOk s (queuePart s q) 5 k = true) ∧
  (windowOf p ≠ .host → budgetOk s (queuePart s q) 1 k = true ∧
    ∃ pa lf, xlatGlobal s (queuePart s q) none p n .write = .ok pa lf ∧ Unowned s (physWords pa n))

/-- The next request of a queue has been read: U of the pages that hold its slot is asked for. -/
def slotMarked (s : State) (q : Nat) : State := queueMark s (queuePart s q) (ringSlot (s.queue q)) 64

/-- Of the state `t` only queue `q`, which becomes `x`, the charges and the order number may differ. -/
def TakenFrom (t u : State) (q : Nat) (x : Queue) : Prop :=
  u = { t with queues := u.queues, parts := u.parts, seq := u.seq } ∧ u.queue q = x ∧ ∀ k, k ≠ q → u.queue k = t.queue k

/-- Bytes of a WAITVAL's or WRITEVAL's word. -/
def wordSize (p : Packet) : Nat := if (p.field 40 1).testBit 2 then 8 else 4

/-- What a WAITVAL that has read `bs` leaves: it is done where its condition holds, else it is read again later. -/
def Polled (s u : State) (q : Nat) (p : Packet) (bs : List Byte) (bad : Bool) : Prop :=
  u.mem = s.mem ∧ u.hostMem = s.hostMem ∧
  (bad = false → waitHolds p (leNat bs) = true → PacketGone u q p) ∧
  (bad = true ∨ waitHolds p (leNat bs) = false →
    ∃ x ∈ (u.queue q).packets, x.seq = p.seq ∧ x.started = true ∧ x.polled = some s.now)

/-- Where the next event of a queue goes. -/
def eventPlace (x : Queue) : Dword :=
  x.evring + BitVec.ofNat 64 (32 * ((x.lastEmit + 1).toNat % 2 ^ ctlEvlog x.ctl))

end Sys2Proof.Claim

/-! ## Queues and launches -/

/-- R262, R265: a proper doorbell of an interface whose link is up moves the number of a mapped queue, where it is ahead of it,
and the queue looks at its ring again; an improper one, and a write of any other offset of the notify page, counts an error of the interface and does nothing else; a
read of the page returns 0. -/
def Sys2Proof.Claim.Doorbells : Prop :=
  ∀ (s : State) (i n : Nat) (v : Dword), ifaceUp s i = true →
    (doorbellQueue s i n v = none → ∃ u w, exec (.doorbellTail i n v) s = .next u ∧ exec (.doorbellEvhead i n v) s = .next w ∧
      ∀ t ∈ [u, w], t = { s with ifaces := t.ifaces } ∧ t.iface i = { s.iface i with errors := (s.iface i).errors + 1 }) ∧
    ∀ q, doorbellQueue s i n v = some q → (s.queue q).mapped = true →
      (ahead (v.setWidth 32) (s.queue q).tail = true →
        ∃ u, exec (.doorbellTail i n v) s = .next u ∧ QueueBecomes s u q { s.queue q with tail := v.setWidth 32, resting := false }) ∧
      (ahead (v.setWidth 32) (s.queue q).evHead = true →
        ∃ u, exec (.doorbellEvhead i n v) s = .next u ∧ QueueBecomes s u q { s.queue q with evHead := v.setWidth 32, resting := false }) ∧
      (awake s = true → i < 1024 → ∀ o, (o ≠ 0 → o ≠ 8 → ∃ u, takeTurn (.notifyWrite i o n v) s = .next u ∧
          u = { s with ifaces := u.ifaces } ∧ u.iface i = { s.iface i with errors := (s.iface i).errors + 1 }) ∧
        ∃ u, takeTurn (.notifyRead i o) s = .next u ∧ u = { s with sent := s.sent ++ [.value 0] })

/-- R261: a queue that may be mapped, with a free slot and no rival, is mapped with the numbers of its descriptor; one that has
nothing to accept and no WAITVAL pending gives its slot up, and its numbers go back into its descriptor with PEND clear. -/
def Sys2Proof.Claim.QueuesMapAndUnmap : Prop :=
  (∀ (s : State) (q : Nat), mappable s q = true → (∀ k < 4096, k ≠ q → mappable s k = false) →
    let d := descOf s q
    (mappedQueues s).length < 128 → (mappedOf s (ctlPart d.ctl)).length < (s.part (ctlPart d.ctl)).inForce.slots →
    ∃ u, exec (.queueMap q) s = .next u ∧ u = { s with queues := u.queues, parts := u.parts, seq := u.seq } ∧
      (∀ k, k ≠ q → u.queue k = s.queue k) ∧ (u.queue q).mapped = true ∧ (u.queue q).ring = d.ring ∧
      (u.queue q).evring = d.evring ∧ (u.queue q).lastAcc = d.lastAcc ∧ (u.queue q).lastEmit = d.lastEmit ∧
      (u.queue q).tail = d.tail ∧ (u.queue q).evHead = d.evHead ∧ ctlPend (u.queue q).ctl = false) ∧
  ∀ (s : State) (q : Nat), (s.queue q).mapped = true → nextRequest s q = none → waitPending (s.queue q) = false →
    Unowned s (physWords (descAddr s q + 16) 24) →
    ∃ u, exec (.queueUnmap q) s = .next u ∧ (u.queue q).mapped = false ∧ (descOf u q).lastAcc = (s.queue q).lastAcc ∧
      (descOf u q).lastEmit = (s.queue q).lastEmit ∧ (descOf u q).tail = (s.queue q).tail ∧
      (descOf u q).evHead = (s.queue q).evHead ∧ ctlPend (descOf u q).ctl = false ∧ u.hostMem = s.hostMem ∧
      ∀ a, a < descAddr s q + 16 ∨ descAddr s q + 40 ≤ a → rdByte u.mem a = rdByte s.mem a

/-- R264, R265, R269: the next sound request of a queue that may accept it is taken with the next number, wherever its ring
lies; one that a check refuses leaves its refusal to be written as an event; a sound LAUNCH takes a free tag with its
record, read in full. That it is the LOWEST free tag is log entry 83 (DEDUCED): R269 says only that it is free. Where the
slot is not written yet the queue waits for its next doorbell. -/
def Obligations.RequestsAreAccepted : Prop :=
  (∀ (s : State) (q m : Nat), mayAccept s q = true → Machine.slotRead s q = .unwritten m → NoLimits s (queuePart s q) →
    ∃ u, exec (.requestAccept q) s = .next u ∧
      TakenFrom (slotMarked s q) u q { s.queue q with resting := true } ∧ Machine.slotRead u q = .none) ∧
  ∀ (s : State) (q m : Nat) (bs : List Byte), mayAccept s q = true → nextRequest s q = some (bs, m) →
    NoLimits s (queuePart s q) →
    let x := s.queue q
    let st := packetStatus s q bs
    let t := slotMarked s q
    (st ≠ 0 → ∃ u e n, exec (.requestAccept q) s = .next u ∧
      TakenFrom t u q { x with lastAcc := x.lastAcc + 1, since := n, events := x.events ++ [e] } ∧ e.kind = 2 ∧
      e.status = st ∧ e.rseq = x.lastAcc + 1) ∧
    (st = 0 → fieldAt bs 0 1 ≠ 1 → ∃ u p n, exec (.requestAccept q) s = .next u ∧
      TakenFrom t u q { x with lastAcc := x.lastAcc + 1, since := n, packets := x.packets ++ [p] } ∧ p.seq = x.lastAcc + 1 ∧
      p.type = fieldAt bs 0 1 ∧ p.started = false ∧ p.payload = bs.drop 16) ∧
    ∀ rb bad rm, st = 0 → fieldAt bs 0 1 = 1 → packetRead s q bs = .ok rb bad rm →
      let v := queueMark t (queuePart s q) (packetAddr bs) 512
      (launchStatus v q rb ≠ 0 → ∃ u e n, exec (.requestAccept q) s = .next u ∧
        TakenFrom v u q { x with lastAcc := x.lastAcc + 1, since := n, events := x.events ++ [e] } ∧ e.kind = 2 ∧
        e.status = launchStatus v q rb) ∧
      ∀ tag, launchStatus v q rb = 0 → freeTag s = some tag →
        ∃ u p, exec (.requestAccept q) s = .next u ∧ (u.queue q).packets = x.packets ++ [p] ∧ p.tag = tag ∧ p.type = 1 ∧
          (u.launch tag).used = true ∧ (u.launch tag).rec_ = launchRecOf rb ∧ (u.launch tag).part = queuePart s q ∧
          (u.launch tag).started = false ∧ (u.launch tag).count = 0

/-- R264, R266: that a WAITVAL whose read is poisoned waits on is log entry 84 (DEDUCED). The packets that start: a LAUNCH's launch starts; a WAITVAL is done where its condition holds and waits where
not, to be polled after 1 µs while the link is up; WRITEVAL and TIMESTAMP write their bytes and are done; a MARKER is done, with its event where it
asks for one; a COPYJOB becomes a job of its die. -/
def Sys2Proof.Claim.PacketsRun : Prop :=
  (∀ (s : State) (q : Nat) (p : Packet), startable s q 1 = some p →
    ∃ u, exec (.launch q) s = .next u ∧ QueuesAndLaunches s u ∧ (u.launch p.tag) = { s.launch p.tag with started := true } ∧
      ∀ x ∈ (u.queue q).packets, x.seq = p.seq → x.started = true) ∧
  (∀ (s : State) (q m : Nat) (p : Packet) (bs : List Byte) (bad : Bool), startable s q 2 = some p → NoLimits s (queuePart s q) →
    queueRead s (queuePart s q) p.pasid p.addr (wordSize p) = .ok bs bad m →
    ∃ u, exec (.waitval q) s = .next u ∧ Polled s u q p bs bad) ∧
  (∀ (s : State) (q m : Nat) (p : Packet) (bs : List Byte) (bad : Bool), (s.queue q).mapped = true →
    (s.queue q).packets.find? (fun x => x.type == 2 && x.started) = some p →
    (queueUp s q = false → exec (.waitvalPoll q) s = .next s) ∧
    (queueUp s q = true → s.frozen (queuePart s q) = false → (∀ t, p.polled = some t → t + 1000 ≤ s.now) →
      NoLimits s (queuePart s q) → queueRead s (queuePart s q) p.pasid p.addr (wordSize p) = .ok bs bad m →
      ∃ u, exec (.waitvalPoll q) s = .next u ∧ Polled s u q p bs bad)) ∧
  (∀ (s : State) (q : Nat) (p : Packet), startable s q 3 = some p →
    CanStore s q p.pasid p.id p.addr (wordSize p) →
    ∃ u, exec (.writeval q) s = .next u ∧ QueueStored s u q p.pasid p.addr (wordSize p) (p.field 24 8) ∧ PacketGone u q p) ∧
  (∀ (s : State) (q : Nat) (p : Packet), startable s q 6 = some p → CanStore s q p.pasid p.id p.addr 8 →
    ∃ u, exec (.timestamp q) s = .next u ∧ QueueStored s u q p.pasid p.addr 8 s.now ∧ PacketGone u q p) ∧
  (∀ (s : State) (q : Nat) (p : Packet), startable s q 5 = some p →
    ∃ u, exec (.marker q) s = .next u ∧ u = { s with queues := u.queues, seq := u.seq } ∧ PacketGone u q p ∧
      ((∀ x ∈ (s.queue q).packets, x.seq = p.seq → x.flags.getLsbD 1 = true) →
        ∃ e, (u.queue q).events = (s.queue q).events ++ [e] ∧ e.kind = 1 ∧ e.status = 0 ∧ e.rseq = p.seq)) ∧
  ∀ (s : State) (q : Nat) (p : Packet), startable s q 4 = some p →
    ∃ u j, exec (.copyjob q) s = .next u ∧ u.jobs = s.jobs ++ [j] ∧ j.part = queuePart s q ∧ j.packet = some (q, p.seq) ∧
      j.blk = none ∧ j.recPtr = p.addr ∧ j.pasid = p.pasid ∧ j.st = .waiting ∧ u.mem = s.mem ∧
      j.kind = (if p.field 24 1 % 2 = 0 then .chain else .coll) ∧ j.die = 4 * s.package.nodePos + p.field 25 1 % 4

/-- R267: the next event of a mapped queue, with room in its ring, is written as 32 bytes, LASTEMIT counts it, and the interrupt
that it asks for is sent, pends in the guest file that the remap entry names (R337), or is counted where the entry is
invalid. An event that tells of a fault record waits until the record is written (R295). The ring's PASID is log entry 20, the
bits of a remap entry are log entry 39 (DESIGN CHOICE). -/
def Sys2Proof.Claim.EventsAreWritten : Prop :=
  (∀ (s : State) (q : Nat) (e : Event) (es : List Event), (s.queue q).events = e :: es → e.kind = 1 ∨ e.kind = 4 →
    (∃ w ∈ s.frWrites, w.tag = e.tag) → exec (.eventWrite q) s = .next s) ∧
  ∀ (s : State) (q : Nat) (e : Event) (es : List Event), (s.queue q).events = e :: es → (s.queue q).mapped = true →
    eventRoom (s.queue q) = true → queueUp s q = true → recordUnderWay s e = false →
    CanStore s q (ringSpace s q) e.id (eventPlace (s.queue q)) 32 →
    let x := s.queue q
    ∃ u, exec (.eventWrite q) s = .next u ∧
      QueueStored s u q (ringSpace s q) (eventPlace x) 32 (leNat (eventBytes q e (x.lastEmit + 1) x.linkDown s.now)) ∧
      u.queue q = { x with events := es, lastEmit := x.lastEmit + 1, linkDown := false } ∧
      (e.irq = false → u.msix = s.msix ∧ u.harts = s.harts ∧ u.ifaces = s.ifaces) ∧
      (e.irq = true → tfind (ctlVec x.ctl) (s.iface (ctlIface x.ctl)).remap = none →
        (u.iface (ctlIface x.ctl)).errors = (s.iface (ctlIface x.ctl)).errors + 1) ∧
      ∀ v, e.irq = true → tfind (ctlVec x.ctl) (s.iface (ctlIface x.ctl)).remap = some v →
        ((v - 1).getLsbD 62 = false → u.msix = s.msix ++ [(ctlIface x.ctl, v - 1)]) ∧
        let h := ((v - 1).toNat >>> 14) % 512
        let f := ((v - 1).toNat >>> 11) % 8
        ((v - 1).getLsbD 62 = true → hartPart s h = some (queuePart s q) → 2 ≤ f → f < 7 →
          (u.hart h).imsic = (s.hart h).imsic ++ [(f, (v - 1).toNat % 2 ^ 11)])

/-- R210, R213, R214, R217, R320: the next span of a launch that may be dispatched goes whole onto its piers: each block is
resident, its first LANES fibres stand at ENTRY with registers of zero; a gated cluster wakes first where no other takes it. -/
def Obligations.SpansAreDispatched : Prop :=
  ∀ (s : State) (tag die cluster first sp : Nat) (is : List Nat),
    let l := s.launch tag
    let r := l.rec_
    nextSpan l = some (sp, is) → mayDispatch s tag = true →
    clusterTakes s tag die cluster first is = true → r.coop = false → wantedBefore s l.part s.seq = false →
    (placeSpan s tag sp die cluster first is).isSome = true →
    ((getCluster s die cluster).st < 2 →
      ∃ u, exec (.spanDispatch tag die cluster first) s = .next u ∧ u.mem = s.mem ∧
        (u.launch tag).nextSpan = (if sp = l.nextSpan then l.nextSpan + 1 else l.nextSpan) ∧
        ∀ i ∈ is, (u.block (2 ^ 32 * tag + i)).place = .resident (64 * die + 4 * cluster + (first + i % r.span)) ∧
          (u.block (2 ^ 32 * tag + i)).idx = i ∧ (u.block (2 ^ 32 * tag + i)).groups = (r.lanes + 31) / 32 ∧
          ∀ n, (n < r.lanes → (u.lane (2 ^ 32 * tag + i) n).live = true ∧ (u.lane (2 ^ 32 * tag + i) n).pc = r.entry ∧
              (u.lane (2 ^ 32 * tag + i) n).preds = 0x8000 ∧ ∀ k, (u.lane (2 ^ 32 * tag + i) n).reg k = 0) ∧
            (r.lanes ≤ n → (u.lane (2 ^ 32 * tag + i) n).live = false)) ∧
    ((getCluster s die cluster).st = 2 → ungatedTakes s tag is = false →
      ∃ u, exec (.spanDispatch tag die cluster first) s = .next u ∧ u = { s with dies := u.dies } ∧
        (getCluster u die cluster).st = 3 ∧ (getCluster u die cluster).wakeAt = s.now + 2000)

/-- R282, R292, R295, R296: a launch whose leases are resident is pinned; one whose blocks have all retired, or that is
terminated, and that has no work left is complete, with its event; a complete one that has drained frees its tag and its
blocks' numbers. A write of a fault record reaches its page, in the order in which the writes were made, where the page is
sound, does not migrate and its link is up. -/
def Sys2Proof.Claim.LaunchesEnd : Prop :=
  (∀ (s : State) (t : Nat), (s.launch t).used = true → (s.launch t).started = true → (s.launch t).terminating = false →
    (∀ l ∈ (s.launch t).rec_.leases.take (s.launch t).rec_.nLease, rangeOk s (s.launch t) l = true) →
    ∃ u, exec (.leasePinComplete t) s = .next u ∧ u = { s with launches := u.launches } ∧
      u.launch t = { s.launch t with pinned := true } ∧ ∀ k, k ≠ t → u.launch k = s.launch k) ∧
  (∀ (s : State) (t : Nat), (s.launch t).used = true → (s.launch t).complete = false → workLeft s t = false →
    (if (s.launch t).terminating then (s.launch t).stopped else allRetired (s.launch t)) = true →
    ∃ u, exec (.launchComplete t) s = .next u ∧ u.launch t = { s.launch t with complete := true, tDone := s.now } ∧
      u.hostMem = s.hostMem ∧ u.mem = s.mem ∧ HeaderGoesOut s u t ∧
      ∀ p, (s.queue (s.launch t).queue).packets.find? (fun p => p.seq == (s.launch t).seq) = some p → p.flags.getLsbD 1 = true →
        ∃ e, (u.queue (s.launch t).queue).events = (s.queue (s.launch t).queue).events ++ [e] ∧ e.kind = 1 ∧
          e.status = (if (s.launch t).termBit then 1 else 0)) ∧
  (∀ (s : State) (t : Nat), (s.launch t).used = true → (s.launch t).complete = true → tagBusy s t = false →
    ∃ u, exec (.tagRelease t) s = .next u ∧ u.launch t = {} ∧ (∀ b ∈ u.blocks, b.2.tag ≠ t) ∧
      ∀ k, k ≠ t → u.launch k = s.launch k) ∧
  ∀ (s : State) (t pa : Nat) (w : FrWrite) (lf : Leaf), s.frWrites.find? (fun x => x.tag == t) = some w →
    walkRoot s (ptrDie w.ptr) w.part (ptrOff56 w.ptr) = .ok pa lf → lf.m = false → linkWaits s pa = false →
    Unowned s (physWords pa w.bytes.length) →
    let u := recordWrite s t
    u.frWrites = s.frWrites.erase w ∧ u.uses = (setU s lf).uses ∧ u.hostMem = s.hostMem ∧
      Stored u.mem s.mem pa w.bytes.length (leNat w.bytes)

namespace Sys2Proof.Claim
open Sys2Proof.Machine

/-- Of the whole state only partitions may differ, and of them only `p`, which becomes `x`. -/
def PartBecomes (s u : State) (p : Nat) (x : Part) : Prop :=
  u = { s with parts := u.parts } ∧ u.part p = x ∧ ∀ k, k ≠ p → u.part k = s.part k

/-- Of the whole state only dies may differ, and of them only `d`, which becomes `x`. -/
def DieBecomes (s u : State) (d : Nat) (x : Die) : Prop :=
  u = { s with dies := u.dies } ∧ u.die d = x ∧ ∀ k, k ≠ d → u.die k = s.die k

/-- Of the whole state only piers may differ, and of them only `p`, which becomes `x`. -/
def PierBecomes (s u : State) (p : Nat) (x : Pier) : Prop :=
  u = { s with piers := u.piers } ∧ u.pier p = x ∧ ∀ k, k ≠ p → u.pier k = s.pier k

/-- How the blocks of a launch on a cluster that do not drain already are pre-empted (R298): they drain where all end within
PDEAD, else they are asked to save where the saves fit or the launch is not idempotent; after MOISTURE nothing of them
changes (R353). -/
def Preempted (s u : State) (die cluster tag : Nat) : Prop :=
  let bs := (onCluster s die cluster tag).filter (fun b => b.2.drainBy == 0)
  let t := s.now + pdeadNs s (s.launch tag).part
  (s.package.moisture = true → u.blocks = s.blocks) ∧
  (s.package.moisture = false → (s.launch tag).rec_.coop = false →
    (∀ n, latestFinish bs = some n → n ≤ t → ∀ b ∈ bs, (u.block b.1).drainBy = t ∧
      (u.block b.1).place = (s.block b.1).place) ∧
    ((∀ n, latestFinish bs = some n → t < n) →
      (saveWithin s bs (pdeadNs s (s.launch tag).part) = true ∨ (s.launch tag).rec_.idem = false) →
      ∀ b ∈ bs, ∀ p, (s.block b.1).place = .resident p → (u.block b.1).place = .saving p ∧ (u.block b.1).saveBy = t))

/-- The state in which a millisecond's page ages are read (R285): the U bits that are on their way to the partition's leaves
are set, and what the cores hold of those entries has drained or is ceded. -/
def AgesRead (s : State) (p : Nat) : State :=
  (partLeaves s p).foldl (fun t l => clearOwners (useMark t l.2.addr) [l.2.addr / 4]) s

/-- A waiting span of another launch of the partition would go onto piers that a launch holds on a cluster (R297). -/
def Serves (s : State) (part die cluster tag : Nat) : Prop :=
  ∃ l ∈ s.launches, l.1 ≠ tag ∧ l.2.part = part ∧ ∃ w ∈ waitingSpans s l.1, w.blocks ≠ [] ∧
    putSpan (freed s die cluster tag) die cluster (fun p => (tagPiers s die cluster tag).contains p) w ≠ none

end Sys2Proof.Claim

/-! ## Termination, capture and reset -/

/-- R292, R306: a terminating launch stops: no fibre of its blocks lives, its blocks stand on no pier, its engine work is gone.
One still unfinished after 10 ms, like firmware's reset bit, makes its partition's capture and reset due. -/
def Sys2Proof.Claim.TerminationStopsLaunches : Prop :=
  (∀ (s : State) (t : Nat), (s.launch t).used = true → (s.launch t).terminating = true → (s.launch t).stopped = false →
    (s.launch t).complete = false →
    ∃ u, exec (.launchTerminate t) s = .next u ∧ (u.launch t).stopped = true ∧ (u.launch t).again = [] ∧
      (∀ b ∈ s.blocks, b.2.tag = t → (u.block b.1).place = .nowhere ∧ ∀ l, (u.lane b.1 l).live = false) ∧
      (∀ j ∈ u.jobs, j.tag = t → j.packet ≠ none) ∧ u.hostMem = s.hostMem) ∧
  (∀ (s : State) (t : Nat), (s.launch t).used = true → (s.launch t).terminating = true → (s.launch t).complete = false →
    (s.launch t).termAt + 10000000 ≤ s.now → (s.part (s.launch t).part).reason = 0 →
    ∃ u, exec (.terminationOverdue t) s = .next u ∧
      PartBecomes s u (s.launch t).part { s.part (s.launch t).part with reason := 2, since := s.now }) ∧
  ∀ (s : State) (p : Nat), (s.part p).reason = 0 →
    ∃ u, exec (.partitionReset p) s = .next u ∧ PartBecomes s u p { s.part p with reset := true, reason := 4, since := s.now }

/-- R306: a due reset discards the record entries of the partition's piers and ends its launches; GEN moves on; the reset is done
when the events of its queues are written. -/
def Obligations.TenantIsReset : Prop :=
  (∀ (s : State) (p : Nat), (s.part p).reason ≠ 0 → (s.part p).cleared = false →
    ∃ u, exec (.tenantReset p) s = .next u ∧ (u.part p).gen = (s.part p).gen + 1 ∧ (u.part p).releasing = [] ∧
      (∀ k ∈ partPiers s p, (u.core k).record = []) ∧
      (∀ t, (s.launch t).used = true → (s.launch t).part = p → (u.launch t).complete = true) ∧
      (((u.part p).cleared = true ∧ (u.part p).reason = (s.part p).reason) ∨
       ((u.part p).reason = 0 ∧ (u.part p).rdone = true))) ∧
  ∀ (s : State) (p : Nat), (s.part p).reason ≠ 0 → (s.part p).cleared = true →
    (∀ q ∈ partQueues s p, (s.queue q).events = []) →
    ∃ u, exec (.tenantReset p) s = .next u ∧
      PartBecomes s u p { s.part p with reason := 0, since := 0, cleared := false, reset := false, rdone := true }

/-! ## The partition table -/

/-- R339, R340, R343, R344: APPLY refuses a bad entry with CFGERR, and else puts the written fields in force and gives the
removed piers up; FORCE, CFGERR and RDONE are bits of their own; a removed pier with nothing left on it is released; at a
period boundary the use of each activity restarts at its excess and CALLOC takes effect. That APPLY advances GEN where it
takes V away is the model's reading (log entry 92). -/
def Obligations.PartitionTable : Prop :=
  (∀ (s : State) (p : Nat), applyBad s p = true →
    ∃ u, exec (.apply p) s = .next u ∧ PartBecomes s u p { s.part p with cfgErr := true }) ∧
  (∀ (s : State) (p : Nat), applyBad s p = false →
    ∃ u, exec (.apply p) s = .next u ∧ (u.part p).inForce = (s.part p).written ∧ (u.part p).written = (s.part p).written ∧
      (∀ i < 256, (256 * s.package.nodePos + i ∈ (u.part p).releasing ↔ (s.part p).inForce.v = true ∧ (s.part p).inForce.piers.getLsbD i = true ∧
        ((s.part p).written.v = false ∨ (s.part p).written.piers.getLsbD i = false))) ∧
      (u.part p).shrinking = !(u.part p).releasing.isEmpty ∧
      (u.part p).gen = (if (s.part p).inForce.v ∧ (s.part p).written.v = false then (s.part p).gen + 1 else (s.part p).gen)) ∧
  (∀ (s : State) (p : Nat) (on : Bool), (s.part p).shrinking = false →
    ∃ u, exec (.force p on) s = .next u ∧ PartBecomes s u p { s.part p with force := on }) ∧
  (∀ (s : State) (p : Nat), ∃ u w, exec (.cfgerrClear p) s = .next u ∧ exec (.rdoneClear p) s = .next w ∧
    PartBecomes s u p { s.part p with cfgErr := false } ∧ PartBecomes s w p { s.part p with rdone := false }) ∧
  (∀ (s : State) (k : Nat) (x : Part) (pier : Nat), s.parts.find? (fun p => p.2.releasing.contains pier) = some (k, x) →
    (∀ b ∈ s.blocks, b.2.onPier ≠ some pier ∧ quadPier b.2 ≠ some pier) → (s.core pier).record = [] → coopWaits s k = false →
    ∃ u, exec (.pierRelease pier) s = .next u ∧ u = { s with cores := u.cores, parts := u.parts, dir := u.dir } ∧
      (u.part k).releasing = (s.part k).releasing.filter (· != pier) ∧
      (u.part k).shrinking = !(u.part k).releasing.isEmpty ∧ (u.core pier).l1 = [] ∧ (u.core pier).l1i = [] ∧
      (u.core pier).owned = [] ∧ (∀ o ∈ u.dir, o.2 ≠ pier) ∧ ∀ c, c ≠ pier → u.core c = s.core c) ∧
  ∀ (s : State), s.period < s.now / 10000 →
    ∃ u, exec .budgetPeriod s = .next u ∧ u.period = s.now / 10000 ∧ ∀ p x, tfind p s.parts = some x →
      (x.period = s.now / 10000 → u.part p = x) ∧
      (x.period + 1 = s.now / 10000 →
        (∀ k < 7, tget 0 (u.part p).use k =
          (if x.inForce.limits.getD k 0 = 0 then 0
           else min (tget 0 x.use k - x.inForce.limits.getD k 0) (x.inForce.limits.getD k 0 - 1))) ∧
        (u.part p).share = x.shareW ∧ (u.part p).maxHeat = x.maxHeatW ∧ (u.part p).period = s.now / 10000)

/-! ## Pre-emption, save and restore -/

/-- R297, R298, R305, R352: a slice that ends with nobody waiting starts anew; one whose cluster a waiting span can use gives the
cluster up; a closing zone displaces its launches, a dry zone has every block saved within 1 ms; a drain unfinished at its
deadline becomes a save; an unfinished evacuation ends its launch. After MOISTURE nothing is asked to save (R353). -/
def Obligations.Preemption : Prop :=
  (∀ (s : State) (p d c t : Nat), s.frozen p = false → endedSlices s p = [(d, c, t)] →
    (¬ Serves s p d c t →
      ∃ u, exec (.sliceEnd p) s = .next u ∧ u = { s with dies := u.dies } ∧
        tfind t (getCluster u d c).slices = some s.now) ∧
    (Serves s p d c t → (s.launch t).used = true → (s.launch t).terminating = false →
      ∃ u, exec (.sliceEnd p) s = .next u ∧ tfind t (getCluster u d c).slices = none ∧ Preempted s u d c t)) ∧
  (∀ (s : State) (d c t : Nat), (tget {} (s.die d).zones c : Zone).seqRuns = 2 → clusterTags s d c = [t] →
    s.frozen (s.launch t).part = false → (s.launch t).used = true → (s.launch t).terminating = false →
    ∃ u, exec (.preemptRequest d c false) s = .next u ∧ Preempted s u d c t) ∧
  (∀ (s : State) (d c : Nat), (tget {} (s.die d).zones c : Zone).seqRuns = 1 → s.package.moisture = false →
    ∃ u, exec (.preemptRequest d c true) s = .next u ∧ ∀ b ∈ clusterBlocks s d c, b.2.dropping = false →
      (s.launch b.2.tag).terminating = false → s.frozen (s.launch b.2.tag).part = false →
      ∀ p, (s.block b.1).place = .resident p → (u.block b.1).place = .saving p ∧
        (u.block b.1).saveBy = s.now + 1000000 ∧ (u.block b.1).evac = true) ∧
  (∀ (s : State) (d c t : Nat), ∃ u, exec (.preemptDeadlineExpiry d c t) s = .next u ∧ u = { s with blocks := u.blocks } ∧
    ∀ b ∈ onCluster s d c t, s.block b.1 = b.2 → ∀ p, b.2.place = .resident p →
      (s.package.moisture = false → b.2.drainBy ≠ 0 → b.2.drainBy ≤ s.now → (u.block b.1).place = .saving p ∧ (u.block b.1).saveBy = b.2.drainBy) ∧
      ((s.package.moisture = true ∨ ∀ x ∈ onCluster s d c t, x.1 = b.1 → x.2.drainBy = 0 ∨ s.now < x.2.drainBy) →
        u.block b.1 = b.2)) ∧
  ∀ (s : State) (t : Nat) (b : Nat × Block) (p : Nat), b ∈ s.blocks → b.2.tag = t → b.2.evac = true → b.2.saveBy ≤ s.now →
    b.2.place = .saving p → (s.launch t).used = true → (s.launch t).terminating = false → (s.launch t).complete = false →
    ∃ u, exec (.evacuationAbandon t) s = .next u ∧ (u.launch t).terminating = true ∧ (u.launch t).termBit = true ∧
      (u.launch t).termAt = s.now ∧ (u.launch t).count = min ((s.launch t).count + 1) (2 ^ 32 - 1)

/-- R214, R300, R302, R304, R353: a block asked to save, when its outstanding work is over, leaves its image at its slot and
its record entries with it, and writes no byte outside the image, and after MOISTURE nothing is saved; a saved span that fits a
cluster comes back onto its piers, each lane at the program counter that the image holds, and with a span of a cooperative
launch come all its others. -/
def Obligations.SaveAndRestore : Prop :=
  (∀ (s : State) (b : Nat), s.package.moisture = true → exec (.contextSave b) s = .next s) ∧
  (∀ (s : State) (b p : Nat), (s.block b).place = .saving p → (s.block b).dropping = false → s.package.moisture = false →
    s.frozen (s.launch (s.block b).tag).part = false → saveReady s b p = true →
    let x := s.block b
    let es := ctxEntries s p b
    ∃ u, exec (.contextSave b) s = .next u ∧ (u.block b).place = .saved ∧ (u.block b).savedRec = es ∧
      (∀ e ∈ (u.core p).record, e.ctx ≠ b) ∧ rdBytes u.mem x.image 256 = imageHeader x es.length ∧
      ∀ a, a < x.image ∨ imageEnd x es.length ≤ a → rdByte u.mem a = rdByte s.mem a) ∧
  ∀ (s : State) (t sp d c f : Nat) (plan : List (Nat × Nat × Nat × Nat)), restoreAll s t sp d c f = some plan →
    (∀ q, wantedBefore s (s.launch t).part q = false) → (∀ q ∈ plan, (getCluster s q.2.1 q.2.2.1).st < 2) →
    ((plan.flatMap (fun q => savedOf s t q.1)).map (·.1)).Nodup →
    (∀ q ∈ plan, ∀ b ∈ savedOf s t q.1, imageLost s b.2 b.2.savedRec = false ∧ ∀ l, (s.lane b.1 l).stale = []) →
    (sp, d, c, f) ∈ plan ∧ ((s.launch t).rec_.coop = true → ∀ x ∈ savedSpans s t, x ∈ plan.map (·.1)) ∧
    ∃ u, exec (.contextRestore t sp d c f) s = .next u ∧ u.mem = s.mem ∧ ∀ q ∈ plan, ∀ (i : Nat) (b : Nat × Block),
      (savedOf s t q.1)[i]? = some b → (u.block b.1).place = .resident (restorePier q.2.1 q.2.2.1 q.2.2.2 i) ∧
        ∀ l < 32 * (s.block b.1).groups,
          (u.lane b.1 l).pc = BitVec.ofNat 64 (rdNat s.mem ((s.block b.1).image + 256 + 256 * l) 8)

/-! ## From outside the core -/

/-- R194, R197, R198, R281, R341: the registers that the management window reaches: L1CTL empties a cache that it switches;
SLICECTL drops a slice or cuts its power; HALTMASK owes a risen bit's group a halt; EYEST acknowledges inbox words; a fence is
started and waits for the record bytes whose grant's entry has changed and for all that the application cores hold, and it ends
when the record entries it waits for have drained; inbox and outbox words come and go. -/
def Sys2Proof.Claim.RegistersFromOutside : Prop :=
  (∀ (s : State) (p : Nat) (v : Dword),
    ∃ u, exec (.l1ctlWrite p v) s = .next u ∧ u = { s with piers := u.piers, cores := u.cores } ∧
      u.pier p = { s.pier p with l1ctl := v.setWidth 2 } ∧
      ((s.pier p).l1ctl.getLsbD 0 ≠ v.getLsbD 0 → (u.core p).l1 = []) ∧
      ((s.pier p).l1ctl.getLsbD 1 ≠ v.getLsbD 1 → (u.core p).l1i = []) ∧
      ((s.pier p).l1ctl = v.setWidth 2 → u.core p = s.core p) ∧ ∀ c, c ≠ p → u.core c = s.core c ∧ u.pier c = s.pier c) ∧
  (∀ (s : State) (p : Nat), ∃ u, exec (.slicectlDrop p) s = .next u ∧ PierBecomes s u p { s.pier p with slice := [] }) ∧
  (∀ (s : State) (p : Nat) (v : Dword), ∃ u, exec (.slicectlPower p v) s = .next u ∧
    PierBecomes s u p { s.pier p with
      sliceOff := v.getLsbD 16, wayOff := v.setWidth 16,
      slice := if v.getLsbD 16 then [] else (s.pier p).slice.filter (fun e => !(v.setWidth 16 : BitVec 16).getLsbD e.2) }) ∧
  (∀ (s : State) (b p : Nat) (v : Dword), (s.block b).onPier = some p →
    ∃ u, exec (.haltmaskWrite b v) s = .next u ∧ u = { s with blocks := u.blocks } ∧ (u.block b).haltMask = v.setWidth 32 ∧
      ∀ g < (s.block b).groups, (u.grp b g).haltReq =
        ((v.setWidth 32 : Word).getLsbD g && (!(s.block b).haltMask.getLsbD g || (s.grp b g).haltReq))) ∧
  (∀ (s : State) (d n : Nat), ∃ u, exec (.eyestAck d n) s = .next u ∧
    DieBecomes s u d { s.die d with eye := { (s.die d).eye with inbox := (s.die d).eye.inbox.drop n } }) ∧
  (∀ (s : State) (d : Nat) (w : Dword), ((s.die d).eye.inbox.length < 8 →
      ∃ u, exec (.inboxWrite d w) s = .next u ∧ u = { s with dies := u.dies, blocks := u.blocks } ∧
        (u.die d).eye = { (s.die d).eye with inbox := (s.die d).eye.inbox ++ [w] } ∧
        ∀ b p, (s.block b).onPier = some p → p / 64 = d → (s.launch (s.block b).tag).rec_.supv = true →
          ∀ g < (s.block b).groups, (u.grp b g).event = true ∨
            ∃ j < 32, (s.lane b (32 * g + j)).park = .wfe ∧ (u.lane b (32 * g + j)).park = .run) ∧
    (8 ≤ (s.die d).eye.inbox.length → ∃ u, exec (.inboxWrite d w) s = .next u ∧
      DieBecomes s u d { s.die d with eye := { (s.die d).eye with refused := (s.die d).eye.refused + 1 } })) ∧
  (∀ (s : State) (d : Nat), ((s.die d).eye.outbox = [] →
      exec (.outboxRead d) s = .next { s with sent := s.sent ++ [.outbox 0 0 0 false] }) ∧
    ∀ w q t r, (s.die d).eye.outbox = (w, q, t) :: r → ∃ u, exec (.outboxRead d) s = .next u ∧
      u = { s with dies := u.dies, sent := s.sent ++ [.outbox w q t true] } ∧ (u.die d).eye.outbox = r) ∧
  (∀ (s : State), ∃ u x, exec .xlfenceGo s = .next u ∧ u = { s with seq := s.seq + 1, fences := s.fences ++ [x] } ∧
    x.id = s.seq ∧ x.mirror = true ∧ ∀ c ∈ s.cores, ∀ e ∈ c.2.record,
      (2048 ≤ c.1 ∨ ∃ g ∈ e.grants, e.staleGrant s g.2 = true) → (c.1, e.id) ∈ x.entries) ∧
  ∀ (s : State) (k : Nat) (x : Fence), s.fences.find? (fun x => x.id == k) = some x →
    (∀ e ∈ x.entries, ∀ y ∈ (s.core e.1).record, y.id ≠ e.2) →
    ∃ u, exec (.xlfenceComplete k) s = .next u ∧ u = { s with fences := u.fences, blocks := u.blocks } ∧
      (∀ y ∈ u.fences, y.id ≠ k) ∧ ∀ b g m, g < (s.block b).groups → (s.grp b g).park = .fence k m →
        (u.grp b g).park = .none ∧ ∀ j < 32, m.getLsbD j = true →
          (u.lane b (32 * g + j)).pc = pcNext (s.lane b (32 * g + j)).pc

/-- R194, R259, R261, R273, R276, R322, R338, R348: what a write through the management window sets: the queue descriptors'
base, a die's root, an entry's fields as written and FORCE, GOVCTL and CALLOC, a zone's valve (with no command), an interface's
PASID and remap entries; a read returns the register, of a mapped queue its live numbers. The bit layout of PASID and remap
entries is the model's choice (log entry 39), and that a write stores a register's value without its reserved bits is its
reading (log entry 98). -/
def Sys2Proof.Claim.WindowWrites : Prop :=
  ∀ (s : State) (v : Dword),
    (∃ u, exec (.registerWrite (.window 0) v) s = .next u ∧ u = { s with package := { s.package with qdbase := v } }) ∧
    (∀ d < 4, ∃ u, exec (.registerWrite (.window (0x40 + 8 * d)) v) s = .next u ∧
      DieBecomes s u (4 * s.package.nodePos + d) { s.die (4 * s.package.nodePos + d) with root := v }) ∧
    (∀ p < 64, (s.part p).shrinking = false → v.toNat &&& 0x9C = 0 →
      ∃ u, exec (.registerWrite (.window (0x2000000 + 256 * p)) v) s = .next u ∧
        PartBecomes s u p { s.part p with written := writeField (s.part p).written 0 v.toNat, force := v.getLsbD 5 }) ∧
    (∀ p < 64, ∀ k < 32, 0 < k → ∃ u, exec (.registerWrite (.window (0x2000000 + 256 * p + 8 * k)) v) s = .next u ∧
      PartBecomes s u p { s.part p with written := writeField (s.part p).written (8 * k) v.toNat }) ∧
    (∀ d < 4, ∃ u, exec (.registerWrite (.window (0x300000 + 0x1000 * d)) v) s = .next u ∧
      DieBecomes s u (4 * s.package.nodePos + d) { s.die (4 * s.package.nodePos + d) with
        riskIeW := v.getLsbD 5, gateEnW := v.getLsbD 4, stepCapW := v.toNat % 8 }) ∧
    (∀ d < 4, ∀ z < 20, v.toNat / 64 % 4 = 0 → ∃ u, exec (.registerWrite (.window (0x401000 + 0x1000 * d + 32 * z)) v) s = .next u ∧
      u = { s with dies := u.dies } ∧ (tget {} (u.die (4 * s.package.nodePos + d)).zones z : Zone) =
        { (tget {} (s.die (4 * s.package.nodePos + d)).zones z : Zone) with
          man := v.getLsbD 4, vpos := v.toNat % 16,
          valve := if (tget {} (s.die (4 * s.package.nodePos + d)).zones z : Zone).st = 0 ∧ v.getLsbD 4 = true then v.toNat % 16
            else (tget {} (s.die (4 * s.package.nodePos + d)).zones z : Zone).valve }) ∧
    (∀ p < 64, exec (.registerWrite (.window (0x400000 + 8 * p)) v) s = exec (.callocWrite p v) s) ∧
    (∀ o < 2 ^ 26, awake s = true → (o < 0x200000 ∨ 0x204000 ≤ o ∨ o % 0x1000 ≠ 0) →
      takeTurn (.windowRead o) s = .next { s with sent := s.sent ++ [.value (BitVec.ofNat 64 (readWindow s o))] }) ∧
    (readWindow s 0 = s.package.qdbase.toNat ∧ (∀ o, o % 8 ≠ 0 → readWindow s o = 0) ∧
      readWindow s 0x68 = (if s.fences.any (·.mirror) then 1 else 0) ∧
      ∀ q < 4096, (s.queue q).mapped = true →
        readWindow s (0x100000 + 16 * q) = (s.queue q).lastAcc.toNat + (s.queue q).lastEmit.toNat * 2 ^ 32 ∧
        readWindow s (0x100008 + 16 * q) % 2 ^ 32 = (s.queue q).tail.toNat) ∧
    (∀ i k, ∃ u, exec (.registerWrite (.pasid i k) v) s = .next u ∧ u = { s with ifaces := u.ifaces } ∧
      tfind k (u.iface i).pasids = (if v.getLsbD 63 then some (v.toNat % 2 ^ 20 + 1) else none)) ∧
    ∀ i k, ∃ u, exec (.registerWrite (.remap i k) v) s = .next u ∧ u = { s with ifaces := u.ifaces } ∧
      tfind k (u.iface i).remap = (if v.getLsbD 63 then some ((v &&& 0x7FFFFFFFFFFFFFFF#64) + 1) else none)

/-- R286, R288: GO refuses a bad migration and starts a sound one; at its end the frame at DST holds the bytes of the frame at
SRC, and no other byte has changed. -/
def Sys2Proof.Claim.Migration : Prop :=
  (∀ (s : State) (d : Nat),
    let m := (s.die d).mig
    let n := migBytes m.size
    ((m.busy = true ∨ m.size = 3 ∨ m.src.toNat % n ≠ 0 ∨ m.dst.toNat % n ≠ 0 ∨ m.src.toNat / 2 ^ 41 ≠ d ∨
        m.dst.toNat / 2 ^ 41 ≠ d) →
      ∃ u, exec (.migrationGo d) s = .next u ∧ DieBecomes s u d { s.die d with mig := { m with refused := true } }) ∧
    (m.busy = false → m.size ≠ 3 → m.src.toNat % n = 0 → m.dst.toNat % n = 0 → m.src.toNat / 2 ^ 41 = d →
      m.dst.toNat / 2 ^ 41 = d → ∃ u, exec (.migrationGo d) s = .next u ∧
        DieBecomes s u d { s.die d with mig := { m with refused := false, poisoned := false, busy := true, run := (m.src.toNat, m.dst.toNat, m.size) } })) ∧
  ∀ (s : State) (d : Nat), Memory.wf s.mem = true →
    let m := (s.die d).mig
    let src := m.run.1
    let dst := m.run.2.1
    let n := migBytes m.run.2.2
    m.busy = true → src % n = 0 → dst % n = 0 → ownedIn s src n = [] → ownedIn s dst n = [] →
    ∃ u, exec (.migrationComplete d) s = .next u ∧ (u.die d).mig.busy = false ∧
      ((u.die d).mig.poisoned = true ↔ poisonIn s src n ≠ []) ∧
      (∀ i < n, rdByte u.mem (dst + i) = rdByte s.mem (src + i)) ∧
      ∀ a, a < dst ∨ dst + n ≤ a → rdByte u.mem a = rdByte s.mem a

/-- R258, R270, R271, R285: a page response of another generation counts as stale, one to a request that
stands makes its host page present where it succeeds; a page request bears the function's generation; an invalidation takes a
host page away; page ages restart where a page was used, whose U is cleared; a link that goes down tells its queues. That a
failed response takes the request away, so that the device asks again, is the model's reading (log entry 93). -/
def Sys2Proof.Claim.PagesAndHostLinks : Prop :=
  (∀ (s : State) (p : Nat) (g : BitVec 4) (pasid page : Nat) (ok : Bool),
    (g ≠ (s.part p).gen → ∃ u, exec (.pageRequestResponse p g pasid page ok) s = .next u ∧
      PartBecomes s u p { s.part p with stale := (s.part p).stale + 1 }) ∧
    (∀ r, g = (s.part p).gen → s.pageReqs.find? (fun r =>
        r.part == p && r.gen == g && r.space % 2 ^ 20 == pasid && r.page == page) = some r →
      ∃ u, exec (.pageRequestResponse p g pasid page ok) s = .next u ∧
        u = { s with pageReqs := s.pageReqs.filter (· != r), hostPages := u.hostPages } ∧
        ∀ k, k ∈ u.hostPages ↔ (ok = true ∧ k = r.space * 2 ^ 44 + page) ∨ k ∈ s.hostPages)) ∧
  (∀ (s : State) (t page : Nat), t < 2 ^ 16 → page < 2 ^ 44 → awake s = true → pageNeeded (s.launch t) page = true →
    s.hostPages.contains ((s.launch t).pasid * 2 ^ 44 + page) = false → ifaceUp s (s.launch t).iface = true →
    ∃ u, takeTurn (.pageRequest t page) s = .next u ∧ u = { s with pageReqs := u.pageReqs } ∧
      ({ part := (s.launch t).part, gen := (s.part (s.launch t).part).gen, space := (s.launch t).pasid, page := page } : PageReq) ∈
        u.pageReqs) ∧
  (∀ (s : State) (pasid page : Nat), ∃ u, exec (.hostInvalidation pasid page) s = .next u ∧
    u = { s with hostPages := u.hostPages } ∧
    ∀ k, k ∈ u.hostPages ↔ k ≠ pasid * 2 ^ 44 + page ∧ k ∈ s.hostPages) ∧
  (∀ (s : State) (i : Nat), i < 2 → ∃ u w, exec (.hostLinkDown i) s = .next u ∧ exec (.hostLinkTrained i) s = .next w ∧
    u = { s with linkUp := u.linkUp, queues := u.queues } ∧ w = { s with linkUp := w.linkUp } ∧
    (∀ k, u.linkUp.getLsbD k = (k != i && s.linkUp.getLsbD k) ∧ (k < 2 → w.linkUp.getLsbD k = (k == i || s.linkUp.getLsbD k))) ∧
    ∀ q, (q ∈ linkQueues s i → u.queue q = { s.queue q with linkDown := true }) ∧
      (q ∉ linkQueues s i → u.queue q = s.queue q)) ∧
  ∀ (s : State) (p : Nat), (s.part p).ageAt < s.now / 1000000 →
    let ls := partLeaves s p
    ∃ u, exec (.pageAgeUpdate p) s = .next u ∧ (u.part p).ageAt = (s.part p).ageAt + 1 ∧
      (s.uses = [] → (∀ l ∈ ls, ∀ k ∈ s.cores, ∀ o ∈ k.2.owned, o.2 ≠ l.2.addr / 4) → (AgesRead s p).mem = s.mem) ∧
      (∀ l ∈ ls, (rdByte u.mem (l.2.addr + 1)).getLsbD 1 = false) ∧
      (∀ a, (∀ l ∈ ls, a ≠ l.2.addr + 1) → rdByte u.mem a = rdByte (AgesRead s p).mem a) ∧
      ∀ l ∈ ls, (∀ x ∈ ls, x.1 = l.1 → x = l) →
        tget 0 (u.part p).ages l.1 = (if (rdByte (AgesRead s p).mem (l.2.addr + 1)).getLsbD 1 then 0
          else min (tget 0 (s.part p).ages l.1 + 1) 255)

namespace Sys2Proof.Claim
open Sys2Proof.Machine

/-- Of the whole state only cluster `c` of a die may differ, and it becomes `x`. -/
def ClusterBecomes (s u : State) (d c : Nat) (x : Cluster) : Prop :=
  DieBecomes s u d { s.die d with clusters := (u.die d).clusters } ∧ getCluster u d c = x ∧
    ∀ k, k ≠ c → getCluster u d k = getCluster s d k

/-- Of the whole state only zone `z` of a die may differ, and it becomes `x`. -/
def ZoneBecomes (s u : State) (d z : Nat) (x : Zone) : Prop :=
  DieBecomes s u d { s.die d with zones := (u.die d).zones } ∧ getZone u d z = x ∧
    ∀ k, k ≠ z → getZone u d k = getZone s d k

/-- The command error of the coolant command register is set, and nothing else changes. -/
def CmdError (s u : State) : Prop := u = { s with package := { s.package with cerr := true } }

/-- A cluster stands at E3 with cadence 16; the boost that it was given at the last boundary is still what it reports (R203). -/
def Slowed (s u : State) (d c : Nat) : Prop :=
  let x := getCluster u d c
  x.step = 0 ∧ x.clk = 0 ∧ x.held = (getCluster s d c).held ∧ x.cad0 = 16 ∧ x.cad1 = 16 ∧ x.cad2 = 16 ∧ x.cad3 = 16

/-- An alarm of a place of a die is sent, and latched where the latch has room. -/
def Alarmed (s u : State) (d : Nat) (p : AlarmAt) (c : AlarmCause) : Prop :=
  let a : Alarm := { pkgid := s.package.pkgid, die := d, place := p, cause := c }
  u.sent = s.sent ++ [.event a] ∧ (s.latch.length < Config.latchSize → u.latch = s.latch ++ [a]) ∧
    (Config.latchSize ≤ s.latch.length → u.latch = s.latch ∧ u.latchLost = s.latchLost + 1)

/-- A priming attempt has begun. -/
def Primes (s u : State) (d z tries : Nat) : Prop :=
  let y := getZone u d z
  y.st = 1 ∧ y.tries = tries ∧ y.valve = 0 ∧ y.opened = false ∧ y.phaseEnd = s.now + 50000000 ∧ y.seqRuns = 0

end Sys2Proof.Claim

/-! ## The governor -/

/-- R312, R317, R319, R321, R352: at a boundary GOVCTL as written takes effect; no cluster's step passes STEPCAP or its zone's
CAP; a cluster holds the permits of its step; one in an evacuation, or any under MOISTURE, runs at E3 with cadence 16; and a die
without a block regains two permits where no cluster of it was given a boost step at the last boundary. -/
def Obligations.GovernorInterval : Prop :=
  ∀ (s : State) (d : Nat), (s.die d).boundary < s.now / 10000 →
    ∃ u, exec (.governorInterval d) s = .next u ∧ (u.die d).boundary = s.now / 10000 ∧
      (u.die d).riskIe = (s.die d).riskIeW ∧ (u.die d).gateEn = (s.die d).gateEnW ∧ (u.die d).stepCap = (s.die d).stepCapW ∧
      u.mem = s.mem ∧ u.hostMem = s.hostMem ∧
      (∀ c < 16, let x := getCluster u d c
        x.step ≤ (s.die d).stepCapW ∧ x.step ≤ (getZone s d c).capNow ∧ x.held = (if 4 ≤ x.step then x.step - 3 else 0) ∧
        ((getZone s d c).seqRuns ≠ 0 ∨ s.package.moisture = true →
          x.step = 0 ∧ x.cad0 = 16 ∧ x.cad1 = 16 ∧ x.cad2 = 16 ∧ x.cad3 = 16)) ∧
      (dieBlocks s d = [] → (u.die d).pool =
        (if ∃ c < 16, (getCluster s d c).boosted = true then (s.die d).pool else min 64 ((s.die d).pool + 2)))

/-- R313, R314, R315, R323: the supply settles and every cluster takes its step's clock; a canary warning raises the offset by 1
up to 8, and it falls by 1 after 1 ms without one; a droop warning limits its cluster for 2 µs; the sticky bits of GOVSTAT clear. -/
def Sys2Proof.Claim.SupplyAndCanaries : Prop :=
  (∀ (s : State) (d : Nat), (s.die d).settleAt ≠ 0 →
    ∃ u, exec (.supplySettled d) s = .next u ∧ u = { s with dies := u.dies } ∧ (u.die d).settleAt = 0 ∧
      (∀ c, getCluster u d c = { getCluster s d c with clk := (getCluster s d c).step }) ∧ ∀ k, k ≠ d → u.die k = s.die k) ∧
  (∀ (s : State) (d : Nat), ∃ u, exec (.canaryWarning d) s = .next u ∧
    DieBecomes s u d { s.die d with canary := true, offset := min 8 ((s.die d).offset + 1), decayAt := s.now + 1000000 }) ∧
  (∀ (s : State) (d : Nat), (s.die d).offset ≠ 0 → (s.die d).decayAt ≤ s.now →
    ∃ u, exec (.canaryDecay d) s = .next u ∧
      DieBecomes s u d { s.die d with offset := (s.die d).offset - 1, decayAt := (s.die d).decayAt + 1000000 }) ∧
  (∀ (s : State) (d c : Nat),
    (∃ u, exec (.droopWarning d c) s = .next u ∧ ClusterBecomes s u d c { getCluster s d c with limit := s.now + 2000 }) ∧
    ((getCluster s d c).limit ≤ s.now →
      ∃ u, exec (.limiterRestore d c) s = .next u ∧ ClusterBecomes s u d c { getCluster s d c with limit := 0 })) ∧
  ∀ (s : State) (d : Nat), ∃ u w, exec (.govstatRiskClear d) s = .next u ∧ exec (.govstatCanaryClear d) s = .next w ∧
    DieBecomes s u d { s.die d with risk := false } ∧ DieBecomes s w d { s.die d with canary := false }

/-- R309, R320, R352: a cluster that is to be gated, with nothing on it and its records empty, loses power and every copy its
caches held; a zone's sequence that waited for it primes or closes, unless MOISTURE has come (R354); a wake ends after 2 µs at
E3. -/
def Sys2Proof.Claim.PowerGating : Prop :=
  (∀ (s : State) (d c : Nat),
    ((getCluster s d c).st = 1 ∨ (getCluster s d c).st = 0 ∧ (getZone s d c).seqRuns ≠ 0) → clusterBlocks s d c = [] →
    (∀ k < 4, (s.core (64 * d + 4 * c + k)).record = [] ∧ quadHolder s (64 * d + 4 * c + k) = none) →
    ∃ u, exec (.gateCommit d c) s = .next u ∧ u = { s with cores := u.cores, piers := u.piers, dies := u.dies } ∧
      getCluster u d c = { getCluster s d c with st := 2 } ∧
      (∀ k < 4, (u.core (64 * d + 4 * c + k)).l1 = [] ∧ (u.core (64 * d + 4 * c + k)).l1i = [] ∧
        (u.pier (64 * d + 4 * c + k)).slice = []) ∧
      ((getZone s d c).seqRuns = 0 ∨ s.package.moisture = true → getZone u d c = getZone s d c) ∧
      ((getZone s d c).seqRuns = 1 → s.package.moisture = false → Primes s u d c 1) ∧
      ((getZone s d c).seqRuns = 2 → s.package.moisture = false → (getZone u d c).st = 4 ∧ (getZone u d c).valve = 0 ∧ (getZone u d c).seqRuns = 0)) ∧
  ∀ (s : State) (d c : Nat), (getCluster s d c).st = 3 → (getCluster s d c).wakeAt ≤ s.now →
    ∃ u, exec (.clusterWake d c) s = .next u ∧ ClusterBecomes s u d c { getCluster s d c with
      st := 0, step := 0, clk := 0, held := 0, fall := false, idle := false }

/-! ## Coolant -/

/-- R347, R349, R350, R351: CALLOC is refused where the shares would pass 1,024; at a boundary a zone's CAP and HEATOK follow its
temperature and a WET zone's valve its flow; a condition that has held for 100 µs traps, raises the firmware interrupt and, for
DP_HIGH and FLOW_LOW, the fleet alarm. CAP is here the stored field; that it reads 0 outside WET is in its use. The flow of a
valve position is left to the implementation (log entry 33), and that the DP_HIGH trap holds the valve at 15 as long as it
stands is the model's choice (log entry 95). -/
def Obligations.ZonesFollowTheirSensors : Prop :=
  (∀ (s : State) (p : Nat) (v : Dword),
    let share := v.toNat % 2048
    let sum := ((List.range 64).map (fun k => if k = p then share else (s.part k).shareW)).sum
    (1024 < sum → ∃ u, exec (.callocWrite p v) s = .next u ∧ CmdError s u) ∧
    (sum ≤ 1024 → ∃ u, exec (.callocWrite p v) s = .next u ∧
      PartBecomes s u p { settledPart s p with shareW := share, maxHeatW := v.toNat / 2048 % 4 })) ∧
  (∀ (s : State) (d z : Nat), (getZone s d z).boundary < s.now / 10000 →
    let y := getZone s d z
    ∃ u, exec (.zoneBoundary d z) s = .next u ∧ u = { s with dies := u.dies } ∧
      let x := getZone u d z
      x.boundary = s.now / 10000 ∧ (x.cap : Int) = max 0 (min 5 (Int.fdiv (y.tLim.toInt - y.temp.toInt) 32 - 1)) ∧
      x.heatOk = (if x.cap = 5 then 3 else if 3 ≤ x.cap then 2 else if 1 ≤ x.cap then 1 else 0) ∧
      (y.st ≠ 0 → x.valve = y.valve) ∧ (y.st = 0 → y.man = true → x.valve = y.vpos) ∧
      (y.st = 0 → y.man = false → (16 ≤ z ∨ y.trap.getLsbD 2 = true) → x.valve = 15) ∧
      (y.st = 0 → y.man = false → z < 16 → y.trap.getLsbD 2 = false →
        2 ≤ x.valve ∧ x.valve ≤ 15 ∧ (x.valve ≠ 15 → flowWanted s d z ≤ Config.flowAt d z x.valve) ∧
        ∀ v, 2 ≤ v → v ≤ 15 → flowWanted s d z ≤ Config.flowAt d z v → x.valve ≤ v)) ∧
  ∀ (s : State) (d z b : Nat), b < 4 → tget 0 (getZone s d z).since b ≠ 0 →
    tget 0 (getZone s d z).since b - 1 + 100000 ≤ s.now → (getZone s d z).trap.getLsbD b = false → trapHolds s d z b = true →
    ∃ u, exec (.zoneTrap d z b) s = .next u ∧ (getZone u d z).trap = (getZone s d z).trap ||| BitVec.ofNat 4 (2 ^ b) ∧
      (u.die d).irqs = (s.die d).irqs + 1 ∧ (b < 2 → u.sent = s.sent ∧ u.latch = s.latch) ∧
      (2 ≤ b → (getZone u d z).alarm = true) ∧
      (b = 2 → Alarmed s u d (.zone z) .dpHigh ∧ ((getZone s d z).man = false → (getZone u d z).valve = 15)) ∧
      (b = 3 → Alarmed s u d (.zone z) .flowLow)

/-- R352: the states of a zone: a dry condition of 2 ms makes it DRY and starts its sequence, or primes a zone with nothing to
save; priming closes the valve for 50 ms, opens it for 200 ms, and ends WET, with another attempt, or after three FAILED; CLOSE
of a WET zone and PRIME of a CLOSED or FAILED one start their sequences, and any other command sets CERR. -/
def Sys2Proof.Claim.ZoneSequences : Prop :=
  (∀ (s : State) (d z : Nat), (getZone s d z).st = 0 → (getZone s d z).drySince ≠ 0 →
    (getZone s d z).drySince - 1 + 2000000 ≤ s.now → (getZone s d z).dp < (getZone s d z).dpMin →
    ((getZone s d z).slope : Int) * (getZone s d z).riseNs < (getZone s d z).rise * 1000000 →
    ∃ u, exec (.zoneDry d z) s = .next u ∧
      (s.package.moisture = false → (16 ≤ z ∨ gatedNow s d z = true) → Primes s u d z 1) ∧
      (z < 16 → gatedNow s d z = false → (getZone u d z).st = 2 ∧ (getZone u d z).seqRuns = 1 ∧ Slowed s u d z)) ∧
  (∀ (s : State) (d z : Nat), (getZone s d z).st = 1 → (getZone s d z).phaseEnd ≤ s.now → s.package.moisture = false →
    let y := getZone s d z
    let good := y.dpMin ≤ y.dp ∧ y.dp ≤ y.dpMax
    ∃ u, exec (.primingStep d z) s = .next u ∧
      (y.opened = false → ZoneBecomes s u d z { y with opened := true, valve := 15, phaseEnd := s.now + 200000000 }) ∧
      (y.opened = true → good → (getZone u d z).st = 0 ∧ u.sent = s.sent) ∧
      (y.opened = true → ¬ good → 3 ≤ y.tries → (getZone u d z).st = 3 ∧ (getZone u d z).alarm = true ∧
        Alarmed s u d (.zone z) .primingFailed) ∧
      (y.opened = true → ¬ good → y.tries < 3 → Primes s u d z (y.tries + 1))) ∧
  (∀ (s : State) (d z : Nat), ((getZone s d z).st ≠ 0 ∨ (getZone s d z).seqRuns ≠ 0) →
    ∃ u, exec (.zoneClose d z) s = .next u ∧ CmdError s u) ∧
  (∀ (s : State) (d z : Nat), (getZone s d z).st = 0 → (getZone s d z).seqRuns = 0 →
    ∃ u, exec (.zoneClose d z) s = .next u ∧ u.package = s.package ∧
      (s.package.moisture = false → (16 ≤ z ∨ gatedNow s d z = true) → (getZone u d z).st = 4 ∧ (getZone u d z).valve = 0) ∧
      (z < 16 → gatedNow s d z = false → (getZone u d z).st = 0 ∧ (getZone u d z).seqRuns = 2 ∧ Slowed s u d z)) ∧
  (∀ (s : State) (d z : Nat),
    ((getZone s d z).st = 3 ∨ (getZone s d z).st = 4 → ∃ u, exec (.zonePrime d z) s = .next u ∧ Primes s u d z 1) ∧
    ((getZone s d z).st ≠ 3 → (getZone s d z).st ≠ 4 → ∃ u, exec (.zonePrime d z) s = .next u ∧ CmdError s u) ∧
    ∃ u, exec (.zoneCmdReserved d z) s = .next u ∧ CmdError s u) ∧
  (∀ (s : State) (d z : Nat) (m : BitVec 4), ∃ u w, exec (.zstatTrapClear d z m) s = .next u ∧
    exec (.zstatAlarmClear d z) s = .next w ∧
    ZoneBecomes s u d z { getZone s d z with trap := (getZone s d z).trap &&& ~~~m } ∧
    ZoneBecomes s w d z { getZone s d z with alarm := false }) ∧
  ∀ (s : State), exec .cstatCerrClear s = .next { s with package := { s.package with cerr := false } }

/-- R353, R362: MOISTURE puts every cluster of the package at E3 with cadence 16, asks for the power to be removed, stops a warm
reset that has started, and no context that was asked to save is saved. -/
def Sys2Proof.Claim.MoistureStopsThePackage : Prop :=
  ∀ (s : State), ∃ u, exec .moisture s = .next u ∧ u.package.moisture = true ∧ u.package.shutReq = true ∧
    u.package.warmStopped = s.package.warm.isSome ∧ u = { s with dies := u.dies, package := u.package, blocks := u.blocks } ∧
    (∀ d < 4, ∀ c < 16, Slowed s u (4 * s.package.nodePos + d) c) ∧
    ∀ b, (∀ p, (s.block b).place = .saving p → (s.block b).dropping = false →
        u.block b = { s.block b with place := .resident p, saveBy := 0, evac := false }) ∧
      ((∀ p, (s.block b).place ≠ .saving p) ∨ (s.block b).dropping = true → u.block b = s.block b)

namespace Sys2Proof.Claim
open Sys2Proof.Machine

/-- Of the whole state only links and ports may differ, and of them only `p`, which becomes `x`. -/
def PortBecomes (s u : State) (p : PortName) (x : Port) : Prop :=
  u = { s with memLinks := u.memLinks, fabric := u.fabric, ethernet := u.ethernet } ∧ portGet u p = x ∧
    ∀ q, q ≠ p → portGet u q = portGet s q

/-- A response is sent, and nothing else happens. -/
def Responds (i : Instr) (s : State) (kind : Nat) (bs : List Byte) : Prop :=
  exec i s = .next { s with sent := s.sent ++ [.bytes kind bs] }

/-- An application core of a partition may run the operation. -/
def HartCan (s : State) (h p : Nat) (i : HartOp) : Prop :=
  hartPart s h = some p ∧ s.frozen p = false ∧ (s.hart h).frozen = false ∧ ((s.hart h).held = none ∨ (s.hart h).held = some i)

/-- A core's registers after a write of `v` to `rd`: x0 keeps 0. -/
def HartReg (s u : State) (h rd : Nat) (v : Dword) : Prop :=
  ∀ r, hartReg u h r = if r = rd ∧ rd ≠ 0 then v else hartReg s h r

/-- A core's registers are as they were. -/
def HartRegsKept (s u : State) (h : Nat) : Prop := ∀ r, hartReg u h r = hartReg s h r

/-- The bytes of a store stand in the core's record, in an entry of its own context, after every older byte of the entry. -/
def HartStored (s u : State) (h addr : Nat) (bs : List Byte) (rel : Bool) : Prop :=
  ∃ e ∈ (u.core (2048 + h)).record, e.ctx = 2 ^ 60 + h ∧ e.chunk = chunkOf (BitVec.ofNat 64 addr) ∧
    (rel = true → e.rel = true) ∧ ∃ c, e.stores.getLast? = some c ∧ s.seq ≤ c.seq ∧ c.be = beMask (addr % 64) bs.length ∧
      c.data = BitVec.ofNat 512 (leNat bs * 2 ^ (8 * (addr % 64))) ∧ c.poison = false

/-- The record of an application core takes a store to an address. -/
def HartRoom (s : State) (h addr : Nat) : Prop :=
  (openEntry (s.core (2048 + h)) (2 ^ 60 + h) (chunkOf (BitVec.ofNat 64 addr))).isSome = true ∨
    (s.core (2048 + h)).record.length < 64

/-- An activity of the partition admits any operation now. -/
def Admits (s : State) (p k : Nat) : Prop := ∀ q, budgetOk s p k q = true

/-- A read of memory can be performed and gives `v`, or finds poison: the page is poisoned; or the core's record and L1 hold
all of it; or they do with the line of its L2; or its home is reached and the read budget admits it. -/
def HartReads (s : State) (h p addr size : Nat) (lf : Leaf) (v : Option Nat) : Prop :=
  let near := hartPromote s h addr
  hartPlace s h addr = .memory lf ∧
  ((pagePoison s lf addr = true ∧ v = none) ∨
   (pagePoison s lf addr = false ∧
    ((hartFar s h addr size = false ∧ hartRead s h addr size lf = v) ∨
     (hartFar s h addr size = true ∧ hartFar near h addr size = false ∧ hartRead near h addr size lf = v) ∨
     (hartFar s h addr size = true ∧ hartFar near h addr size = true ∧ linkWaits s addr = false ∧
      hartRead s h addr size lf = v ∧ (inSlice s addr = true ∨ Admits s p 0)))))

/-- The core begins an operation, or goes on with the one that stands. -/
def hartBegin (s : State) (h : Nat) : State := if (s.hart h).held.isNone then s.tick else s

/-- Of the whole state only application cores and the order number may differ. -/
def OnlyHarts (s u : State) : Prop := u = { s with harts := u.harts, seq := u.seq }

/-- A trap has been entered in mode `dst`: the program counter, the cause and its value are saved there, interrupts are off
and their enable is kept, and the core goes on at the mode's vector. The layout is the RISC-V manuals' (log entry 116). -/
def HartEntered (x y : Hart) (dst : HartMode) (irq : Bool) (code : Nat) (value : Dword) : Prop :=
  let cause (k : Nat) : Dword := BitVec.ofNat 64 (k + if irq then 2 ^ 63 else 0)
  let to_ (v : Dword) (k : Nat) : Dword := (v &&& ~~~3#64) + (if irq ∧ v.getLsbD 0 = true then BitVec.ofNat 64 (4 * k) else 0)
  match dst with
  | .m => y.mode = .m ∧ y.csr Csr.mepc = x.pc ∧ y.csr Csr.mcause = cause code ∧ y.csr Csr.mtval = value ∧
      (y.csr Csr.mstatus).getLsbD 3 = false ∧ (y.csr Csr.mstatus).getLsbD 7 = (x.csr Csr.mstatus).getLsbD 3 ∧
      y.pc = to_ (x.csr Csr.mtvec) code
  | .vs => let k := if irq then code - 1 else code
      y.mode = .vs ∧ y.csr Csr.vsepc = x.pc ∧ y.csr Csr.vscause = cause k ∧ y.csr Csr.vstval = value ∧
      (y.csr Csr.vsstatus).getLsbD 1 = false ∧ (y.csr Csr.vsstatus).getLsbD 5 = (x.csr Csr.vsstatus).getLsbD 1 ∧
      y.pc = to_ (x.csr Csr.vstvec) k
  | _ => y.mode = .s ∧ y.csr Csr.sepc = x.pc ∧ y.csr Csr.scause = cause code ∧ y.csr Csr.stval = value ∧
      (y.csr Csr.mstatus).getLsbD 1 = false ∧ (y.csr Csr.mstatus).getLsbD 5 = (x.csr Csr.mstatus).getLsbD 1 ∧
      y.pc = to_ (x.csr Csr.stvec) code

/-- An application core traps: a precise exception of a cause, which ends its reservation (R334, R336). -/
def HartTraps (s u : State) (h code : Nat) (value : Dword) : Prop :=
  let x := s.hart h
  HartEntered x (u.hart h) (exceptionTo x code) false code value ∧ (u.hart h).resv = none ∧ (u.hart h).held = none ∧
    (u.hart h).regs = x.regs

/-- The core has taken an access fault at an address, and nothing else happens. -/
def HartFaulted (s u : State) (h addr code : Nat) : Prop :=
  OnlyHarts s u ∧ (u.hart h).fault = some addr ∧ HartTraps s u h code ((s.hart h).via.getD (BitVec.ofNat 64 addr))

end Sys2Proof.Claim

/-! ## The fleet -/

/-- R355, R356, R357, R361: a retried flit counts; a link down for 1 ms retrains, and comes up unless the package at its far
end holds the same place in the node; a memory link down for 10 ms is lost, and a lost member of the node makes a warm reset
due, each with its alarm; uncorrectable shared state is counted and makes its partition's capture or a warm reset due. The die
at which it is counted is open (log entry 135). -/
def Sys2Proof.Claim.LinksAndPorts : Prop :=
  (∀ (s : State) (p : PortName), (hasFlits p = true → ∃ u, exec (.flitCrcRetry p) s = .next u ∧
      PortBecomes s u p { portGet s p with retries := (portGet s p).retries + 1 }) ∧
    (hasFlits p = true → (portGet s p).up = false → (portGet s p).downAt + 1000000 ≤ s.now →
      ∃ u, exec (.linkRetrain p) s = .next u ∧ PortBecomes s u p { portGet s p with training := true }) ∧
    ((portGet s p).training = true → ∃ u, exec (.retrainComplete p) s = .next u ∧
      PortBecomes s u p (if (portGet s p).peer = some s.package.nodePos
        then { portGet s p with up := false, training := false, downAt := s.now }
        else { portGet s p with up := true, training := false, downAt := 0 }))) ∧
  (∀ (s : State) (i : Nat), (portGet s (.memoryLink i)).up = false → (portGet s (.memoryLink i)).lost = false →
    (portGet s (.memoryLink i)).downAt + 10000000 ≤ s.now →
    ∃ u, exec (.memoryLinkLost i) s = .next u ∧
      portGet u (.memoryLink i) = { portGet s (.memoryLink i) with lost := true } ∧
      Alarmed s u (4 * s.package.nodePos + i / 8) (.memoryLink i) .memoryLinkLost) ∧
  (∀ (s : State) (k : Nat), k ≠ s.package.nodePos → k ∈ nodeMembers s → s.package.warm = none →
    ∃ u, exec (.nodeMemberLost k) s = .next u ∧
      u.package = { s.package with absent := addTo k s.package.absent, warm := some (3, s.now) } ∧
      Alarmed s u (4 * s.package.nodePos) (.package k) .nodeMemberLost) ∧
  (∀ (s : State) (p : Nat), (s.part p).reason = 0 →
    ∃ u, exec (.uncorrectableSharedState (.partitionEntries p)) s = .next u ∧
      u = { s with parts := u.parts, dies := u.dies, free := s.free + 1 } ∧
      u.part p = { s.part p with reason := 3, since := s.now } ∧ (∀ k, k ≠ p → u.part k = s.part k) ∧
      ∃ d < 4, tget (0 : Word) (u.die (4 * s.package.nodePos + d)).errors 23 =
        tget (0 : Word) (s.die (4 * s.package.nodePos + d)).errors 23 + 1) ∧
  ∀ (s : State), s.package.warm = none →
    (∃ u, exec (.uncorrectableSharedState .package) s = .next u ∧
      u = { s with dies := u.dies, free := s.free + 1, package := { s.package with warm := some (2, s.now) } } ∧
      ∃ d < 4, tget (0 : Word) (u.die (4 * s.package.nodePos + d)).errors 25 =
        tget (0 : Word) (s.die (4 * s.package.nodePos + d)).errors 25 + 1) ∧
    exec .firmwareWatchdog s = .next { s with package := { s.package with warm := some (4, s.now) } }

/-- R355: an RDMA request of a port that is up reaches a valid partition that is not frozen: a SEND is received, a WRITE within
one 64-B chunk is stored through the partition's translation, and a READ is answered with the bytes; a partition sends frames of
its own. That a READ's answer is a response of kind 8, and what a frame carries, is the model's reading (log entry 45). -/
def Sys2Proof.Claim.EthernetFrames : Prop :=
  ∀ (s : State) (port p addr size : Nat) (bs : List Byte), (portGet s (.ethernet port)).up = true →
    (s.part p).inForce.v = true → s.frozen p = false →
    (∃ u, exec (.ethernetFrame port p .send addr size bs) s = .next u ∧ u = { s with rdma := s.rdma ++ [(p, .send, addr, bs)] }) ∧
    (∀ pa lf, bs ≠ [] → addr % 64 + bs.length ≤ 64 → windowOf (BitVec.ofNat 64 addr) = .global → NoLimits s p →
      (∀ r ∈ s.rdmaReqs, r.id ≠ s.seq) →
      xlatGlobal s p none (BitVec.ofNat 64 addr) bs.length .write = .ok pa lf → Unowned s (physWords pa bs.length) →
      ∃ u, exec (.ethernetFrame port p .write addr size bs) s = .next u ∧
        Stored u.mem s.mem pa bs.length (leNat bs) ∧ u.hostMem = s.hostMem ∧ u.rdmaReqs = s.rdmaReqs) ∧
    (∀ rs m, windowOf (BitVec.ofNat 64 addr) = .global → NoLimits s p → (∀ r ∈ s.rdmaReqs, r.id ≠ s.seq) →
      queueRead s p ringPasid (BitVec.ofNat 64 addr) size = .ok rs false m →
      (∃ u, exec (.ethernetFrame port p .read addr size bs) s = .next u ∧
        u.mem = s.mem ∧ u.sent = s.sent ++ [.bytes 8 rs] ∧ u.rdmaReqs = s.rdmaReqs) ∧
      ∀ op, op ≠ RdmaOp.read → awake s = true → port < 16 → p < 64 → addr < 2 ^ 64 →
        ∃ u, takeTurn (.ethernetSend port p op addr size) s = .next u ∧
          u.mem = s.mem ∧ u.sent = s.sent ++ [.frame port p op rs] ∧ u.rdmaReqs = s.rdmaReqs) ∧
    (NoLimits s p → (∀ r ∈ s.rdmaReqs, r.id ≠ s.seq) → awake s = true → port < 16 → p < 64 → addr < 2 ^ 64 →
      ∃ u, takeTurn (.ethernetSend port p .read addr size) s = .next u ∧ u.mem = s.mem ∧
        u.sent = s.sent ++ [.frame port p .read (leBytes 8 addr ++ leBytes 8 size)] ∧ u.rdmaReqs = s.rdmaReqs)

/-- R358: a read of the alarm latch returns and clears it; a sensor read returns its values. -/
def Sys2Proof.Claim.Telemetry : Prop :=
  ∀ (s : State), exec .alarmLatchRead s = .next { s with sent := s.sent ++ [.alarms s.latch s.latchLost], latch := [] } ∧
    (∀ d z, exec (.pldmMonitoring (.zone d z)) s = .next { s with
      sent := s.sent ++ [.sensor [(getZone s d z).temp.toNat, (getZone s d z).dp, (getZone s d z).flow]] }) ∧
    (∀ d w, exec (.pldmMonitoring (.errors d w)) s = .next { s with
      sent := s.sent ++ [.sensor [(tget (0 : Word) (s.die d).errors (2 * structureCode w)).toNat,
        (tget (0 : Word) (s.die d).errors (2 * structureCode w + 1)).toNat]] }) ∧
    (∀ p, exec (.pldmMonitoring (.port p)) s = .next { s with
      sent := s.sent ++ [.sensor [if (portGet s p).up then 2 else if (portGet s p).training then 1 else 0,
        (portGet s p).retries.toNat]] }) ∧
    ∀ x, ∃ u vs, exec (.pldmMonitoring x) s = .next u ∧ u = { s with sent := s.sent ++ [.sensor vs] }

/-- R359: an error in a structure of a die is counted, in its correctable or its uncorrectable count; an uncorrectable one
poisons main memory, a register, a scratchpad word or an accumulator row, in a partition's entries it makes the partition's
capture due and in other shared state a warm reset, and a clean copy is dropped. A scrub changes nothing, and the places of the
errors are the model's naming (log entry 48). -/
def Sys2Proof.Claim.SoftErrors : Prop :=
  (∀ (s : State) (a i : Nat) (ok : Bool), ∃ u, exec (.softError .mainMemory a i ok) s = .next u ∧ u.mem = s.mem ∧
    (∀ k, k ∈ u.memPoison ↔ k ∈ s.memPoison ∨ ok = false ∧ k = a / 64) ∧
    tget (0 : Word) (u.die (a / 2 ^ 41 % 32)).errors (if ok then 20 else 21) =
      tget (0 : Word) (s.die (a / 2 ^ 41 % 32)).errors (if ok then 20 else 21) + 1) ∧
  (∀ (s : State) (b i : Nat), i / 512 < 32 * (s.block b).groups → i % 512 < (s.block b).window →
    ∃ u, exec (.softError .registerFile b i false) s = .next u ∧ i ∈ (u.block b).regPoison ∧
      ∀ l, (u.lane b l) = (s.lane b l)) ∧
  (∀ (s : State) (b i : Nat), 4 * i < (s.block b).scratchSize →
    ∃ u, exec (.softError .scratchpad b i false) s = .next u ∧ i ∈ (u.block b).scratchPoison ∧
      (u.block b).scratch = (s.block b).scratch) ∧
  (∀ (s : State) (b i : Nat), i / 128 < (s.block b).accRows →
    ∃ u, exec (.softError .accumulator b i false) s = .next u ∧ i ∈ (u.block b).accPoison ∧ (u.block b).acc = (s.block b).acc) ∧
  (∀ (s : State) (c i : Nat) (ok : Bool), ∃ u, exec (.softError .l1Data c i ok) s = .next u ∧
    (u.core c).l1 = (s.core c).l1.filter (fun w => w.1 / 32 != i) ∧ u.mem = s.mem) ∧
  (∀ (s : State) (h i : Nat) (ok : Bool), ∃ u, exec (.softError .hartCache h i ok) s = .next u ∧ u.mem = s.mem ∧
    u.core (2048 + h) = { s.core (2048 + h) with
      l1 := (s.core (2048 + h)).l1.filter (fun w => w.1 / 16 != i), l2 := (s.core (2048 + h)).l2.filter (fun w => w.1 / 16 != i),
      l1i := (s.core (2048 + h)).l1i.filter (fun l => l.1 != i) }) ∧
  (∀ (s : State) (d i : Nat), (s.part (i % 64)).reason = 0 →
    ∃ u, exec (.softError .partitionEntries d i false) s = .next u ∧ u = { s with parts := u.parts, dies := u.dies } ∧
      u.part (i % 64) = { s.part (i % 64) with reason := 3, since := s.now } ∧
      tget (0 : Word) (u.die d).errors 23 = tget (0 : Word) (s.die d).errors 23 + 1) ∧
  (∀ (s : State) (d i : Nat), s.package.warm = none →
    ∃ u, exec (.softError .sharedState d i false) s = .next u ∧
      u = { s with dies := u.dies, package := { s.package with warm := some (2, s.now) } } ∧
      tget (0 : Word) (u.die d).errors 25 = tget (0 : Word) (s.die d).errors 25 + 1) ∧
  ∀ (s : State) (k : Nat), exec (.patrolScrub k) s = .next s

/-- R360, R362: power brings the boot chain up from the active bank: it stops unless both stages verify, the version is not below
the fused counter and the image boots; removing the power loses what is volatile and keeps the banks and the counter; an update
goes to the inactive bank and is pending where it verifies; of two causes of a warm reset at one instant the lower holds; a warm
reset that is not stopped ends every launch, empties the dies, counts itself and puts the package registers as written in
force. -/
def Sys2Proof.Claim.PowerAndReset : Prop :=
  (∀ (s : State), s.powered = false → ∃ u, exec .powerOn s = .next u ∧ u = { s with powered := true, boot := u.boot } ∧
    (u.boot.stopped = false ↔
      let img := bankOf s.boot s.boot.active
      Config.signatureValid (Config.bootStage img) = true ∧ s.boot.fused ≤ Config.imageVersion img ∧
        Config.signatureValid (Config.runtimeStage img) = true ∧ Config.imageBoots img = true)) ∧
  (∀ (s : State), ∃ u, exec .powerRemoval s = .next u ∧ u.powered = false ∧ u.mem = [] ∧ u.blocks = [] ∧ u.launches = [] ∧
    u.queues = [] ∧ u.parts = [] ∧ u.dies = [] ∧ u.boot.bank0 = s.boot.bank0 ∧ u.boot.bank1 = s.boot.bank1 ∧
    u.boot.active = s.boot.active ∧ u.boot.fused = s.boot.fused ∧ u.hostMem = s.hostMem) ∧
  (∀ (s : State) (img : List Byte), ∃ u, exec (.pldmFirmwareUpdate img) s = .next u ∧ u = { s with boot := u.boot } ∧
    bankOf u.boot (1 - s.boot.active) = img ∧ u.boot.active = s.boot.active ∧
    (s.boot.active ≤ 1 → bankOf u.boot s.boot.active = bankOf s.boot s.boot.active) ∧
    (u.boot.pendingUpdate = true ↔ Config.signatureValid (Config.bootStage img) = true ∧
      Config.signatureValid (Config.runtimeStage img) = true ∧ s.boot.fused ≤ Config.imageVersion img)) ∧
  (∀ (s : State) (c t : Nat), s.package.warm = some (c, t) →
    (∃ u, exec .firmwareWatchdog s = .next u ∧
      u = { s with package := { s.package with warm := some (if t = s.now then min c 4 else c, t) } }) ∧
    ∀ v : Dword, v.getLsbD 0 = true → ∃ u, exec (.registerWrite (.window 0x208) v) s = .next u ∧
      u = { s with package := { s.package with warm := some (if t = s.now then min c 1 else c, t) } }) ∧
  ∀ (s : State), s.package.warmStopped = false →
    ∃ u, exec .warm s = .next u ∧ u.blocks = [] ∧ u.cores = [] ∧ u.piers = [] ∧ u.jobs = [] ∧ u.harts = [] ∧
      u.package.rstCount = min 255 (s.package.rstCount + 1) ∧
      u.package.rstCause = (match s.package.warm with | some (c, t) => (if t = s.now then min c 1 else c) | none => 1) ∧
      u.package.warm = none ∧
      u.package.pkgid = s.package.pkgidW ∧ u.package.nodePos = s.package.nodePosW ∧ u.package.nPkg = s.package.nPkgW ∧
      (∀ t, (s.launch t).used = true → (u.launch t).complete = true) ∧
      ∀ p < 64, (s.part p).inForce.v = true → (u.part p).gen = (s.part p).gen + 1

/-- R360: what the package answers to each request of the attestation protocol. The layout of the answers is the model's
choice (log entry 10). -/
def Sys2Proof.Claim.Attestation : Prop :=
  ∀ (s : State),
    Responds .getVersion s 1 [0x13] ∧ Responds .getCapabilities s 2 [1, 1, 1] ∧
    (∀ a b : Bool, Responds (.negotiateAlgorithms a b) s 3 [if a then 1 else 0, if b then 1 else 0]) ∧
    Responds .getDigests s 4 (leBytes 32 (Config.shake256 Config.certificateChain).toNat) ∧
    Responds .getCertificate s 5 Config.certificateChain ∧
    (∀ n, Responds (.challenge n) s 6 (Config.sign (n ++ leBytes 32 (Config.shake256 Config.certificateChain).toNat))) ∧
    (∀ n, let m := leBytes 32 s.boot.m4.toNat
      Responds (.getMeasurements 4 n) s 7 (m ++ Config.sign (n ++ m))) ∧
    ∀ k n, ∃ u bs, exec (.getMeasurements k n) s = .next u ∧ u = { s with sent := s.sent ++ [.bytes 7 bs] }

/-! ## Application cores -/

/-- R332 to R336: a load of device memory reads its value into RD and leaves memory and every other register as they were; LR
does so and reserves the bytes with its words owned; a notify page or an interrupt file reads as 0; an access outside the
partition faults, which is a trap and ends the reservation, and so does a load of poisoned bytes, which leaves a RAS record.
That LR and the loads extend their value as they do is the model's (log entry 8), and so is what an interrupt file reads as (log
entry 46). -/
def Obligations.HartLoads : Prop :=
  (∀ (s : State) (h p rd addr size : Nat) (sg : Bool) (lf : Leaf) (v : Nat), HartCan s h p (.load rd addr size sg) →
    HartReads s h p addr size lf (some v) →
    ∃ u, exec (.hartLoad h rd addr size sg) s = .next u ∧ HartReg s u h rd (hartExtend size sg v) ∧ u.mem = s.mem ∧
      (u.hart h).resv = (s.hart h).resv ∧ (u.hart h).held = none ∧ (u.core (2048 + h)).record = (s.core (2048 + h)).record) ∧
  (∀ (s : State) (h p rd addr size : Nat) (sg : Bool), HartCan s h p (.load rd addr size sg) →
    ((∃ i o, hartPlace s h addr = .notify i o) ∨ ∃ k f o, hartPlace s h addr = .imsic k f o) →
    ∃ u, exec (.hartLoad h rd addr size sg) s = .next u ∧ HartReg s u h rd 0 ∧ OnlyHarts s u) ∧
  (∀ (s : State) (h p rd addr size : Nat) (sg : Bool) (lf : Leaf), HartCan s h p (.load rd addr size sg) →
    HartReads s h p addr size lf none →
    ∃ u, exec (.hartLoad h rd addr size sg) s = .next u ∧ HartRegsKept s u h ∧ u.mem = s.mem ∧
      (u.hart h).fault = some addr ∧ (u.hart h).rasLog = (s.hart h).rasLog ++ [addr] ∧
      HartTraps s u h 5 ((s.hart h).via.getD (BitVec.ofNat 64 addr))) ∧
  (∀ (s : State) (h p rd addr size : Nat) (aq : Bool) (lf : Leaf) (v : Nat), HartCan s h p (.lr rd addr size aq) →
    (∀ w ∈ physWords addr size, (tfind w (s.core (2048 + h)).owned).isSome = true) → lf.m = false →
    HartReads s h p addr size lf (some v) →
    ∃ u, exec (.hartLr h rd addr size aq) s = .next u ∧ HartReg s u h rd (hartExtend size true v) ∧ u.mem = s.mem ∧
      (u.hart h).resv = some (addr, size) ∧ (u.hart h).held = none) ∧
  (∀ (s : State) (h p addr : Nat), hartPart s h = some p → s.frozen p = false → (s.hart h).frozen = false →
    hartPlace s h addr = .none → ∃ u, exec (.hartAccessFault h addr) s = .next u ∧
      u = { s with harts := u.harts, free := s.free + 1 } ∧ (u.hart h).fault = some addr ∧
      ∃ c ∈ [1, 5, 7], HartTraps s u h c ((s.hart h).via.getD (BitVec.ofNat 64 addr))) ∧
  ∀ (s : State) (h p rd addr size : Nat) (sg : Bool), HartCan s h p (.load rd addr size sg) → hartPlace s h addr = .none →
    ∃ u, exec (.hartLoad h rd addr size sg) s = .next u ∧ HartFaulted s u h addr 5

/-- R228, R262, R331, R334, R337: a store to a page that may be written enters the core's record, and to another faults (log
entry 119); one to a notify page rings its doorbell, one to an interrupt
file makes its identity pending; SC stores and answers 0 where its reservation stands, else answers 1 and stores nothing; CBO.ZERO
stores 64 zero bytes. SC's 0 and 1 and the write of an identity are the model's (log entry 8). -/
def Obligations.HartStores : Prop :=
  (∀ (s : State) (h p rs addr size : Nat) (lf : Leaf), HartCan s h p (.store rs addr size) → hartPlace s h addr = .memory lf →
    (lf.w = false → ∃ u, exec (.hartStore h rs addr size) s = .next u ∧ HartFaulted s u h addr 7) ∧
    (lf.w = true → HartRoom s h addr →
    ∃ u, exec (.hartStore h rs addr size) s = .next u ∧
      HartStored s u h addr (leBytes size (hartReg s h rs).toNat) false ∧ HartRegsKept s u h ∧ u.mem = s.mem ∧
      (u.hart h).held = none)) ∧
  (∀ (s : State) (h p rs addr size i : Nat), HartCan s h p (.store rs addr size) → hartPlace s h addr = .notify i 0 →
    ∃ u w, exec (.hartStore h rs addr size) s = .next u ∧ w = doorbellTail i size (hartReg s h rs) s ∧
      u = { w with harts := u.harts, seq := u.seq } ∧ HartRegsKept s u h) ∧
  (∀ (s : State) (h p rs addr k f : Nat), HartCan s h p (.store rs addr 4) → hartPlace s h addr = .imsic k f 0 →
    ∃ u, exec (.hartStore h rs addr 4) s = .next u ∧ OnlyHarts s u ∧
      (u.hart k).imsic = (s.hart k).imsic ++ [(f, (hartReg s h rs).toNat % 2 ^ 32)]) ∧
  (∀ (s : State) (h p rd rs addr size : Nat) (rl : Bool) (lf : Leaf), HartCan s h p (.sc rd rs addr size rl) →
    hartPlace s h addr = .memory lf → lf.w = true →
    (hartReserved s h addr size = false → ∃ u, exec (.hartSc h rd rs addr size rl) s = .next u ∧ HartReg s u h rd 1 ∧
      (u.hart h).resv = none ∧ OnlyHarts s u) ∧
    (hartReserved s h addr size = true → HartRoom s h addr → ∃ u, exec (.hartSc h rd rs addr size rl) s = .next u ∧
      HartReg s u h rd 0 ∧ (u.hart h).resv = none ∧ HartStored s u h addr (leBytes size (hartReg s h rs).toNat) rl ∧
      u.mem = s.mem)) ∧
  ∀ (s : State) (h p addr : Nat) (lf : Leaf), HartCan s h p (.zero addr) → hartPlace s h addr = .memory lf → lf.w = true →
    HartRoom s h (addr / 64 * 64) → ∃ u, exec (.cboZero h addr) s = .next u ∧
      HartStored s u h (addr / 64 * 64) (List.replicate 64 0) false ∧ u.mem = s.mem ∧ HartRegsKept s u h

/-- R124, R333, R334: an AMO of words without an owner is performed at their home, which records the core as their owner: RD takes
the old value and memory the new; a release fence stands until the core's older stores have drained; FENCE.I and a cache-block operation until the record lets them:
FENCE.I empties the instruction cache, FLUSH and INVAL drop the block's clean copies, and CLEAN leaves them. The AMO operations
are the model's (log entry 8), and so is what each fence and cache-block operation does (log entries 8 and 38). -/
def Sys2Proof.Claim.HartAtomicsAndFences : Prop :=
  (∀ (s : State) (h p rd rs addr size : Nat) (op : AmoOp) (aq rl : Bool) (lf : Leaf),
    HartCan s h p (.amo rd rs addr size op aq rl) → hartPlace s h addr = .memory lf → lf.m = false → lf.w = true → lf.a = true →
    linkWaits s addr = false → hartHolds s h (physWords addr size) = false →
    (rl = true → hartReleased (hartBegin s h) h = true) → hartPoison s lf addr = false →
    Admits s p 3 → Admits s p 1 → (inSlice s addr = true ∨ Admits s p 0) → Unowned s (physWords addr size) →
    let old := rdNat s.mem addr size
    ∃ u, exec (.hartAmo h rd rs addr size op aq rl) s = .next u ∧ HartReg s u h rd (hartExtend size true old) ∧
      Stored u.mem s.mem addr size (amoNew op (8 * size) old (hartReg s h rs).toNat) ∧
      ∀ w ∈ physWords addr size, (tfind w (u.core (2048 + h)).owned).isSome = true) ∧
  (∀ (s : State) (h p : Nat) (aq rl : Bool), HartCan s h p (.fence aq rl) →
    ∃ u, exec (.hartFence h aq rl) s = .next u ∧ OnlyHarts s u ∧ HartRegsKept s u h ∧
      (u.hart h).held = (if rl = true ∧ hartReleased (hartBegin s h) h = false then some (.fence aq rl) else none)) ∧
  (∀ (s : State) (h p : Nat), HartCan s h p .fenceI → (s.core (2048 + h)).record = [] →
    ∃ u, exec (.hartFenceI h) s = .next u ∧ u = { s with cores := u.cores, harts := u.harts, seq := u.seq } ∧
      (u.core (2048 + h)).l1i = [] ∧ (u.hart h).held = none ∧ HartRegsKept s u h) ∧
  ∀ (s : State) (h p addr : Nat) (lf : Leaf), hartPlace s h addr = .memory lf →
    (∀ e ∈ (s.core (2048 + h)).record, e.chunk.toNat / 64 ≠ addr / 64) →
    (HartCan s h p (.clean addr) → ∃ u, exec (.cboClean h addr) s = .next u ∧ OnlyHarts s u ∧
      HartRegsKept s u h) ∧
    (HartCan s h p (.flush addr) → ∃ u, exec (.cboFlush h addr) s = .next u ∧
      u = { s with cores := u.cores, harts := u.harts, seq := u.seq } ∧
      HartRegsKept s u h ∧ (∀ w ∈ (u.core (2048 + h)).l1, w.1 / 16 ≠ addr / 64) ∧
        ∀ w ∈ (u.core (2048 + h)).l2, w.1 / 16 ≠ addr / 64) ∧
    (HartCan s h p (.inval addr) → ∃ u, exec (.cboInval h addr) s = .next u ∧
      u = { s with cores := u.cores, harts := u.harts, seq := u.seq } ∧
      HartRegsKept s u h ∧ (∀ w ∈ (u.core (2048 + h)).l1, w.1 / 16 ≠ addr / 64) ∧
        ∀ w ∈ (u.core (2048 + h)).l2, w.1 / 16 ≠ addr / 64)

/-- R331, R334, R336: an application core takes the first interrupt that is pending and enabled, and a fault of its translation,
as traps, which end its reservation; MRET goes back to the mode and the place that the trap kept, and in another mode is an
illegal instruction. The modes, the registers and the order of the interrupts are the RISC-V manuals' (log entry 116). -/
def Sys2Proof.Claim.HartPrivilege : Prop :=
  (∀ (s : State) (h c : Nat), awake s = true → h < 512 → (hartAwake s h).isSome = true →
    let x := s.hart h
    interruptOrder.find? (fun k => interruptPending x k && interruptEnabled x k) = some c →
    ∃ u, takeTurn (.hartInterrupt h) s = .next u ∧ u = { s with harts := u.harts } ∧
      HartEntered x (u.hart h) (interruptTo x c) true c 0 ∧ (u.hart h).resv = none ∧ (u.hart h).regs = x.regs) ∧
  (∀ (s : State) (h va size rd code gpa : Nat) (sg : Bool), awake s = true → h < 512 → (hartAwake s h).isSome = true →
    rd < 32 → size ∈ [1, 2, 4, 8] → va % size = 0 → (s.hart h).held = none → svTranslate s h .load va = .fault code gpa →
    ∃ u, takeTurn (.hartVirtual h (.load rd va size sg)) s = .next u ∧ u = { s with harts := u.harts } ∧
      HartTraps s u h code (BitVec.ofNat 64 va)) ∧
  ∀ (s : State) (h : Nat), awake s = true → h < 512 → (hartAwake s h).isSome = true → (s.hart h).held = none →
    let x := s.hart h
    ((x.mode = .m → ∃ u, takeTurn (.hartReturn h true) s = .next u ∧ u = { s with harts := u.harts } ∧
        (u.hart h).pc = x.csr Csr.mepc ∧ (u.hart h).regs = x.regs ∧
        ((u.hart h).csr Csr.mstatus).getLsbD 3 = (x.csr Csr.mstatus).getLsbD 7 ∧
        (u.hart h).mode = HartMode.of ((if (x.csr Csr.mstatus).getLsbD 11 then 1 else 0) +
          if (x.csr Csr.mstatus).getLsbD 12 then 2 else 0) ((x.csr Csr.mstatus).getLsbD 39)) ∧
     (x.mode ≠ .m → ∃ u, takeTurn (.hartReturn h true) s = .next u ∧ u = { s with harts := u.harts } ∧
        HartTraps s u h 2 0))

namespace Sys2Proof.Claim

/-- The fields of a word with GP 15 and all other bits zero. -/
def plain : Fields :=
  { w := false, x := false, gn := false, gp := 15, d := 0, sa := 0, sb := 0, sc := 0, rt := .none, i := false, t := .b32,
    sub := 0, imm := 0 }

end Sys2Proof.Claim

/-! ## Encoding -/

/-- R54 to R66: every well-formed Shaoc instruction has a word, and its 12 bytes, lowest first, decode to it with the bytes that
follow left over. -/
def Obligations.DecodeOfEncode : Prop :=
  ∀ (i : Instr) (rest : List Byte), i.wf = true → i.opFields.isSome = true →
    ∃ w, encode i = some w ∧ decodeWord w = .ok i ∧ decode (leBytes 12 w.toNat ++ rest) = .ok (i, rest)

/-- R54, R66: a word that decodes decodes to a well-formed instruction, and it is that instruction's word: no two words mean
the same instruction, and no bit of a word is dropped. -/
def Obligations.EncodeOfDecode : Prop :=
  ∀ (w : BitVec 96) (i : Instr), decodeWord w = .ok i → i.wf = true ∧ encode i = some w

/-- R54, R66, R67: words written out from the encoding: the worked IADD, a BRA, an FSPAWN, an MSTR, a TRAP, a SYSRD; an OP that
is not listed, and one field that must be zero. -/
def Obligations.WordsDecode : Prop :=
  decodeWord 0x03C60A02_01401040_00000000#96 = .ok (.iadd { plain with w := true, x := true, gp := 3, d := 10, sa := 4, sb := 5, rt := .sb, t := .s32 }) ∧
  decodeWord 0x30020000_00000000_00000003#96 = .ok (.bra { plain with gp := 1, imm := 3 }) ∧
  decodeWord 0xA0040301_00000001_00000002#96 = .ok (.fspawn { plain with gp := 2, d := 3, sa := 2, sub := 1, imm := 2 }) ∧
  decodeWord 0xC31E0006_03400008_00000000#96 = .ok (.mstr { plain with sa := 12, sb := 13, sub := 8 }) ∧
  decodeWord 0xF0020000_00000000_0000002A#96 = .ok (.trap { plain with gp := 1, imm := 0x2A }) ∧
  decodeWord 0xF31E0400_00000000_00000100#96 = .ok (.sysrd { plain with d := 4, imm := 0x100 }) ∧
  decodeWord 0xFE000000_00000000_00000000#96 = .error (.illegalOpcode 0xFE) ∧
  decodeWord 0x001E0000_00000000_00000001#96 = .error .reservedField

/-! ## Whole-machine rules -/

/-- R213, R226: whichever turn is taken, both byte memories keep their canonical form. -/
def Obligations.MemoryFormIsKept : Prop :=
  ∀ (s u : State), s.memWf → step s = .next u → u.memWf

/-- The memories have the form at reset; the form is the model's own (log entry 3). -/
def Sys2Proof.Claim.MemoryFormAtReset : Prop := State.reset.memWf

/-- No instruction and no step of another agent stops the machine: each answers a next state. -/
def Obligations.ExecAnswers : Prop := ∀ (i : Instr) (s : State), ∃ u, exec i s = .next u

/-- A proper turn of a state never stops the machine. -/
def Obligations.SafeStatesStep : Prop := ∀ (s : State), s.safe → s.agenda ≠ [] → ∃ u, step s = .next u

/-- R50, R57, R58, R67: where the bytes at the program counter of a batch decode to an instruction and no check of R67 fails, the
turn that issues them runs it. The order of the agents is the model's own (log entry 4). -/
def Obligations.StepRunsTheDecodedInstruction : Prop :=
  (∀ (s : State) (p sc : Nat) (ts : List Turn), s.agenda = .issue p sc :: ts → p < 2048 → sc < 4 → awake s = true →
    let s0 : State := { s with agenda := ts }
    (∀ t, prepareIssue s0 p sc = .done t → step s = .next t) ∧
    (∀ a t u, prepareIssue s0 p sc = .one a t → exec a.i t = .next u → step s = .next (finishIssue p sc [a] a u)) ∧
    ∀ a b t u v, prepareIssue s0 p sc = .two a b t → exec a.i t = .next u →
      exec b.i (secondSlot a b u) = .next v → step s = .next (finishIssue p sc [a, b] b v)) ∧
  (∀ (s : State) (i : Instr) (ts : List Turn), s.agenda = .event i :: ts → i.wf = true → i.opFields = none →
    answers s i = true → step s = exec i { s with agenda := ts }) ∧
  ∀ (s q : State) (p sc l0 : Nat) (r : Run) (ls : List Nat) (bytes : List Byte) (i : Instr),
    s.run? p sc = some r → r.refetch = false → budgetHeld s r.blk r.grp = false → launchRuns s (s.block r.blk).tag = true → (s.block r.blk).onPier = some p →
    (groupLanes r.grp r.lanes).filter (fun l => laneFree ((s.block r.blk).lane l)) = l0 :: ls →
    let pc := ((s.block r.blk).lane l0).pc
    let s0 : State := { s with cur := { pier := p, sched := sc, blk := r.blk, grp := r.grp, lanes := lanesMask (l0 :: ls),
                                        pc := pc, next := pcNext pc } }
    pcSlot pc ≤ 4 → pc.msb = false → fetchLine s0 p (s.block r.blk).tag r.id pc = (q, .line bytes) → lineSound bytes = true →
    linePair bytes (pcSlot pc) = false →
    let w := lineSlot bytes (pcSlot pc)
    decodeWord w = .ok i → decodeFault w (q.launch (q.block r.blk).tag).rec_ ((q.block r.blk).lane l0).hmode = none →
    ((∀ l ∈ l0 :: ls, ((q.block r.blk).lane l).entering = false) ∨ lineTgt bytes (pcSlot pc) = true) →
    ((wordFields w).w = false ∨ outstanding q r.blk r.grp = false) →
    (((q.block r.blk).lane l0).hmode = true ∨ breakAt (q.pier p) [pc] = none) →
    ∃ a t, prepareIssue s p sc = .one a t ∧ a.i = i ∧ t.cur.pc = pc ∧ t.cur.next = pcNext pc ∧ t.cur.blk = r.blk ∧
      t.cur.grp = r.grp ∧ t.cur.lanes = lanesMask (l0 :: ls) ∧ ((q.block r.blk).regPoison = [] → t.mem = q.mem)

/-- R319, R338, R348, R353 and the reset column of R194: values the spec gives for reset: permits full, quotas of 256 with every
other field of a partition's entry 0, valves open with their limits, the L1 caches on, no moisture. QDBASE has no reset value in the
spec: that it holds 0 is the model's choice (log entry 6). -/
def Sys2Proof.Claim.ResetValues : Prop :=
  (∀ d, (State.reset.die d).pool = 64) ∧
  (∀ p, (State.reset.part p).inForce = { quota := 256 } ∧ (State.reset.part p).written = { quota := 256 } ∧
    (State.reset.part p).gen = 0 ∧ (State.reset.part p).cfgErr = false ∧ (State.reset.part p).rdone = false) ∧
  (∀ d z, (getZone State.reset d z).dpMax = 2000 ∧ (getZone State.reset d z).dpMin = 200 ∧ (getZone State.reset d z).slope = 32 ∧
    (getZone State.reset d z).man = false) ∧
  (∀ p, (State.reset.pier p).l1ctl = 0) ∧ State.reset.package.moisture = false ∧ State.reset.package.qdbase = 0

/-! ## The statements made of several parts -/

/-- What the integer, bitwise, field and byte instructions write. R74, R75, R77, R78, R79, R80: Each of these instructions
completes for every form and state; lanes with guard 1 get the result of the rule in the registers of D by type, and nothing
else changes. -/
def Obligations.IntegerResults : Prop :=
  Sys2Proof.Claim.IntegerArithmetic ∧ Sys2Proof.Claim.BitwiseResults ∧ Sys2Proof.Claim.FieldsAndBytes

/-- What the instructions with a predicate result write. R82, R83, R84, R91, R92: Comparisons, class tests and predicate
instructions complete for every form and state; lanes with guard 1 get the predicate of the rule (p15 discards it), a float
comparison adds NV for a signalling NaN, and nothing else changes. -/
def Obligations.PredicateResults : Prop :=
  Sys2Proof.Claim.PredicateWrites ∧ Sys2Proof.Claim.FloatPredicates

/-- Division, square root and quantisation become outstanding results. R21, R31, R56, R74, R98: Each completes for every
form and state: one outstanding result for each lane with guard 1, with the words and flags of the rules; registers and
memory are unchanged until the result is written. -/
def Obligations.LongLatencyResults : Prop :=
  Sys2Proof.Claim.DivisionStarts ∧ Sys2Proof.Claim.LongLatencyStarts

/-- What the float instructions write, and that each completes. R29, R90, R93: FADD, FSUB, FMUL, FFMA, FMIN, FMAX, FRCP,
FRSQ, FEXP2, FLOG2, FSIN, FCOS, FTANH, FSIGM, FDOT2, FSCALE, FFRAC and FRND each complete: for every form and every state
exec answers a next state, and the lanes with guard 1 hold their results in it. Element by element, one rounding in rm with
the flags added to FPSTAT; the approximate instructions give the special results of R93 and elsewhere a result within the
bound of R29, which one being a free value (log entry 9). Nothing else changes. -/
def Obligations.FloatResults : Prop :=
  Sys2Proof.Claim.FloatArithmetic ∧ Sys2Proof.Claim.ApproximateResults ∧ Sys2Proof.Claim.FloatFormsComplete

/-- What the conversions and the quad exchange write, and that each completes. R95, R96, R97, R98, R99, R100, R102: CVTF,
CVTFI, CVTIF, CVTN, CVTW, DQNT, DPWE, SCALEQ, CMPR, QSWZ, QBCAST and QRED each complete: for every form and every state exec
answers a next state, and the lanes with guard 1 hold their results in it. Conversions between float, integer and narrow
formats write the rule's value and flags; exact widening, scale codes, compression and the quad exchange write theirs;
nothing else changes. -/
def Obligations.ConversionResults : Prop :=
  Sys2Proof.Claim.Conversions ∧ Sys2Proof.Claim.ExactConversionsAndQuads ∧ Sys2Proof.Claim.ConversionFormsComplete

/-- Control transfers, bad targets and YIELD. R52, R53, R57, R85, R87, R206, R292: Where its target passes the checks each
lane with guard 1 goes to it, CALL and CALLX writing the return address to the pair D; lanes whose target fails the checks
stop at the transfer with BAD_TARGET, the target recorded, and the launch is terminating; YIELD ends the run. Nothing else
changes. -/
def Obligations.TransfersAndYield : Prop :=
  Sys2Proof.Claim.ControlTransfers ∧ Sys2Proof.Claim.BadTargetsStop ∧ Sys2Proof.Claim.YieldEndsRun

/-- Taking a trap, returning from one, and UDF. R66, R189, R190, R192, R193, R290, R292: TRAP and BRK save the cause, the
slot after, the value and the lanes in the group's trap registers and enter the handler; RTE takes the lanes out of handler
mode to TRAPPC; UDF stops its lanes and marks the launch terminating; that COUNT rises by one for a batch of several lanes
is log entry 11 (the model's inference). Of memory only the fault record is written. -/
def Obligations.TrapsAndReturn : Prop :=
  Sys2Proof.Claim.TrapTakesCause ∧ Sys2Proof.Claim.ReturnFromHandler ∧ Sys2Proof.Claim.UdfTerminates

/-- SYSRD and SYSWR. R58, R125, R194, R198, R281, R341: SYSRD writes the register's value to the pair D; SYSWR with admitted
values makes the register read as the last lane with guard 1 gave it. Main memory, the general registers and the predicates
are unchanged by a write. EYEST takes words from the inbox, SLICECTL powers or empties the home slice, XLFENCE with GO waits
for its release and then at its fence; each leaves everything else. -/
def Obligations.SystemRegisters : Prop :=
  Sys2Proof.Claim.SystemRegisterReads ∧ Sys2Proof.Claim.SystemRegisterWrites ∧ Sys2Proof.Claim.SystemRegisterCommands

/-- HALT, WFE, SEV and DBGMB. R195, R197, R199, R200: HALT sets the group's HALTMASK bit and ends the run, which is log
entry 15 (the model's inference); WFE clears a set event flag or waits, SEV sets every group's flag; DBGMB with room posts
the pair of each lane and writes its sequence number. -/
def Obligations.HaltEventsAndDebug : Prop :=
  Sys2Proof.Claim.HaltSetsMask ∧ Sys2Proof.Claim.WaitForEvent ∧ Sys2Proof.Claim.DebugPost

/-- Step records and the instructions that read a number. R131, R138, R139, R201, R203, R204: DLSET, DLPROG and DLEND write
the block's step record; LANEID, POPLANE, BSTQ, CNTRD, TMRD, ZONEQ and the record queries write their value; nothing else
changes. -/
def Obligations.StepsAndCounters : Prop :=
  Sys2Proof.Claim.StepRecords ∧ Sys2Proof.Claim.NumbersRead

/-- Loads, atomics and reductions that pass their checks, and watchpoints. R119, R120, R123, R124, R190, R196: A load,
atomic or reduction of the global, private or host window becomes one outstanding operation for each lane with guard 1, with
its pointer, type, registers and operands; no register and no byte of memory changes before it is performed. An atomic that
its window does not admit raises SPACE_INVALID. One of the scratchpad or cluster-shared window is performed at once, the
lanes in some order. An access that an enabled watchpoint matches is performed in full and raises WATCHPOINT at the next
slot; that the cause waits while lanes of the group are in handler mode is log entry 121. -/
def Obligations.AccessesGoOut : Prop :=
  Sys2Proof.Claim.LoadGoesOut ∧ Sys2Proof.Claim.AtomicGoesOut ∧ Sys2Proof.Claim.AtomicRefused ∧ Sys2Proof.Claim.LocalAtomicsAct ∧ Sys2Proof.Claim.WatchpointsFire

/-- Loads and stores of the scratchpad, cluster-shared and accumulator windows. R120, R121, R122, R126: A load that nothing
holds back reads its bytes at once into an outstanding result; stores write exactly their bytes, lane after lane, to the
scratchpads and to the accumulator rows, and every other byte of these, of main memory and every register is unchanged. An
access held back by its fibre's order waits at the core, and its group goes on (log entry 122). -/
def Obligations.LocalAccesses : Prop :=
  Sys2Proof.Claim.LocalLoadReads ∧ Sys2Proof.Claim.LocalStoreWrites

/-- REL, ACQ, SYNCF, RECDRN, PFCH and CDROP. R125, R126, R131, R132: REL goes on where every lane meets the release
conditions, else its group waits; ACQ never waits; RECDRN changes nothing; PFCH and CDROP change caches alone, CDROP leaving
no copy of its line. -/
def Obligations.FencesAndCaches : Prop :=
  Sys2Proof.Claim.Fences ∧ Sys2Proof.Claim.RecordDrainRequest ∧ Sys2Proof.Claim.CacheManagement

/-- SPTEST, OBJQ, SPCAST, OBJPTR and PRSTEST, and reads of the object table. R12, R115, R128, R129, R130, R132, R278, R342,
R343: The tests and object fields, and where every lane passes the checks the cast pointer, the pointer into the object and
the presence of the line; a read of the object table asks for U of its page, which is set at its home, and waits where the
budget of memory reads is spent; nothing else changes. -/
def Obligations.Pointers : Prop :=
  Sys2Proof.Claim.PointerQueries ∧ Sys2Proof.Claim.PointerMaking ∧ Sys2Proof.Claim.TableReads

/-- Results of the masked group operations. R104, R105, R106, R107, R108: A complete instance gives GSHFL, GRED, GSCAN,
GMATCH, GVOTE and GELECT their results in the participants; GBAR changes no register and ends the run, which is log entry 14
(the model's inference). Nothing else changes. -/
def Obligations.GroupOperations : Prop :=
  Sys2Proof.Claim.GroupResults ∧ Sys2Proof.Claim.GroupVotes

/-- Waiting in a masked instance and at the block barrier. R104, R140: Lanes whose mask names further lanes wait in a new
instance; BLKBAR parks its lanes until every live fibre of the block has arrived, and the last arriver lets all of them go
on and ends the run, which is log entry 14 (the model's inference). -/
def Obligations.InstancesAndBarriers : Prop :=
  Sys2Proof.Claim.InstanceWaits ∧ Sys2Proof.Claim.BlockBarrier

/-- Convergence registers: signatures, issued rounds, CVSET and CVWAIT. R142, R143, R144, R155: A signature counts; the one
that completes a round hands the operation to the quadrant and opens the next round; CVSET sets an idle register's count;
CVWAIT writes the outcome of the lane's last round or waits. -/
def Obligations.ConvergenceRounds : Prop :=
  Sys2Proof.Claim.SignaturesCount ∧ Sys2Proof.Claim.RoundIssues ∧ Sys2Proof.Claim.ConvergenceRegisters

/-- FSPAWN and FEND. R135, R137: FSPAWN starts a fibre in the lowest empty lane of the group, else of the block, and writes
1, or 0 with no empty lane; FEND ends the fibres of the lanes with guard 1 and the run. -/
def Obligations.Fibres : Prop :=
  Sys2Proof.Claim.SpawnFibre ∧ Sys2Proof.Claim.FibreEnds

/-- Named groups: requests, waits and what the orrery does. R148, R149, R150, R152, R153: Joins, arrivals, leaves, queries
and closings become requests; SGWAIT parks or goes on; at the orrery a join makes a member or a group, an arrival counts,
the last one completes the phase, a query answers and a closing closes. That SGQUERY of n = 3 answers the phase of the
handle as it stands at issue is log entry 80 (the model's inference). -/
def Obligations.NamedGroups : Prop :=
  Sys2Proof.Claim.NamedGroupRequests ∧ Sys2Proof.Claim.NamedGroupWait ∧ Sys2Proof.Claim.OrrerySteps

/-- Copy-engine instructions. R175, R176, R177, R178, R180, R182, R183, R184: SHDEF defines a slot; copies, gathers,
scatters, fills, chains and collectives that pass their checks become waiting jobs; CPSEAL numbers a batch, CPWAIT waits,
CPQUERY reads. That a private side of a job becomes its backing address is log entry 67 (the model's inference). -/
def Obligations.CopyInstructions : Prop :=
  Sys2Proof.Claim.ShapeDefinition ∧ Sys2Proof.Claim.CopyJobs ∧ Sys2Proof.Claim.ChainAndCollectiveJobs ∧ Sys2Proof.Claim.CopyBatches

/-- Results, loads and fills. R56, R120, R126, R231, R232: A written result reaches its lane's registers, predicate and
flags; a performed load reads each byte from the latest store of its record, else the L1, else the home; a fill installs the
words that are neither valid, excluded nor poisoned. Memory is unchanged but for a U bit. -/
def Obligations.ResultsAndLoads : Prop :=
  Sys2Proof.Claim.ResultsAreWritten ∧ Sys2Proof.Claim.LoadsArePerformed ∧ Sys2Proof.Claim.FillsInstall

/-- Drains, ownership, revocation and acknowledgement. R229, R230, R234: A drain writes exactly the entry's bytes at their
home or at the host, and the entry is gone; a request makes the core the owner and revokes another; a revoke leaves the core
without the word and is acknowledged. -/
def Obligations.DrainsAndOwnership : Prop :=
  Sys2Proof.Claim.DrainsWrite ∧ Sys2Proof.Claim.OwnershipMoves

/-- Atomics, reductions and host accesses are performed. R123, R124, R234, R287, R343, R357: An atomic on words without an
owner reads the old value and writes the new one in one step; host accesses read and write exactly their bytes at the home,
and a write of the host to a page that migrates waits at its home, in a queue that is the model's (log entry 109). -/
def Obligations.MemoryOperationsArePerformed : Prop :=
  Sys2Proof.Claim.AtomicsArePerformed ∧ Sys2Proof.Claim.HostAccesses

/-- Scheduler picks, demotion, promotion, refetch and presence timeouts. R50, R122, R215, R216, R217, R219, R224: A pick
begins a run of the candidate that ran longest ago; parked and starved groups exchange places; a sound refetched line ends
its wait, and a presence wait over its bound stops its lanes. -/
def Obligations.SchedulingAndWaits : Prop :=
  Sys2Proof.Claim.SchedulerPicks ∧ Sys2Proof.Claim.FetchAndPresenceWaits

/-- Matrix operations and presence bounds. R45, R158, R159, R162, R163, R165, R166, R167, R168, R169, R170, R179: An
operation at the head of its queue that meets its checks starts, and when complete has written what its rule says, a fused
stream in every quadrant that its shape writes and MRDA for each of its signers; a wait over its bound stops the queue or
fails the job. Which earlier value of a byte written meanwhile an operation finds is open (log entry 55). -/
def Obligations.MatrixOperations : Prop :=
  Sys2Proof.Claim.MatrixOperationsStart ∧ Sys2Proof.Claim.MatrixOperationsComplete ∧ Sys2Proof.Claim.PresenceBounds

/-- Engine jobs, chains and collectives. R175, R178, R180, R181, R182, R183, R185: A job whose turn it is starts; a finished
one completes, its batch counting it; a failed one is reported; chains and collectives open, go on and end as their rules
say. The one inline shape of a record and its arrival by a number of its own are log entries 69 and 70, the fate of cards
that disagree log entry 131 (the model's inferences). -/
def Obligations.EngineJobs : Prop :=
  Sys2Proof.Claim.JobsRun ∧ Sys2Proof.Claim.ChainsAndCollectivesRun

/-- Doorbells, mapping and unmapping. R261, R262: A proper doorbell moves the number of a mapped queue, an improper one
counts an error; a queue is mapped with its descriptor's numbers and gives its slot up with them. -/
def Obligations.DoorbellsAndSlots : Prop :=
  Sys2Proof.Claim.Doorbells ∧ Sys2Proof.Claim.QueuesMapAndUnmap

/-- Packets start and complete, and events are written. R264, R266, R267, R337: LAUNCH, WAITVAL, WRITEVAL, TIMESTAMP, MARKER
and COPYJOB start and complete as their rules say; the next event of a mapped queue is written as 32 bytes with its
interrupt, after the fault record that it tells of. The ring's PASID, the bits of a remap entry and a WAITVAL's bad read are
log entries 20, 39 and 84 (the model's choices). -/
def Obligations.PacketsAndEvents : Prop :=
  Sys2Proof.Claim.PacketsRun ∧ Sys2Proof.Claim.EventsAreWritten

/-- A launch is pinned, completes, is terminated, and frees its tag. R282, R292, R295, R296, R306: A launch whose leases are
resident is pinned; one with no work left completes with its event; a terminating one stops; a drained complete one frees
its tag; overdue termination and the reset bit make a capture due. -/
def Obligations.LaunchEnds : Prop :=
  Sys2Proof.Claim.LaunchesEnd ∧ Sys2Proof.Claim.TerminationStopsLaunches

/-- Registers written and read from outside the cores. R194, R197, R198, R259, R261, R273, R276, R281, R322, R338, R341,
R348: L1CTL, SLICECTL, HALTMASK, EYEST, fences, inbox, outbox, and the registers of the management window take effect as
their rules say. The bit layout of the PASID and remap entries is log entry 39 (the model's choice), and that a register's
reserved bits are dropped log entry 98 (its inference). -/
def Obligations.ManagementWindow : Prop :=
  Sys2Proof.Claim.RegistersFromOutside ∧ Sys2Proof.Claim.WindowWrites

/-- Migration, page responses, invalidation, page ages and host links. R258, R270, R271, R285, R286, R288: A migration is
refused or started, and at its end the destination frame holds the source's bytes with no other byte changed; page
responses, invalidations, page ages and host links act as their rules say. That a failed response takes the request away is
log entry 93 (the model's inference). -/
def Obligations.PagesAndMigration : Prop :=
  Sys2Proof.Claim.Migration ∧ Sys2Proof.Claim.PagesAndHostLinks

/-- Supply, canaries, the limiter and power gating. R309, R313, R314, R315, R320, R323, R352, R354: The supply settles;
canary warnings move the offset; droop warnings limit their cluster; sticky bits clear; an idle cluster with empty records
is gated and wakes at E3; a zone's sequence goes on behind it unless MOISTURE has come. -/
def Obligations.SupplyAndGating : Prop :=
  Sys2Proof.Claim.SupplyAndCanaries ∧ Sys2Proof.Claim.PowerGating

/-- Zone states, commands and moisture. R352, R353, R354, R362: DRY, PRIMING, FAILED and CLOSED follow their sequences;
other commands set CERR; moisture puts every cluster at E3 with cadence 16 and asks for the power to be removed, and no
context that was asked to save is saved after it. -/
def Obligations.ZoneSequencesAndMoisture : Prop :=
  Sys2Proof.Claim.ZoneSequences ∧ Sys2Proof.Claim.MoistureStopsThePackage

/-- Links, ports, lost members and RDMA frames. R355, R356, R357, R361: Retries count, links retrain and come up unless the
far end holds the same place, a memory link is lost after 10 ms with its alarm, a lost member makes a warm reset due, RDMA
requests are received, stored or answered, and a partition sends frames of its own. A READ's answer as a response of kind 8
and what a frame carries are log entry 45 (the model's inference), and the die at which shared state is counted is open (log
entry 135). -/
def Obligations.LinksAndFrames : Prop :=
  Sys2Proof.Claim.LinksAndPorts ∧ Sys2Proof.Claim.EthernetFrames

/-- Soft errors, scrubbing and telemetry. R358, R359: Errors count, uncorrectable ones poison, clean copies are dropped, a
scrub changes nothing; errors in shared state make a capture or a warm reset due; the alarm latch and the sensors read as
they stand. That a scrub changes nothing and the naming of the places are log entry 48 (the model's inference). -/
def Obligations.ErrorsAndTelemetry : Prop :=
  Sys2Proof.Claim.SoftErrors ∧ Sys2Proof.Claim.Telemetry

/-- Power, warm reset, firmware update and attestation. R360, R361, R362: The boot chain stops unless its stages verify;
power removal keeps the banks; an update goes to the inactive bank; of two causes of a warm reset at one instant the lower
holds; a warm reset ends every launch and empties the dies; each attestation request is answered. The layout of the answers
is the model's choice (log entry 10). -/
def Obligations.PowerFirmwareAndAttestation : Prop :=
  Sys2Proof.Claim.PowerAndReset ∧ Sys2Proof.Claim.Attestation

/-- Application cores: AMO, fences, cache-block operations, interrupts and returns. R124, R331, R333, R334, R336: An AMO is
performed at the home of its words; fences and cache-block operations stand until the record lets them and then act on
caches alone; the first pending and enabled interrupt and a fault of translation are taken as traps, which end the
reservation, and MRET goes back. The AMO operations are log entry 8 (presumed), what each fence and cache-block operation
does log entries 8 and 38, the modes and registers log entry 116 (presumed): they are the model's choice. -/
def Obligations.HartAtomicsAndTraps : Prop :=
  Sys2Proof.Claim.HartAtomicsAndFences ∧ Sys2Proof.Claim.HartPrivilege

/-- What reset leaves. R194, R319, R338, R348, R353: The memories have their canonical form; permits are full, partition
entries hold a quota of 256 and zeros, valve limits stand at their reset values, the L1 caches are on, and there is no
moisture. The form of the memories is the model's own (log entry 3), and that QDBASE holds 0 is its choice (log entry 6). -/
def Obligations.ResetState : Prop :=
  Sys2Proof.Claim.MemoryFormAtReset ∧ Sys2Proof.Claim.ResetValues
end

