-- ==== Sys2Proof/Laws/Decode.lean ====
section
/-! SUPPORT. The fields of a joined word are the fields it was joined from, and a word is joined from its fields. -/
namespace Sys2Proof

theorem Ty.ofCode_code (t : Ty) : Ty.ofCode t.code = t := by cases t <;> rfl
theorem Ty.code_ofCode (c : BitVec 4) : (Ty.ofCode c).code = c := by revert c; decide
theorem Retain.ofCode_code (r : Retain) : Retain.ofCode r.code = r := by cases r <;> rfl
theorem Retain.code_ofCode (c : BitVec 2) : (Retain.ofCode c).code = c := by revert c; decide

/-- The number that a joined word is, for an opcode of one byte. -/
theorem joinWord_toNat {op : Nat} (h : op < 256) (f : Fields) :
    (joinWord op f).toNat = f.imm.toNat + 2 ^ 32 * (f.sub.toNat + 2 ^ 6 * (f.t.code.toNat + 2 ^ 4 * (f.i.toNat +
      2 * (f.rt.code.toNat + 2 ^ 2 * (f.sc.toNat + 2 ^ 9 * (f.sb.toNat + 2 ^ 9 * (f.sa.toNat + 2 ^ 9 *
      (f.d.toNat + 2 ^ 9 * (f.gp.toNat + 2 ^ 4 * (f.gn.toNat + 2 * (f.x.toNat + 2 * (f.w.toNat +
      2 * op)))))))))))) := by
  have h1 := f.imm.isLt; have h2 := f.sub.isLt; have h3 := f.t.code.isLt; have h4 := f.i.toNat_lt
  have h5 := f.rt.code.isLt; have h6 := f.sc.isLt; have h7 := f.sb.isLt; have h8 := f.sa.isLt
  have h9 := f.d.isLt; have h10 := f.gp.isLt; have h11 := f.gn.toNat_lt; have h12 := f.x.toNat_lt
  have h13 := f.w.toNat_lt
  rw [joinWord, BitVec.toNat_ofNat]
  omega

theorem bitAt_eq (x : BitVec 96) (n : Nat) : bitAt x n = decide (x.toNat / 2 ^ n % 2 = 1) := by
  rw [bitAt, ← BitVec.testBit_toNat, Nat.testBit_eq_decide_div_mod_eq]

theorem wordOp_joinWord {op : Nat} (h : op < 256) (f : Fields) : wordOp (joinWord op f) = op := by
  have h1 := f.imm.isLt; have h2 := f.sub.isLt; have h3 := f.t.code.isLt; have h4 := f.i.toNat_lt
  have h5 := f.rt.code.isLt; have h6 := f.sc.isLt; have h7 := f.sb.isLt; have h8 := f.sa.isLt
  have h9 := f.d.isLt; have h10 := f.gp.isLt; have h11 := f.gn.toNat_lt; have h12 := f.x.toNat_lt
  have h13 := f.w.toNat_lt
  rw [wordOp, BitVec.extractLsb'_toNat, joinWord_toNat h, Nat.shiftRight_eq_div_pow]
  omega

/-- The bit of a joined word that a flag was joined at. -/
theorem decide_toNat (b : Bool) : decide (b.toNat = 1) = b := by cases b <;> rfl

theorem wordFields_joinWord {op : Nat} (h : op < 256) (f : Fields) : wordFields (joinWord op f) = f := by
  have h1 := f.imm.isLt; have h2 := f.sub.isLt; have h3 := f.t.code.isLt; have h4 := f.i.toNat_lt
  have h5 := f.rt.code.isLt; have h6 := f.sc.isLt; have h7 := f.sb.isLt; have h8 := f.sa.isLt
  have h9 := f.d.isLt; have h10 := f.gp.isLt; have h11 := f.gn.toNat_lt; have h12 := f.x.toNat_lt
  have h13 := f.w.toNat_lt
  have hw := joinWord_toNat h f
  have bv : ∀ (st len : Nat) (x : BitVec len), (joinWord op f).toNat / 2 ^ st % 2 ^ len = x.toNat →
      (joinWord op f).extractLsb' st len = x := by
    intro st len x hx
    apply BitVec.eq_of_toNat_eq
    rw [BitVec.extractLsb'_toNat, Nat.shiftRight_eq_div_pow, hx]
  have bb : ∀ (n : Nat) (b : Bool), (joinWord op f).toNat / 2 ^ n % 2 = b.toNat → bitAt (joinWord op f) n = b := by
    intro n b hb
    rw [bitAt_eq, hb, decide_toNat]
  rw [wordFields, bb 87 f.w (by rw [hw]; omega), bb 86 f.x (by rw [hw]; omega), bb 85 f.gn (by rw [hw]; omega),
    bv 81 4 f.gp (by rw [hw]; omega), bv 72 9 f.d (by rw [hw]; omega), bv 63 9 f.sa (by rw [hw]; omega),
    bv 54 9 f.sb (by rw [hw]; omega), bv 45 9 f.sc (by rw [hw]; omega), bv 43 2 f.rt.code (by rw [hw]; omega),
    bb 42 f.i (by rw [hw]; omega), bv 38 4 f.t.code (by rw [hw]; omega), bv 32 6 f.sub (by rw [hw]; omega),
    bv 0 32 f.imm (by rw [hw]; omega), Ty.ofCode_code, Retain.ofCode_code]

theorem wordOp_lt (w : BitVec 96) : wordOp w < 256 := (w.extractLsb' 88 8).isLt

theorem joinWord_wordFields (w : BitVec 96) : joinWord (wordOp w) (wordFields w) = w := by
  apply BitVec.eq_of_toNat_eq
  have hb : ∀ n, (bitAt w n).toNat = w.toNat / 2 ^ n % 2 := by
    intro n
    rw [bitAt_eq]
    rcases Nat.mod_two_eq_zero_or_one (w.toNat / 2 ^ n) with h | h <;> rw [h] <;> rfl
  have hw := w.isLt
  rw [joinWord_toNat (wordOp_lt w)]
  simp only [wordFields, wordOp, Ty.code_ofCode, Retain.code_ofCode, BitVec.extractLsb'_toNat,
    Nat.shiftRight_eq_div_pow, hb]
  omega

end Sys2Proof
end

