-- ==== Sys2Proof/Laws/Table.lean ====
section
/-! SUPPORT. The laws of sparse tables and of byte memories: what a read after a write gives, and that every memory
operation keeps the canonical form. -/
namespace Sys2Proof.Machine

section Tables
variable {α : Type}

@[simp] theorem tfind_nil (k : Nat) : tfind k ([] : Tbl α) = none := rfl
@[simp] theorem tget_nil (d : α) (k : Nat) : tget d [] k = d := rfl

theorem tfind_tins (k j : Nat) (v : α) (t : Tbl α) : tfind j (tins k v t) = if j = k then some v else tfind j t := by
  induction t with
  | nil => simp [tins, tfind, eq_comm]
  | cons e r ih =>
    obtain ⟨i, u⟩ := e
    rcases Nat.lt_trichotomy i k with h | h | h
    · simp only [tins, h, if_true, tfind, ih]
      by_cases hi : i = j
      · subst hi; simp [Nat.ne_of_lt h]
      · simp [hi]
    · subst h; by_cases hj : j = i <;> simp [tins, tfind, eq_comm, hj]
    · simp only [tins, Nat.lt_asymm h, Nat.ne_of_gt h, if_false, tfind, eq_comm]

theorem tfind_tdel (k j : Nat) (t : Tbl α) : tfind j (tdel k t) = if j = k then none else tfind j t := by
  induction t with
  | nil => simp [tdel]
  | cons e r ih =>
    obtain ⟨i, u⟩ := e
    by_cases h : i = k
    · subst h
      simp only [tdel, if_true, ih, tfind]
      by_cases hj : j = i
      · simp [hj]
      · simp [hj, Ne.symm hj]
    · simp only [tdel, h, if_false, tfind, ih]
      by_cases hi : i = j
      · subst hi; simp [h]
      · simp [hi]

/-- A read after a write: the value written at its number, the old one elsewhere. -/
theorem tget_tput [DecidableEq α] (d : α) (t : Tbl α) (k j : Nat) (v : α) :
    tget d (tput d t k v) j = if j = k then v else tget d t j := by
  unfold tget tput
  split
  · rename_i h; rw [tfind_tdel]; split <;> simp [h]
  · rw [tfind_tins]; split <;> rfl

@[simp] theorem tget_tput_same [DecidableEq α] (d : α) (t : Tbl α) (k : Nat) (v : α) : tget d (tput d t k v) k = v := by
  simp [tget_tput]

theorem tget_tput_ne [DecidableEq α] (d : α) (t : Tbl α) (v : α) {k j : Nat} (h : j ≠ k) :
    tget d (tput d t k v) j = tget d t j := by simp [tget_tput, h]

/-! ## The canonical form -/

theorem tsorted_mono [DecidableEq α] {d : α} {lo hi : Nat} (h : lo ≤ hi) {t : Tbl α} (w : tsorted d hi t = true) :
    tsorted d lo t = true := by
  cases t with
  | nil => rfl
  | cons e r => simp only [tsorted, Bool.and_eq_true, decide_eq_true_eq] at w ⊢; exact ⟨⟨by omega, w.1.2⟩, w.2⟩

theorem tsorted_tins [DecidableEq α] {d : α} {k : Nat} {v : α} (hv : v ≠ d) :
    ∀ {t : Tbl α} {lo : Nat}, lo ≤ k → tsorted d lo t = true → tsorted d lo (tins k v t) = true
  | [], lo, h, _ => by simp [tins, tsorted, h, hv]
  | (j, u) :: r, lo, h, w => by
    simp only [tsorted, Bool.and_eq_true, decide_eq_true_eq] at w
    obtain ⟨⟨hj, hu⟩, hr⟩ := w
    simp only [tins]
    split
    · simp only [tsorted, Bool.and_eq_true, decide_eq_true_eq]
      exact ⟨⟨hj, hu⟩, tsorted_tins hv (by omega) hr⟩
    · split
      · subst j; simp only [tsorted, Bool.and_eq_true, decide_eq_true_eq]; exact ⟨⟨h, hv⟩, hr⟩
      · simp only [tsorted, Bool.and_eq_true, decide_eq_true_eq]
        exact ⟨⟨h, hv⟩, ⟨by omega, hu⟩, hr⟩

theorem tsorted_tdel [DecidableEq α] {d : α} {k : Nat} :
    ∀ {t : Tbl α} {lo : Nat}, tsorted d lo t = true → tsorted d lo (tdel k t) = true
  | [], _, _ => rfl
  | (j, u) :: r, lo, w => by
    simp only [tsorted, Bool.and_eq_true, decide_eq_true_eq] at w
    obtain ⟨⟨hj, hu⟩, hr⟩ := w
    simp only [tdel]
    split
    · exact tsorted_mono (by omega) (tsorted_tdel hr)
    · simp only [tsorted, Bool.and_eq_true, decide_eq_true_eq]; exact ⟨⟨hj, hu⟩, tsorted_tdel hr⟩

theorem tsorted_tput [DecidableEq α] {d : α} {k : Nat} {v : α} {t : Tbl α} (w : tsorted d 0 t = true) :
    tsorted d 0 (tput d t k v) = true := by
  unfold tput; split
  · exact tsorted_tdel w
  · exact tsorted_tins ‹_› (Nat.zero_le _) w

theorem tsorted_filter [DecidableEq α] {d : α} (p : Nat × α → Bool) :
    ∀ {t : Tbl α} {lo : Nat}, tsorted d lo t = true → tsorted d lo (t.filter p) = true
  | [], _, _ => rfl
  | e :: r, lo, w => by
    simp only [tsorted, Bool.and_eq_true, decide_eq_true_eq] at w
    obtain ⟨⟨hj, hu⟩, hr⟩ := w
    rw [List.filter_cons]
    split
    · simp only [tsorted, Bool.and_eq_true, decide_eq_true_eq]; exact ⟨⟨hj, hu⟩, tsorted_filter p hr⟩
    · exact tsorted_mono (by omega) (tsorted_filter p hr)

end Tables

/-! ## Byte memories -/

theorem Memory.wf_nil : Memory.wf [] = true := rfl

theorem Memory.wf_wrByte {m : List Host.Cell} (h : Memory.wf m = true) (a : Nat) (b : Byte) :
    Memory.wf (wrByte m a b) = true := tsorted_tput h

theorem Memory.wf_wrBytes (bs : List Byte) :
    ∀ {m : List Host.Cell} (a : Nat), Memory.wf m = true → Memory.wf (wrBytes m a bs) = true := by
  induction bs with
  | nil => intro m a h; exact h
  | cons b bs ih => intro m a h; exact ih (a + 1) (Memory.wf_wrByte h a b)

theorem Memory.wf_wrNat {m : List Host.Cell} (h : Memory.wf m = true) (a n v : Nat) :
    Memory.wf (wrNat m a n v) = true := Memory.wf_wrBytes _ a h

theorem Memory.wf_filter {m : List Host.Cell} (h : Memory.wf m = true) (p : Host.Cell → Bool) :
    Memory.wf (m.filter p) = true := tsorted_filter p h

/-- A fold of steps that each keep the form keeps it. -/
theorem Memory.wf_foldl {β : Type} (g : List Host.Cell → β → List Host.Cell)
    (hg : ∀ m b, Memory.wf m = true → Memory.wf (g m b) = true) (l : List β) :
    ∀ {m : List Host.Cell}, Memory.wf m = true → Memory.wf (l.foldl g m) = true := by
  induction l with
  | nil => intro m h; exact h
  | cons b l ih => intro m h; exact ih (hg m b h)

theorem rdByte_wrByte (m : List Host.Cell) (a j : Nat) (b : Byte) :
    rdByte (wrByte m a b) j = if j = a then b else rdByte m j := tget_tput 0 m a j b

/-- A write of bytes changes those bytes and no other. -/
theorem rdByte_wrBytes (bs : List Byte) : ∀ (m : List Host.Cell) (a j : Nat),
    rdByte (wrBytes m a bs) j = if a ≤ j ∧ j < a + bs.length then bs.getD (j - a) 0 else rdByte m j := by
  induction bs with
  | nil => intro m a j; rw [wrBytes, if_neg (by simp)]
  | cons b bs ih =>
    intro m a j
    rw [wrBytes, ih, rdByte_wrByte]
    by_cases hja : j = a
    · subst j; simp
    · by_cases hr : a ≤ j ∧ j < a + (b :: bs).length
      · obtain ⟨h1, h2⟩ := hr
        simp only [List.length_cons] at h2
        obtain ⟨n, rfl⟩ : ∃ n, j = a + 1 + n := ⟨j - a - 1, by omega⟩
        rw [if_pos ⟨by omega, by omega⟩, if_pos ⟨by omega, by simp only [List.length_cons]; omega⟩,
          show a + 1 + n - (a + 1) = n from by omega, show a + 1 + n - a = n + 1 from by omega, List.getD_cons_succ]
      · rw [if_neg hr, if_neg (fun h => hr ⟨by omega, by simp only [List.length_cons]; omega⟩), if_neg hja]

theorem rdByte_wrBytes_outside {m : List Host.Cell} {a j : Nat} {bs : List Byte} (h : j < a ∨ a + bs.length ≤ j) :
    rdByte (wrBytes m a bs) j = rdByte m j := by
  rw [rdByte_wrBytes, if_neg (by omega)]

theorem rdBytes_congr {m m' : List Host.Cell} (n : Nat) : ∀ (a : Nat),
    (∀ i, i < n → rdByte m (a + i) = rdByte m' (a + i)) → rdBytes m a n = rdBytes m' a n := by
  induction n with
  | zero => intro a _; rfl
  | succ n ih =>
    intro a h
    simp only [rdBytes]
    rw [show rdByte m a = rdByte m' a from h 0 (by omega), ih (a + 1) (fun i hi => by
      have := h (i + 1) (by omega); rwa [show a + (i + 1) = a + 1 + i from by omega] at this)]

/-- Bytes read back from where they were written. -/
theorem rdBytes_wrBytes (bs : List Byte) : ∀ (m : List Host.Cell) (a : Nat), rdBytes (wrBytes m a bs) a bs.length = bs := by
  induction bs with
  | nil => intro m a; rfl
  | cons b bs ih =>
    intro m a
    simp only [wrBytes, List.length_cons, rdBytes, ih]
    rw [rdByte_wrBytes_outside (Or.inl (by omega)), rdByte_wrByte, if_pos rfl]

/-! ## Little-endian numbers (R1) -/

theorem leBytes_length (n : Nat) : ∀ v, (leBytes n v).length = n := by
  induction n with
  | zero => intro v; rfl
  | succ n ih => intro v; simp [leBytes, ih]

theorem leNat_leBytes (n : Nat) : ∀ v, leNat (leBytes n v) = v % 256 ^ n := by
  induction n with
  | zero => intro v; simp [leBytes, leNat, Nat.mod_one]
  | succ n ih =>
    intro v
    rw [leBytes, leNat, ih, BitVec.toNat_ofNat, show 256 ^ (n + 1) = 256 * 256 ^ n from Nat.pow_succ', Nat.mod_mul]

/-- A number read back from where it was written. -/
theorem rdNat_wrNat (m : List Host.Cell) (a n v : Nat) : rdNat (wrNat m a n v) a n = v % 256 ^ n := by
  have h := rdBytes_wrBytes (leBytes n v) m a
  rw [leBytes_length] at h
  rw [rdNat, wrNat, h, leNat_leBytes]

end Sys2Proof.Machine
end

