-- ==== Sys2Proof/Laws/State.lean ====
section
/-! SUPPORT. The state's tables: what each update leaves as it was, field by field, and what a read of a table gives
after a write of one. All are rewriting lemmas, so that a proof need not unfold an update. -/
namespace Sys2Proof.Machine
namespace State

/-! ## An update of an element is a write of the changed element -/

@[simp] theorem updBlock_eq (s : State) (b : Nat) (f : Block → Block) : s.updBlock b f = s.setBlock b (f (s.block b)) := rfl
@[simp] theorem updCore_eq (s : State) (c : Nat) (f : Core → Core) : s.updCore c f = s.setCore c (f (s.core c)) := rfl
@[simp] theorem updPier_eq (s : State) (p : Nat) (f : Pier → Pier) : s.updPier p f = s.setPier p (f (s.pier p)) := rfl
@[simp] theorem updDie_eq (s : State) (d : Nat) (f : Die → Die) : s.updDie d f = s.setDie d (f (s.die d)) := rfl
@[simp] theorem updLaunch_eq (s : State) (t : Nat) (f : Launch → Launch) : s.updLaunch t f = s.setLaunch t (f (s.launch t)) := rfl
@[simp] theorem updQueue_eq (s : State) (q : Nat) (f : Queue → Queue) : s.updQueue q f = s.setQueue q (f (s.queue q)) := rfl
@[simp] theorem updPart_eq (s : State) (p : Nat) (f : Part → Part) : s.updPart p f = s.setPart p (f (s.part p)) := rfl
@[simp] theorem updLane_eq (s : State) (b l : Nat) (f : Lane → Lane) :
    s.updLane b l f = s.setBlock b ((s.block b).updLane l f) := rfl
@[simp] theorem updGrp_eq (s : State) (b g : Nat) (f : Group → Group) :
    s.updGrp b g f = s.setBlock b ((s.block b).updGrp g f) := rfl
@[simp] theorem lane_eq (s : State) (b l : Nat) : s.lane b l = (s.block b).lane l := rfl
@[simp] theorem grp_eq (s : State) (b g : Nat) : s.grp b g = (s.block b).grp g := rfl

/-! ## Reads after writes -/

@[simp] theorem block_setBlock (s : State) (b : Nat) (x : Block) : (s.setBlock b x).block b = x := tget_tput_same ..
theorem block_setBlock_ne (s : State) {b k : Nat} (x : Block) (h : k ≠ b) : (s.setBlock b x).block k = s.block k :=
  tget_tput_ne _ _ _ h
@[simp] theorem core_setBlock (s : State) (b k : Nat) (x : Block) : (s.setBlock b x).core k = s.core k := rfl
@[simp] theorem pier_setBlock (s : State) (b k : Nat) (x : Block) : (s.setBlock b x).pier k = s.pier k := rfl
@[simp] theorem die_setBlock (s : State) (b k : Nat) (x : Block) : (s.setBlock b x).die k = s.die k := rfl
@[simp] theorem launch_setBlock (s : State) (b k : Nat) (x : Block) : (s.setBlock b x).launch k = s.launch k := rfl
@[simp] theorem queue_setBlock (s : State) (b k : Nat) (x : Block) : (s.setBlock b x).queue k = s.queue k := rfl
@[simp] theorem iface_setBlock (s : State) (b k : Nat) (x : Block) : (s.setBlock b x).iface k = s.iface k := rfl
@[simp] theorem part_setBlock (s : State) (b k : Nat) (x : Block) : (s.setBlock b x).part k = s.part k := rfl
@[simp] theorem hart_setBlock (s : State) (b k : Nat) (x : Block) : (s.setBlock b x).hart k = s.hart k := rfl
@[simp] theorem core_setCore (s : State) (c : Nat) (x : Core) : (s.setCore c x).core c = x := tget_tput_same ..
theorem core_setCore_ne (s : State) {c k : Nat} (x : Core) (h : k ≠ c) : (s.setCore c x).core k = s.core k :=
  tget_tput_ne _ _ _ h
@[simp] theorem block_setCore (s : State) (c k : Nat) (x : Core) : (s.setCore c x).block k = s.block k := rfl
@[simp] theorem pier_setCore (s : State) (c k : Nat) (x : Core) : (s.setCore c x).pier k = s.pier k := rfl
@[simp] theorem die_setCore (s : State) (c k : Nat) (x : Core) : (s.setCore c x).die k = s.die k := rfl
@[simp] theorem launch_setCore (s : State) (c k : Nat) (x : Core) : (s.setCore c x).launch k = s.launch k := rfl
@[simp] theorem queue_setCore (s : State) (c k : Nat) (x : Core) : (s.setCore c x).queue k = s.queue k := rfl
@[simp] theorem iface_setCore (s : State) (c k : Nat) (x : Core) : (s.setCore c x).iface k = s.iface k := rfl
@[simp] theorem part_setCore (s : State) (c k : Nat) (x : Core) : (s.setCore c x).part k = s.part k := rfl
@[simp] theorem hart_setCore (s : State) (c k : Nat) (x : Core) : (s.setCore c x).hart k = s.hart k := rfl
@[simp] theorem pier_setPier (s : State) (p : Nat) (x : Pier) : (s.setPier p x).pier p = x := tget_tput_same ..
theorem pier_setPier_ne (s : State) {p k : Nat} (x : Pier) (h : k ≠ p) : (s.setPier p x).pier k = s.pier k :=
  tget_tput_ne _ _ _ h
@[simp] theorem block_setPier (s : State) (p k : Nat) (x : Pier) : (s.setPier p x).block k = s.block k := rfl
@[simp] theorem core_setPier (s : State) (p k : Nat) (x : Pier) : (s.setPier p x).core k = s.core k := rfl
@[simp] theorem die_setPier (s : State) (p k : Nat) (x : Pier) : (s.setPier p x).die k = s.die k := rfl
@[simp] theorem launch_setPier (s : State) (p k : Nat) (x : Pier) : (s.setPier p x).launch k = s.launch k := rfl
@[simp] theorem queue_setPier (s : State) (p k : Nat) (x : Pier) : (s.setPier p x).queue k = s.queue k := rfl
@[simp] theorem iface_setPier (s : State) (p k : Nat) (x : Pier) : (s.setPier p x).iface k = s.iface k := rfl
@[simp] theorem part_setPier (s : State) (p k : Nat) (x : Pier) : (s.setPier p x).part k = s.part k := rfl
@[simp] theorem hart_setPier (s : State) (p k : Nat) (x : Pier) : (s.setPier p x).hart k = s.hart k := rfl
@[simp] theorem die_setDie (s : State) (d : Nat) (x : Die) : (s.setDie d x).die d = x := tget_tput_same ..
theorem die_setDie_ne (s : State) {d k : Nat} (x : Die) (h : k ≠ d) : (s.setDie d x).die k = s.die k :=
  tget_tput_ne _ _ _ h
@[simp] theorem block_setDie (s : State) (d k : Nat) (x : Die) : (s.setDie d x).block k = s.block k := rfl
@[simp] theorem core_setDie (s : State) (d k : Nat) (x : Die) : (s.setDie d x).core k = s.core k := rfl
@[simp] theorem pier_setDie (s : State) (d k : Nat) (x : Die) : (s.setDie d x).pier k = s.pier k := rfl
@[simp] theorem launch_setDie (s : State) (d k : Nat) (x : Die) : (s.setDie d x).launch k = s.launch k := rfl
@[simp] theorem queue_setDie (s : State) (d k : Nat) (x : Die) : (s.setDie d x).queue k = s.queue k := rfl
@[simp] theorem iface_setDie (s : State) (d k : Nat) (x : Die) : (s.setDie d x).iface k = s.iface k := rfl
@[simp] theorem part_setDie (s : State) (d k : Nat) (x : Die) : (s.setDie d x).part k = s.part k := rfl
@[simp] theorem hart_setDie (s : State) (d k : Nat) (x : Die) : (s.setDie d x).hart k = s.hart k := rfl
@[simp] theorem launch_setLaunch (s : State) (t : Nat) (x : Launch) : (s.setLaunch t x).launch t = x := tget_tput_same ..
theorem launch_setLaunch_ne (s : State) {t k : Nat} (x : Launch) (h : k ≠ t) : (s.setLaunch t x).launch k = s.launch k :=
  tget_tput_ne _ _ _ h
@[simp] theorem block_setLaunch (s : State) (t k : Nat) (x : Launch) : (s.setLaunch t x).block k = s.block k := rfl
@[simp] theorem core_setLaunch (s : State) (t k : Nat) (x : Launch) : (s.setLaunch t x).core k = s.core k := rfl
@[simp] theorem pier_setLaunch (s : State) (t k : Nat) (x : Launch) : (s.setLaunch t x).pier k = s.pier k := rfl
@[simp] theorem die_setLaunch (s : State) (t k : Nat) (x : Launch) : (s.setLaunch t x).die k = s.die k := rfl
@[simp] theorem queue_setLaunch (s : State) (t k : Nat) (x : Launch) : (s.setLaunch t x).queue k = s.queue k := rfl
@[simp] theorem iface_setLaunch (s : State) (t k : Nat) (x : Launch) : (s.setLaunch t x).iface k = s.iface k := rfl
@[simp] theorem part_setLaunch (s : State) (t k : Nat) (x : Launch) : (s.setLaunch t x).part k = s.part k := rfl
@[simp] theorem hart_setLaunch (s : State) (t k : Nat) (x : Launch) : (s.setLaunch t x).hart k = s.hart k := rfl
@[simp] theorem queue_setQueue (s : State) (q : Nat) (x : Queue) : (s.setQueue q x).queue q = x := tget_tput_same ..
theorem queue_setQueue_ne (s : State) {q k : Nat} (x : Queue) (h : k ≠ q) : (s.setQueue q x).queue k = s.queue k :=
  tget_tput_ne _ _ _ h
@[simp] theorem block_setQueue (s : State) (q k : Nat) (x : Queue) : (s.setQueue q x).block k = s.block k := rfl
@[simp] theorem core_setQueue (s : State) (q k : Nat) (x : Queue) : (s.setQueue q x).core k = s.core k := rfl
@[simp] theorem pier_setQueue (s : State) (q k : Nat) (x : Queue) : (s.setQueue q x).pier k = s.pier k := rfl
@[simp] theorem die_setQueue (s : State) (q k : Nat) (x : Queue) : (s.setQueue q x).die k = s.die k := rfl
@[simp] theorem launch_setQueue (s : State) (q k : Nat) (x : Queue) : (s.setQueue q x).launch k = s.launch k := rfl
@[simp] theorem iface_setQueue (s : State) (q k : Nat) (x : Queue) : (s.setQueue q x).iface k = s.iface k := rfl
@[simp] theorem part_setQueue (s : State) (q k : Nat) (x : Queue) : (s.setQueue q x).part k = s.part k := rfl
@[simp] theorem hart_setQueue (s : State) (q k : Nat) (x : Queue) : (s.setQueue q x).hart k = s.hart k := rfl
@[simp] theorem iface_setIface (s : State) (i : Nat) (x : Iface) : (s.setIface i x).iface i = x := tget_tput_same ..
theorem iface_setIface_ne (s : State) {i k : Nat} (x : Iface) (h : k ≠ i) : (s.setIface i x).iface k = s.iface k :=
  tget_tput_ne _ _ _ h
@[simp] theorem block_setIface (s : State) (i k : Nat) (x : Iface) : (s.setIface i x).block k = s.block k := rfl
@[simp] theorem core_setIface (s : State) (i k : Nat) (x : Iface) : (s.setIface i x).core k = s.core k := rfl
@[simp] theorem pier_setIface (s : State) (i k : Nat) (x : Iface) : (s.setIface i x).pier k = s.pier k := rfl
@[simp] theorem die_setIface (s : State) (i k : Nat) (x : Iface) : (s.setIface i x).die k = s.die k := rfl
@[simp] theorem launch_setIface (s : State) (i k : Nat) (x : Iface) : (s.setIface i x).launch k = s.launch k := rfl
@[simp] theorem queue_setIface (s : State) (i k : Nat) (x : Iface) : (s.setIface i x).queue k = s.queue k := rfl
@[simp] theorem part_setIface (s : State) (i k : Nat) (x : Iface) : (s.setIface i x).part k = s.part k := rfl
@[simp] theorem hart_setIface (s : State) (i k : Nat) (x : Iface) : (s.setIface i x).hart k = s.hart k := rfl
@[simp] theorem part_setPart (s : State) (p : Nat) (x : Part) : (s.setPart p x).part p = x := tget_tput_same ..
theorem part_setPart_ne (s : State) {p k : Nat} (x : Part) (h : k ≠ p) : (s.setPart p x).part k = s.part k :=
  tget_tput_ne _ _ _ h
@[simp] theorem block_setPart (s : State) (p k : Nat) (x : Part) : (s.setPart p x).block k = s.block k := rfl
@[simp] theorem core_setPart (s : State) (p k : Nat) (x : Part) : (s.setPart p x).core k = s.core k := rfl
@[simp] theorem pier_setPart (s : State) (p k : Nat) (x : Part) : (s.setPart p x).pier k = s.pier k := rfl
@[simp] theorem die_setPart (s : State) (p k : Nat) (x : Part) : (s.setPart p x).die k = s.die k := rfl
@[simp] theorem launch_setPart (s : State) (p k : Nat) (x : Part) : (s.setPart p x).launch k = s.launch k := rfl
@[simp] theorem queue_setPart (s : State) (p k : Nat) (x : Part) : (s.setPart p x).queue k = s.queue k := rfl
@[simp] theorem iface_setPart (s : State) (p k : Nat) (x : Part) : (s.setPart p x).iface k = s.iface k := rfl
@[simp] theorem hart_setPart (s : State) (p k : Nat) (x : Part) : (s.setPart p x).hart k = s.hart k := rfl
@[simp] theorem hart_setHart (s : State) (n : Nat) (x : Hart) : (s.setHart n x).hart n = x := tget_tput_same ..
theorem hart_setHart_ne (s : State) {n k : Nat} (x : Hart) (h : k ≠ n) : (s.setHart n x).hart k = s.hart k :=
  tget_tput_ne _ _ _ h
@[simp] theorem block_setHart (s : State) (n k : Nat) (x : Hart) : (s.setHart n x).block k = s.block k := rfl
@[simp] theorem core_setHart (s : State) (n k : Nat) (x : Hart) : (s.setHart n x).core k = s.core k := rfl
@[simp] theorem pier_setHart (s : State) (n k : Nat) (x : Hart) : (s.setHart n x).pier k = s.pier k := rfl
@[simp] theorem die_setHart (s : State) (n k : Nat) (x : Hart) : (s.setHart n x).die k = s.die k := rfl
@[simp] theorem launch_setHart (s : State) (n k : Nat) (x : Hart) : (s.setHart n x).launch k = s.launch k := rfl
@[simp] theorem queue_setHart (s : State) (n k : Nat) (x : Hart) : (s.setHart n x).queue k = s.queue k := rfl
@[simp] theorem iface_setHart (s : State) (n k : Nat) (x : Hart) : (s.setHart n x).iface k = s.iface k := rfl
@[simp] theorem part_setHart (s : State) (n k : Nat) (x : Hart) : (s.setHart n x).part k = s.part k := rfl

/-! ## The other fields -/

@[simp] theorem setBlock_powered (s : State) (b : Nat) (x : Block) : (s.setBlock b x).powered = s.powered := rfl
@[simp] theorem setBlock_now (s : State) (b : Nat) (x : Block) : (s.setBlock b x).now = s.now := rfl
@[simp] theorem setBlock_mem (s : State) (b : Nat) (x : Block) : (s.setBlock b x).mem = s.mem := rfl
@[simp] theorem setBlock_memPoison (s : State) (b : Nat) (x : Block) : (s.setBlock b x).memPoison = s.memPoison := rfl
@[simp] theorem setBlock_hostMem (s : State) (b : Nat) (x : Block) : (s.setBlock b x).hostMem = s.hostMem := rfl
@[simp] theorem setBlock_hostPages (s : State) (b : Nat) (x : Block) : (s.setBlock b x).hostPages = s.hostPages := rfl
@[simp] theorem setBlock_dir (s : State) (b : Nat) (x : Block) : (s.setBlock b x).dir = s.dir := rfl
@[simp] theorem setBlock_hostLines (s : State) (b : Nat) (x : Block) : (s.setBlock b x).hostLines = s.hostLines := rfl
@[simp] theorem setBlock_cores (s : State) (b : Nat) (x : Block) : (s.setBlock b x).cores = s.cores := rfl
@[simp] theorem setBlock_piers (s : State) (b : Nat) (x : Block) : (s.setBlock b x).piers = s.piers := rfl
@[simp] theorem setBlock_runs (s : State) (b : Nat) (x : Block) : (s.setBlock b x).runs = s.runs := rfl
@[simp] theorem setBlock_memops (s : State) (b : Nat) (x : Block) : (s.setBlock b x).memops = s.memops := rfl
@[simp] theorem setBlock_lres (s : State) (b : Nat) (x : Block) : (s.setBlock b x).lres = s.lres := rfl
@[simp] theorem setBlock_mrdas (s : State) (b : Nat) (x : Block) : (s.setBlock b x).mrdas = s.mrdas := rfl
@[simp] theorem setBlock_revokes (s : State) (b : Nat) (x : Block) : (s.setBlock b x).revokes = s.revokes := rfl
@[simp] theorem setBlock_acks (s : State) (b : Nat) (x : Block) : (s.setBlock b x).acks = s.acks := rfl
@[simp] theorem setBlock_sgreqs (s : State) (b : Nat) (x : Block) : (s.setBlock b x).sgreqs = s.sgreqs := rfl
@[simp] theorem setBlock_jobs (s : State) (b : Nat) (x : Block) : (s.setBlock b x).jobs = s.jobs := rfl
@[simp] theorem setBlock_colls (s : State) (b : Nat) (x : Block) : (s.setBlock b x).colls = s.colls := rfl
@[simp] theorem setBlock_fences (s : State) (b : Nat) (x : Block) : (s.setBlock b x).fences = s.fences := rfl
@[simp] theorem setBlock_cxlReqs (s : State) (b : Nat) (x : Block) : (s.setBlock b x).cxlReqs = s.cxlReqs := rfl
@[simp] theorem setBlock_frWrites (s : State) (b : Nat) (x : Block) : (s.setBlock b x).frWrites = s.frWrites := rfl
@[simp] theorem setBlock_uses (s : State) (b : Nat) (x : Block) : (s.setBlock b x).uses = s.uses := rfl
@[simp] theorem setBlock_evicts (s : State) (b : Nat) (x : Block) : (s.setBlock b x).evicts = s.evicts := rfl
@[simp] theorem setBlock_backing (s : State) (b : Nat) (x : Block) : (s.setBlock b x).backing = s.backing := rfl
@[simp] theorem setBlock_freeFrames (s : State) (b : Nat) (x : Block) : (s.setBlock b x).freeFrames = s.freeFrames := rfl
@[simp] theorem setBlock_pageReqs (s : State) (b : Nat) (x : Block) : (s.setBlock b x).pageReqs = s.pageReqs := rfl
@[simp] theorem setBlock_launches (s : State) (b : Nat) (x : Block) : (s.setBlock b x).launches = s.launches := rfl
@[simp] theorem setBlock_queues (s : State) (b : Nat) (x : Block) : (s.setBlock b x).queues = s.queues := rfl
@[simp] theorem setBlock_ifaces (s : State) (b : Nat) (x : Block) : (s.setBlock b x).ifaces = s.ifaces := rfl
@[simp] theorem setBlock_parts (s : State) (b : Nat) (x : Block) : (s.setBlock b x).parts = s.parts := rfl
@[simp] theorem setBlock_dies (s : State) (b : Nat) (x : Block) : (s.setBlock b x).dies = s.dies := rfl
@[simp] theorem setBlock_harts (s : State) (b : Nat) (x : Block) : (s.setBlock b x).harts = s.harts := rfl
@[simp] theorem setBlock_linkUp (s : State) (b : Nat) (x : Block) : (s.setBlock b x).linkUp = s.linkUp := rfl
@[simp] theorem setBlock_memLinks (s : State) (b : Nat) (x : Block) : (s.setBlock b x).memLinks = s.memLinks := rfl
@[simp] theorem setBlock_fabric (s : State) (b : Nat) (x : Block) : (s.setBlock b x).fabric = s.fabric := rfl
@[simp] theorem setBlock_ethernet (s : State) (b : Nat) (x : Block) : (s.setBlock b x).ethernet = s.ethernet := rfl
@[simp] theorem setBlock_package (s : State) (b : Nat) (x : Block) : (s.setBlock b x).package = s.package := rfl
@[simp] theorem setBlock_boot (s : State) (b : Nat) (x : Block) : (s.setBlock b x).boot = s.boot := rfl
@[simp] theorem setBlock_latch (s : State) (b : Nat) (x : Block) : (s.setBlock b x).latch = s.latch := rfl
@[simp] theorem setBlock_latchLost (s : State) (b : Nat) (x : Block) : (s.setBlock b x).latchLost = s.latchLost := rfl
@[simp] theorem setBlock_sent (s : State) (b : Nat) (x : Block) : (s.setBlock b x).sent = s.sent := rfl
@[simp] theorem setBlock_msix (s : State) (b : Nat) (x : Block) : (s.setBlock b x).msix = s.msix := rfl
@[simp] theorem setBlock_rdma (s : State) (b : Nat) (x : Block) : (s.setBlock b x).rdma = s.rdma := rfl
@[simp] theorem setBlock_rdmaReqs (s : State) (b : Nat) (x : Block) : (s.setBlock b x).rdmaReqs = s.rdmaReqs := rfl
@[simp] theorem setBlock_period (s : State) (b : Nat) (x : Block) : (s.setBlock b x).period = s.period := rfl
@[simp] theorem setBlock_seq (s : State) (b : Nat) (x : Block) : (s.setBlock b x).seq = s.seq := rfl
@[simp] theorem setBlock_free (s : State) (b : Nat) (x : Block) : (s.setBlock b x).free = s.free := rfl
@[simp] theorem setBlock_cur (s : State) (b : Nat) (x : Block) : (s.setBlock b x).cur = s.cur := rfl
@[simp] theorem setBlock_agenda (s : State) (b : Nat) (x : Block) : (s.setBlock b x).agenda = s.agenda := rfl
@[simp] theorem setCore_powered (s : State) (c : Nat) (x : Core) : (s.setCore c x).powered = s.powered := rfl
@[simp] theorem setCore_now (s : State) (c : Nat) (x : Core) : (s.setCore c x).now = s.now := rfl
@[simp] theorem setCore_mem (s : State) (c : Nat) (x : Core) : (s.setCore c x).mem = s.mem := rfl
@[simp] theorem setCore_memPoison (s : State) (c : Nat) (x : Core) : (s.setCore c x).memPoison = s.memPoison := rfl
@[simp] theorem setCore_hostMem (s : State) (c : Nat) (x : Core) : (s.setCore c x).hostMem = s.hostMem := rfl
@[simp] theorem setCore_hostPages (s : State) (c : Nat) (x : Core) : (s.setCore c x).hostPages = s.hostPages := rfl
@[simp] theorem setCore_dir (s : State) (c : Nat) (x : Core) : (s.setCore c x).dir = s.dir := rfl
@[simp] theorem setCore_hostLines (s : State) (c : Nat) (x : Core) : (s.setCore c x).hostLines = s.hostLines := rfl
@[simp] theorem setCore_blocks (s : State) (c : Nat) (x : Core) : (s.setCore c x).blocks = s.blocks := rfl
@[simp] theorem setCore_piers (s : State) (c : Nat) (x : Core) : (s.setCore c x).piers = s.piers := rfl
@[simp] theorem setCore_runs (s : State) (c : Nat) (x : Core) : (s.setCore c x).runs = s.runs := rfl
@[simp] theorem setCore_memops (s : State) (c : Nat) (x : Core) : (s.setCore c x).memops = s.memops := rfl
@[simp] theorem setCore_lres (s : State) (c : Nat) (x : Core) : (s.setCore c x).lres = s.lres := rfl
@[simp] theorem setCore_mrdas (s : State) (c : Nat) (x : Core) : (s.setCore c x).mrdas = s.mrdas := rfl
@[simp] theorem setCore_revokes (s : State) (c : Nat) (x : Core) : (s.setCore c x).revokes = s.revokes := rfl
@[simp] theorem setCore_acks (s : State) (c : Nat) (x : Core) : (s.setCore c x).acks = s.acks := rfl
@[simp] theorem setCore_sgreqs (s : State) (c : Nat) (x : Core) : (s.setCore c x).sgreqs = s.sgreqs := rfl
@[simp] theorem setCore_jobs (s : State) (c : Nat) (x : Core) : (s.setCore c x).jobs = s.jobs := rfl
@[simp] theorem setCore_colls (s : State) (c : Nat) (x : Core) : (s.setCore c x).colls = s.colls := rfl
@[simp] theorem setCore_fences (s : State) (c : Nat) (x : Core) : (s.setCore c x).fences = s.fences := rfl
@[simp] theorem setCore_cxlReqs (s : State) (c : Nat) (x : Core) : (s.setCore c x).cxlReqs = s.cxlReqs := rfl
@[simp] theorem setCore_frWrites (s : State) (c : Nat) (x : Core) : (s.setCore c x).frWrites = s.frWrites := rfl
@[simp] theorem setCore_uses (s : State) (c : Nat) (x : Core) : (s.setCore c x).uses = s.uses := rfl
@[simp] theorem setCore_evicts (s : State) (c : Nat) (x : Core) : (s.setCore c x).evicts = s.evicts := rfl
@[simp] theorem setCore_backing (s : State) (c : Nat) (x : Core) : (s.setCore c x).backing = s.backing := rfl
@[simp] theorem setCore_freeFrames (s : State) (c : Nat) (x : Core) : (s.setCore c x).freeFrames = s.freeFrames := rfl
@[simp] theorem setCore_pageReqs (s : State) (c : Nat) (x : Core) : (s.setCore c x).pageReqs = s.pageReqs := rfl
@[simp] theorem setCore_launches (s : State) (c : Nat) (x : Core) : (s.setCore c x).launches = s.launches := rfl
@[simp] theorem setCore_queues (s : State) (c : Nat) (x : Core) : (s.setCore c x).queues = s.queues := rfl
@[simp] theorem setCore_ifaces (s : State) (c : Nat) (x : Core) : (s.setCore c x).ifaces = s.ifaces := rfl
@[simp] theorem setCore_parts (s : State) (c : Nat) (x : Core) : (s.setCore c x).parts = s.parts := rfl
@[simp] theorem setCore_dies (s : State) (c : Nat) (x : Core) : (s.setCore c x).dies = s.dies := rfl
@[simp] theorem setCore_harts (s : State) (c : Nat) (x : Core) : (s.setCore c x).harts = s.harts := rfl
@[simp] theorem setCore_linkUp (s : State) (c : Nat) (x : Core) : (s.setCore c x).linkUp = s.linkUp := rfl
@[simp] theorem setCore_memLinks (s : State) (c : Nat) (x : Core) : (s.setCore c x).memLinks = s.memLinks := rfl
@[simp] theorem setCore_fabric (s : State) (c : Nat) (x : Core) : (s.setCore c x).fabric = s.fabric := rfl
@[simp] theorem setCore_ethernet (s : State) (c : Nat) (x : Core) : (s.setCore c x).ethernet = s.ethernet := rfl
@[simp] theorem setCore_package (s : State) (c : Nat) (x : Core) : (s.setCore c x).package = s.package := rfl
@[simp] theorem setCore_boot (s : State) (c : Nat) (x : Core) : (s.setCore c x).boot = s.boot := rfl
@[simp] theorem setCore_latch (s : State) (c : Nat) (x : Core) : (s.setCore c x).latch = s.latch := rfl
@[simp] theorem setCore_latchLost (s : State) (c : Nat) (x : Core) : (s.setCore c x).latchLost = s.latchLost := rfl
@[simp] theorem setCore_sent (s : State) (c : Nat) (x : Core) : (s.setCore c x).sent = s.sent := rfl
@[simp] theorem setCore_msix (s : State) (c : Nat) (x : Core) : (s.setCore c x).msix = s.msix := rfl
@[simp] theorem setCore_rdma (s : State) (c : Nat) (x : Core) : (s.setCore c x).rdma = s.rdma := rfl
@[simp] theorem setCore_rdmaReqs (s : State) (c : Nat) (x : Core) : (s.setCore c x).rdmaReqs = s.rdmaReqs := rfl
@[simp] theorem setCore_period (s : State) (c : Nat) (x : Core) : (s.setCore c x).period = s.period := rfl
@[simp] theorem setCore_seq (s : State) (c : Nat) (x : Core) : (s.setCore c x).seq = s.seq := rfl
@[simp] theorem setCore_free (s : State) (c : Nat) (x : Core) : (s.setCore c x).free = s.free := rfl
@[simp] theorem setCore_cur (s : State) (c : Nat) (x : Core) : (s.setCore c x).cur = s.cur := rfl
@[simp] theorem setCore_agenda (s : State) (c : Nat) (x : Core) : (s.setCore c x).agenda = s.agenda := rfl
@[simp] theorem setPier_powered (s : State) (p : Nat) (x : Pier) : (s.setPier p x).powered = s.powered := rfl
@[simp] theorem setPier_now (s : State) (p : Nat) (x : Pier) : (s.setPier p x).now = s.now := rfl
@[simp] theorem setPier_mem (s : State) (p : Nat) (x : Pier) : (s.setPier p x).mem = s.mem := rfl
@[simp] theorem setPier_memPoison (s : State) (p : Nat) (x : Pier) : (s.setPier p x).memPoison = s.memPoison := rfl
@[simp] theorem setPier_hostMem (s : State) (p : Nat) (x : Pier) : (s.setPier p x).hostMem = s.hostMem := rfl
@[simp] theorem setPier_hostPages (s : State) (p : Nat) (x : Pier) : (s.setPier p x).hostPages = s.hostPages := rfl
@[simp] theorem setPier_dir (s : State) (p : Nat) (x : Pier) : (s.setPier p x).dir = s.dir := rfl
@[simp] theorem setPier_hostLines (s : State) (p : Nat) (x : Pier) : (s.setPier p x).hostLines = s.hostLines := rfl
@[simp] theorem setPier_blocks (s : State) (p : Nat) (x : Pier) : (s.setPier p x).blocks = s.blocks := rfl
@[simp] theorem setPier_cores (s : State) (p : Nat) (x : Pier) : (s.setPier p x).cores = s.cores := rfl
@[simp] theorem setPier_runs (s : State) (p : Nat) (x : Pier) : (s.setPier p x).runs = s.runs := rfl
@[simp] theorem setPier_memops (s : State) (p : Nat) (x : Pier) : (s.setPier p x).memops = s.memops := rfl
@[simp] theorem setPier_lres (s : State) (p : Nat) (x : Pier) : (s.setPier p x).lres = s.lres := rfl
@[simp] theorem setPier_mrdas (s : State) (p : Nat) (x : Pier) : (s.setPier p x).mrdas = s.mrdas := rfl
@[simp] theorem setPier_revokes (s : State) (p : Nat) (x : Pier) : (s.setPier p x).revokes = s.revokes := rfl
@[simp] theorem setPier_acks (s : State) (p : Nat) (x : Pier) : (s.setPier p x).acks = s.acks := rfl
@[simp] theorem setPier_sgreqs (s : State) (p : Nat) (x : Pier) : (s.setPier p x).sgreqs = s.sgreqs := rfl
@[simp] theorem setPier_jobs (s : State) (p : Nat) (x : Pier) : (s.setPier p x).jobs = s.jobs := rfl
@[simp] theorem setPier_colls (s : State) (p : Nat) (x : Pier) : (s.setPier p x).colls = s.colls := rfl
@[simp] theorem setPier_fences (s : State) (p : Nat) (x : Pier) : (s.setPier p x).fences = s.fences := rfl
@[simp] theorem setPier_cxlReqs (s : State) (p : Nat) (x : Pier) : (s.setPier p x).cxlReqs = s.cxlReqs := rfl
@[simp] theorem setPier_frWrites (s : State) (p : Nat) (x : Pier) : (s.setPier p x).frWrites = s.frWrites := rfl
@[simp] theorem setPier_uses (s : State) (p : Nat) (x : Pier) : (s.setPier p x).uses = s.uses := rfl
@[simp] theorem setPier_evicts (s : State) (p : Nat) (x : Pier) : (s.setPier p x).evicts = s.evicts := rfl
@[simp] theorem setPier_backing (s : State) (p : Nat) (x : Pier) : (s.setPier p x).backing = s.backing := rfl
@[simp] theorem setPier_freeFrames (s : State) (p : Nat) (x : Pier) : (s.setPier p x).freeFrames = s.freeFrames := rfl
@[simp] theorem setPier_pageReqs (s : State) (p : Nat) (x : Pier) : (s.setPier p x).pageReqs = s.pageReqs := rfl
@[simp] theorem setPier_launches (s : State) (p : Nat) (x : Pier) : (s.setPier p x).launches = s.launches := rfl
@[simp] theorem setPier_queues (s : State) (p : Nat) (x : Pier) : (s.setPier p x).queues = s.queues := rfl
@[simp] theorem setPier_ifaces (s : State) (p : Nat) (x : Pier) : (s.setPier p x).ifaces = s.ifaces := rfl
@[simp] theorem setPier_parts (s : State) (p : Nat) (x : Pier) : (s.setPier p x).parts = s.parts := rfl
@[simp] theorem setPier_dies (s : State) (p : Nat) (x : Pier) : (s.setPier p x).dies = s.dies := rfl
@[simp] theorem setPier_harts (s : State) (p : Nat) (x : Pier) : (s.setPier p x).harts = s.harts := rfl
@[simp] theorem setPier_linkUp (s : State) (p : Nat) (x : Pier) : (s.setPier p x).linkUp = s.linkUp := rfl
@[simp] theorem setPier_memLinks (s : State) (p : Nat) (x : Pier) : (s.setPier p x).memLinks = s.memLinks := rfl
@[simp] theorem setPier_fabric (s : State) (p : Nat) (x : Pier) : (s.setPier p x).fabric = s.fabric := rfl
@[simp] theorem setPier_ethernet (s : State) (p : Nat) (x : Pier) : (s.setPier p x).ethernet = s.ethernet := rfl
@[simp] theorem setPier_package (s : State) (p : Nat) (x : Pier) : (s.setPier p x).package = s.package := rfl
@[simp] theorem setPier_boot (s : State) (p : Nat) (x : Pier) : (s.setPier p x).boot = s.boot := rfl
@[simp] theorem setPier_latch (s : State) (p : Nat) (x : Pier) : (s.setPier p x).latch = s.latch := rfl
@[simp] theorem setPier_latchLost (s : State) (p : Nat) (x : Pier) : (s.setPier p x).latchLost = s.latchLost := rfl
@[simp] theorem setPier_sent (s : State) (p : Nat) (x : Pier) : (s.setPier p x).sent = s.sent := rfl
@[simp] theorem setPier_msix (s : State) (p : Nat) (x : Pier) : (s.setPier p x).msix = s.msix := rfl
@[simp] theorem setPier_rdma (s : State) (p : Nat) (x : Pier) : (s.setPier p x).rdma = s.rdma := rfl
@[simp] theorem setPier_rdmaReqs (s : State) (p : Nat) (x : Pier) : (s.setPier p x).rdmaReqs = s.rdmaReqs := rfl
@[simp] theorem setPier_period (s : State) (p : Nat) (x : Pier) : (s.setPier p x).period = s.period := rfl
@[simp] theorem setPier_seq (s : State) (p : Nat) (x : Pier) : (s.setPier p x).seq = s.seq := rfl
@[simp] theorem setPier_free (s : State) (p : Nat) (x : Pier) : (s.setPier p x).free = s.free := rfl
@[simp] theorem setPier_cur (s : State) (p : Nat) (x : Pier) : (s.setPier p x).cur = s.cur := rfl
@[simp] theorem setPier_agenda (s : State) (p : Nat) (x : Pier) : (s.setPier p x).agenda = s.agenda := rfl
@[simp] theorem setDie_powered (s : State) (d : Nat) (x : Die) : (s.setDie d x).powered = s.powered := rfl
@[simp] theorem setDie_now (s : State) (d : Nat) (x : Die) : (s.setDie d x).now = s.now := rfl
@[simp] theorem setDie_mem (s : State) (d : Nat) (x : Die) : (s.setDie d x).mem = s.mem := rfl
@[simp] theorem setDie_memPoison (s : State) (d : Nat) (x : Die) : (s.setDie d x).memPoison = s.memPoison := rfl
@[simp] theorem setDie_hostMem (s : State) (d : Nat) (x : Die) : (s.setDie d x).hostMem = s.hostMem := rfl
@[simp] theorem setDie_hostPages (s : State) (d : Nat) (x : Die) : (s.setDie d x).hostPages = s.hostPages := rfl
@[simp] theorem setDie_dir (s : State) (d : Nat) (x : Die) : (s.setDie d x).dir = s.dir := rfl
@[simp] theorem setDie_hostLines (s : State) (d : Nat) (x : Die) : (s.setDie d x).hostLines = s.hostLines := rfl
@[simp] theorem setDie_blocks (s : State) (d : Nat) (x : Die) : (s.setDie d x).blocks = s.blocks := rfl
@[simp] theorem setDie_cores (s : State) (d : Nat) (x : Die) : (s.setDie d x).cores = s.cores := rfl
@[simp] theorem setDie_piers (s : State) (d : Nat) (x : Die) : (s.setDie d x).piers = s.piers := rfl
@[simp] theorem setDie_runs (s : State) (d : Nat) (x : Die) : (s.setDie d x).runs = s.runs := rfl
@[simp] theorem setDie_memops (s : State) (d : Nat) (x : Die) : (s.setDie d x).memops = s.memops := rfl
@[simp] theorem setDie_lres (s : State) (d : Nat) (x : Die) : (s.setDie d x).lres = s.lres := rfl
@[simp] theorem setDie_mrdas (s : State) (d : Nat) (x : Die) : (s.setDie d x).mrdas = s.mrdas := rfl
@[simp] theorem setDie_revokes (s : State) (d : Nat) (x : Die) : (s.setDie d x).revokes = s.revokes := rfl
@[simp] theorem setDie_acks (s : State) (d : Nat) (x : Die) : (s.setDie d x).acks = s.acks := rfl
@[simp] theorem setDie_sgreqs (s : State) (d : Nat) (x : Die) : (s.setDie d x).sgreqs = s.sgreqs := rfl
@[simp] theorem setDie_jobs (s : State) (d : Nat) (x : Die) : (s.setDie d x).jobs = s.jobs := rfl
@[simp] theorem setDie_colls (s : State) (d : Nat) (x : Die) : (s.setDie d x).colls = s.colls := rfl
@[simp] theorem setDie_fences (s : State) (d : Nat) (x : Die) : (s.setDie d x).fences = s.fences := rfl
@[simp] theorem setDie_cxlReqs (s : State) (d : Nat) (x : Die) : (s.setDie d x).cxlReqs = s.cxlReqs := rfl
@[simp] theorem setDie_frWrites (s : State) (d : Nat) (x : Die) : (s.setDie d x).frWrites = s.frWrites := rfl
@[simp] theorem setDie_uses (s : State) (d : Nat) (x : Die) : (s.setDie d x).uses = s.uses := rfl
@[simp] theorem setDie_evicts (s : State) (d : Nat) (x : Die) : (s.setDie d x).evicts = s.evicts := rfl
@[simp] theorem setDie_backing (s : State) (d : Nat) (x : Die) : (s.setDie d x).backing = s.backing := rfl
@[simp] theorem setDie_freeFrames (s : State) (d : Nat) (x : Die) : (s.setDie d x).freeFrames = s.freeFrames := rfl
@[simp] theorem setDie_pageReqs (s : State) (d : Nat) (x : Die) : (s.setDie d x).pageReqs = s.pageReqs := rfl
@[simp] theorem setDie_launches (s : State) (d : Nat) (x : Die) : (s.setDie d x).launches = s.launches := rfl
@[simp] theorem setDie_queues (s : State) (d : Nat) (x : Die) : (s.setDie d x).queues = s.queues := rfl
@[simp] theorem setDie_ifaces (s : State) (d : Nat) (x : Die) : (s.setDie d x).ifaces = s.ifaces := rfl
@[simp] theorem setDie_parts (s : State) (d : Nat) (x : Die) : (s.setDie d x).parts = s.parts := rfl
@[simp] theorem setDie_harts (s : State) (d : Nat) (x : Die) : (s.setDie d x).harts = s.harts := rfl
@[simp] theorem setDie_linkUp (s : State) (d : Nat) (x : Die) : (s.setDie d x).linkUp = s.linkUp := rfl
@[simp] theorem setDie_memLinks (s : State) (d : Nat) (x : Die) : (s.setDie d x).memLinks = s.memLinks := rfl
@[simp] theorem setDie_fabric (s : State) (d : Nat) (x : Die) : (s.setDie d x).fabric = s.fabric := rfl
@[simp] theorem setDie_ethernet (s : State) (d : Nat) (x : Die) : (s.setDie d x).ethernet = s.ethernet := rfl
@[simp] theorem setDie_package (s : State) (d : Nat) (x : Die) : (s.setDie d x).package = s.package := rfl
@[simp] theorem setDie_boot (s : State) (d : Nat) (x : Die) : (s.setDie d x).boot = s.boot := rfl
@[simp] theorem setDie_latch (s : State) (d : Nat) (x : Die) : (s.setDie d x).latch = s.latch := rfl
@[simp] theorem setDie_latchLost (s : State) (d : Nat) (x : Die) : (s.setDie d x).latchLost = s.latchLost := rfl
@[simp] theorem setDie_sent (s : State) (d : Nat) (x : Die) : (s.setDie d x).sent = s.sent := rfl
@[simp] theorem setDie_msix (s : State) (d : Nat) (x : Die) : (s.setDie d x).msix = s.msix := rfl
@[simp] theorem setDie_rdma (s : State) (d : Nat) (x : Die) : (s.setDie d x).rdma = s.rdma := rfl
@[simp] theorem setDie_rdmaReqs (s : State) (d : Nat) (x : Die) : (s.setDie d x).rdmaReqs = s.rdmaReqs := rfl
@[simp] theorem setDie_period (s : State) (d : Nat) (x : Die) : (s.setDie d x).period = s.period := rfl
@[simp] theorem setDie_seq (s : State) (d : Nat) (x : Die) : (s.setDie d x).seq = s.seq := rfl
@[simp] theorem setDie_free (s : State) (d : Nat) (x : Die) : (s.setDie d x).free = s.free := rfl
@[simp] theorem setDie_cur (s : State) (d : Nat) (x : Die) : (s.setDie d x).cur = s.cur := rfl
@[simp] theorem setDie_agenda (s : State) (d : Nat) (x : Die) : (s.setDie d x).agenda = s.agenda := rfl
@[simp] theorem setLaunch_powered (s : State) (t : Nat) (x : Launch) : (s.setLaunch t x).powered = s.powered := rfl
@[simp] theorem setLaunch_now (s : State) (t : Nat) (x : Launch) : (s.setLaunch t x).now = s.now := rfl
@[simp] theorem setLaunch_mem (s : State) (t : Nat) (x : Launch) : (s.setLaunch t x).mem = s.mem := rfl
@[simp] theorem setLaunch_memPoison (s : State) (t : Nat) (x : Launch) : (s.setLaunch t x).memPoison = s.memPoison := rfl
@[simp] theorem setLaunch_hostMem (s : State) (t : Nat) (x : Launch) : (s.setLaunch t x).hostMem = s.hostMem := rfl
@[simp] theorem setLaunch_hostPages (s : State) (t : Nat) (x : Launch) : (s.setLaunch t x).hostPages = s.hostPages := rfl
@[simp] theorem setLaunch_dir (s : State) (t : Nat) (x : Launch) : (s.setLaunch t x).dir = s.dir := rfl
@[simp] theorem setLaunch_hostLines (s : State) (t : Nat) (x : Launch) : (s.setLaunch t x).hostLines = s.hostLines := rfl
@[simp] theorem setLaunch_blocks (s : State) (t : Nat) (x : Launch) : (s.setLaunch t x).blocks = s.blocks := rfl
@[simp] theorem setLaunch_cores (s : State) (t : Nat) (x : Launch) : (s.setLaunch t x).cores = s.cores := rfl
@[simp] theorem setLaunch_piers (s : State) (t : Nat) (x : Launch) : (s.setLaunch t x).piers = s.piers := rfl
@[simp] theorem setLaunch_runs (s : State) (t : Nat) (x : Launch) : (s.setLaunch t x).runs = s.runs := rfl
@[simp] theorem setLaunch_memops (s : State) (t : Nat) (x : Launch) : (s.setLaunch t x).memops = s.memops := rfl
@[simp] theorem setLaunch_lres (s : State) (t : Nat) (x : Launch) : (s.setLaunch t x).lres = s.lres := rfl
@[simp] theorem setLaunch_mrdas (s : State) (t : Nat) (x : Launch) : (s.setLaunch t x).mrdas = s.mrdas := rfl
@[simp] theorem setLaunch_revokes (s : State) (t : Nat) (x : Launch) : (s.setLaunch t x).revokes = s.revokes := rfl
@[simp] theorem setLaunch_acks (s : State) (t : Nat) (x : Launch) : (s.setLaunch t x).acks = s.acks := rfl
@[simp] theorem setLaunch_sgreqs (s : State) (t : Nat) (x : Launch) : (s.setLaunch t x).sgreqs = s.sgreqs := rfl
@[simp] theorem setLaunch_jobs (s : State) (t : Nat) (x : Launch) : (s.setLaunch t x).jobs = s.jobs := rfl
@[simp] theorem setLaunch_colls (s : State) (t : Nat) (x : Launch) : (s.setLaunch t x).colls = s.colls := rfl
@[simp] theorem setLaunch_fences (s : State) (t : Nat) (x : Launch) : (s.setLaunch t x).fences = s.fences := rfl
@[simp] theorem setLaunch_cxlReqs (s : State) (t : Nat) (x : Launch) : (s.setLaunch t x).cxlReqs = s.cxlReqs := rfl
@[simp] theorem setLaunch_frWrites (s : State) (t : Nat) (x : Launch) : (s.setLaunch t x).frWrites = s.frWrites := rfl
@[simp] theorem setLaunch_uses (s : State) (t : Nat) (x : Launch) : (s.setLaunch t x).uses = s.uses := rfl
@[simp] theorem setLaunch_evicts (s : State) (t : Nat) (x : Launch) : (s.setLaunch t x).evicts = s.evicts := rfl
@[simp] theorem setLaunch_backing (s : State) (t : Nat) (x : Launch) : (s.setLaunch t x).backing = s.backing := rfl
@[simp] theorem setLaunch_freeFrames (s : State) (t : Nat) (x : Launch) : (s.setLaunch t x).freeFrames = s.freeFrames := rfl
@[simp] theorem setLaunch_pageReqs (s : State) (t : Nat) (x : Launch) : (s.setLaunch t x).pageReqs = s.pageReqs := rfl
@[simp] theorem setLaunch_queues (s : State) (t : Nat) (x : Launch) : (s.setLaunch t x).queues = s.queues := rfl
@[simp] theorem setLaunch_ifaces (s : State) (t : Nat) (x : Launch) : (s.setLaunch t x).ifaces = s.ifaces := rfl
@[simp] theorem setLaunch_parts (s : State) (t : Nat) (x : Launch) : (s.setLaunch t x).parts = s.parts := rfl
@[simp] theorem setLaunch_dies (s : State) (t : Nat) (x : Launch) : (s.setLaunch t x).dies = s.dies := rfl
@[simp] theorem setLaunch_harts (s : State) (t : Nat) (x : Launch) : (s.setLaunch t x).harts = s.harts := rfl
@[simp] theorem setLaunch_linkUp (s : State) (t : Nat) (x : Launch) : (s.setLaunch t x).linkUp = s.linkUp := rfl
@[simp] theorem setLaunch_memLinks (s : State) (t : Nat) (x : Launch) : (s.setLaunch t x).memLinks = s.memLinks := rfl
@[simp] theorem setLaunch_fabric (s : State) (t : Nat) (x : Launch) : (s.setLaunch t x).fabric = s.fabric := rfl
@[simp] theorem setLaunch_ethernet (s : State) (t : Nat) (x : Launch) : (s.setLaunch t x).ethernet = s.ethernet := rfl
@[simp] theorem setLaunch_package (s : State) (t : Nat) (x : Launch) : (s.setLaunch t x).package = s.package := rfl
@[simp] theorem setLaunch_boot (s : State) (t : Nat) (x : Launch) : (s.setLaunch t x).boot = s.boot := rfl
@[simp] theorem setLaunch_latch (s : State) (t : Nat) (x : Launch) : (s.setLaunch t x).latch = s.latch := rfl
@[simp] theorem setLaunch_latchLost (s : State) (t : Nat) (x : Launch) : (s.setLaunch t x).latchLost = s.latchLost := rfl
@[simp] theorem setLaunch_sent (s : State) (t : Nat) (x : Launch) : (s.setLaunch t x).sent = s.sent := rfl
@[simp] theorem setLaunch_msix (s : State) (t : Nat) (x : Launch) : (s.setLaunch t x).msix = s.msix := rfl
@[simp] theorem setLaunch_rdma (s : State) (t : Nat) (x : Launch) : (s.setLaunch t x).rdma = s.rdma := rfl
@[simp] theorem setLaunch_rdmaReqs (s : State) (t : Nat) (x : Launch) : (s.setLaunch t x).rdmaReqs = s.rdmaReqs := rfl
@[simp] theorem setLaunch_period (s : State) (t : Nat) (x : Launch) : (s.setLaunch t x).period = s.period := rfl
@[simp] theorem setLaunch_seq (s : State) (t : Nat) (x : Launch) : (s.setLaunch t x).seq = s.seq := rfl
@[simp] theorem setLaunch_free (s : State) (t : Nat) (x : Launch) : (s.setLaunch t x).free = s.free := rfl
@[simp] theorem setLaunch_cur (s : State) (t : Nat) (x : Launch) : (s.setLaunch t x).cur = s.cur := rfl
@[simp] theorem setLaunch_agenda (s : State) (t : Nat) (x : Launch) : (s.setLaunch t x).agenda = s.agenda := rfl
@[simp] theorem setQueue_powered (s : State) (q : Nat) (x : Queue) : (s.setQueue q x).powered = s.powered := rfl
@[simp] theorem setQueue_now (s : State) (q : Nat) (x : Queue) : (s.setQueue q x).now = s.now := rfl
@[simp] theorem setQueue_mem (s : State) (q : Nat) (x : Queue) : (s.setQueue q x).mem = s.mem := rfl
@[simp] theorem setQueue_memPoison (s : State) (q : Nat) (x : Queue) : (s.setQueue q x).memPoison = s.memPoison := rfl
@[simp] theorem setQueue_hostMem (s : State) (q : Nat) (x : Queue) : (s.setQueue q x).hostMem = s.hostMem := rfl
@[simp] theorem setQueue_hostPages (s : State) (q : Nat) (x : Queue) : (s.setQueue q x).hostPages = s.hostPages := rfl
@[simp] theorem setQueue_dir (s : State) (q : Nat) (x : Queue) : (s.setQueue q x).dir = s.dir := rfl
@[simp] theorem setQueue_hostLines (s : State) (q : Nat) (x : Queue) : (s.setQueue q x).hostLines = s.hostLines := rfl
@[simp] theorem setQueue_blocks (s : State) (q : Nat) (x : Queue) : (s.setQueue q x).blocks = s.blocks := rfl
@[simp] theorem setQueue_cores (s : State) (q : Nat) (x : Queue) : (s.setQueue q x).cores = s.cores := rfl
@[simp] theorem setQueue_piers (s : State) (q : Nat) (x : Queue) : (s.setQueue q x).piers = s.piers := rfl
@[simp] theorem setQueue_runs (s : State) (q : Nat) (x : Queue) : (s.setQueue q x).runs = s.runs := rfl
@[simp] theorem setQueue_memops (s : State) (q : Nat) (x : Queue) : (s.setQueue q x).memops = s.memops := rfl
@[simp] theorem setQueue_lres (s : State) (q : Nat) (x : Queue) : (s.setQueue q x).lres = s.lres := rfl
@[simp] theorem setQueue_mrdas (s : State) (q : Nat) (x : Queue) : (s.setQueue q x).mrdas = s.mrdas := rfl
@[simp] theorem setQueue_revokes (s : State) (q : Nat) (x : Queue) : (s.setQueue q x).revokes = s.revokes := rfl
@[simp] theorem setQueue_acks (s : State) (q : Nat) (x : Queue) : (s.setQueue q x).acks = s.acks := rfl
@[simp] theorem setQueue_sgreqs (s : State) (q : Nat) (x : Queue) : (s.setQueue q x).sgreqs = s.sgreqs := rfl
@[simp] theorem setQueue_jobs (s : State) (q : Nat) (x : Queue) : (s.setQueue q x).jobs = s.jobs := rfl
@[simp] theorem setQueue_colls (s : State) (q : Nat) (x : Queue) : (s.setQueue q x).colls = s.colls := rfl
@[simp] theorem setQueue_fences (s : State) (q : Nat) (x : Queue) : (s.setQueue q x).fences = s.fences := rfl
@[simp] theorem setQueue_cxlReqs (s : State) (q : Nat) (x : Queue) : (s.setQueue q x).cxlReqs = s.cxlReqs := rfl
@[simp] theorem setQueue_frWrites (s : State) (q : Nat) (x : Queue) : (s.setQueue q x).frWrites = s.frWrites := rfl
@[simp] theorem setQueue_uses (s : State) (q : Nat) (x : Queue) : (s.setQueue q x).uses = s.uses := rfl
@[simp] theorem setQueue_evicts (s : State) (q : Nat) (x : Queue) : (s.setQueue q x).evicts = s.evicts := rfl
@[simp] theorem setQueue_backing (s : State) (q : Nat) (x : Queue) : (s.setQueue q x).backing = s.backing := rfl
@[simp] theorem setQueue_freeFrames (s : State) (q : Nat) (x : Queue) : (s.setQueue q x).freeFrames = s.freeFrames := rfl
@[simp] theorem setQueue_pageReqs (s : State) (q : Nat) (x : Queue) : (s.setQueue q x).pageReqs = s.pageReqs := rfl
@[simp] theorem setQueue_launches (s : State) (q : Nat) (x : Queue) : (s.setQueue q x).launches = s.launches := rfl
@[simp] theorem setQueue_ifaces (s : State) (q : Nat) (x : Queue) : (s.setQueue q x).ifaces = s.ifaces := rfl
@[simp] theorem setQueue_parts (s : State) (q : Nat) (x : Queue) : (s.setQueue q x).parts = s.parts := rfl
@[simp] theorem setQueue_dies (s : State) (q : Nat) (x : Queue) : (s.setQueue q x).dies = s.dies := rfl
@[simp] theorem setQueue_harts (s : State) (q : Nat) (x : Queue) : (s.setQueue q x).harts = s.harts := rfl
@[simp] theorem setQueue_linkUp (s : State) (q : Nat) (x : Queue) : (s.setQueue q x).linkUp = s.linkUp := rfl
@[simp] theorem setQueue_memLinks (s : State) (q : Nat) (x : Queue) : (s.setQueue q x).memLinks = s.memLinks := rfl
@[simp] theorem setQueue_fabric (s : State) (q : Nat) (x : Queue) : (s.setQueue q x).fabric = s.fabric := rfl
@[simp] theorem setQueue_ethernet (s : State) (q : Nat) (x : Queue) : (s.setQueue q x).ethernet = s.ethernet := rfl
@[simp] theorem setQueue_package (s : State) (q : Nat) (x : Queue) : (s.setQueue q x).package = s.package := rfl
@[simp] theorem setQueue_boot (s : State) (q : Nat) (x : Queue) : (s.setQueue q x).boot = s.boot := rfl
@[simp] theorem setQueue_latch (s : State) (q : Nat) (x : Queue) : (s.setQueue q x).latch = s.latch := rfl
@[simp] theorem setQueue_latchLost (s : State) (q : Nat) (x : Queue) : (s.setQueue q x).latchLost = s.latchLost := rfl
@[simp] theorem setQueue_sent (s : State) (q : Nat) (x : Queue) : (s.setQueue q x).sent = s.sent := rfl
@[simp] theorem setQueue_msix (s : State) (q : Nat) (x : Queue) : (s.setQueue q x).msix = s.msix := rfl
@[simp] theorem setQueue_rdma (s : State) (q : Nat) (x : Queue) : (s.setQueue q x).rdma = s.rdma := rfl
@[simp] theorem setQueue_rdmaReqs (s : State) (q : Nat) (x : Queue) : (s.setQueue q x).rdmaReqs = s.rdmaReqs := rfl
@[simp] theorem setQueue_period (s : State) (q : Nat) (x : Queue) : (s.setQueue q x).period = s.period := rfl
@[simp] theorem setQueue_seq (s : State) (q : Nat) (x : Queue) : (s.setQueue q x).seq = s.seq := rfl
@[simp] theorem setQueue_free (s : State) (q : Nat) (x : Queue) : (s.setQueue q x).free = s.free := rfl
@[simp] theorem setQueue_cur (s : State) (q : Nat) (x : Queue) : (s.setQueue q x).cur = s.cur := rfl
@[simp] theorem setQueue_agenda (s : State) (q : Nat) (x : Queue) : (s.setQueue q x).agenda = s.agenda := rfl
@[simp] theorem setIface_powered (s : State) (i : Nat) (x : Iface) : (s.setIface i x).powered = s.powered := rfl
@[simp] theorem setIface_now (s : State) (i : Nat) (x : Iface) : (s.setIface i x).now = s.now := rfl
@[simp] theorem setIface_mem (s : State) (i : Nat) (x : Iface) : (s.setIface i x).mem = s.mem := rfl
@[simp] theorem setIface_memPoison (s : State) (i : Nat) (x : Iface) : (s.setIface i x).memPoison = s.memPoison := rfl
@[simp] theorem setIface_hostMem (s : State) (i : Nat) (x : Iface) : (s.setIface i x).hostMem = s.hostMem := rfl
@[simp] theorem setIface_hostPages (s : State) (i : Nat) (x : Iface) : (s.setIface i x).hostPages = s.hostPages := rfl
@[simp] theorem setIface_dir (s : State) (i : Nat) (x : Iface) : (s.setIface i x).dir = s.dir := rfl
@[simp] theorem setIface_hostLines (s : State) (i : Nat) (x : Iface) : (s.setIface i x).hostLines = s.hostLines := rfl
@[simp] theorem setIface_blocks (s : State) (i : Nat) (x : Iface) : (s.setIface i x).blocks = s.blocks := rfl
@[simp] theorem setIface_cores (s : State) (i : Nat) (x : Iface) : (s.setIface i x).cores = s.cores := rfl
@[simp] theorem setIface_piers (s : State) (i : Nat) (x : Iface) : (s.setIface i x).piers = s.piers := rfl
@[simp] theorem setIface_runs (s : State) (i : Nat) (x : Iface) : (s.setIface i x).runs = s.runs := rfl
@[simp] theorem setIface_memops (s : State) (i : Nat) (x : Iface) : (s.setIface i x).memops = s.memops := rfl
@[simp] theorem setIface_lres (s : State) (i : Nat) (x : Iface) : (s.setIface i x).lres = s.lres := rfl
@[simp] theorem setIface_mrdas (s : State) (i : Nat) (x : Iface) : (s.setIface i x).mrdas = s.mrdas := rfl
@[simp] theorem setIface_revokes (s : State) (i : Nat) (x : Iface) : (s.setIface i x).revokes = s.revokes := rfl
@[simp] theorem setIface_acks (s : State) (i : Nat) (x : Iface) : (s.setIface i x).acks = s.acks := rfl
@[simp] theorem setIface_sgreqs (s : State) (i : Nat) (x : Iface) : (s.setIface i x).sgreqs = s.sgreqs := rfl
@[simp] theorem setIface_jobs (s : State) (i : Nat) (x : Iface) : (s.setIface i x).jobs = s.jobs := rfl
@[simp] theorem setIface_colls (s : State) (i : Nat) (x : Iface) : (s.setIface i x).colls = s.colls := rfl
@[simp] theorem setIface_fences (s : State) (i : Nat) (x : Iface) : (s.setIface i x).fences = s.fences := rfl
@[simp] theorem setIface_cxlReqs (s : State) (i : Nat) (x : Iface) : (s.setIface i x).cxlReqs = s.cxlReqs := rfl
@[simp] theorem setIface_frWrites (s : State) (i : Nat) (x : Iface) : (s.setIface i x).frWrites = s.frWrites := rfl
@[simp] theorem setIface_uses (s : State) (i : Nat) (x : Iface) : (s.setIface i x).uses = s.uses := rfl
@[simp] theorem setIface_evicts (s : State) (i : Nat) (x : Iface) : (s.setIface i x).evicts = s.evicts := rfl
@[simp] theorem setIface_backing (s : State) (i : Nat) (x : Iface) : (s.setIface i x).backing = s.backing := rfl
@[simp] theorem setIface_freeFrames (s : State) (i : Nat) (x : Iface) : (s.setIface i x).freeFrames = s.freeFrames := rfl
@[simp] theorem setIface_pageReqs (s : State) (i : Nat) (x : Iface) : (s.setIface i x).pageReqs = s.pageReqs := rfl
@[simp] theorem setIface_launches (s : State) (i : Nat) (x : Iface) : (s.setIface i x).launches = s.launches := rfl
@[simp] theorem setIface_queues (s : State) (i : Nat) (x : Iface) : (s.setIface i x).queues = s.queues := rfl
@[simp] theorem setIface_parts (s : State) (i : Nat) (x : Iface) : (s.setIface i x).parts = s.parts := rfl
@[simp] theorem setIface_dies (s : State) (i : Nat) (x : Iface) : (s.setIface i x).dies = s.dies := rfl
@[simp] theorem setIface_harts (s : State) (i : Nat) (x : Iface) : (s.setIface i x).harts = s.harts := rfl
@[simp] theorem setIface_linkUp (s : State) (i : Nat) (x : Iface) : (s.setIface i x).linkUp = s.linkUp := rfl
@[simp] theorem setIface_memLinks (s : State) (i : Nat) (x : Iface) : (s.setIface i x).memLinks = s.memLinks := rfl
@[simp] theorem setIface_fabric (s : State) (i : Nat) (x : Iface) : (s.setIface i x).fabric = s.fabric := rfl
@[simp] theorem setIface_ethernet (s : State) (i : Nat) (x : Iface) : (s.setIface i x).ethernet = s.ethernet := rfl
@[simp] theorem setIface_package (s : State) (i : Nat) (x : Iface) : (s.setIface i x).package = s.package := rfl
@[simp] theorem setIface_boot (s : State) (i : Nat) (x : Iface) : (s.setIface i x).boot = s.boot := rfl
@[simp] theorem setIface_latch (s : State) (i : Nat) (x : Iface) : (s.setIface i x).latch = s.latch := rfl
@[simp] theorem setIface_latchLost (s : State) (i : Nat) (x : Iface) : (s.setIface i x).latchLost = s.latchLost := rfl
@[simp] theorem setIface_sent (s : State) (i : Nat) (x : Iface) : (s.setIface i x).sent = s.sent := rfl
@[simp] theorem setIface_msix (s : State) (i : Nat) (x : Iface) : (s.setIface i x).msix = s.msix := rfl
@[simp] theorem setIface_rdma (s : State) (i : Nat) (x : Iface) : (s.setIface i x).rdma = s.rdma := rfl
@[simp] theorem setIface_rdmaReqs (s : State) (i : Nat) (x : Iface) : (s.setIface i x).rdmaReqs = s.rdmaReqs := rfl
@[simp] theorem setIface_period (s : State) (i : Nat) (x : Iface) : (s.setIface i x).period = s.period := rfl
@[simp] theorem setIface_seq (s : State) (i : Nat) (x : Iface) : (s.setIface i x).seq = s.seq := rfl
@[simp] theorem setIface_free (s : State) (i : Nat) (x : Iface) : (s.setIface i x).free = s.free := rfl
@[simp] theorem setIface_cur (s : State) (i : Nat) (x : Iface) : (s.setIface i x).cur = s.cur := rfl
@[simp] theorem setIface_agenda (s : State) (i : Nat) (x : Iface) : (s.setIface i x).agenda = s.agenda := rfl
@[simp] theorem setPart_powered (s : State) (p : Nat) (x : Part) : (s.setPart p x).powered = s.powered := rfl
@[simp] theorem setPart_now (s : State) (p : Nat) (x : Part) : (s.setPart p x).now = s.now := rfl
@[simp] theorem setPart_mem (s : State) (p : Nat) (x : Part) : (s.setPart p x).mem = s.mem := rfl
@[simp] theorem setPart_memPoison (s : State) (p : Nat) (x : Part) : (s.setPart p x).memPoison = s.memPoison := rfl
@[simp] theorem setPart_hostMem (s : State) (p : Nat) (x : Part) : (s.setPart p x).hostMem = s.hostMem := rfl
@[simp] theorem setPart_hostPages (s : State) (p : Nat) (x : Part) : (s.setPart p x).hostPages = s.hostPages := rfl
@[simp] theorem setPart_dir (s : State) (p : Nat) (x : Part) : (s.setPart p x).dir = s.dir := rfl
@[simp] theorem setPart_hostLines (s : State) (p : Nat) (x : Part) : (s.setPart p x).hostLines = s.hostLines := rfl
@[simp] theorem setPart_blocks (s : State) (p : Nat) (x : Part) : (s.setPart p x).blocks = s.blocks := rfl
@[simp] theorem setPart_cores (s : State) (p : Nat) (x : Part) : (s.setPart p x).cores = s.cores := rfl
@[simp] theorem setPart_piers (s : State) (p : Nat) (x : Part) : (s.setPart p x).piers = s.piers := rfl
@[simp] theorem setPart_runs (s : State) (p : Nat) (x : Part) : (s.setPart p x).runs = s.runs := rfl
@[simp] theorem setPart_memops (s : State) (p : Nat) (x : Part) : (s.setPart p x).memops = s.memops := rfl
@[simp] theorem setPart_lres (s : State) (p : Nat) (x : Part) : (s.setPart p x).lres = s.lres := rfl
@[simp] theorem setPart_mrdas (s : State) (p : Nat) (x : Part) : (s.setPart p x).mrdas = s.mrdas := rfl
@[simp] theorem setPart_revokes (s : State) (p : Nat) (x : Part) : (s.setPart p x).revokes = s.revokes := rfl
@[simp] theorem setPart_acks (s : State) (p : Nat) (x : Part) : (s.setPart p x).acks = s.acks := rfl
@[simp] theorem setPart_sgreqs (s : State) (p : Nat) (x : Part) : (s.setPart p x).sgreqs = s.sgreqs := rfl
@[simp] theorem setPart_jobs (s : State) (p : Nat) (x : Part) : (s.setPart p x).jobs = s.jobs := rfl
@[simp] theorem setPart_colls (s : State) (p : Nat) (x : Part) : (s.setPart p x).colls = s.colls := rfl
@[simp] theorem setPart_fences (s : State) (p : Nat) (x : Part) : (s.setPart p x).fences = s.fences := rfl
@[simp] theorem setPart_cxlReqs (s : State) (p : Nat) (x : Part) : (s.setPart p x).cxlReqs = s.cxlReqs := rfl
@[simp] theorem setPart_frWrites (s : State) (p : Nat) (x : Part) : (s.setPart p x).frWrites = s.frWrites := rfl
@[simp] theorem setPart_uses (s : State) (p : Nat) (x : Part) : (s.setPart p x).uses = s.uses := rfl
@[simp] theorem setPart_evicts (s : State) (p : Nat) (x : Part) : (s.setPart p x).evicts = s.evicts := rfl
@[simp] theorem setPart_backing (s : State) (p : Nat) (x : Part) : (s.setPart p x).backing = s.backing := rfl
@[simp] theorem setPart_freeFrames (s : State) (p : Nat) (x : Part) : (s.setPart p x).freeFrames = s.freeFrames := rfl
@[simp] theorem setPart_pageReqs (s : State) (p : Nat) (x : Part) : (s.setPart p x).pageReqs = s.pageReqs := rfl
@[simp] theorem setPart_launches (s : State) (p : Nat) (x : Part) : (s.setPart p x).launches = s.launches := rfl
@[simp] theorem setPart_queues (s : State) (p : Nat) (x : Part) : (s.setPart p x).queues = s.queues := rfl
@[simp] theorem setPart_ifaces (s : State) (p : Nat) (x : Part) : (s.setPart p x).ifaces = s.ifaces := rfl
@[simp] theorem setPart_dies (s : State) (p : Nat) (x : Part) : (s.setPart p x).dies = s.dies := rfl
@[simp] theorem setPart_harts (s : State) (p : Nat) (x : Part) : (s.setPart p x).harts = s.harts := rfl
@[simp] theorem setPart_linkUp (s : State) (p : Nat) (x : Part) : (s.setPart p x).linkUp = s.linkUp := rfl
@[simp] theorem setPart_memLinks (s : State) (p : Nat) (x : Part) : (s.setPart p x).memLinks = s.memLinks := rfl
@[simp] theorem setPart_fabric (s : State) (p : Nat) (x : Part) : (s.setPart p x).fabric = s.fabric := rfl
@[simp] theorem setPart_ethernet (s : State) (p : Nat) (x : Part) : (s.setPart p x).ethernet = s.ethernet := rfl
@[simp] theorem setPart_package (s : State) (p : Nat) (x : Part) : (s.setPart p x).package = s.package := rfl
@[simp] theorem setPart_boot (s : State) (p : Nat) (x : Part) : (s.setPart p x).boot = s.boot := rfl
@[simp] theorem setPart_latch (s : State) (p : Nat) (x : Part) : (s.setPart p x).latch = s.latch := rfl
@[simp] theorem setPart_latchLost (s : State) (p : Nat) (x : Part) : (s.setPart p x).latchLost = s.latchLost := rfl
@[simp] theorem setPart_sent (s : State) (p : Nat) (x : Part) : (s.setPart p x).sent = s.sent := rfl
@[simp] theorem setPart_msix (s : State) (p : Nat) (x : Part) : (s.setPart p x).msix = s.msix := rfl
@[simp] theorem setPart_rdma (s : State) (p : Nat) (x : Part) : (s.setPart p x).rdma = s.rdma := rfl
@[simp] theorem setPart_rdmaReqs (s : State) (p : Nat) (x : Part) : (s.setPart p x).rdmaReqs = s.rdmaReqs := rfl
@[simp] theorem setPart_period (s : State) (p : Nat) (x : Part) : (s.setPart p x).period = s.period := rfl
@[simp] theorem setPart_seq (s : State) (p : Nat) (x : Part) : (s.setPart p x).seq = s.seq := rfl
@[simp] theorem setPart_free (s : State) (p : Nat) (x : Part) : (s.setPart p x).free = s.free := rfl
@[simp] theorem setPart_cur (s : State) (p : Nat) (x : Part) : (s.setPart p x).cur = s.cur := rfl
@[simp] theorem setPart_agenda (s : State) (p : Nat) (x : Part) : (s.setPart p x).agenda = s.agenda := rfl
@[simp] theorem setHart_powered (s : State) (n : Nat) (x : Hart) : (s.setHart n x).powered = s.powered := rfl
@[simp] theorem setHart_now (s : State) (n : Nat) (x : Hart) : (s.setHart n x).now = s.now := rfl
@[simp] theorem setHart_mem (s : State) (n : Nat) (x : Hart) : (s.setHart n x).mem = s.mem := rfl
@[simp] theorem setHart_memPoison (s : State) (n : Nat) (x : Hart) : (s.setHart n x).memPoison = s.memPoison := rfl
@[simp] theorem setHart_hostMem (s : State) (n : Nat) (x : Hart) : (s.setHart n x).hostMem = s.hostMem := rfl
@[simp] theorem setHart_hostPages (s : State) (n : Nat) (x : Hart) : (s.setHart n x).hostPages = s.hostPages := rfl
@[simp] theorem setHart_dir (s : State) (n : Nat) (x : Hart) : (s.setHart n x).dir = s.dir := rfl
@[simp] theorem setHart_hostLines (s : State) (n : Nat) (x : Hart) : (s.setHart n x).hostLines = s.hostLines := rfl
@[simp] theorem setHart_blocks (s : State) (n : Nat) (x : Hart) : (s.setHart n x).blocks = s.blocks := rfl
@[simp] theorem setHart_cores (s : State) (n : Nat) (x : Hart) : (s.setHart n x).cores = s.cores := rfl
@[simp] theorem setHart_piers (s : State) (n : Nat) (x : Hart) : (s.setHart n x).piers = s.piers := rfl
@[simp] theorem setHart_runs (s : State) (n : Nat) (x : Hart) : (s.setHart n x).runs = s.runs := rfl
@[simp] theorem setHart_memops (s : State) (n : Nat) (x : Hart) : (s.setHart n x).memops = s.memops := rfl
@[simp] theorem setHart_lres (s : State) (n : Nat) (x : Hart) : (s.setHart n x).lres = s.lres := rfl
@[simp] theorem setHart_mrdas (s : State) (n : Nat) (x : Hart) : (s.setHart n x).mrdas = s.mrdas := rfl
@[simp] theorem setHart_revokes (s : State) (n : Nat) (x : Hart) : (s.setHart n x).revokes = s.revokes := rfl
@[simp] theorem setHart_acks (s : State) (n : Nat) (x : Hart) : (s.setHart n x).acks = s.acks := rfl
@[simp] theorem setHart_sgreqs (s : State) (n : Nat) (x : Hart) : (s.setHart n x).sgreqs = s.sgreqs := rfl
@[simp] theorem setHart_jobs (s : State) (n : Nat) (x : Hart) : (s.setHart n x).jobs = s.jobs := rfl
@[simp] theorem setHart_colls (s : State) (n : Nat) (x : Hart) : (s.setHart n x).colls = s.colls := rfl
@[simp] theorem setHart_fences (s : State) (n : Nat) (x : Hart) : (s.setHart n x).fences = s.fences := rfl
@[simp] theorem setHart_cxlReqs (s : State) (n : Nat) (x : Hart) : (s.setHart n x).cxlReqs = s.cxlReqs := rfl
@[simp] theorem setHart_frWrites (s : State) (n : Nat) (x : Hart) : (s.setHart n x).frWrites = s.frWrites := rfl
@[simp] theorem setHart_uses (s : State) (n : Nat) (x : Hart) : (s.setHart n x).uses = s.uses := rfl
@[simp] theorem setHart_evicts (s : State) (n : Nat) (x : Hart) : (s.setHart n x).evicts = s.evicts := rfl
@[simp] theorem setHart_backing (s : State) (n : Nat) (x : Hart) : (s.setHart n x).backing = s.backing := rfl
@[simp] theorem setHart_freeFrames (s : State) (n : Nat) (x : Hart) : (s.setHart n x).freeFrames = s.freeFrames := rfl
@[simp] theorem setHart_pageReqs (s : State) (n : Nat) (x : Hart) : (s.setHart n x).pageReqs = s.pageReqs := rfl
@[simp] theorem setHart_launches (s : State) (n : Nat) (x : Hart) : (s.setHart n x).launches = s.launches := rfl
@[simp] theorem setHart_queues (s : State) (n : Nat) (x : Hart) : (s.setHart n x).queues = s.queues := rfl
@[simp] theorem setHart_ifaces (s : State) (n : Nat) (x : Hart) : (s.setHart n x).ifaces = s.ifaces := rfl
@[simp] theorem setHart_parts (s : State) (n : Nat) (x : Hart) : (s.setHart n x).parts = s.parts := rfl
@[simp] theorem setHart_dies (s : State) (n : Nat) (x : Hart) : (s.setHart n x).dies = s.dies := rfl
@[simp] theorem setHart_linkUp (s : State) (n : Nat) (x : Hart) : (s.setHart n x).linkUp = s.linkUp := rfl
@[simp] theorem setHart_memLinks (s : State) (n : Nat) (x : Hart) : (s.setHart n x).memLinks = s.memLinks := rfl
@[simp] theorem setHart_fabric (s : State) (n : Nat) (x : Hart) : (s.setHart n x).fabric = s.fabric := rfl
@[simp] theorem setHart_ethernet (s : State) (n : Nat) (x : Hart) : (s.setHart n x).ethernet = s.ethernet := rfl
@[simp] theorem setHart_package (s : State) (n : Nat) (x : Hart) : (s.setHart n x).package = s.package := rfl
@[simp] theorem setHart_boot (s : State) (n : Nat) (x : Hart) : (s.setHart n x).boot = s.boot := rfl
@[simp] theorem setHart_latch (s : State) (n : Nat) (x : Hart) : (s.setHart n x).latch = s.latch := rfl
@[simp] theorem setHart_latchLost (s : State) (n : Nat) (x : Hart) : (s.setHart n x).latchLost = s.latchLost := rfl
@[simp] theorem setHart_sent (s : State) (n : Nat) (x : Hart) : (s.setHart n x).sent = s.sent := rfl
@[simp] theorem setHart_msix (s : State) (n : Nat) (x : Hart) : (s.setHart n x).msix = s.msix := rfl
@[simp] theorem setHart_rdma (s : State) (n : Nat) (x : Hart) : (s.setHart n x).rdma = s.rdma := rfl
@[simp] theorem setHart_rdmaReqs (s : State) (n : Nat) (x : Hart) : (s.setHart n x).rdmaReqs = s.rdmaReqs := rfl
@[simp] theorem setHart_period (s : State) (n : Nat) (x : Hart) : (s.setHart n x).period = s.period := rfl
@[simp] theorem setHart_seq (s : State) (n : Nat) (x : Hart) : (s.setHart n x).seq = s.seq := rfl
@[simp] theorem setHart_free (s : State) (n : Nat) (x : Hart) : (s.setHart n x).free = s.free := rfl
@[simp] theorem setHart_cur (s : State) (n : Nat) (x : Hart) : (s.setHart n x).cur = s.cur := rfl
@[simp] theorem setHart_agenda (s : State) (n : Nat) (x : Hart) : (s.setHart n x).agenda = s.agenda := rfl
@[simp] theorem tick_powered (s : State) : (s.tick).powered = s.powered := rfl
@[simp] theorem tick_now (s : State) : (s.tick).now = s.now := rfl
@[simp] theorem tick_mem (s : State) : (s.tick).mem = s.mem := rfl
@[simp] theorem tick_memPoison (s : State) : (s.tick).memPoison = s.memPoison := rfl
@[simp] theorem tick_hostMem (s : State) : (s.tick).hostMem = s.hostMem := rfl
@[simp] theorem tick_hostPages (s : State) : (s.tick).hostPages = s.hostPages := rfl
@[simp] theorem tick_dir (s : State) : (s.tick).dir = s.dir := rfl
@[simp] theorem tick_hostLines (s : State) : (s.tick).hostLines = s.hostLines := rfl
@[simp] theorem tick_blocks (s : State) : (s.tick).blocks = s.blocks := rfl
@[simp] theorem tick_cores (s : State) : (s.tick).cores = s.cores := rfl
@[simp] theorem tick_piers (s : State) : (s.tick).piers = s.piers := rfl
@[simp] theorem tick_runs (s : State) : (s.tick).runs = s.runs := rfl
@[simp] theorem tick_memops (s : State) : (s.tick).memops = s.memops := rfl
@[simp] theorem tick_lres (s : State) : (s.tick).lres = s.lres := rfl
@[simp] theorem tick_mrdas (s : State) : (s.tick).mrdas = s.mrdas := rfl
@[simp] theorem tick_revokes (s : State) : (s.tick).revokes = s.revokes := rfl
@[simp] theorem tick_acks (s : State) : (s.tick).acks = s.acks := rfl
@[simp] theorem tick_sgreqs (s : State) : (s.tick).sgreqs = s.sgreqs := rfl
@[simp] theorem tick_jobs (s : State) : (s.tick).jobs = s.jobs := rfl
@[simp] theorem tick_colls (s : State) : (s.tick).colls = s.colls := rfl
@[simp] theorem tick_fences (s : State) : (s.tick).fences = s.fences := rfl
@[simp] theorem tick_cxlReqs (s : State) : (s.tick).cxlReqs = s.cxlReqs := rfl
@[simp] theorem tick_frWrites (s : State) : (s.tick).frWrites = s.frWrites := rfl
@[simp] theorem tick_uses (s : State) : (s.tick).uses = s.uses := rfl
@[simp] theorem tick_evicts (s : State) : (s.tick).evicts = s.evicts := rfl
@[simp] theorem tick_backing (s : State) : (s.tick).backing = s.backing := rfl
@[simp] theorem tick_freeFrames (s : State) : (s.tick).freeFrames = s.freeFrames := rfl
@[simp] theorem tick_pageReqs (s : State) : (s.tick).pageReqs = s.pageReqs := rfl
@[simp] theorem tick_launches (s : State) : (s.tick).launches = s.launches := rfl
@[simp] theorem tick_queues (s : State) : (s.tick).queues = s.queues := rfl
@[simp] theorem tick_ifaces (s : State) : (s.tick).ifaces = s.ifaces := rfl
@[simp] theorem tick_parts (s : State) : (s.tick).parts = s.parts := rfl
@[simp] theorem tick_dies (s : State) : (s.tick).dies = s.dies := rfl
@[simp] theorem tick_harts (s : State) : (s.tick).harts = s.harts := rfl
@[simp] theorem tick_linkUp (s : State) : (s.tick).linkUp = s.linkUp := rfl
@[simp] theorem tick_memLinks (s : State) : (s.tick).memLinks = s.memLinks := rfl
@[simp] theorem tick_fabric (s : State) : (s.tick).fabric = s.fabric := rfl
@[simp] theorem tick_ethernet (s : State) : (s.tick).ethernet = s.ethernet := rfl
@[simp] theorem tick_package (s : State) : (s.tick).package = s.package := rfl
@[simp] theorem tick_boot (s : State) : (s.tick).boot = s.boot := rfl
@[simp] theorem tick_latch (s : State) : (s.tick).latch = s.latch := rfl
@[simp] theorem tick_latchLost (s : State) : (s.tick).latchLost = s.latchLost := rfl
@[simp] theorem tick_sent (s : State) : (s.tick).sent = s.sent := rfl
@[simp] theorem tick_msix (s : State) : (s.tick).msix = s.msix := rfl
@[simp] theorem tick_rdma (s : State) : (s.tick).rdma = s.rdma := rfl
@[simp] theorem tick_rdmaReqs (s : State) : (s.tick).rdmaReqs = s.rdmaReqs := rfl
@[simp] theorem tick_period (s : State) : (s.tick).period = s.period := rfl
@[simp] theorem tick_free (s : State) : (s.tick).free = s.free := rfl
@[simp] theorem tick_cur (s : State) : (s.tick).cur = s.cur := rfl
@[simp] theorem tick_agenda (s : State) : (s.tick).agenda = s.agenda := rfl
@[simp] theorem tick_block (s : State) (k : Nat) : (s.tick).block k = s.block k := rfl
@[simp] theorem tick_core (s : State) (k : Nat) : (s.tick).core k = s.core k := rfl
@[simp] theorem tick_pier (s : State) (k : Nat) : (s.tick).pier k = s.pier k := rfl
@[simp] theorem tick_die (s : State) (k : Nat) : (s.tick).die k = s.die k := rfl
@[simp] theorem tick_launch (s : State) (k : Nat) : (s.tick).launch k = s.launch k := rfl
@[simp] theorem tick_queue (s : State) (k : Nat) : (s.tick).queue k = s.queue k := rfl
@[simp] theorem tick_iface (s : State) (k : Nat) : (s.tick).iface k = s.iface k := rfl
@[simp] theorem tick_part (s : State) (k : Nat) : (s.tick).part k = s.part k := rfl
@[simp] theorem tick_hart (s : State) (k : Nat) : (s.tick).hart k = s.hart k := rfl
@[simp] theorem drawFree_powered (s : State) : (s.drawFree.2).powered = s.powered := rfl
@[simp] theorem drawFree_now (s : State) : (s.drawFree.2).now = s.now := rfl
@[simp] theorem drawFree_mem (s : State) : (s.drawFree.2).mem = s.mem := rfl
@[simp] theorem drawFree_memPoison (s : State) : (s.drawFree.2).memPoison = s.memPoison := rfl
@[simp] theorem drawFree_hostMem (s : State) : (s.drawFree.2).hostMem = s.hostMem := rfl
@[simp] theorem drawFree_hostPages (s : State) : (s.drawFree.2).hostPages = s.hostPages := rfl
@[simp] theorem drawFree_dir (s : State) : (s.drawFree.2).dir = s.dir := rfl
@[simp] theorem drawFree_hostLines (s : State) : (s.drawFree.2).hostLines = s.hostLines := rfl
@[simp] theorem drawFree_blocks (s : State) : (s.drawFree.2).blocks = s.blocks := rfl
@[simp] theorem drawFree_cores (s : State) : (s.drawFree.2).cores = s.cores := rfl
@[simp] theorem drawFree_piers (s : State) : (s.drawFree.2).piers = s.piers := rfl
@[simp] theorem drawFree_runs (s : State) : (s.drawFree.2).runs = s.runs := rfl
@[simp] theorem drawFree_memops (s : State) : (s.drawFree.2).memops = s.memops := rfl
@[simp] theorem drawFree_lres (s : State) : (s.drawFree.2).lres = s.lres := rfl
@[simp] theorem drawFree_mrdas (s : State) : (s.drawFree.2).mrdas = s.mrdas := rfl
@[simp] theorem drawFree_revokes (s : State) : (s.drawFree.2).revokes = s.revokes := rfl
@[simp] theorem drawFree_acks (s : State) : (s.drawFree.2).acks = s.acks := rfl
@[simp] theorem drawFree_sgreqs (s : State) : (s.drawFree.2).sgreqs = s.sgreqs := rfl
@[simp] theorem drawFree_jobs (s : State) : (s.drawFree.2).jobs = s.jobs := rfl
@[simp] theorem drawFree_colls (s : State) : (s.drawFree.2).colls = s.colls := rfl
@[simp] theorem drawFree_fences (s : State) : (s.drawFree.2).fences = s.fences := rfl
@[simp] theorem drawFree_cxlReqs (s : State) : (s.drawFree.2).cxlReqs = s.cxlReqs := rfl
@[simp] theorem drawFree_frWrites (s : State) : (s.drawFree.2).frWrites = s.frWrites := rfl
@[simp] theorem drawFree_uses (s : State) : (s.drawFree.2).uses = s.uses := rfl
@[simp] theorem drawFree_evicts (s : State) : (s.drawFree.2).evicts = s.evicts := rfl
@[simp] theorem drawFree_backing (s : State) : (s.drawFree.2).backing = s.backing := rfl
@[simp] theorem drawFree_freeFrames (s : State) : (s.drawFree.2).freeFrames = s.freeFrames := rfl
@[simp] theorem drawFree_pageReqs (s : State) : (s.drawFree.2).pageReqs = s.pageReqs := rfl
@[simp] theorem drawFree_launches (s : State) : (s.drawFree.2).launches = s.launches := rfl
@[simp] theorem drawFree_queues (s : State) : (s.drawFree.2).queues = s.queues := rfl
@[simp] theorem drawFree_ifaces (s : State) : (s.drawFree.2).ifaces = s.ifaces := rfl
@[simp] theorem drawFree_parts (s : State) : (s.drawFree.2).parts = s.parts := rfl
@[simp] theorem drawFree_dies (s : State) : (s.drawFree.2).dies = s.dies := rfl
@[simp] theorem drawFree_harts (s : State) : (s.drawFree.2).harts = s.harts := rfl
@[simp] theorem drawFree_linkUp (s : State) : (s.drawFree.2).linkUp = s.linkUp := rfl
@[simp] theorem drawFree_memLinks (s : State) : (s.drawFree.2).memLinks = s.memLinks := rfl
@[simp] theorem drawFree_fabric (s : State) : (s.drawFree.2).fabric = s.fabric := rfl
@[simp] theorem drawFree_ethernet (s : State) : (s.drawFree.2).ethernet = s.ethernet := rfl
@[simp] theorem drawFree_package (s : State) : (s.drawFree.2).package = s.package := rfl
@[simp] theorem drawFree_boot (s : State) : (s.drawFree.2).boot = s.boot := rfl
@[simp] theorem drawFree_latch (s : State) : (s.drawFree.2).latch = s.latch := rfl
@[simp] theorem drawFree_latchLost (s : State) : (s.drawFree.2).latchLost = s.latchLost := rfl
@[simp] theorem drawFree_sent (s : State) : (s.drawFree.2).sent = s.sent := rfl
@[simp] theorem drawFree_msix (s : State) : (s.drawFree.2).msix = s.msix := rfl
@[simp] theorem drawFree_rdma (s : State) : (s.drawFree.2).rdma = s.rdma := rfl
@[simp] theorem drawFree_rdmaReqs (s : State) : (s.drawFree.2).rdmaReqs = s.rdmaReqs := rfl
@[simp] theorem drawFree_period (s : State) : (s.drawFree.2).period = s.period := rfl
@[simp] theorem drawFree_seq (s : State) : (s.drawFree.2).seq = s.seq := rfl
@[simp] theorem drawFree_cur (s : State) : (s.drawFree.2).cur = s.cur := rfl
@[simp] theorem drawFree_agenda (s : State) : (s.drawFree.2).agenda = s.agenda := rfl
@[simp] theorem drawFree_block (s : State) (k : Nat) : (s.drawFree.2).block k = s.block k := rfl
@[simp] theorem drawFree_core (s : State) (k : Nat) : (s.drawFree.2).core k = s.core k := rfl
@[simp] theorem drawFree_pier (s : State) (k : Nat) : (s.drawFree.2).pier k = s.pier k := rfl
@[simp] theorem drawFree_die (s : State) (k : Nat) : (s.drawFree.2).die k = s.die k := rfl
@[simp] theorem drawFree_launch (s : State) (k : Nat) : (s.drawFree.2).launch k = s.launch k := rfl
@[simp] theorem drawFree_queue (s : State) (k : Nat) : (s.drawFree.2).queue k = s.queue k := rfl
@[simp] theorem drawFree_iface (s : State) (k : Nat) : (s.drawFree.2).iface k = s.iface k := rfl
@[simp] theorem drawFree_part (s : State) (k : Nat) : (s.drawFree.2).part k = s.part k := rfl
@[simp] theorem drawFree_hart (s : State) (k : Nat) : (s.drawFree.2).hart k = s.hart k := rfl
@[simp] theorem endRun_powered (s : State) : (s.endRun).powered = s.powered := rfl
@[simp] theorem endRun_now (s : State) : (s.endRun).now = s.now := rfl
@[simp] theorem endRun_mem (s : State) : (s.endRun).mem = s.mem := rfl
@[simp] theorem endRun_memPoison (s : State) : (s.endRun).memPoison = s.memPoison := rfl
@[simp] theorem endRun_hostMem (s : State) : (s.endRun).hostMem = s.hostMem := rfl
@[simp] theorem endRun_hostPages (s : State) : (s.endRun).hostPages = s.hostPages := rfl
@[simp] theorem endRun_dir (s : State) : (s.endRun).dir = s.dir := rfl
@[simp] theorem endRun_hostLines (s : State) : (s.endRun).hostLines = s.hostLines := rfl
@[simp] theorem endRun_blocks (s : State) : (s.endRun).blocks = s.blocks := rfl
@[simp] theorem endRun_cores (s : State) : (s.endRun).cores = s.cores := rfl
@[simp] theorem endRun_piers (s : State) : (s.endRun).piers = s.piers := rfl
@[simp] theorem endRun_runs (s : State) : (s.endRun).runs = s.runs := rfl
@[simp] theorem endRun_memops (s : State) : (s.endRun).memops = s.memops := rfl
@[simp] theorem endRun_lres (s : State) : (s.endRun).lres = s.lres := rfl
@[simp] theorem endRun_mrdas (s : State) : (s.endRun).mrdas = s.mrdas := rfl
@[simp] theorem endRun_revokes (s : State) : (s.endRun).revokes = s.revokes := rfl
@[simp] theorem endRun_acks (s : State) : (s.endRun).acks = s.acks := rfl
@[simp] theorem endRun_sgreqs (s : State) : (s.endRun).sgreqs = s.sgreqs := rfl
@[simp] theorem endRun_jobs (s : State) : (s.endRun).jobs = s.jobs := rfl
@[simp] theorem endRun_colls (s : State) : (s.endRun).colls = s.colls := rfl
@[simp] theorem endRun_fences (s : State) : (s.endRun).fences = s.fences := rfl
@[simp] theorem endRun_cxlReqs (s : State) : (s.endRun).cxlReqs = s.cxlReqs := rfl
@[simp] theorem endRun_frWrites (s : State) : (s.endRun).frWrites = s.frWrites := rfl
@[simp] theorem endRun_uses (s : State) : (s.endRun).uses = s.uses := rfl
@[simp] theorem endRun_evicts (s : State) : (s.endRun).evicts = s.evicts := rfl
@[simp] theorem endRun_backing (s : State) : (s.endRun).backing = s.backing := rfl
@[simp] theorem endRun_freeFrames (s : State) : (s.endRun).freeFrames = s.freeFrames := rfl
@[simp] theorem endRun_pageReqs (s : State) : (s.endRun).pageReqs = s.pageReqs := rfl
@[simp] theorem endRun_launches (s : State) : (s.endRun).launches = s.launches := rfl
@[simp] theorem endRun_queues (s : State) : (s.endRun).queues = s.queues := rfl
@[simp] theorem endRun_ifaces (s : State) : (s.endRun).ifaces = s.ifaces := rfl
@[simp] theorem endRun_parts (s : State) : (s.endRun).parts = s.parts := rfl
@[simp] theorem endRun_dies (s : State) : (s.endRun).dies = s.dies := rfl
@[simp] theorem endRun_harts (s : State) : (s.endRun).harts = s.harts := rfl
@[simp] theorem endRun_linkUp (s : State) : (s.endRun).linkUp = s.linkUp := rfl
@[simp] theorem endRun_memLinks (s : State) : (s.endRun).memLinks = s.memLinks := rfl
@[simp] theorem endRun_fabric (s : State) : (s.endRun).fabric = s.fabric := rfl
@[simp] theorem endRun_ethernet (s : State) : (s.endRun).ethernet = s.ethernet := rfl
@[simp] theorem endRun_package (s : State) : (s.endRun).package = s.package := rfl
@[simp] theorem endRun_boot (s : State) : (s.endRun).boot = s.boot := rfl
@[simp] theorem endRun_latch (s : State) : (s.endRun).latch = s.latch := rfl
@[simp] theorem endRun_latchLost (s : State) : (s.endRun).latchLost = s.latchLost := rfl
@[simp] theorem endRun_sent (s : State) : (s.endRun).sent = s.sent := rfl
@[simp] theorem endRun_msix (s : State) : (s.endRun).msix = s.msix := rfl
@[simp] theorem endRun_rdma (s : State) : (s.endRun).rdma = s.rdma := rfl
@[simp] theorem endRun_rdmaReqs (s : State) : (s.endRun).rdmaReqs = s.rdmaReqs := rfl
@[simp] theorem endRun_period (s : State) : (s.endRun).period = s.period := rfl
@[simp] theorem endRun_seq (s : State) : (s.endRun).seq = s.seq := rfl
@[simp] theorem endRun_free (s : State) : (s.endRun).free = s.free := rfl
@[simp] theorem endRun_agenda (s : State) : (s.endRun).agenda = s.agenda := rfl
@[simp] theorem endRun_block (s : State) (k : Nat) : (s.endRun).block k = s.block k := rfl
@[simp] theorem endRun_core (s : State) (k : Nat) : (s.endRun).core k = s.core k := rfl
@[simp] theorem endRun_pier (s : State) (k : Nat) : (s.endRun).pier k = s.pier k := rfl
@[simp] theorem endRun_die (s : State) (k : Nat) : (s.endRun).die k = s.die k := rfl
@[simp] theorem endRun_launch (s : State) (k : Nat) : (s.endRun).launch k = s.launch k := rfl
@[simp] theorem endRun_queue (s : State) (k : Nat) : (s.endRun).queue k = s.queue k := rfl
@[simp] theorem endRun_iface (s : State) (k : Nat) : (s.endRun).iface k = s.iface k := rfl
@[simp] theorem endRun_part (s : State) (k : Nat) : (s.endRun).part k = s.part k := rfl
@[simp] theorem endRun_hart (s : State) (k : Nat) : (s.endRun).hart k = s.hart k := rfl
@[simp] theorem tick_seq (s : State) : s.tick.seq = s.seq + 1 := rfl
@[simp] theorem drawFree_free (s : State) : s.drawFree.2.free = s.free + 1 := rfl
@[simp] theorem drawFree_value (s : State) : s.drawFree.1 = Config.freeValue s.free := rfl

end State

/-! ## Parts of a block -/

namespace Block

@[simp] theorem updLane_eq (b : Block) (l : Nat) (f : Lane → Lane) : b.updLane l f = b.setLane l (f (b.lane l)) := rfl
@[simp] theorem lane_setLane (b : Block) (l : Nat) (x : Lane) : (b.setLane l x).lane l = x := tget_tput_same ..
theorem lane_setLane_ne (b : Block) {l k : Nat} (x : Lane) (h : k ≠ l) : (b.setLane l x).lane k = b.lane k :=
  tget_tput_ne _ _ _ h
@[simp] theorem grp_setLane (b : Block) (l k : Nat) (x : Lane) : (b.setLane l x).grp k = b.grp k := rfl
@[simp] theorem cv_setLane (b : Block) (l k : Nat) (x : Lane) : (b.setLane l x).cv k = b.cv k := rfl
@[simp] theorem setLane_tag (b : Block) (l : Nat) (x : Lane) : (b.setLane l x).tag = b.tag := rfl
@[simp] theorem setLane_idx (b : Block) (l : Nat) (x : Lane) : (b.setLane l x).idx = b.idx := rfl
@[simp] theorem setLane_place (b : Block) (l : Nat) (x : Lane) : (b.setLane l x).place = b.place := rfl
@[simp] theorem setLane_groups (b : Block) (l : Nat) (x : Lane) : (b.setLane l x).groups = b.groups := rfl
@[simp] theorem setLane_window (b : Block) (l : Nat) (x : Lane) : (b.setLane l x).window = b.window := rfl
@[simp] theorem setLane_scratchSize (b : Block) (l : Nat) (x : Lane) : (b.setLane l x).scratchSize = b.scratchSize := rfl
@[simp] theorem setLane_accRows (b : Block) (l : Nat) (x : Lane) : (b.setLane l x).accRows = b.accRows := rfl
@[simp] theorem setLane_origin (b : Block) (l : Nat) (x : Lane) : (b.setLane l x).origin = b.origin := rfl
@[simp] theorem setLane_spos (b : Block) (l : Nat) (x : Lane) : (b.setLane l x).spos = b.spos := rfl
@[simp] theorem setLane_privSlot (b : Block) (l : Nat) (x : Lane) : (b.setLane l x).privSlot = b.privSlot := rfl
@[simp] theorem setLane_ctxKey (b : Block) (l : Nat) (x : Lane) : (b.setLane l x).ctxKey = b.ctxKey := rfl
@[simp] theorem setLane_grps (b : Block) (l : Nat) (x : Lane) : (b.setLane l x).grps = b.grps := rfl
@[simp] theorem setLane_scratch (b : Block) (l : Nat) (x : Lane) : (b.setLane l x).scratch = b.scratch := rfl
@[simp] theorem setLane_absent (b : Block) (l : Nat) (x : Lane) : (b.setLane l x).absent = b.absent := rfl
@[simp] theorem setLane_scratchPoison (b : Block) (l : Nat) (x : Lane) : (b.setLane l x).scratchPoison = b.scratchPoison := rfl
@[simp] theorem setLane_older (b : Block) (l : Nat) (x : Lane) : (b.setLane l x).older = b.older := rfl
@[simp] theorem setLane_acc (b : Block) (l : Nat) (x : Lane) : (b.setLane l x).acc = b.acc := rfl
@[simp] theorem setLane_accPoison (b : Block) (l : Nat) (x : Lane) : (b.setLane l x).accPoison = b.accPoison := rfl
@[simp] theorem setLane_regPoison (b : Block) (l : Nat) (x : Lane) : (b.setLane l x).regPoison = b.regPoison := rfl
@[simp] theorem setLane_cfg (b : Block) (l : Nat) (x : Lane) : (b.setLane l x).cfg = b.cfg := rfl
@[simp] theorem setLane_plane0 (b : Block) (l : Nat) (x : Lane) : (b.setLane l x).plane0 = b.plane0 := rfl
@[simp] theorem setLane_plane1 (b : Block) (l : Nat) (x : Lane) : (b.setLane l x).plane1 = b.plane1 := rfl
@[simp] theorem setLane_sel (b : Block) (l : Nat) (x : Lane) : (b.setLane l x).sel = b.sel := rfl
@[simp] theorem setLane_mq (b : Block) (l : Nat) (x : Lane) : (b.setLane l x).mq = b.mq := rfl
@[simp] theorem setLane_mqFull (b : Block) (l : Nat) (x : Lane) : (b.setLane l x).mqFull = b.mqFull := rfl
@[simp] theorem setLane_mqDead (b : Block) (l : Nat) (x : Lane) : (b.setLane l x).mqDead = b.mqDead := rfl
@[simp] theorem setLane_mstrs (b : Block) (l : Nat) (x : Lane) : (b.setLane l x).mstrs = b.mstrs := rfl
@[simp] theorem setLane_cvs (b : Block) (l : Nat) (x : Lane) : (b.setLane l x).cvs = b.cvs := rfl
@[simp] theorem setLane_shapes (b : Block) (l : Nat) (x : Lane) : (b.setLane l x).shapes = b.shapes := rfl
@[simp] theorem setLane_chans (b : Block) (l : Nat) (x : Lane) : (b.setLane l x).chans = b.chans := rfl
@[simp] theorem setLane_step (b : Block) (l : Nat) (x : Lane) : (b.setLane l x).step = b.step := rfl
@[simp] theorem setLane_gov (b : Block) (l : Nat) (x : Lane) : (b.setLane l x).gov = b.gov := rfl
@[simp] theorem setLane_slack (b : Block) (l : Nat) (x : Lane) : (b.setLane l x).slack = b.slack := rfl
@[simp] theorem setLane_risk (b : Block) (l : Nat) (x : Lane) : (b.setLane l x).risk = b.risk := rfl
@[simp] theorem setLane_haltMask (b : Block) (l : Nat) (x : Lane) : (b.setLane l x).haltMask = b.haltMask := rfl
@[simp] theorem setLane_stepGrp (b : Block) (l : Nat) (x : Lane) : (b.setLane l x).stepGrp = b.stepGrp := rfl
@[simp] theorem setLane_cyc (b : Block) (l : Nat) (x : Lane) : (b.setLane l x).cyc = b.cyc := rfl
@[simp] theorem setLane_cpb (b : Block) (l : Nat) (x : Lane) : (b.setLane l x).cpb = b.cpb := rfl
@[simp] theorem setLane_injected (b : Block) (l : Nat) (x : Lane) : (b.setLane l x).injected = b.injected := rfl
@[simp] theorem setLane_image (b : Block) (l : Nat) (x : Lane) : (b.setLane l x).image = b.image := rfl
@[simp] theorem setLane_saveBy (b : Block) (l : Nat) (x : Lane) : (b.setLane l x).saveBy = b.saveBy := rfl
@[simp] theorem setLane_evac (b : Block) (l : Nat) (x : Lane) : (b.setLane l x).evac = b.evac := rfl
@[simp] theorem setLane_drainBy (b : Block) (l : Nat) (x : Lane) : (b.setLane l x).drainBy = b.drainBy := rfl
@[simp] theorem setLane_wanted (b : Block) (l : Nat) (x : Lane) : (b.setLane l x).wanted = b.wanted := rfl
@[simp] theorem setLane_dropping (b : Block) (l : Nat) (x : Lane) : (b.setLane l x).dropping = b.dropping := rfl
@[simp] theorem setLane_savedAt (b : Block) (l : Nat) (x : Lane) : (b.setLane l x).savedAt = b.savedAt := rfl
@[simp] theorem setLane_savedRec (b : Block) (l : Nat) (x : Lane) : (b.setLane l x).savedRec = b.savedRec := rfl
@[simp] theorem setLane_age (b : Block) (l : Nat) (x : Lane) : (b.setLane l x).age = b.age := rfl
@[simp] theorem updGrp_eq (b : Block) (g : Nat) (f : Group → Group) : b.updGrp g f = b.setGrp g (f (b.grp g)) := rfl
@[simp] theorem grp_setGrp (b : Block) (g : Nat) (x : Group) : (b.setGrp g x).grp g = x := tget_tput_same ..
theorem grp_setGrp_ne (b : Block) {g k : Nat} (x : Group) (h : k ≠ g) : (b.setGrp g x).grp k = b.grp k :=
  tget_tput_ne _ _ _ h
@[simp] theorem lane_setGrp (b : Block) (g k : Nat) (x : Group) : (b.setGrp g x).lane k = b.lane k := rfl
@[simp] theorem cv_setGrp (b : Block) (g k : Nat) (x : Group) : (b.setGrp g x).cv k = b.cv k := rfl
@[simp] theorem setGrp_tag (b : Block) (g : Nat) (x : Group) : (b.setGrp g x).tag = b.tag := rfl
@[simp] theorem setGrp_idx (b : Block) (g : Nat) (x : Group) : (b.setGrp g x).idx = b.idx := rfl
@[simp] theorem setGrp_place (b : Block) (g : Nat) (x : Group) : (b.setGrp g x).place = b.place := rfl
@[simp] theorem setGrp_groups (b : Block) (g : Nat) (x : Group) : (b.setGrp g x).groups = b.groups := rfl
@[simp] theorem setGrp_window (b : Block) (g : Nat) (x : Group) : (b.setGrp g x).window = b.window := rfl
@[simp] theorem setGrp_scratchSize (b : Block) (g : Nat) (x : Group) : (b.setGrp g x).scratchSize = b.scratchSize := rfl
@[simp] theorem setGrp_accRows (b : Block) (g : Nat) (x : Group) : (b.setGrp g x).accRows = b.accRows := rfl
@[simp] theorem setGrp_origin (b : Block) (g : Nat) (x : Group) : (b.setGrp g x).origin = b.origin := rfl
@[simp] theorem setGrp_spos (b : Block) (g : Nat) (x : Group) : (b.setGrp g x).spos = b.spos := rfl
@[simp] theorem setGrp_privSlot (b : Block) (g : Nat) (x : Group) : (b.setGrp g x).privSlot = b.privSlot := rfl
@[simp] theorem setGrp_ctxKey (b : Block) (g : Nat) (x : Group) : (b.setGrp g x).ctxKey = b.ctxKey := rfl
@[simp] theorem setGrp_lanes (b : Block) (g : Nat) (x : Group) : (b.setGrp g x).lanes = b.lanes := rfl
@[simp] theorem setGrp_scratch (b : Block) (g : Nat) (x : Group) : (b.setGrp g x).scratch = b.scratch := rfl
@[simp] theorem setGrp_absent (b : Block) (g : Nat) (x : Group) : (b.setGrp g x).absent = b.absent := rfl
@[simp] theorem setGrp_scratchPoison (b : Block) (g : Nat) (x : Group) : (b.setGrp g x).scratchPoison = b.scratchPoison := rfl
@[simp] theorem setGrp_older (b : Block) (g : Nat) (x : Group) : (b.setGrp g x).older = b.older := rfl
@[simp] theorem setGrp_acc (b : Block) (g : Nat) (x : Group) : (b.setGrp g x).acc = b.acc := rfl
@[simp] theorem setGrp_accPoison (b : Block) (g : Nat) (x : Group) : (b.setGrp g x).accPoison = b.accPoison := rfl
@[simp] theorem setGrp_regPoison (b : Block) (g : Nat) (x : Group) : (b.setGrp g x).regPoison = b.regPoison := rfl
@[simp] theorem setGrp_cfg (b : Block) (g : Nat) (x : Group) : (b.setGrp g x).cfg = b.cfg := rfl
@[simp] theorem setGrp_plane0 (b : Block) (g : Nat) (x : Group) : (b.setGrp g x).plane0 = b.plane0 := rfl
@[simp] theorem setGrp_plane1 (b : Block) (g : Nat) (x : Group) : (b.setGrp g x).plane1 = b.plane1 := rfl
@[simp] theorem setGrp_sel (b : Block) (g : Nat) (x : Group) : (b.setGrp g x).sel = b.sel := rfl
@[simp] theorem setGrp_mq (b : Block) (g : Nat) (x : Group) : (b.setGrp g x).mq = b.mq := rfl
@[simp] theorem setGrp_mqFull (b : Block) (g : Nat) (x : Group) : (b.setGrp g x).mqFull = b.mqFull := rfl
@[simp] theorem setGrp_mqDead (b : Block) (g : Nat) (x : Group) : (b.setGrp g x).mqDead = b.mqDead := rfl
@[simp] theorem setGrp_mstrs (b : Block) (g : Nat) (x : Group) : (b.setGrp g x).mstrs = b.mstrs := rfl
@[simp] theorem setGrp_cvs (b : Block) (g : Nat) (x : Group) : (b.setGrp g x).cvs = b.cvs := rfl
@[simp] theorem setGrp_shapes (b : Block) (g : Nat) (x : Group) : (b.setGrp g x).shapes = b.shapes := rfl
@[simp] theorem setGrp_chans (b : Block) (g : Nat) (x : Group) : (b.setGrp g x).chans = b.chans := rfl
@[simp] theorem setGrp_step (b : Block) (g : Nat) (x : Group) : (b.setGrp g x).step = b.step := rfl
@[simp] theorem setGrp_gov (b : Block) (g : Nat) (x : Group) : (b.setGrp g x).gov = b.gov := rfl
@[simp] theorem setGrp_slack (b : Block) (g : Nat) (x : Group) : (b.setGrp g x).slack = b.slack := rfl
@[simp] theorem setGrp_risk (b : Block) (g : Nat) (x : Group) : (b.setGrp g x).risk = b.risk := rfl
@[simp] theorem setGrp_haltMask (b : Block) (g : Nat) (x : Group) : (b.setGrp g x).haltMask = b.haltMask := rfl
@[simp] theorem setGrp_stepGrp (b : Block) (g : Nat) (x : Group) : (b.setGrp g x).stepGrp = b.stepGrp := rfl
@[simp] theorem setGrp_cyc (b : Block) (g : Nat) (x : Group) : (b.setGrp g x).cyc = b.cyc := rfl
@[simp] theorem setGrp_cpb (b : Block) (g : Nat) (x : Group) : (b.setGrp g x).cpb = b.cpb := rfl
@[simp] theorem setGrp_injected (b : Block) (g : Nat) (x : Group) : (b.setGrp g x).injected = b.injected := rfl
@[simp] theorem setGrp_image (b : Block) (g : Nat) (x : Group) : (b.setGrp g x).image = b.image := rfl
@[simp] theorem setGrp_saveBy (b : Block) (g : Nat) (x : Group) : (b.setGrp g x).saveBy = b.saveBy := rfl
@[simp] theorem setGrp_evac (b : Block) (g : Nat) (x : Group) : (b.setGrp g x).evac = b.evac := rfl
@[simp] theorem setGrp_drainBy (b : Block) (g : Nat) (x : Group) : (b.setGrp g x).drainBy = b.drainBy := rfl
@[simp] theorem setGrp_wanted (b : Block) (g : Nat) (x : Group) : (b.setGrp g x).wanted = b.wanted := rfl
@[simp] theorem setGrp_dropping (b : Block) (g : Nat) (x : Group) : (b.setGrp g x).dropping = b.dropping := rfl
@[simp] theorem setGrp_savedAt (b : Block) (g : Nat) (x : Group) : (b.setGrp g x).savedAt = b.savedAt := rfl
@[simp] theorem setGrp_savedRec (b : Block) (g : Nat) (x : Group) : (b.setGrp g x).savedRec = b.savedRec := rfl
@[simp] theorem setGrp_age (b : Block) (g : Nat) (x : Group) : (b.setGrp g x).age = b.age := rfl
@[simp] theorem cv_setCv (b : Block) (n : Nat) (x : Cv) : (b.setCv n x).cv n = x := tget_tput_same ..
theorem cv_setCv_ne (b : Block) {n k : Nat} (x : Cv) (h : k ≠ n) : (b.setCv n x).cv k = b.cv k :=
  tget_tput_ne _ _ _ h
@[simp] theorem lane_setCv (b : Block) (n k : Nat) (x : Cv) : (b.setCv n x).lane k = b.lane k := rfl
@[simp] theorem grp_setCv (b : Block) (n k : Nat) (x : Cv) : (b.setCv n x).grp k = b.grp k := rfl
@[simp] theorem setCv_tag (b : Block) (n : Nat) (x : Cv) : (b.setCv n x).tag = b.tag := rfl
@[simp] theorem setCv_idx (b : Block) (n : Nat) (x : Cv) : (b.setCv n x).idx = b.idx := rfl
@[simp] theorem setCv_place (b : Block) (n : Nat) (x : Cv) : (b.setCv n x).place = b.place := rfl
@[simp] theorem setCv_groups (b : Block) (n : Nat) (x : Cv) : (b.setCv n x).groups = b.groups := rfl
@[simp] theorem setCv_window (b : Block) (n : Nat) (x : Cv) : (b.setCv n x).window = b.window := rfl
@[simp] theorem setCv_scratchSize (b : Block) (n : Nat) (x : Cv) : (b.setCv n x).scratchSize = b.scratchSize := rfl
@[simp] theorem setCv_accRows (b : Block) (n : Nat) (x : Cv) : (b.setCv n x).accRows = b.accRows := rfl
@[simp] theorem setCv_origin (b : Block) (n : Nat) (x : Cv) : (b.setCv n x).origin = b.origin := rfl
@[simp] theorem setCv_spos (b : Block) (n : Nat) (x : Cv) : (b.setCv n x).spos = b.spos := rfl
@[simp] theorem setCv_privSlot (b : Block) (n : Nat) (x : Cv) : (b.setCv n x).privSlot = b.privSlot := rfl
@[simp] theorem setCv_ctxKey (b : Block) (n : Nat) (x : Cv) : (b.setCv n x).ctxKey = b.ctxKey := rfl
@[simp] theorem setCv_lanes (b : Block) (n : Nat) (x : Cv) : (b.setCv n x).lanes = b.lanes := rfl
@[simp] theorem setCv_grps (b : Block) (n : Nat) (x : Cv) : (b.setCv n x).grps = b.grps := rfl
@[simp] theorem setCv_scratch (b : Block) (n : Nat) (x : Cv) : (b.setCv n x).scratch = b.scratch := rfl
@[simp] theorem setCv_absent (b : Block) (n : Nat) (x : Cv) : (b.setCv n x).absent = b.absent := rfl
@[simp] theorem setCv_scratchPoison (b : Block) (n : Nat) (x : Cv) : (b.setCv n x).scratchPoison = b.scratchPoison := rfl
@[simp] theorem setCv_older (b : Block) (n : Nat) (x : Cv) : (b.setCv n x).older = b.older := rfl
@[simp] theorem setCv_acc (b : Block) (n : Nat) (x : Cv) : (b.setCv n x).acc = b.acc := rfl
@[simp] theorem setCv_accPoison (b : Block) (n : Nat) (x : Cv) : (b.setCv n x).accPoison = b.accPoison := rfl
@[simp] theorem setCv_regPoison (b : Block) (n : Nat) (x : Cv) : (b.setCv n x).regPoison = b.regPoison := rfl
@[simp] theorem setCv_cfg (b : Block) (n : Nat) (x : Cv) : (b.setCv n x).cfg = b.cfg := rfl
@[simp] theorem setCv_plane0 (b : Block) (n : Nat) (x : Cv) : (b.setCv n x).plane0 = b.plane0 := rfl
@[simp] theorem setCv_plane1 (b : Block) (n : Nat) (x : Cv) : (b.setCv n x).plane1 = b.plane1 := rfl
@[simp] theorem setCv_sel (b : Block) (n : Nat) (x : Cv) : (b.setCv n x).sel = b.sel := rfl
@[simp] theorem setCv_mq (b : Block) (n : Nat) (x : Cv) : (b.setCv n x).mq = b.mq := rfl
@[simp] theorem setCv_mqFull (b : Block) (n : Nat) (x : Cv) : (b.setCv n x).mqFull = b.mqFull := rfl
@[simp] theorem setCv_mqDead (b : Block) (n : Nat) (x : Cv) : (b.setCv n x).mqDead = b.mqDead := rfl
@[simp] theorem setCv_mstrs (b : Block) (n : Nat) (x : Cv) : (b.setCv n x).mstrs = b.mstrs := rfl
@[simp] theorem setCv_shapes (b : Block) (n : Nat) (x : Cv) : (b.setCv n x).shapes = b.shapes := rfl
@[simp] theorem setCv_chans (b : Block) (n : Nat) (x : Cv) : (b.setCv n x).chans = b.chans := rfl
@[simp] theorem setCv_step (b : Block) (n : Nat) (x : Cv) : (b.setCv n x).step = b.step := rfl
@[simp] theorem setCv_gov (b : Block) (n : Nat) (x : Cv) : (b.setCv n x).gov = b.gov := rfl
@[simp] theorem setCv_slack (b : Block) (n : Nat) (x : Cv) : (b.setCv n x).slack = b.slack := rfl
@[simp] theorem setCv_risk (b : Block) (n : Nat) (x : Cv) : (b.setCv n x).risk = b.risk := rfl
@[simp] theorem setCv_haltMask (b : Block) (n : Nat) (x : Cv) : (b.setCv n x).haltMask = b.haltMask := rfl
@[simp] theorem setCv_stepGrp (b : Block) (n : Nat) (x : Cv) : (b.setCv n x).stepGrp = b.stepGrp := rfl
@[simp] theorem setCv_cyc (b : Block) (n : Nat) (x : Cv) : (b.setCv n x).cyc = b.cyc := rfl
@[simp] theorem setCv_cpb (b : Block) (n : Nat) (x : Cv) : (b.setCv n x).cpb = b.cpb := rfl
@[simp] theorem setCv_injected (b : Block) (n : Nat) (x : Cv) : (b.setCv n x).injected = b.injected := rfl
@[simp] theorem setCv_image (b : Block) (n : Nat) (x : Cv) : (b.setCv n x).image = b.image := rfl
@[simp] theorem setCv_saveBy (b : Block) (n : Nat) (x : Cv) : (b.setCv n x).saveBy = b.saveBy := rfl
@[simp] theorem setCv_evac (b : Block) (n : Nat) (x : Cv) : (b.setCv n x).evac = b.evac := rfl
@[simp] theorem setCv_drainBy (b : Block) (n : Nat) (x : Cv) : (b.setCv n x).drainBy = b.drainBy := rfl
@[simp] theorem setCv_wanted (b : Block) (n : Nat) (x : Cv) : (b.setCv n x).wanted = b.wanted := rfl
@[simp] theorem setCv_dropping (b : Block) (n : Nat) (x : Cv) : (b.setCv n x).dropping = b.dropping := rfl
@[simp] theorem setCv_savedAt (b : Block) (n : Nat) (x : Cv) : (b.setCv n x).savedAt = b.savedAt := rfl
@[simp] theorem setCv_savedRec (b : Block) (n : Nat) (x : Cv) : (b.setCv n x).savedRec = b.savedRec := rfl
@[simp] theorem setCv_age (b : Block) (n : Nat) (x : Cv) : (b.setCv n x).age = b.age := rfl

end Block

/-! ## Registers of a lane -/

namespace Lane

@[simp] theorem reg_setReg (l : Lane) (n : Nat) (v : Word) : (l.setReg n v).reg n = v := tget_tput_same ..
theorem reg_setReg_ne (l : Lane) {n k : Nat} (v : Word) (h : k ≠ n) : (l.setReg n v).reg k = l.reg k :=
  tget_tput_ne _ _ _ h
@[simp] theorem handle_setHandle (l : Lane) (h : Nat) (x : Handle) : (l.setHandle h x).handle h = x := tget_tput_same ..
@[simp] theorem sign_setSign (l : Lane) (c : Nat) (x : Signed) : (l.setSign c x).sign c = x := tget_tput_same ..
@[simp] theorem setReg_live (l : Lane) (n : Nat) (v : Word) : (l.setReg n v).live = l.live := rfl
@[simp] theorem setReg_used (l : Lane) (n : Nat) (v : Word) : (l.setReg n v).used = l.used := rfl
@[simp] theorem setReg_hmode (l : Lane) (n : Nat) (v : Word) : (l.setReg n v).hmode = l.hmode := rfl
@[simp] theorem setReg_fib (l : Lane) (n : Nat) (v : Word) : (l.setReg n v).fib = l.fib := rfl
@[simp] theorem setReg_pc (l : Lane) (n : Nat) (v : Word) : (l.setReg n v).pc = l.pc := rfl
@[simp] theorem setReg_preds (l : Lane) (n : Nat) (v : Word) : (l.setReg n v).preds = l.preds := rfl
@[simp] theorem setReg_fpstat (l : Lane) (n : Nat) (v : Word) : (l.setReg n v).fpstat = l.fpstat := rfl
@[simp] theorem setReg_handles (l : Lane) (n : Nat) (v : Word) : (l.setReg n v).handles = l.handles := rfl
@[simp] theorem setReg_signed (l : Lane) (n : Nat) (v : Word) : (l.setReg n v).signed = l.signed := rfl
@[simp] theorem setReg_inst (l : Lane) (n : Nat) (v : Word) : (l.setReg n v).inst = l.inst := rfl
@[simp] theorem setReg_park (l : Lane) (n : Nat) (v : Word) : (l.setReg n v).park = l.park := rfl
@[simp] theorem setReg_entering (l : Lane) (n : Nat) (v : Word) : (l.setReg n v).entering = l.entering := rfl
@[simp] theorem setReg_skip (l : Lane) (n : Nat) (v : Word) : (l.setReg n v).skip = l.skip := rfl
@[simp] theorem setReg_lastRun (l : Lane) (n : Nat) (v : Word) : (l.setReg n v).lastRun = l.lastRun := rfl
@[simp] theorem setReg_stale (l : Lane) (n : Nat) (v : Word) : (l.setReg n v).stale = l.stale := rfl
@[simp] theorem setReg_held (l : Lane) (n : Nat) (v : Word) : (l.setReg n v).held = l.held := rfl
@[simp] theorem setReg_due (l : Lane) (n : Nat) (v : Word) : (l.setReg n v).due = l.due := rfl
@[simp] theorem setReg_sealed (l : Lane) (n : Nat) (v : Word) : (l.setReg n v).sealed = l.sealed := rfl
@[simp] theorem setReg_sealCount (l : Lane) (n : Nat) (v : Word) : (l.setReg n v).sealCount = l.sealCount := rfl
@[simp] theorem setReg_batches (l : Lane) (n : Nat) (v : Word) : (l.setReg n v).batches = l.batches := rfl
@[simp] theorem setReg_unsealed (l : Lane) (n : Nat) (v : Word) : (l.setReg n v).unsealed = l.unsealed := rfl
@[simp] theorem setReg_unsealedDone (l : Lane) (n : Nat) (v : Word) : (l.setReg n v).unsealedDone = l.unsealedDone := rfl
@[simp] theorem setReg_unsealedErr (l : Lane) (n : Nat) (v : Word) : (l.setReg n v).unsealedErr = l.unsealedErr := rfl
@[simp] theorem setReg_tracked (l : Lane) (n : Nat) (v : Word) : (l.setReg n v).tracked = l.tracked := rfl
@[simp] theorem setReg_localOps (l : Lane) (n : Nat) (v : Word) : (l.setReg n v).localOps = l.localOps := rfl
@[simp] theorem setHandle_live (l : Lane) (h : Nat) (x : Handle) : (l.setHandle h x).live = l.live := rfl
@[simp] theorem setHandle_used (l : Lane) (h : Nat) (x : Handle) : (l.setHandle h x).used = l.used := rfl
@[simp] theorem setHandle_hmode (l : Lane) (h : Nat) (x : Handle) : (l.setHandle h x).hmode = l.hmode := rfl
@[simp] theorem setHandle_fib (l : Lane) (h : Nat) (x : Handle) : (l.setHandle h x).fib = l.fib := rfl
@[simp] theorem setHandle_pc (l : Lane) (h : Nat) (x : Handle) : (l.setHandle h x).pc = l.pc := rfl
@[simp] theorem setHandle_preds (l : Lane) (h : Nat) (x : Handle) : (l.setHandle h x).preds = l.preds := rfl
@[simp] theorem setHandle_fpstat (l : Lane) (h : Nat) (x : Handle) : (l.setHandle h x).fpstat = l.fpstat := rfl
@[simp] theorem setHandle_regs (l : Lane) (h : Nat) (x : Handle) : (l.setHandle h x).regs = l.regs := rfl
@[simp] theorem setHandle_signed (l : Lane) (h : Nat) (x : Handle) : (l.setHandle h x).signed = l.signed := rfl
@[simp] theorem setHandle_inst (l : Lane) (h : Nat) (x : Handle) : (l.setHandle h x).inst = l.inst := rfl
@[simp] theorem setHandle_park (l : Lane) (h : Nat) (x : Handle) : (l.setHandle h x).park = l.park := rfl
@[simp] theorem setHandle_entering (l : Lane) (h : Nat) (x : Handle) : (l.setHandle h x).entering = l.entering := rfl
@[simp] theorem setHandle_skip (l : Lane) (h : Nat) (x : Handle) : (l.setHandle h x).skip = l.skip := rfl
@[simp] theorem setHandle_lastRun (l : Lane) (h : Nat) (x : Handle) : (l.setHandle h x).lastRun = l.lastRun := rfl
@[simp] theorem setHandle_stale (l : Lane) (h : Nat) (x : Handle) : (l.setHandle h x).stale = l.stale := rfl
@[simp] theorem setHandle_held (l : Lane) (h : Nat) (x : Handle) : (l.setHandle h x).held = l.held := rfl
@[simp] theorem setHandle_due (l : Lane) (h : Nat) (x : Handle) : (l.setHandle h x).due = l.due := rfl
@[simp] theorem setHandle_sealed (l : Lane) (h : Nat) (x : Handle) : (l.setHandle h x).sealed = l.sealed := rfl
@[simp] theorem setHandle_sealCount (l : Lane) (h : Nat) (x : Handle) : (l.setHandle h x).sealCount = l.sealCount := rfl
@[simp] theorem setHandle_batches (l : Lane) (h : Nat) (x : Handle) : (l.setHandle h x).batches = l.batches := rfl
@[simp] theorem setHandle_unsealed (l : Lane) (h : Nat) (x : Handle) : (l.setHandle h x).unsealed = l.unsealed := rfl
@[simp] theorem setHandle_unsealedDone (l : Lane) (h : Nat) (x : Handle) : (l.setHandle h x).unsealedDone = l.unsealedDone := rfl
@[simp] theorem setHandle_unsealedErr (l : Lane) (h : Nat) (x : Handle) : (l.setHandle h x).unsealedErr = l.unsealedErr := rfl
@[simp] theorem setHandle_tracked (l : Lane) (h : Nat) (x : Handle) : (l.setHandle h x).tracked = l.tracked := rfl
@[simp] theorem setHandle_localOps (l : Lane) (h : Nat) (x : Handle) : (l.setHandle h x).localOps = l.localOps := rfl
@[simp] theorem setSign_live (l : Lane) (c : Nat) (x : Signed) : (l.setSign c x).live = l.live := rfl
@[simp] theorem setSign_used (l : Lane) (c : Nat) (x : Signed) : (l.setSign c x).used = l.used := rfl
@[simp] theorem setSign_hmode (l : Lane) (c : Nat) (x : Signed) : (l.setSign c x).hmode = l.hmode := rfl
@[simp] theorem setSign_fib (l : Lane) (c : Nat) (x : Signed) : (l.setSign c x).fib = l.fib := rfl
@[simp] theorem setSign_pc (l : Lane) (c : Nat) (x : Signed) : (l.setSign c x).pc = l.pc := rfl
@[simp] theorem setSign_preds (l : Lane) (c : Nat) (x : Signed) : (l.setSign c x).preds = l.preds := rfl
@[simp] theorem setSign_fpstat (l : Lane) (c : Nat) (x : Signed) : (l.setSign c x).fpstat = l.fpstat := rfl
@[simp] theorem setSign_regs (l : Lane) (c : Nat) (x : Signed) : (l.setSign c x).regs = l.regs := rfl
@[simp] theorem setSign_handles (l : Lane) (c : Nat) (x : Signed) : (l.setSign c x).handles = l.handles := rfl
@[simp] theorem setSign_inst (l : Lane) (c : Nat) (x : Signed) : (l.setSign c x).inst = l.inst := rfl
@[simp] theorem setSign_park (l : Lane) (c : Nat) (x : Signed) : (l.setSign c x).park = l.park := rfl
@[simp] theorem setSign_entering (l : Lane) (c : Nat) (x : Signed) : (l.setSign c x).entering = l.entering := rfl
@[simp] theorem setSign_skip (l : Lane) (c : Nat) (x : Signed) : (l.setSign c x).skip = l.skip := rfl
@[simp] theorem setSign_lastRun (l : Lane) (c : Nat) (x : Signed) : (l.setSign c x).lastRun = l.lastRun := rfl
@[simp] theorem setSign_stale (l : Lane) (c : Nat) (x : Signed) : (l.setSign c x).stale = l.stale := rfl
@[simp] theorem setSign_held (l : Lane) (c : Nat) (x : Signed) : (l.setSign c x).held = l.held := rfl
@[simp] theorem setSign_due (l : Lane) (c : Nat) (x : Signed) : (l.setSign c x).due = l.due := rfl
@[simp] theorem setSign_sealed (l : Lane) (c : Nat) (x : Signed) : (l.setSign c x).sealed = l.sealed := rfl
@[simp] theorem setSign_sealCount (l : Lane) (c : Nat) (x : Signed) : (l.setSign c x).sealCount = l.sealCount := rfl
@[simp] theorem setSign_batches (l : Lane) (c : Nat) (x : Signed) : (l.setSign c x).batches = l.batches := rfl
@[simp] theorem setSign_unsealed (l : Lane) (c : Nat) (x : Signed) : (l.setSign c x).unsealed = l.unsealed := rfl
@[simp] theorem setSign_unsealedDone (l : Lane) (c : Nat) (x : Signed) : (l.setSign c x).unsealedDone = l.unsealedDone := rfl
@[simp] theorem setSign_unsealedErr (l : Lane) (c : Nat) (x : Signed) : (l.setSign c x).unsealedErr = l.unsealedErr := rfl
@[simp] theorem setSign_tracked (l : Lane) (c : Nat) (x : Signed) : (l.setSign c x).tracked = l.tracked := rfl
@[simp] theorem setSign_localOps (l : Lane) (c : Nat) (x : Signed) : (l.setSign c x).localOps = l.localOps := rfl
@[simp] theorem setPred_live (l : Lane) (n : Nat) (v : Bool) : (l.setPred n v).live = l.live := by
  unfold setPred; split <;> rfl
@[simp] theorem setPred_used (l : Lane) (n : Nat) (v : Bool) : (l.setPred n v).used = l.used := by
  unfold setPred; split <;> rfl
@[simp] theorem setPred_hmode (l : Lane) (n : Nat) (v : Bool) : (l.setPred n v).hmode = l.hmode := by
  unfold setPred; split <;> rfl
@[simp] theorem setPred_fib (l : Lane) (n : Nat) (v : Bool) : (l.setPred n v).fib = l.fib := by
  unfold setPred; split <;> rfl
@[simp] theorem setPred_pc (l : Lane) (n : Nat) (v : Bool) : (l.setPred n v).pc = l.pc := by
  unfold setPred; split <;> rfl
@[simp] theorem setPred_fpstat (l : Lane) (n : Nat) (v : Bool) : (l.setPred n v).fpstat = l.fpstat := by
  unfold setPred; split <;> rfl
@[simp] theorem setPred_regs (l : Lane) (n : Nat) (v : Bool) : (l.setPred n v).regs = l.regs := by
  unfold setPred; split <;> rfl
@[simp] theorem setPred_handles (l : Lane) (n : Nat) (v : Bool) : (l.setPred n v).handles = l.handles := by
  unfold setPred; split <;> rfl
@[simp] theorem setPred_signed (l : Lane) (n : Nat) (v : Bool) : (l.setPred n v).signed = l.signed := by
  unfold setPred; split <;> rfl
@[simp] theorem setPred_inst (l : Lane) (n : Nat) (v : Bool) : (l.setPred n v).inst = l.inst := by
  unfold setPred; split <;> rfl
@[simp] theorem setPred_park (l : Lane) (n : Nat) (v : Bool) : (l.setPred n v).park = l.park := by
  unfold setPred; split <;> rfl
@[simp] theorem setPred_entering (l : Lane) (n : Nat) (v : Bool) : (l.setPred n v).entering = l.entering := by
  unfold setPred; split <;> rfl
@[simp] theorem setPred_skip (l : Lane) (n : Nat) (v : Bool) : (l.setPred n v).skip = l.skip := by
  unfold setPred; split <;> rfl
@[simp] theorem setPred_lastRun (l : Lane) (n : Nat) (v : Bool) : (l.setPred n v).lastRun = l.lastRun := by
  unfold setPred; split <;> rfl
@[simp] theorem setPred_stale (l : Lane) (n : Nat) (v : Bool) : (l.setPred n v).stale = l.stale := by
  unfold setPred; split <;> rfl
@[simp] theorem setPred_held (l : Lane) (n : Nat) (v : Bool) : (l.setPred n v).held = l.held := by
  unfold setPred; split <;> rfl
@[simp] theorem setPred_due (l : Lane) (n : Nat) (v : Bool) : (l.setPred n v).due = l.due := by
  unfold setPred; split <;> rfl
@[simp] theorem setPred_sealed (l : Lane) (n : Nat) (v : Bool) : (l.setPred n v).sealed = l.sealed := by
  unfold setPred; split <;> rfl
@[simp] theorem setPred_sealCount (l : Lane) (n : Nat) (v : Bool) : (l.setPred n v).sealCount = l.sealCount := by
  unfold setPred; split <;> rfl
@[simp] theorem setPred_batches (l : Lane) (n : Nat) (v : Bool) : (l.setPred n v).batches = l.batches := by
  unfold setPred; split <;> rfl
@[simp] theorem setPred_unsealed (l : Lane) (n : Nat) (v : Bool) : (l.setPred n v).unsealed = l.unsealed := by
  unfold setPred; split <;> rfl
@[simp] theorem setPred_unsealedDone (l : Lane) (n : Nat) (v : Bool) : (l.setPred n v).unsealedDone = l.unsealedDone := by
  unfold setPred; split <;> rfl
@[simp] theorem setPred_unsealedErr (l : Lane) (n : Nat) (v : Bool) : (l.setPred n v).unsealedErr = l.unsealedErr := by
  unfold setPred; split <;> rfl
@[simp] theorem setPred_tracked (l : Lane) (n : Nat) (v : Bool) : (l.setPred n v).tracked = l.tracked := by
  unfold setPred; split <;> rfl
@[simp] theorem setPred_localOps (l : Lane) (n : Nat) (v : Bool) : (l.setPred n v).localOps = l.localOps := by
  unfold setPred; split <;> rfl
@[simp] theorem setRegs_live (ws : List Word) : ∀ (l : Lane) (n : Nat), (l.setRegs n ws).live = l.live := by
  induction ws with
  | nil => intro l n; rfl
  | cons w ws ih => intro l n; exact (ih _ _).trans rfl
@[simp] theorem setRegs_used (ws : List Word) : ∀ (l : Lane) (n : Nat), (l.setRegs n ws).used = l.used := by
  induction ws with
  | nil => intro l n; rfl
  | cons w ws ih => intro l n; exact (ih _ _).trans rfl
@[simp] theorem setRegs_hmode (ws : List Word) : ∀ (l : Lane) (n : Nat), (l.setRegs n ws).hmode = l.hmode := by
  induction ws with
  | nil => intro l n; rfl
  | cons w ws ih => intro l n; exact (ih _ _).trans rfl
@[simp] theorem setRegs_fib (ws : List Word) : ∀ (l : Lane) (n : Nat), (l.setRegs n ws).fib = l.fib := by
  induction ws with
  | nil => intro l n; rfl
  | cons w ws ih => intro l n; exact (ih _ _).trans rfl
@[simp] theorem setRegs_pc (ws : List Word) : ∀ (l : Lane) (n : Nat), (l.setRegs n ws).pc = l.pc := by
  induction ws with
  | nil => intro l n; rfl
  | cons w ws ih => intro l n; exact (ih _ _).trans rfl
@[simp] theorem setRegs_preds (ws : List Word) : ∀ (l : Lane) (n : Nat), (l.setRegs n ws).preds = l.preds := by
  induction ws with
  | nil => intro l n; rfl
  | cons w ws ih => intro l n; exact (ih _ _).trans rfl
@[simp] theorem setRegs_fpstat (ws : List Word) : ∀ (l : Lane) (n : Nat), (l.setRegs n ws).fpstat = l.fpstat := by
  induction ws with
  | nil => intro l n; rfl
  | cons w ws ih => intro l n; exact (ih _ _).trans rfl
@[simp] theorem setRegs_handles (ws : List Word) : ∀ (l : Lane) (n : Nat), (l.setRegs n ws).handles = l.handles := by
  induction ws with
  | nil => intro l n; rfl
  | cons w ws ih => intro l n; exact (ih _ _).trans rfl
@[simp] theorem setRegs_signed (ws : List Word) : ∀ (l : Lane) (n : Nat), (l.setRegs n ws).signed = l.signed := by
  induction ws with
  | nil => intro l n; rfl
  | cons w ws ih => intro l n; exact (ih _ _).trans rfl
@[simp] theorem setRegs_inst (ws : List Word) : ∀ (l : Lane) (n : Nat), (l.setRegs n ws).inst = l.inst := by
  induction ws with
  | nil => intro l n; rfl
  | cons w ws ih => intro l n; exact (ih _ _).trans rfl
@[simp] theorem setRegs_park (ws : List Word) : ∀ (l : Lane) (n : Nat), (l.setRegs n ws).park = l.park := by
  induction ws with
  | nil => intro l n; rfl
  | cons w ws ih => intro l n; exact (ih _ _).trans rfl
@[simp] theorem setRegs_entering (ws : List Word) : ∀ (l : Lane) (n : Nat), (l.setRegs n ws).entering = l.entering := by
  induction ws with
  | nil => intro l n; rfl
  | cons w ws ih => intro l n; exact (ih _ _).trans rfl
@[simp] theorem setRegs_skip (ws : List Word) : ∀ (l : Lane) (n : Nat), (l.setRegs n ws).skip = l.skip := by
  induction ws with
  | nil => intro l n; rfl
  | cons w ws ih => intro l n; exact (ih _ _).trans rfl
@[simp] theorem setRegs_lastRun (ws : List Word) : ∀ (l : Lane) (n : Nat), (l.setRegs n ws).lastRun = l.lastRun := by
  induction ws with
  | nil => intro l n; rfl
  | cons w ws ih => intro l n; exact (ih _ _).trans rfl
@[simp] theorem setRegs_stale (ws : List Word) : ∀ (l : Lane) (n : Nat), (l.setRegs n ws).stale = l.stale := by
  induction ws with
  | nil => intro l n; rfl
  | cons w ws ih => intro l n; exact (ih _ _).trans rfl
@[simp] theorem setRegs_held (ws : List Word) : ∀ (l : Lane) (n : Nat), (l.setRegs n ws).held = l.held := by
  induction ws with
  | nil => intro l n; rfl
  | cons w ws ih => intro l n; exact (ih _ _).trans rfl
@[simp] theorem setRegs_due (ws : List Word) : ∀ (l : Lane) (n : Nat), (l.setRegs n ws).due = l.due := by
  induction ws with
  | nil => intro l n; rfl
  | cons w ws ih => intro l n; exact (ih _ _).trans rfl
@[simp] theorem setRegs_sealed (ws : List Word) : ∀ (l : Lane) (n : Nat), (l.setRegs n ws).sealed = l.sealed := by
  induction ws with
  | nil => intro l n; rfl
  | cons w ws ih => intro l n; exact (ih _ _).trans rfl
@[simp] theorem setRegs_sealCount (ws : List Word) : ∀ (l : Lane) (n : Nat), (l.setRegs n ws).sealCount = l.sealCount := by
  induction ws with
  | nil => intro l n; rfl
  | cons w ws ih => intro l n; exact (ih _ _).trans rfl
@[simp] theorem setRegs_batches (ws : List Word) : ∀ (l : Lane) (n : Nat), (l.setRegs n ws).batches = l.batches := by
  induction ws with
  | nil => intro l n; rfl
  | cons w ws ih => intro l n; exact (ih _ _).trans rfl
@[simp] theorem setRegs_unsealed (ws : List Word) : ∀ (l : Lane) (n : Nat), (l.setRegs n ws).unsealed = l.unsealed := by
  induction ws with
  | nil => intro l n; rfl
  | cons w ws ih => intro l n; exact (ih _ _).trans rfl
@[simp] theorem setRegs_unsealedDone (ws : List Word) : ∀ (l : Lane) (n : Nat), (l.setRegs n ws).unsealedDone = l.unsealedDone := by
  induction ws with
  | nil => intro l n; rfl
  | cons w ws ih => intro l n; exact (ih _ _).trans rfl
@[simp] theorem setRegs_unsealedErr (ws : List Word) : ∀ (l : Lane) (n : Nat), (l.setRegs n ws).unsealedErr = l.unsealedErr := by
  induction ws with
  | nil => intro l n; rfl
  | cons w ws ih => intro l n; exact (ih _ _).trans rfl
@[simp] theorem setRegs_tracked (ws : List Word) : ∀ (l : Lane) (n : Nat), (l.setRegs n ws).tracked = l.tracked := by
  induction ws with
  | nil => intro l n; rfl
  | cons w ws ih => intro l n; exact (ih _ _).trans rfl
@[simp] theorem setRegs_localOps (ws : List Word) : ∀ (l : Lane) (n : Nat), (l.setRegs n ws).localOps = l.localOps := by
  induction ws with
  | nil => intro l n; rfl
  | cons w ws ih => intro l n; exact (ih _ _).trans rfl

/-- A write of words: each at its register, every other register as it was. -/
theorem reg_setRegs (ws : List Word) : ∀ (l : Lane) (n k : Nat),
    (l.setRegs n ws).reg k = if n ≤ k ∧ k < n + ws.length then ws.getD (k - n) 0 else l.reg k := by
  induction ws with
  | nil => intro l n k; rw [setRegs, if_neg (by simp)]
  | cons w ws ih =>
    intro l n k
    rw [setRegs, ih]
    by_cases hk : k = n
    · subst k; rw [if_neg (by omega), if_pos (by simp)]; simp
    · by_cases hr : n ≤ k ∧ k < n + (w :: ws).length
      · obtain ⟨h1, h2⟩ := hr
        simp only [List.length_cons] at h2
        obtain ⟨m, rfl⟩ : ∃ m, k = n + 1 + m := ⟨k - n - 1, by omega⟩
        rw [if_pos ⟨by omega, by omega⟩, if_pos ⟨by omega, by simp only [List.length_cons]; omega⟩,
          show n + 1 + m - (n + 1) = m from by omega, show n + 1 + m - n = m + 1 from by omega, List.getD_cons_succ]
      · rw [if_neg hr, if_neg (fun h => hr ⟨by omega, by simp only [List.length_cons]; omega⟩), reg_setReg_ne _ _ hk]

end Lane

end Sys2Proof.Machine
end

