-- ==== Sys2Proof/Laws/Lanes.lean ====
section
/-! SUPPORT. What an instruction over the lanes of the issuing batch does: one lemma for each of the shared operations
`overLanes` and `perLane`. -/
namespace Sys2Proof.Machine

theorem maskLanes_nodup (m : Word) : (maskLanes m).Nodup := List.Nodup.filter _ List.nodup_range

theorem mem_maskLanes {m : Word} {j : Nat} : j ∈ maskLanes m ↔ j < 32 ∧ m.getLsbD j = true := by
  simp [maskLanes, allLanes]

theorem curLanes_nodup (s : State) : s.curLanes.Nodup :=
  List.Nodup.map (fun _ _ h => Nat.add_left_cancel h) (maskLanes_nodup _)

theorem activeLanes_nodup (f : Fields) (s : State) : (activeLanes f s).Nodup := List.Nodup.filter _ (curLanes_nodup s)

theorem mem_curLanes {s : State} {l : Nat} :
    l ∈ s.curLanes ↔ ∃ j, j < 32 ∧ s.cur.lanes.getLsbD j = true ∧ 32 * s.cur.grp + j = l := by
  simp [State.curLanes, mem_maskLanes, and_assoc]

theorem mem_activeLanes {f : Fields} {s : State} {l : Nat} :
    l ∈ activeLanes f s ↔ l ∈ s.curLanes ∧ guardOn f (s.src l) = true := by simp [activeLanes]

/-- What `overLanes` leaves of a block: all but its lanes. -/
theorem overLanes_eq (ls : List Nat) : ∀ (b : Block) (g : Nat → Lane → Lane),
    overLanes b ls g = { b with lanes := (overLanes b ls g).lanes } := by
  unfold overLanes
  induction ls with
  | nil => intro b g; rfl
  | cons a r ih => intro b g; rw [List.foldl_cons, ih]; simp [Block.setLane]

/-- Each lane of the list is changed once, no other is. -/
theorem overLanes_lane (ls : List Nat) (h : ls.Nodup) : ∀ (b : Block) (g : Nat → Lane → Lane) (l : Nat),
    (overLanes b ls g).lane l = if l ∈ ls then g l (b.lane l) else b.lane l := by
  unfold overLanes
  induction ls with
  | nil => intro b g l; simp
  | cons a r ih =>
    intro b g l
    obtain ⟨ha, hr⟩ := List.nodup_cons.mp h
    rw [List.foldl_cons, ih hr, Block.updLane_eq]
    by_cases hl : l = a
    · subst hl; simp [ha]
    · simp [hl, Block.lane_setLane_ne _ _ hl]

/-- What `perLane` leaves of the state: all but the block that issues. -/
theorem perLane_eq (f : Fields) (s : State) (g : Src → Lane → Lane) :
    perLane f s g = { s with blocks := (perLane f s g).blocks } := rfl

theorem perLane_block_ne {f : Fields} {s : State} {g : Src → Lane → Lane} {b : Nat} (h : b ≠ s.cur.blk) :
    (perLane f s g).block b = s.block b := by
  simp [perLane, State.updCurBlock, State.block_setBlock_ne _ _ h]

theorem perLane_block (f : Fields) (s : State) (g : Src → Lane → Lane) :
    (perLane f s g).block s.cur.blk = overLanes (s.block s.cur.blk) (activeLanes f s) (fun l => g (s.src l)) := by
  simp [perLane, State.updCurBlock]

/-- The lanes with guard 1 are changed, each from its own operands; no other is. -/
theorem perLane_lane (f : Fields) (s : State) (g : Src → Lane → Lane) (l : Nat) :
    (perLane f s g).lane s.cur.blk l =
      if l ∈ activeLanes f s then g (s.src l) (s.lane s.cur.blk l) else s.lane s.cur.blk l := by
  rw [State.lane_eq, perLane_block, overLanes_lane _ (activeLanes_nodup f s)]; rfl

/-- In a first slot, a lane that kept no operands reads its own registers as they are (R58). -/
theorem src_of_no_snap {s : State} (h : s.cur.snap = none) (l : Nat) (hh : (s.lane s.cur.blk l).held = none) :
    s.src l = State.liveSrc (s.block s.cur.blk) l := by
  simp only [State.src, State.heldSrc, h, hh, Option.getD_none]

end Sys2Proof.Machine
end

