-- ==== Sys2Proof/Laws/Memory.lean ====
section
/-! SUPPORT. The operations that write the byte memories: what they leave as it was, and that each keeps the canonical
form. -/
namespace Sys2Proof.Machine

/-! ## The form -/

/-- A state with the same memories has the form too. -/
theorem State.memWf.congr {s u : State} (h : s.memWf) (hm : u.mem = s.mem) (hh : u.hostMem = s.hostMem) : u.memWf := by
  unfold State.memWf; rw [hm, hh]; exact h

theorem State.memWf.of_mem {s u : State} (h : s.memWf) (hm : Memory.wf u.mem = true) (hh : u.hostMem = s.hostMem) : u.memWf :=
  ⟨hm, by rw [hh]; exact h.2⟩

/-- A fold of operations that keep the form keeps it. -/
theorem memWf_foldl {β : Type} {g : State → β → State} (hg : ∀ s b, s.memWf → (g s b).memWf) (l : List β) :
    ∀ {s : State}, s.memWf → (l.foldl g s).memWf := by
  induction l with
  | nil => intro s h; exact h
  | cons b l ih => intro s h; exact ih (hg s b h)

/-! ## Writes at the home -/

@[simp] theorem homeWrite_mem (s : State) (pa : Nat) (bs : List Byte) (p : Bool) :
    (homeWrite s pa bs p).mem = wrBytes s.mem pa bs := rfl

/-- A write at the home changes memory, poison and the clean copies of other agents, and nothing else. -/
theorem homeWrite_frame (s : State) (pa : Nat) (bs : List Byte) (p : Bool) :
    let u := homeWrite s pa bs p
    u = { s with mem := u.mem, memPoison := u.memPoison, hostLines := u.hostLines, cores := u.cores } := rfl

theorem homeWrite_outside (s : State) {pa a : Nat} {bs : List Byte} (p : Bool) (h : a < pa ∨ pa + bs.length ≤ a) :
    rdByte (homeWrite s pa bs p).mem a = rdByte s.mem a := rdByte_wrBytes_outside h

theorem homeWrite_memWf {s : State} (h : s.memWf) (pa : Nat) (bs : List Byte) (p : Bool) : (homeWrite s pa bs p).memWf :=
  h.of_mem (Memory.wf_wrBytes bs pa h.1) rfl

theorem homeWriteMasked_frame (s : State) (pa : Nat) (be : BitVec 64) (d : BitVec 512) (p : Bool) :
    let u := homeWriteMasked s pa be d p
    u = { s with mem := u.mem, memPoison := u.memPoison, hostLines := u.hostLines, cores := u.cores } := rfl

theorem homeWriteMasked_memWf {s : State} (h : s.memWf) (pa : Nat) (be : BitVec 64) (d : BitVec 512) (p : Bool) :
    (homeWriteMasked s pa be d p).memWf := by
  refine h.of_mem (Memory.wf_foldl _ (fun m i hm => ?_) _ h.1) rfl
  split
  · exact Memory.wf_wrByte hm _ _
  · exact hm

/-- A translation cache that installs a leaf leaves its U bit to be set. -/
theorem setU_frame (s : State) (lf : Leaf) : setU s lf = { s with uses := (setU s lf).uses } := by
  unfold setU; split <;> rfl

@[simp] theorem setU_mem (s : State) (lf : Leaf) : (setU s lf).mem = s.mem := by rw [setU_frame]

theorem setU_memWf {s : State} (h : s.memWf) (lf : Leaf) : (setU s lf).memWf := by
  rw [setU_frame]; exact h

theorem dropRange_memWf {s : State} (h : s.memWf) (a n : Nat) : (dropRange s a n).memWf := h

theorem poolWrite_memWf {s : State} (h : s.memWf) (pa : Nat) (bs : List Byte) : (poolWrite s pa bs).memWf :=
  h.of_mem (Memory.wf_wrBytes bs pa h.1) rfl

theorem poolWrite_outside (s : State) {pa a : Nat} {bs : List Byte} (h : a < pa ∨ pa + bs.length ≤ a) :
    rdByte (poolWrite s pa bs).mem a = rdByte s.mem a := rdByte_wrBytes_outside h

/-! ## The fault record -/

/-- Bytes of the fault record go out, and nothing else changes. -/
theorem frWrite_frame (s : State) (tag off : Nat) (bs : List Byte) :
    frWrite s tag off bs = { s with frWrites := (frWrite s tag off bs).frWrites } := rfl

theorem putHeader_frame (s : State) (tag : Nat) :
    putHeader s tag = { s with frWrites := (putHeader s tag).frWrites } := rfl

theorem frWrite_memWf {s : State} (h : s.memWf) (tag off : Nat) (bs : List Byte) : (frWrite s tag off bs).memWf := h
theorem putHeader_memWf {s : State} (h : s.memWf) (tag : Nat) : (putHeader s tag).memWf := h

theorem pushEvent_memWf {s : State} (h : s.memWf) (q : Nat) (e : Event) : (pushEvent s q e).memWf := h.congr rfl rfl

theorem report_memWf {s : State} (h : s.memWf) (tag : Nat) (r : Report) : (report s tag r).memWf := by
  unfold report
  dsimp only
  split
  · exact h
  · have key : ∀ t : State, t.memWf → ∀ (g : Launch → Launch), (putHeader (t.updLaunch tag g) tag).memWf :=
      fun t ht g => putHeader_memWf (by exact ht) tag
    by_cases hw : (s.launch tag).written < 126
    · simp only [hw, if_true]
      split
      · exact pushEvent_memWf (key _ (frWrite_memWf h ..) _) _ _
      · exact key _ (frWrite_memWf h ..) _
    · simp only [hw, if_false]
      split
      · exact pushEvent_memWf (key _ h _) _ _
      · exact key _ h _

theorem endRun_memWf {s : State} (h : s.memWf) : s.endRun.memWf := h

/-! ## Traps -/

theorem enterHandler_memWf {s : State} (h : s.memWf) (b g : Nat) (c : Cause) : (enterHandler s b g c).memWf :=
  by unfold enterHandler; exact putHeader_memWf (by exact h) _

theorem raiseCause_memWf {s : State} (h : s.memWf) (b g : Nat) (c : Cause) (at_ : Dword) (k : Nat) :
    (raiseCause s b g c at_ k).memWf := by
  unfold raiseCause
  dsimp only
  split
  · exact h
  · refine endRun_memWf ?_
    split
    · exact report_memWf (by exact h) _ _
    · split
      · exact report_memWf (by exact h) _ _
      · split
        · exact h
        · exact enterHandler_memWf h _ _ _

theorem deliverPending_memWf {s : State} (h : s.memWf) (b g : Nat) : (deliverPending s b g).memWf := by
  unfold deliverPending
  dsimp only
  split
  · exact h
  · split
    · exact h
    · split
      · exact h
      · exact enterHandler_memWf (by exact h) _ _ _

theorem raiseFaults_memWf {s : State} (h : s.memWf) (fs : List LaneFault) (pc at_ : Dword) : (raiseFaults s fs pc at_).memWf := by
  refine memWf_foldl (fun t c ht => ?_) _ h
  refine raiseCause_memWf ?_ _ _ _ _ _
  split <;> (try split) <;> exact ht

theorem raiseHere_memWf {s : State} (h : s.memWf) (fs : List LaneFault) : (raiseHere s fs).memWf := raiseFaults_memWf h ..

theorem perLane_memWf {s : State} (h : s.memWf) (f : Fields) (g : Src → Lane → Lane) : (perLane f s g).memWf := h

theorem perLaneF_memWf {s : State} (h : s.memWf) (f : Fields) (g : Nat → Src → Except LaneFault (Lane → Lane)) :
    (perLaneF f s g).memWf := by unfold perLaneF; exact raiseHere_memWf (by exact h) _

theorem retrySome_memWf {s : State} (h : s.memWf) (ls : List Nat) (p : GPark) : (retrySome s ls p).memWf :=
  h.congr (by simp [retrySome, retryLanes, State.updCurBlock, State.updCurGrp])
    (by simp [retrySome, retryLanes, State.updCurBlock, State.updCurGrp])
theorem retryGroup_memWf {s : State} (h : s.memWf) (p : GPark) : (retryGroup s p).memWf := retrySome_memWf h ..

theorem returnLanes_memWf {s : State} (h : s.memWf) (ls : List Nat) (k : Bool) : (returnLanes s ls k).memWf := by
  unfold returnLanes; exact endRun_memWf (deliverPending_memWf (by exact h) _ _)

/-! ## Drains, revokes and accesses at the home -/

theorem charge_memWf {s : State} (h : s.memWf) (p k q n : Nat) : (charge s p k q n).memWf := h
theorem stall_memWf {s : State} (h : s.memWf) (p k q : Nat) : (stall s p k q).memWf := h

theorem sliceTouch_memWf {s : State} (h : s.memWf) (pa : Nat) : (sliceTouch s pa).memWf := h
theorem sliceFill_memWf {s : State} (h : s.memWf) (part line : Nat) : (sliceFill s part line).memWf := by
  unfold sliceFill; dsimp only; split <;> exact h

theorem refuseEntry_memWf {s : State} (h : s.memWf) (core : Nat) (e : Entry) (c : BitVec 8) (k : Nat) :
    (refuseEntry s core e c k).memWf := by
  unfold refuseEntry; split
  · exact h
  · exact report_memWf (by exact h) _ _

theorem drainAlloc_memWf {s : State} (h : s.memWf) (core : Nat) (e : Entry) (pa page : Nat) :
    (drainAlloc s core e pa page).memWf := by
  unfold drainAlloc
  split
  · exact sliceTouch_memWf h _
  · split
    · exact sliceFill_memWf h _ _
    · exact h

theorem drainEntry_memWf {s : State} (h : s.memWf) (core : Nat) (e : Entry) (pa page : Nat) :
    (drainEntry s core e pa page).memWf := by
  have hd := drainAlloc_memWf h core e pa page
  unfold drainEntry
  generalize drainAlloc s core e pa page = t at hd ⊢
  dsimp only
  split
  · exact hd
  · exact homeWriteMasked_memWf (s := freeEntry t core e.id) (by exact hd) pa e.be e.data e.poisoned

/-- An operation that a budget admits or holds back keeps the form where the operation does. -/
theorem budgeted_memWf {s : State} (h : s.memWf) (p k q n : Nat) {act : State → State}
    (ha : ∀ t, State.memWf t → State.memWf (act t)) : (budgeted s p k q n act).memWf := by
  unfold budgeted
  split
  · exact ha _ (charge_memWf h ..)
  · exact stall_memWf h ..

theorem charges_memWf {s : State} (h : s.memWf) (p q : Nat) (l : List (Nat × Nat)) :
    (l.foldl (fun s a => if a.2 = 0 then s else charge s p a.1 q a.2) s).memWf := by
  refine memWf_foldl (fun t a ht => ?_) l h
  split
  · exact ht
  · exact charge_memWf ht ..

/-- The same of several budgets. -/
theorem budgetAll_memWf {s : State} (h : s.memWf) (p q : Nat) (acts : List (Nat × Nat)) {act : State → State}
    (ha : ∀ t, State.memWf t → State.memWf (act t)) : (budgetAll s p q acts act).memWf := by
  unfold budgetAll
  split
  · exact stall_memWf h ..
  · exact ha _ (charges_memWf h ..)

theorem drainNow_memWf {s : State} (h : s.memWf) (core : Nat) (e : Entry) : (drainNow s core e).memWf := by
  unfold drainNow
  split
  · exact refuseEntry_memWf h ..
  · exact h
  · split
    · refine budgetAll_memWf h _ _ _ (fun t ht => drainEntry_memWf ?_ ..)
      split
      · exact setU_memWf ht _
      · exact ht
    · exact h

theorem drainHolders_memWf (core : Nat) : ∀ (l : List (Entry × Nat)) {s t : State}, s.memWf → drainHolders core l s = some t → t.memWf
  | [], _, _, h, e => by cases e; exact h
  | x :: r, s, t, h, e => by
    unfold drainHolders at e
    split at e
    · exact drainHolders_memWf core r h e
    · split at e
      · exact drainHolders_memWf core r (drainNow_memWf h ..) e
      · cases e

theorem dropResv_memWf {s : State} (h : s.memWf) (core pw : Nat) : (dropResv s core pw).memWf := by
  unfold dropResv; split
  · exact h
  · split
    · split
      · exact h
      · exact h
    · exact h

theorem revokeAt_memWf {s : State} (h : s.memWf) (core pw : Nat) : (revokeAt s core pw).memWf := by
  unfold revokeAt
  dsimp only
  split
  · rename_i t e
    have ht : t.memWf := drainHolders_memWf core _ (dropResv_memWf h core pw) e
    exact ht
  · exact memWf_foldl (g := fun st (x : Entry × Nat) => setRequested st core x.1.id [x.2]) (fun t x ht => ht) _ (by exact dropResv_memWf h core pw)

theorem clearOwner_memWf {s : State} (h : s.memWf) (w : Nat) : (clearOwner s w).memWf := by
  unfold clearOwner
  dsimp only
  change State.memWf (s.cores.foldl (fun (t : State) (c : Nat × Core) =>
    if c.2.owned.any (fun o => o.2 == w) then revokeAt t c.1 w else t) s)
  refine memWf_foldl (fun t c ht => ?_) _ h
  split
  · exact revokeAt_memWf ht _ _
  · exact ht

theorem clearOwners_memWf {s : State} (h : s.memWf) (ws : List Nat) : (clearOwners s ws).memWf :=
  memWf_foldl (fun _ _ ht => clearOwner_memWf ht _) _ h

/-- A write for a queue keeps the form, done or waiting. -/
theorem queueWrite_memWf {s t : State} (h : s.memWf) (part pasid q p) (bs : List Byte)
    (e : queueWrite s part pasid q p bs = .done t ∨ queueWrite s part pasid q p bs = .waits t) : t.memWf := by
  unfold queueWrite at e
  dsimp only at e
  split at e
  · rcases e with e | e <;> cases e
    exact stall_memWf h ..
  · have hc := charges_memWf h part q
    split at e
    · split at e
      · rcases e with e | e <;> cases e
        exact ⟨(hc _).1, Memory.wf_wrBytes _ _ (hc _).2⟩
      · rcases e with e | e <;> cases e
    · split at e
      · rcases e with e | e <;> cases e
        exact homeWrite_memWf (setU_memWf (clearOwners_memWf (hc _) _) _) _ _ _
      · rcases e with e | e <;> cases e
        exact h
      · rcases e with e | e <;> cases e

/-- A context's image keeps the form. -/
theorem writeImage_memWf {s : State} (h : s.memWf) (x : Block) (es : List Entry) : (writeImage s x es).memWf := by
  have p : ∀ (t : State) pa bs, t.memWf → (poolWrite t pa bs).memWf := fun _ _ _ ht => poolWrite_memWf ht _ _
  have o : ∀ (t : State) n, t.memWf → (openBytes t n).2.memWf := fun _ _ ht => ht
  have k : ∀ (t : State) (l : List Nat), t.memWf → ({ t with memPoison := l } : State).memWf := fun _ _ ht => ht
  unfold writeImage
  dsimp only
  refine k _ _ ?_
  refine p _ _ _ (o _ _ (p _ _ _ (p _ _ _ (o _ _ (p _ _ _ (p _ _ _ (p _ _ _ (p _ _ _ (p _ _ _ (p _ _ _ ?_))))))))))
  exact h

/-- The copy of a frame keeps the form. -/
theorem copyFrames_memWf {s : State} (h : s.memWf) (a b n : Nat) : (copyFrames s a b n).memWf :=
  h.of_mem (Memory.wf_foldl _ (fun _ _ hm => Memory.wf_wrByte hm _ _) _ (Memory.wf_filter h.1 _)) rfl

/-- A package's move in its node keeps the form. -/
theorem moveMemory_memWf {s : State} (h : s.memWf) : (moveMemory s).memWf := by
  unfold moveMemory
  dsimp only
  split
  · exact h
  · exact h.of_mem (Memory.wf_foldl _ (fun _ _ hm => Memory.wf_wrByte hm _ _) _ (Memory.wf_filter h.1 _)) rfl

end Sys2Proof.Machine
end

