-- ==== Sys2Proof/Laws/Ops.lean ====
section
/-! SUPPORT. What the shared operations of traps, fault records, waits and stores do, said once. -/
namespace Sys2Proof.Machine

/-! ## Reporting a fault (R293 to R296) -/

/-- A fault of an unused tag is not reported. -/
theorem report_unused {s : State} {tag : Nat} (h : (s.launch tag).used = false) (r : Report) : report s tag r = s := by
  simp [report, h]

/-- A state that differs from `s` in what a fault's report may change: the fault record's bytes on their way, the launches'
counts, and queues' events. -/
def ReportedFrom (s u : State) : Prop :=
  ∃ f l q n, u = { s with frWrites := f, launches := l, queues := q, seq := n }

theorem ReportedFrom.frWrite {s u : State} (h : ReportedFrom s u) (tag off : Nat) (bs : List Byte) :
    ReportedFrom s (frWrite u tag off bs) := by
  obtain ⟨f, l, q, n, rfl⟩ := h; exact ⟨_, _, _, _, rfl⟩

theorem ReportedFrom.updLaunch {s u : State} (h : ReportedFrom s u) (tag : Nat) (g : Launch → Launch) :
    ReportedFrom s (u.updLaunch tag g) := by
  obtain ⟨f, l, q, n, rfl⟩ := h; exact ⟨_, _, _, _, rfl⟩

theorem ReportedFrom.putHeader {s u : State} (h : ReportedFrom s u) (tag : Nat) : ReportedFrom s (putHeader u tag) :=
  h.frWrite ..

theorem ReportedFrom.pushEvent {s u : State} (h : ReportedFrom s u) (q : Nat) (e : Event) : ReportedFrom s (pushEvent u q e) := by
  obtain ⟨f, l, q, n, rfl⟩ := h; exact ⟨_, _, _, _, rfl⟩

/-- What a report changes. -/
theorem report_from (s : State) (tag : Nat) (r : Report) : ReportedFrom s (report s tag r) := by
  have h : ReportedFrom s s := ⟨_, _, _, _, rfl⟩
  simp only [report]
  split
  · exact h
  · have hw : ∀ (c : Prop) [Decidable c] (off : Nat) (bs : List Byte), ReportedFrom s (if c then Machine.frWrite s tag off bs else s) :=
      fun c _ off bs => by split; exacts [h.frWrite .., h]
    split
    · exact (((hw ..).updLaunch ..).putHeader ..).pushEvent ..
    · exact ((hw ..).updLaunch ..).putHeader ..

theorem report_frame (s : State) (tag : Nat) (r : Report) :
    let u := report s tag r
    u = { s with frWrites := u.frWrites, launches := u.launches, queues := u.queues, seq := u.seq } := by
  obtain ⟨f, l, q, n, h⟩ := report_from s tag r
  intro u
  simp only [u, h]

/-- A header write leaves every launch as it was. -/
theorem putHeader_launches (s : State) (tag : Nat) : (putHeader s tag).launches = s.launches := rfl
theorem frWrite_launches (s : State) (tag off : Nat) (bs : List Byte) : (frWrite s tag off bs).launches = s.launches := rfl

/-- The launch after a report of a fault of it. -/
theorem report_launch {s : State} {tag : Nat} (h : (s.launch tag).used = true) (r : Report) :
    let l := s.launch tag
    let term := terminates r.code r.cause && !l.terminating && !l.complete
    (report s tag r).launch tag =
      { l with
        count := min (l.count + 1) (2 ^ 32 - 1), written := min (l.written + 1) 126,
        first := if l.count = 0 then r.code else l.first,
        tFirst := if l.count = 0 then s.now else l.tFirst,
        anyDef := l.anyDef || r.deferred, late := l.late || l.complete,
        terminating := l.terminating || term, termBit := l.termBit || term,
        termAt := if term then s.now else l.termAt } := by
  intro l term
  have key : ∀ (t : State) (g : Launch → Launch), t.launches = s.launches →
      (putHeader (t.updLaunch tag g) tag).launch tag = g (s.launch tag) := by
    intro t g ht
    simp only [State.launch, putHeader_launches, State.updLaunch, State.setLaunch, ht, tget_tput_same]
  have ev : ∀ (t : State) (q : Nat) (e : Event), (pushEvent t q e).launch tag = t.launch tag := fun _ _ _ => rfl
  have hw : ∀ (c : Prop) [Decidable c] (off : Nat) (bs : List Byte),
      (if c then Machine.frWrite s tag off bs else s).launches = s.launches := fun c _ off bs => by split <;> rfl
  unfold report
  simp only [h, Bool.not_true, Bool.false_eq_true, if_false]
  split
  · exact (ev ..).trans (key _ _ (hw ..))
  · exact key _ _ (hw ..)

/-! ## Taking an exception (R190, R191) -/

/-- Entering the handler changes one block, one launch and the header of its fault record. -/
theorem enterHandler_frame (s : State) (b g : Nat) (c : Cause) :
    let u := enterHandler s b g c
    u = { s with frWrites := u.frWrites, launches := u.launches, blocks := u.blocks } := rfl

/-- A routed cause of lanes outside handler mode, in a group outside handler mode, enters the handler, and the run ends. -/
theorem raiseCause_enters {s : State} {b g : Nat} {c : Cause} (at_ : Dword) (k : Nat) (hm : c.mask ≠ 0)
    (hr : routed c.code = true) (hh : (s.launch (s.block b).tag).rec_.handler ≠ 0)
    (ho : ∀ j < 32, c.mask.getLsbD j = true → ((s.block b).lane (32 * g + j)).hmode = false) (hg : inHandler (s.block b) g = false) :
    raiseCause s b g c at_ k = (enterHandler s b g c).endRun := by
  have hl : ((maskLanes c.mask).map (32 * g + ·)).any (fun x => ((s.block b).lane x).hmode) = false := by
    rw [List.any_eq_false]
    intro x hx
    obtain ⟨j, hj, rfl⟩ := List.mem_map.mp hx
    simp [ho j (mem_maskLanes.mp hj).1 (mem_maskLanes.mp hj).2]
  have hm' : ¬ c.mask = 0#32 := hm
  have hh' : ¬ (s.launch (s.block b).tag).rec_.handler = 0#64 := hh
  simp only [raiseCause, hl, hg]
  simp [hm', hh', hr]

/-- A cause that is not routed, or finds no handler, stops its lanes and is reported. -/
theorem raiseCause_fatal {s : State} {b g : Nat} {c : Cause} (at_ : Dword) (k : Nat) (hm : c.mask ≠ 0)
    (hr : routed c.code = false ∨ (s.launch (s.block b).tag).rec_.handler = 0) :
    raiseCause s b g c at_ k =
      (report (s.updBlock b (fun x => stopLanes x g c.mask)) (s.block b).tag
        { code := c.code, cause := k, deferred := false,
          lane := (match (maskLanes c.mask).map (32 * g + ·) with
            | [x] => x
            | _ => 0xFFFF),
          block := (s.block b).idx, pc := at_, addr := c.val }).endRun := by
  have hm' : ¬ c.mask = 0#32 := hm
  rcases hr with hr | hr <;> simp [raiseCause, hm', hr] <;> rfl

/-- Stopped lanes wait where they stand; no other lane changes. -/
theorem stopLanes_lane (x : Block) (g : Nat) (m : Word) (l : Nat) :
    (stopLanes x g m).lane l = if l ∈ (maskLanes m).map (32 * g + ·) then { x.lane l with park := .stopped } else x.lane l :=
  overLanes_lane _ (List.Nodup.map (fun _ _ h => Nat.add_left_cancel h) (maskLanes_nodup m)) x _ l

/-! ## Events of queues (R267) -/

/-- A packet that is done has left its queue. -/
theorem packetDone_gone (s : State) (q : Nat) (seq : Word) (st : Nat) :
    ∀ x ∈ ((packetDone s q seq st).queue q).packets, x.seq ≠ seq := by
  unfold packetDone
  split
  · rename_i h
    intro x hx e
    exact absurd (List.find?_eq_none.mp h x hx) (by simp [e])
  · dsimp only
    split <;> intro x hx <;> simp [pushEvent] at hx <;> exact hx.2

end Sys2Proof.Machine
end

