-- ==== Sys2Proof/Tests/Slice0.lean ====
section
/-! SUPPORT. The tests: an ill-formed term for each check, words written out from the encoding, single steps on small states, and
for the statements' hypotheses a state and operands that meet them. -/
namespace Sys2Proof.Tests
open Sys2Proof Sys2Proof.Machine Sys2Proof.Claim

-- One theorem after the other: each waits for the kernel, and each thread that waits holds its own stack.
set_option Elab.async false

/-- A step answers a next state, of which `p` holds. -/
def nextHas (o : Host.Outcome State Fault Refusal) (p : State → Bool) : Bool :=
  match o with
  | .next t => p t
  | _ => false

/-! ## Well-formedness: an ill-formed term for each check -/

/-- R54, R61: a field that the opcode does not use, or uses in part, holds something; a type or a SUB bit or an IMM bit that it does
not admit. -/
theorem test_refused_fields :
    (Instr.nop { plain with d := 1 }).wf = false ∧ (Instr.sel { plain with sc := 16 }).wf = false ∧
    (Instr.sel { plain with sc := 15 }).wf = true ∧ (Instr.cvset { plain with d := 8 }).wf = false ∧
    (Instr.mov { plain with t := .b8 }).wf = false ∧ (Instr.mov { plain with t := .r14 }).wf = false ∧
    (Instr.iadd { plain with sub := 2 }).wf = false ∧ (Instr.nop { plain with imm := 1 }).wf = false ∧
    (Instr.trap { plain with imm := 256 }).wf = false := by decide +kernel

/-- R59: RT names a field that the opcode reads as a register, and not one that IMM replaces. -/
theorem test_refused_retain :
    (Instr.iadd { plain with rt := .sc }).wf = false ∧ (Instr.iadd { plain with rt := .sb, i := true }).wf = false ∧
    (Instr.iadd { plain with rt := .sb }).wf = true ∧ (Instr.mov { plain with rt := .sa }).wf = false := by decide +kernel

/-- R62: I where the opcode takes no IMM, SB beside I, an IMM too wide for its type, and a scale with low bits. -/
theorem test_refused_immediates :
    (Instr.not { plain with i := true }).wf = false ∧ (Instr.iadd { plain with i := true, sb := 1 }).wf = false ∧
    (Instr.iadd { plain with i := true, t := .b8, imm := 0x100 }).wf = false ∧
    (Instr.iadd { plain with i := true, t := .s8, imm := 0x80 }).wf = false ∧
    (Instr.iadd { plain with i := true, t := .s8, imm := 0xFFFFFF80 }).wf = true ∧
    (Instr.iadd { plain with i := true, t := .s16, imm := 0x8000 }).wf = false ∧
    (Instr.fadd { plain with i := true, t := .f16, imm := 0x10000 }).wf = false ∧
    (Instr.qntGiven { plain with i := true, sub := 8, imm := 0x7F000001 }).wf = false := by decide +kernel

/-- R64, R72, R76, R89, R94, R101, R103, R117, R134: the conditions that tie fields to each other. -/
theorem test_refused_conditions :
    (Instr.iaddc { plain with sc := 1 }).wf = false ∧ (Instr.icmp { plain with sub := 6 }).wf = false ∧
    (Instr.icmp { plain with sc := 1 }).wf = false ∧ (Instr.fcmp { plain with t := .f32, sc := 1 }).wf = false ∧
    (Instr.cvtf { plain with t := .f32, sub := 0x18 }).wf = false ∧ (Instr.cvtif { plain with t := .f32, sub := 0x20 }).wf = false ∧
    (Instr.qntComputed { plain with sub := 8 }).wf = false ∧ (Instr.qntGiven plain).wf = false ∧
    (Instr.qntComputed { plain with sb := 1 }).wf = false ∧ (Instr.cmpr { plain with t := .b8 }).wf = false ∧
    (Instr.qred { plain with t := .f32, sub := 3 }).wf = false ∧ (Instr.gvote { plain with d := 16 }).wf = false ∧
    (Instr.ld { plain with sc := 1 }).wf = false ∧ (Instr.ld { plain with sub := 0x20 }).wf = false ∧
    (Instr.ld { plain with sub := 4 }).wf = false ∧ (Instr.atom { plain with imm := 0x70000000 }).wf = false ∧
    (Instr.sptest { plain with sub := 7 }).wf = false ∧ (Instr.spcast { plain with sub := 2, imm := 1 }).wf = false ∧
    (Instr.objq { plain with sub := 3 }).wf = false ∧ (Instr.fspawn { plain with sa := 1 }).wf = false ∧
    (Instr.fspawn { plain with sub := 1, rt := .sb }).wf = false ∧ (Instr.fid { plain with sub := 9 }).wf = false ∧
    (Instr.cvset { plain with i := true, imm := 1025 }).wf = false ∧ (Instr.sgvote { plain with sub := 3 }).wf = false ∧
    (Instr.mldw { plain with sb := 1 }).wf = false ∧ (Instr.mstr { plain with sc := 1 }).wf = false ∧
    (Instr.mrdaF32 { plain with t := .f32, sub := 8 }).wf = false ∧ (Instr.mrdaF32 plain).wf = false ∧
    (Instr.mrdaSlot { plain with t := .f32 }).wf = false ∧ (Instr.cpwait { plain with imm := 17 }).wf = false ∧
    (Instr.gth plain).wf = false ∧ (Instr.gth { plain with imm := 0x05000001 }).wf = false ∧
    (Instr.sysrd { plain with imm := 0x840 }).wf = true ∧ (Instr.sysrd { plain with imm := 0x001 }).wf = false ∧
    (Instr.syswr { plain with imm := 0x100 }).wf = false := by decide +kernel

/-- R9, R194, R260, R331, R338, R348, R355, R356, R358: a step whose operand names no part of the device, one for each kind of
operand. -/
theorem test_refused_steps :
    (Instr.issueSchedulerPick 2048 0).wf = false ∧ (Instr.issueSchedulerPick 2047 4).wf = false ∧
    (Instr.issueSchedulerPick 2047 3).wf = true ∧ (Instr.groupDemote (2 ^ 48) 0).wf = false ∧
    (Instr.groupDemote 0 32).wf = false ∧ (Instr.ownershipRequest 2560 0 0).wf = false ∧
    (Instr.ownershipRequest 0 0 16).wf = false ∧ (Instr.hostCxlRead (2 ^ 46) 1 false).wf = false ∧
    (Instr.hostCxlRead 0 3 false).wf = false ∧ (Instr.hostCxlWrite 0 (List.replicate 65 0)).wf = false ∧
    (Instr.collectiveComplete 32 0).wf = false ∧ (Instr.spanDispatch (2 ^ 16) 0 0 0).wf = false ∧
    (Instr.spanDispatch 0 0 16 0).wf = false ∧ (Instr.spanDispatch 0 0 0 4).wf = false ∧
    (Instr.doorbellTail 1024 0 0).wf = false ∧ (Instr.queueMap 4096).wf = false ∧ (Instr.tagRelease (2 ^ 16)).wf = false ∧
    (Instr.apply 64).wf = false ∧ (Instr.registerWrite (.window 4) 0).wf = false ∧
    (Instr.registerWrite (.window 0x4000000) 0).wf = false ∧ (Instr.registerWrite (.pasid 1024 0) 0).wf = false ∧
    (Instr.registerWrite (.pasid 0 32) 0).wf = false ∧ (Instr.registerWrite (.remap 0 64) 0).wf = false ∧
    (Instr.registerWrite (.iface 1024) 0).wf = false ∧ (Instr.hostInvalidation (65 * 2 ^ 20) 0).wf = false ∧
    (Instr.hostLinkDown 2).wf = false ∧ (Instr.zoneTrap 0 20 0).wf = false ∧ (Instr.zoneTrap 0 0 4).wf = false ∧
    (Instr.flitCrcRetry (.memoryLink 32)).wf = false ∧ (Instr.flitCrcRetry (.fabric 8)).wf = false ∧
    (Instr.flitCrcRetry (.ethernet 16)).wf = false ∧ (Instr.memoryLinkLost 32).wf = false ∧ (Instr.nodeMemberLost 8).wf = false ∧
    (Instr.uncorrectableSharedState (.partitionEntries 64)).wf = false ∧ (Instr.patrolScrub (2 ^ 40)).wf = false ∧
    (Instr.pldmMonitoring (.zone 0 20)).wf = false ∧ (Instr.pldmMonitoring (.die 32)).wf = false ∧
    (Instr.pldmMonitoring (.port (.fabric 8))).wf = false ∧ (Instr.hartLr 512 0 0 4 false).wf = false ∧
    (Instr.hartLr 0 32 0 4 false).wf = false ∧ (Instr.hartLr 0 0 2 4 false).wf = false ∧ (Instr.hartLr 0 0 0 2 false).wf = false ∧
    (Instr.hartLr 0 0 (2 ^ 48) 4 false).wf = false ∧ (Instr.hartLoad 0 1 0 3 false).wf = false ∧
    (Instr.softError .mainMemory (2 ^ 48) 0 false).wf = false ∧ (Instr.ethernetFrame 16 0 .send 0 0 []).wf = false ∧
    (Instr.ethernetFrame 0 64 .send 0 0 []).wf = false := by decide +kernel

/-- The model stops at a turn that names no part of the device, and at no other: a Shaoc instruction is no turn. -/
theorem test_ill_formed_turn :
    step { State.reset with agenda := [.event (.apply 64)] } = .fault .illFormedTurn ∧
    step { State.reset with agenda := [.event (.nop plain)] } = .fault .illFormedTurn ∧
    step { State.reset with agenda := [.issue 2048 0] } = .fault .illFormedTurn :=
  ⟨rfl, rfl, rfl⟩

/-! ## Decoding -/

/-- Bytes that are no instruction (R47, R66, R67). -/
theorem test_decode_refuses :
    decode (List.replicate 11 0) = .error .tooShort ∧ decode (List.replicate 11 0 ++ [0x25]) = .error (.illegalOpcode 0x25) ∧
    decode (List.replicate 11 0 ++ [0x00, 0x07]) = .ok (.nop { plain with gp := 0 }, [0x07]) ∧
    decodeTableWord 97 0 = none ∧ decodeTableWord 96 (0xFE * 2 ^ 88) = none := by decide +kernel

/-- The worked IADD of the manual, by the numbering of the opcode table. -/
theorem test_table_word : decodeTableWord 96 0x03C60A02_01401040_00000000 =
    some (.iadd { plain with w := true, x := true, gp := 3, d := 10, sa := 4, sb := 5, rt := .sb, t := .s32 }) := by decide +kernel

/-- The step after `withFetchWord` runs the word: a MOV of an immediate writes its register, and the next slot follows. -/
theorem test_fetch_word : nextHas (step (State.reset.withFetchWord 96 0x011E0100_00000400_00000007))
    (fun u => (u.lane (2 ^ 32) 0).reg 1 == 7 && (u.lane (2 ^ 32) 0).pc == 1) = true := by decide +kernel

/-- R72: a word of each instruction, written out from the fields of R54. -/
theorem test_words_integer :
    decodeWord 0x00000000_00000000_00000000#96 = .ok (.nop { plain with gp := 0 }) ∧
    decodeWord 0x011E0100_000004C0_80000001#96 = .ok (.mov { plain with d := 1, i := true, t := .s64, imm := 0x80000001 }) ∧
    decodeWord 0x021E0202_0180E080_00000000#96 = .ok (.sel { plain with d := 2, sa := 4, sb := 6, sc := 7, t := .b64 }) ∧
    decodeWord 0x031E0A02_01401281_00000000#96 = .ok (.iadd { plain with d := 10, sa := 4, sb := 5, rt := .sb, t := .s8, sub := 1 }) ∧
    decodeWord 0x041E0B02_00000680_FFFFFF80#96 = .ok (.isub { plain with d := 11, sa := 4, i := true, t := .s8, imm := 0xffffff80 }) ∧
    decodeWord 0x051E0C00_808002C0_00000000#96 = .ok (.imul { plain with d := 12, sa := 1, sb := 2, t := .b16 }) ∧
    decodeWord 0x061E0C01_010000C0_00000000#96 = .ok (.imulh { plain with d := 12, sa := 2, sb := 4, t := .s64 }) ∧
    decodeWord 0x071E0101_00C09800_00000000#96 = .ok (.imad { plain with d := 1, sa := 2, sb := 3, sc := 4, rt := .sc }) ∧
    decodeWord 0x089E0101_00C00040_00000000#96 = .ok (.idiv { plain with w := true, d := 1, sa := 2, sb := 3, t := .s32 }) ∧
    decodeWord 0x091E0101_00C00080_00000000#96 = .ok (.irem { plain with d := 1, sa := 2, sb := 3, t := .b64 }) ∧
    decodeWord 0x0A1E0101_00C00300_00000000#96 = .ok (.imin { plain with d := 1, sa := 2, sb := 3, t := .s16 }) ∧
    decodeWord 0x0B1E0101_00C00240_00000000#96 = .ok (.imax { plain with d := 1, sa := 2, sb := 3, t := .b8 }) ∧
    decodeWord 0x0C1E0101_00000041_00000000#96 = .ok (.iabs { plain with d := 1, sa := 2, t := .s32, sub := 1 }) ∧
    decodeWord 0x0D1E0101_000000C0_00000000#96 = .ok (.ineg { plain with d := 1, sa := 2, t := .s64 }) ∧
    decodeWord 0x0E1E0101_00C12013_00000000#96 = .ok (.iaddc { plain with d := 1, sa := 2, sb := 3, sc := 9, sub := 19 }) ∧
    decodeWord 0x0F1E0202_018000C5_00000000#96 = .ok (.lea { plain with d := 2, sa := 4, sb := 6, t := .s64, sub := 5 }) := by decide +kernel

/-- R72: a word of each instruction, written out from the fields of R54. -/
theorem test_words_bits :
    decodeWord 0x101E0101_00C00000_00000000#96 = .ok (.and { plain with d := 1, sa := 2, sb := 3 }) ∧
    decodeWord 0x111E0202_01800080_00000000#96 = .ok (.or { plain with d := 2, sa := 4, sb := 6, t := .b64 }) ∧
    decodeWord 0x121E0101_00000400_FFFFFFFF#96 = .ok (.xor { plain with d := 1, sa := 2, i := true, imm := 0xffffffff }) ∧
    decodeWord 0x131E0101_7FC00000_00000000#96 = .ok (.andn { plain with d := 1, sa := 2, sb := 0x1ff }) ∧
    decodeWord 0x141E0101_00000000_00000000#96 = .ok (.not { plain with d := 1, sa := 2 }) ∧
    decodeWord 0x151E0101_00C002C0_00000000#96 = .ok (.shl { plain with d := 1, sa := 2, sb := 3, t := .b16 }) ∧
    decodeWord 0x161E0101_00C00240_00000000#96 = .ok (.shr { plain with d := 1, sa := 2, sb := 3, t := .b8 }) ∧
    decodeWord 0x171E0101_00C00040_00000000#96 = .ok (.sar { plain with d := 1, sa := 2, sb := 3, t := .s32 }) ∧
    decodeWord 0x181E0101_00C00000_00000000#96 = .ok (.rotl { plain with d := 1, sa := 2, sb := 3 }) ∧
    decodeWord 0x191E0101_00000080_00000000#96 = .ok (.popc { plain with d := 1, sa := 2, t := .b64 }) ∧
    decodeWord 0x1A1E0101_00000000_00000000#96 = .ok (.clz { plain with d := 1, sa := 2 }) ∧
    decodeWord 0x1B1E0101_00000000_00000000#96 = .ok (.ctz { plain with d := 1, sa := 2 }) ∧
    decodeWord 0x1C1E0101_00000800_00000000#96 = .ok (.brev { plain with d := 1, sa := 2, rt := .sa }) ∧
    decodeWord 0x1D1E0101_00C00040_00000000#96 = .ok (.bfx { plain with d := 1, sa := 2, sb := 3, t := .s32 }) ∧
    decodeWord 0x1E1E0101_00C08000_00000000#96 = .ok (.bfi { plain with d := 1, sa := 2, sb := 3, sc := 4 }) ∧
    decodeWord 0x1F1E0101_00008400_00003210#96 = .ok (.prmt { plain with d := 1, sa := 2, i := true, imm := 0x3210, sc := 4 }) ∧
    decodeWord 0x201E0202_0000268A_0000000A#96 = .ok (.icmp { plain with d := 2, sa := 4, i := true, sc := 1, t := .s8, sub := 10, imm := 10 }) ∧
    decodeWord 0x211E0101_00C00008_00000000#96 = .ok (.pset { plain with d := 1, sa := 2, sb := 3, sub := 8 }) ∧
    decodeWord 0x221E0100_00000000_00000000#96 = .ok (.pget { plain with d := 1 }) ∧
    decodeWord 0x231E0000_80000000_0000FFFF#96 = .ok (.pput { plain with sa := 1, imm := 0xffff }) ∧
    decodeWord 0x241E0101_00C08040_00000000#96 = .ok (.idot4 { plain with d := 1, sa := 2, sb := 3, sc := 4, t := .s32 }) := by decide +kernel

/-- R72, R188: a word of each instruction, written out from the fields of R54. -/
theorem test_words_control :
    decodeWord 0x30220000_00000000_FFFFFFFD#96 = .ok (.bra { plain with gn := true, gp := 1, imm := 0xfffffffd }) ∧
    decodeWord 0x311E0001_00000000_00000000#96 = .ok (.brx { plain with sa := 2 }) ∧
    decodeWord 0x321E0400_00000000_00000005#96 = .ok (.call { plain with d := 4, imm := 5 }) ∧
    decodeWord 0x331E0401_00000000_00000000#96 = .ok (.callx { plain with d := 4, sa := 2 }) ∧
    decodeWord 0x341E0001_00000000_00000000#96 = .ok (.ret { plain with sa := 2 }) ∧
    decodeWord 0x355E0000_00000000_00000000#96 = .ok (.yield { plain with x := true }) ∧
    decodeWord 0xF0020000_00000000_0000002A#96 = .ok (.trap { plain with gp := 1, imm := 42 }) ∧
    decodeWord 0xF11E0000_00000000_00000000#96 = .ok (.brk plain) ∧
    decodeWord 0xF21E0000_00000001_00000000#96 = .ok (.rte { plain with sub := 1 }) ∧
    decodeWord 0xF31E0400_00000000_00000100#96 = .ok (.sysrd { plain with d := 4, imm := 0x100 }) ∧
    decodeWord 0xF41E0002_00000000_00000820#96 = .ok (.syswr { plain with sa := 4, imm := 0x820 }) ∧
    decodeWord 0xF51E0101_00000000_00000000#96 = .ok (.dbgmb { plain with d := 1, sa := 2 }) ∧
    decodeWord 0xF61E0000_00000000_00000000#96 = .ok (.wfe plain) ∧
    decodeWord 0xF71E0000_00000000_00000000#96 = .ok (.sev plain) ∧
    decodeWord 0xF81E0000_00000000_00000000#96 = .ok (.halt plain) := by decide +kernel

/-- R89: a word of each instruction, written out from the fields of R54. -/
theorem test_words_float :
    decodeWord 0x401E0101_00C00104_00000000#96 = .ok (.fadd { plain with d := 1, sa := 2, sb := 3, t := .f32, sub := 4 }) ∧
    decodeWord 0x411E0101_00C001C0_00000000#96 = .ok (.fsub { plain with d := 1, sa := 2, sb := 3, t := .h2 }) ∧
    decodeWord 0x421E0101_00C00203_00000000#96 = .ok (.fmul { plain with d := 1, sa := 2, sb := 3, t := .bh2, sub := 3 }) ∧
    decodeWord 0x431E0101_00C08140_00000000#96 = .ok (.ffma { plain with d := 1, sa := 2, sb := 3, sc := 4, t := .f16 }) ∧
    decodeWord 0x441E0101_00C00180_00000000#96 = .ok (.fmin { plain with d := 1, sa := 2, sb := 3, t := .bf16 }) ∧
    decodeWord 0x451E0101_00C00100_00000000#96 = .ok (.fmax { plain with d := 1, sa := 2, sb := 3, t := .f32 }) ∧
    decodeWord 0x461E0101_00C08109_00000000#96 = .ok (.fcmp { plain with d := 1, sa := 2, sb := 3, sc := 4, t := .f32, sub := 9 }) ∧
    decodeWord 0x471E0101_00000140_000003FF#96 = .ok (.fclass { plain with d := 1, sa := 2, t := .f16, imm := 0x3ff }) ∧
    decodeWord 0x481E0101_00000100_00000000#96 = .ok (.frcp { plain with d := 1, sa := 2, t := .f32 }) ∧
    decodeWord 0x491E0101_00000100_00000000#96 = .ok (.frsq { plain with d := 1, sa := 2, t := .f32 }) ∧
    decodeWord 0x4A1E0101_00000101_00000000#96 = .ok (.fsqrt { plain with d := 1, sa := 2, t := .f32, sub := 1 }) ∧
    decodeWord 0x4B1E0101_00C00100_00000000#96 = .ok (.fdiv { plain with d := 1, sa := 2, sb := 3, t := .f32 }) ∧
    decodeWord 0x4C1E0101_000001C0_00000000#96 = .ok (.fexp2 { plain with d := 1, sa := 2, t := .h2 }) ∧
    decodeWord 0x4D1E0101_00000100_00000000#96 = .ok (.flog2 { plain with d := 1, sa := 2, t := .f32 }) ∧
    decodeWord 0x4E1E0101_00000100_00000000#96 = .ok (.fsin { plain with d := 1, sa := 2, t := .f32 }) ∧
    decodeWord 0x4F1E0101_00000100_00000000#96 = .ok (.fcos { plain with d := 1, sa := 2, t := .f32 }) ∧
    decodeWord 0x501E0101_00000180_00000000#96 = .ok (.ftanh { plain with d := 1, sa := 2, t := .bf16 }) ∧
    decodeWord 0x511E0101_00000140_00000000#96 = .ok (.fsigm { plain with d := 1, sa := 2, t := .f16 }) ∧
    decodeWord 0x521E0101_00000100_00000000#96 = .ok (.ffrac { plain with d := 1, sa := 2, t := .f32 }) ∧
    decodeWord 0x531E0101_00000102_00000000#96 = .ok (.frnd { plain with d := 1, sa := 2, t := .f32, sub := 2 }) ∧
    decodeWord 0x541E0101_00C08200_00000000#96 = .ok (.fdot2 { plain with d := 1, sa := 2, sb := 3, sc := 4, t := .bh2 }) ∧
    decodeWord 0x551E0101_00000500_FFFFFFFF#96 = .ok (.fscale { plain with d := 1, sa := 2, i := true, t := .f32, imm := 0xffffffff }) := by decide +kernel

/-- R94, R101: a word of each instruction, written out from the fields of R54. -/
theorem test_words_conversion :
    decodeWord 0x581E0101_00000150_00000000#96 = .ok (.cvtf { plain with d := 1, sa := 2, t := .f16, sub := 16 }) ∧
    decodeWord 0x591E0101_00000048_00000000#96 = .ok (.cvtfi { plain with d := 1, sa := 2, t := .s32, sub := 8 }) ∧
    decodeWord 0x5A1E0101_00000118_00000000#96 = .ok (.cvtif { plain with d := 1, sa := 2, t := .f32, sub := 24 }) ∧
    decodeWord 0x5B1E0101_00C0800A_00000000#96 = .ok (.cvtn { plain with d := 1, sa := 2, sb := 3, sc := 4, sub := 10 }) ∧
    decodeWord 0x5C1E0101_0000003F_00000000#96 = .ok (.cvtw { plain with d := 1, sa := 2, sub := 63 }) ∧
    decodeWord 0x5D1E0101_00000003_00000000#96 = .ok (.qntComputed { plain with d := 1, sa := 2, sub := 3 }) ∧
    decodeWord 0x5D1E0101_00C0000B_00000000#96 = .ok (.qntGiven { plain with d := 1, sa := 2, sb := 3, sub := 11 }) ∧
    decodeWord 0x5E1E0101_00000400_7F000000#96 = .ok (.dqnt { plain with d := 1, sa := 2, i := true, imm := 0x7f000000 }) ∧
    decodeWord 0x5F1E0202_00000180_00000000#96 = .ok (.cmpr { plain with d := 2, sa := 4, t := .bf16 }) ∧
    decodeWord 0x601E0101_00006008_00000000#96 = .ok (.dpwe { plain with d := 1, sa := 2, sc := 3, sub := 8 }) ∧
    decodeWord 0x611E0101_00000007_00000000#96 = .ok (.scaleq { plain with d := 1, sa := 2, sub := 7 }) ∧
    decodeWord 0x681E0101_00000000_000000E4#96 = .ok (.qswz { plain with d := 1, sa := 2, imm := 228 }) ∧
    decodeWord 0x691E0101_00000000_00000003#96 = .ok (.qbcast { plain with d := 1, sa := 2, imm := 3 }) ∧
    decodeWord 0x6A1E0101_00000102_00000000#96 = .ok (.qred { plain with d := 1, sa := 2, t := .f32, sub := 2 }) := by decide +kernel

/-- R103: a word of each instruction, written out from the fields of R54. -/
theorem test_words_group :
    decodeWord 0x701E0101_00006403_FFFFFFFF#96 = .ok (.gshfl { plain with d := 1, sa := 2, i := true, sc := 3, sub := 3, imm := 0xffffffff }) ∧
    decodeWord 0x711E0200_80C00003_00000000#96 = .ok (.gvote { plain with d := 2, sa := 1, sb := 3, sub := 3 }) ∧
    decodeWord 0x721E0302_00000502_0000FFFF#96 = .ok (.gred { plain with d := 3, sa := 4, i := true, t := .f32, sub := 2, imm := 0xffff }) ∧
    decodeWord 0x731E0101_00C00010_00000000#96 = .ok (.gscan { plain with d := 1, sa := 2, sb := 3, sub := 16 }) ∧
    decodeWord 0x741E0000_00C00000_00000000#96 = .ok (.gbar { plain with sb := 3 }) ∧
    decodeWord 0x751E0101_01000080_00000000#96 = .ok (.gmatch { plain with d := 1, sa := 2, sb := 4, t := .b64 }) ∧
    decodeWord 0x761E0200_00C00000_00000000#96 = .ok (.gelect { plain with d := 2, sb := 3 }) := by decide +kernel

/-- R117: a word of each instruction, written out from the fields of R54. -/
theorem test_words_memory :
    decodeWord 0x801E0803_0000A35B_FFFFFFF0#96 = .ok (.ld { plain with d := 8, sa := 6, sc := 5, t := .b128, sub := 27, imm := 0xfffffff0 }) ∧
    decodeWord 0x811E0001_01000010_00000000#96 = .ok (.st { plain with sa := 2, sb := 4, sub := 16 }) ∧
    decodeWord 0x821E0101_00C00020_60000004#96 = .ok (.atom { plain with d := 1, sa := 2, sb := 3, sub := 32, imm := 0x60000004 }) ∧
    decodeWord 0x831E1605_05000010_00000000#96 = .ok (.atomcas { plain with d := 22, sa := 10, sb := 20, sub := 16 }) ∧
    decodeWord 0x841E0001_00C00100_00000FFC#96 = .ok (.red { plain with sa := 2, sb := 3, t := .f32, imm := 0xffc }) ∧
    decodeWord 0x851E0000_00000000_00000000#96 = .ok (.rel plain) ∧
    decodeWord 0x861E0000_00000000_00000000#96 = .ok (.acq plain) ∧
    decodeWord 0x871E0000_00000000_00000000#96 = .ok (.syncf plain) ∧
    decodeWord 0x881E0101_00000006_00000000#96 = .ok (.sptest { plain with d := 1, sa := 2, sub := 6 }) ∧
    decodeWord 0x891E0202_00000003_00000003#96 = .ok (.spcast { plain with d := 2, sa := 4, sub := 3, imm := 3 }) ∧
    decodeWord 0x8A1E0200_003FE001_00000000#96 = .ok (.objq { plain with d := 2, sc := 0x1ff, sub := 1 }) ∧
    decodeWord 0x8B1E0200_80006000_FFFFFFFC#96 = .ok (.objptr { plain with d := 2, sa := 1, sc := 3, imm := 0xfffffffc }) ∧
    decodeWord 0x8C1E0000_00000000_00000000#96 = .ok (.recdrn plain) ∧
    decodeWord 0x8D1E0100_00000000_00000000#96 = .ok (.recst { plain with d := 1 }) ∧
    decodeWord 0x8E1E0001_00000002_00000000#96 = .ok (.pfch { plain with sa := 2, sub := 2 }) ∧
    decodeWord 0x8F1E0001_00002008_00000000#96 = .ok (.cdrop { plain with sa := 2, sc := 1, sub := 8 }) ∧
    decodeWord 0x901E0101_00000000_00000000#96 = .ok (.prstest { plain with d := 1, sa := 2 }) := by decide +kernel

/-- R134, R147: a word of each instruction, written out from the fields of R54. -/
theorem test_words_fibre :
    decodeWord 0xA0040301_00000001_00000002#96 = .ok (.fspawn { plain with gp := 2, d := 3, sa := 2, sub := 1, imm := 2 }) ∧
    decodeWord 0xA11E0000_00000000_00000000#96 = .ok (.fend plain) ∧
    decodeWord 0xA21E0100_00000008_00000000#96 = .ok (.fid { plain with d := 1, sub := 8 }) ∧
    decodeWord 0xA31E0100_00000003_00000000#96 = .ok (.fstat { plain with d := 1, sub := 3 }) ∧
    decodeWord 0xA41E0700_00000400_00000400#96 = .ok (.cvset { plain with d := 7, i := true, imm := 0x400 }) ∧
    decodeWord 0xA51E0300_00000000_00000000#96 = .ok (.cvsign { plain with d := 3 }) ∧
    decodeWord 0xA61E0902_80000000_00000000#96 = .ok (.cvwait { plain with d := 9, sa := 5 }) ∧
    decodeWord 0xA71E0000_00000000_00000000#96 = .ok (.blkbar plain) ∧
    decodeWord 0xB01E0200_00C0E000_00000000#96 = .ok (.sgjoin { plain with d := 2, sb := 3, sc := 7 }) ∧
    decodeWord 0xB11E0000_00002000_00000000#96 = .ok (.sgleave { plain with sc := 1 }) ∧
    decodeWord 0xB21E0100_00004000_00000000#96 = .ok (.sgarrive { plain with d := 1, sc := 2 }) ∧
    decodeWord 0xB31E0400_80004000_00000000#96 = .ok (.sgwait { plain with d := 4, sa := 1, sc := 2 }) ∧
    decodeWord 0xB41E0400_00004000_00000000#96 = .ok (.sgbar { plain with d := 4, sc := 2 }) ∧
    decodeWord 0xB51E0402_80004002_00000000#96 = .ok (.sgvote { plain with d := 4, sa := 5, sc := 2, sub := 2 }) ∧
    decodeWord 0xB61E0101_00006041_00000007#96 = .ok (.sgred { plain with d := 1, sa := 2, sc := 3, t := .s32, sub := 1, imm := 7 }) ∧
    decodeWord 0xB71E0202_01802080_00000000#96 = .ok (.sgbcast { plain with d := 2, sa := 4, sb := 6, sc := 1, t := .b64 }) ∧
    decodeWord 0xB81E0100_00004003_00000000#96 = .ok (.sgquery { plain with d := 1, sc := 2, sub := 3 }) ∧
    decodeWord 0xB91E0000_00008000_00000000#96 = .ok (.sgclose { plain with sc := 4 }) := by decide +kernel

/-- R156: a word of each instruction, written out from the fields of R54. -/
theorem test_words_matrix :
    decodeWord 0xC01E0000_00000029_00000052#96 = .ok (.mcfg { plain with sub := 41, imm := 82 }) ∧
    decodeWord 0xC11E0000_80806018_00000000#96 = .ok (.mldw { plain with sa := 1, sb := 2, sc := 3, sub := 24 }) ∧
    decodeWord 0xC21E0000_00000007_00000000#96 = .ok (.mswap { plain with sub := 7 }) ∧
    decodeWord 0xC31E0006_03400008_00000000#96 = .ok (.mstr { plain with sa := 12, sb := 13, sub := 8 }) ∧
    decodeWord 0xC41E2807_00000100_00000000#96 = .ok (.mrdaF32 { plain with d := 40, sa := 14, t := .f32 }) ∧
    decodeWord 0xC41E2807_00000038_00000000#96 = .ok (.mrdaSlot { plain with d := 40, sa := 14, sub := 56 }) ∧
    decodeWord 0xC51E0000_81000002_00000000#96 = .ok (.mwra { plain with sa := 1, sb := 4, sub := 2 }) ∧
    decodeWord 0xC61E0000_80000001_00000000#96 = .ok (.mclra { plain with sa := 1, sub := 1 }) ∧
    decodeWord 0xC71E0000_00000005_00000000#96 = .ok (.msync { plain with sub := 5 }) ∧
    decodeWord 0xC81E0100_00000018_00000000#96 = .ok (.mquery { plain with d := 1, sub := 24 }) := by decide +kernel

/-- R174, R188: a word of each instruction, written out from the fields of R54. -/
theorem test_words_copyAndTime :
    decodeWord 0xD01E0F01_00000000_00000000#96 = .ok (.shdef { plain with d := 15, sa := 2 }) ∧
    decodeWord 0xD11E0203_00002005_00000021#96 = .ok (.cpt { plain with d := 2, sa := 6, sc := 1, sub := 5, imm := 33 }) ∧
    decodeWord 0xD21E0001_00006000_00000000#96 = .ok (.cpchain { plain with sa := 2, sc := 3 }) ∧
    decodeWord 0xD31E0100_00000000_00000000#96 = .ok (.cpseal { plain with d := 1 }) ∧
    decodeWord 0xD41E0000_00000000_00000010#96 = .ok (.cpwait { plain with imm := 16 }) ∧
    decodeWord 0xD51E0202_01802010_0A000001#96 = .ok (.gth { plain with d := 2, sa := 4, sb := 6, sc := 1, sub := 16, imm := 0xa000001 }) ∧
    decodeWord 0xD61E0202_01800000_04FFFFFF#96 = .ok (.sct { plain with d := 2, sa := 4, sb := 6, imm := 0x4ffffff }) ∧
    decodeWord 0xD71E0001_00000000_00000000#96 = .ok (.cljob { plain with sa := 2 }) ∧
    decodeWord 0xD81E0101_00000000_00000000#96 = .ok (.cpquery { plain with d := 1, sa := 2 }) ∧
    decodeWord 0xD91E0202_00000010_0000000F#96 = .ok (.cpfill { plain with d := 2, sa := 4, sub := 16, imm := 15 }) ∧
    decodeWord 0xE01E0000_80800000_00000000#96 = .ok (.dlset { plain with sa := 1, sb := 2 }) ∧
    decodeWord 0xE11E0000_00000400_00000005#96 = .ok (.dlprog { plain with i := true, imm := 5 }) ∧
    decodeWord 0xE21E0000_00000000_00000000#96 = .ok (.dlend plain) ∧
    decodeWord 0xE31E0100_00000000_00000000#96 = .ok (.bstq { plain with d := 1 }) ∧
    decodeWord 0xE41E0200_00000003_00000000#96 = .ok (.cntrd { plain with d := 2, sub := 3 }) ∧
    decodeWord 0xE51E0200_00000000_00000000#96 = .ok (.tmrd { plain with d := 2 }) ∧
    decodeWord 0xE61E0100_00000002_00000000#96 = .ok (.zoneq { plain with d := 1, sub := 2 }) ∧
    decodeWord 0xFF072C00_00000000_DEADBEEF#96 = .ok (.udf { plain with gp := 3, d := 0x12c, imm := 0xdeadbeef }) := by decide +kernel

/-! ## Small states -/

/-- Tables that map the first 1 GiB of die 0 onto itself, for reads, writes and atomics, with U set. -/
def tableMem : List Host.Cell :=
  [(0x10000, 0x01), (0x10002, 0x02), (0x20000, 0x01), (0x20002, 0x03), (0x30000, 0x0F), (0x30001, 0x02)]

/-- The leaf that maps it. -/
def leaf : Leaf :=
  { frame := 0, addr := 0x30000, w := true, a := true, p := false, m := false, pol := 0, shift := 30, bad := false }

def launchRec : LaunchRec :=
  { handler := 0x80, lanes := 2, window := 64, scratch := 4096, accRows := 128, privBase := 0x4000, privSize := 64,
    privSlots := 4, objBase := 0x9000, frptr := 0x8000, nLease := 2,
    leases := [(0, 0x100000), (0xC000000000000000#64, 0x10000)] }

/-- Registers: v4 and v5 numbers, v6:v7 a global, v10:v11 a scratchpad and v12:v13 a host pointer. -/
def regs (l : Nat) : Tbl Word :=
  [(4, if l = 0 then 0xFFFFFFFF else 7), (5, 2), (6, BitVec.ofNat 32 (0x2000 + 4 * l)), (10, BitVec.ofNat 32 (16 * l)),
   (11, 0x90000000), (12, BitVec.ofNat 32 (0x100 + 4 * l)), (13, 0xC0000000)]

def lane0 : Lane := { live := true, used := true, fib := 1, regs := regs 0 }
def lane1 : Lane := { live := true, used := true, fib := 1, regs := regs 1 }

def block0 : Block :=
  { tag := 1, place := .resident 0, groups := 1, window := 64, scratchSize := 4096, accRows := 128, privSlot := some 0,
    lanes := [(0, lane0), (1, lane1)], grps := [(0, { active := true })] }

def B : Nat := 2 ^ 32

def launch1 : Launch := { used := true, started := true, pinned := true, rec_ := launchRec, nextSpan := 1 }

def part0 : Part := { inForce := { v := true, quota := 256 } }

/-- A block of two fibres, which are the issuing batch, at slot 0 of a line whose slot 0 may be entered. -/
def base : State :=
  { State.reset with
    mem := tableMem, dies := [(0, { root := 0x10000 })], parts := [(0, part0)], launches := [(1, launch1)],
    blocks := [(B, block0)], cores := [(0, { l1i := [(0, oneLine 0)] })], cur := { blk := B, lanes := 3, next := 1 } }

/-- The same with lane 0 alone in the batch. -/
def one : State := { base with cur := { blk := B, lanes := 1, next := 1 } }

def withBlock (x : Block) : State := { base with blocks := [(B, x)] }
def oneBlock (x : Block) : State := { one with blocks := [(B, x)] }

/-- GP 15 with GN set: no lane has guard 1. -/
def off : Fields := { plain with gn := true }

/-! ## Single steps, with results worked out from the rules -/

def lane0Has (o : Host.Outcome State Fault Refusal) (p : Lane → Bool) : Bool := nextHas o (fun u => p (u.lane B 0))

/-- R74: 0xFFFFFFFF + 2 wraps to 1. -/
theorem test_iadd_wraps : lane0Has (exec (.iadd { plain with d := 20, sa := 4, sb := 5, t := .b32 }) one) (fun l => l.reg 20 == 1) = true := by
  decide +kernel
/-- R74: subtraction takes b from a. -/
theorem test_isub_order : lane0Has (exec (.isub { plain with d := 20, sa := 5, sb := 4, t := .b32 }) one) (fun l => l.reg 20 == 3) = true := by
  decide +kernel
/-- The examples of R80 on 0x81828384: a copy, its bytes reversed, its low halfword sign-extended, and all ones. -/
def prmtOf (c : Word) : Host.Outcome State Fault Refusal :=
  exec (.prmt { plain with d := 20, sa := 6, sb := 5, sc := 7 }) (oneBlock { block0 with lanes := [(0, { lane0 with regs := [(6, 0x81828384), (7, c)] })] })
theorem test_prmt : lane0Has (prmtOf 0x03020100) (fun l => l.reg 20 == 0x81828384) = true ∧
    lane0Has (prmtOf 0x00010203) (fun l => l.reg 20 == 0x84838281) = true ∧
    lane0Has (prmtOf 0x11110100) (fun l => l.reg 20 == 0xFFFF8384) = true ∧
    lane0Has (prmtOf 0x28282828) (fun l => l.reg 20 == 0xFFFFFFFF) = true := by decide +kernel
/-- R24: 1.0 + 1.0 is 2.0. -/
theorem test_fadd : lane0Has (exec (.fadd { plain with d := 20, sa := 6, sb := 6, t := .f32 })
    (oneBlock { block0 with lanes := [(0, { lane0 with regs := [(6, 0x3F800000)] })] })) (fun l => l.reg 20 == 0x40000000) = true := by
  decide +kernel
/-- R190: TRAP takes its entry: handler mode, at HANDLER. -/
theorem test_trap_enters : lane0Has (exec (.trap { plain with imm := 0x2A }) one) (fun l => l.hmode && l.pc == 0x80) = true := by
  decide +kernel
/-! ## Witnesses: instructions of one lane -/

theorem witness_carry_refused : wordOp 0x0E1E0A02_01412040_00000000#96 = 0x0E ∧
    (wordFields 0x0E1E0A02_01412040_00000000#96).subBits 36 36 = 0 ∧ (wordFields 0x0E1E0A02_01412040_00000000#96).sc ≠ 0 := by
  decide +kernel

theorem witness_exact_value : fmtF32 ∈ [fmtF32, fmtF16, fmtBF16] ∧ 0x3F800000 < 2 ^ fmtF32.width ∧
    fmtF32.dec 0x3F800000 = .fin false 0x800000 (-23) := by decide +kernel
/-- The smallest subnormal and the greatest finite value of f16. -/
theorem witness_exact_bounds : fmtF16.dec 1 = .fin false 1 (-24) ∧ fmtF16.dec 0x7BFF = .fin false 2047 5 := by decide +kernel

theorem witness_quad_swizzle :
    (∃ (mk : Fields → Instr) (src : Nat → Nat), mk = .qswz ∧ src = fun l => plain.imm.toNat / 4 ^ (l % 4) % 4) ∧
    ∃ (mk : Fields → Instr) (src : Nat → Nat), mk = .qbcast ∧ src = fun _ => plain.imm.toNat % 4 :=
  ⟨⟨_, _, rfl, rfl⟩, _, _, rfl, rfl⟩

theorem witness_transfer : activeLanes plain base = [0, 1] ∧ TargetsOk plain base (fun _ => immTarget plain base.cur.pc) ∧
    TargetsOk { plain with sa := 8 } base (fun x => x.pair 8) := by unfold TargetsOk; decide +kernel

/-- A branch to slot 1, which may not be entered, and targets in slot 7. -/
theorem witness_bad_target : Running base ∧
    (∀ l ∈ activeLanes { plain with imm := 1 } base,
      targetWaits base base.cur.pier base.curTag (immTarget { plain with imm := 1 } base.cur.pc) = false) ∧
    ((activeLanes { plain with imm := 1 } base).filter (fun _ =>
      !targetOk base base.cur.pier base.curTag (immTarget { plain with imm := 1 } base.cur.pc))).head? = some 0 ∧
    ((activeLanes { plain with sa := 4 } base).filter (fun l =>
      !targetOk base base.cur.pier base.curTag ((base.src l).pair 4))).head? = some 0 := by unfold Running; decide +kernel

theorem witness_guards : activeLanes plain base ≠ [] ∧ activeLanes off base = [] := by decide +kernel

theorem witness_trap : activeLanes plain base ≠ [] ∧ base.curRec.handler ≠ 0 ∧ inHandler base.curBlock base.cur.grp = false ∧
    ∀ l ∈ activeLanes plain base, (base.lane base.cur.blk l).hmode = false := by decide +kernel
/-- The other fibre of the group is in handler mode: the cause waits. -/
def otherHandles : State := oneBlock { block0 with lanes := [(0, lane0), (1, { lane1 with hmode := true })] }
theorem witness_trap_waits : activeLanes plain otherHandles = [0] ∧ otherHandles.curRec.handler ≠ 0 ∧
    (otherHandles.lane B 0).hmode = false ∧ inHandler otherHandles.curBlock otherHandles.cur.grp = true := by decide +kernel
/-- The header of its fault record stands in a page that the partition maps. -/
theorem witness_trap_header : walkRoot base (ptrDie base.curRec.frptr) base.curLaunch.part (ptrOff56 base.curRec.frptr) =
    .ok 0x8000 leaf := by decide +kernel

/-- Both fibres in handler mode. -/
def handling : State :=
  withBlock { block0 with lanes := [(0, { lane0 with hmode := true }), (1, { lane1 with hmode := true })] }
theorem witness_trap_ends : Running handling ∧ ∃ l ∈ activeLanes plain handling, (handling.lane handling.cur.blk l).hmode = true := by
  unfold Running; decide +kernel
/-- One of them has left its handler and waits with a cause of its own. -/
def cause40 : Cause := { code := 0x40, pc := 0x41, val := 1, mask := 2 }
def causeWaits : State :=
  oneBlock { block0 with lanes := [(0, { lane0 with hmode := true }), (1, { lane1 with park := .trapPending })],
                         grps := [(0, { active := true, pending := [cause40] })] }
theorem witness_rte_pending : causeWaits.curGrp.pending = [cause40] ∧
    (¬ ∃ j < 32, (causeWaits.lane B (32 * 0 + j)).live = true ∧ (causeWaits.lane B (32 * 0 + j)).hmode = true ∧
      32 * 0 + j ∉ activeLanes plain causeWaits) ∧ (2 : Word) ≠ 0 ∧
    ∀ j < 32, (2 : Word).getLsbD j = true → (causeWaits.lane B (32 * 0 + j)).live = true ∧
      (causeWaits.lane B (32 * 0 + j)).park = .trapPending := by decide +kernel
theorem witness_rte_others : ∃ j < 32, (handling.lane B (32 * 0 + j)).live = true ∧ (handling.lane B (32 * 0 + j)).hmode = true ∧
    32 * 0 + j ∉ activeLanes { plain with gp := 3, gn := false } handling := by decide +kernel
theorem witness_rte : handling.curGrp.pending = [] ∧ activeLanes plain handling = [0, 1] := by decide +kernel

theorem witness_udf : base.curLanes ≠ [] ∧ Running base := by unfold Running; decide +kernel

/-- A write of each of the registers, its lowest and its highest. -/
theorem witness_syswr : LastLane { plain with sa := 8, imm := 0x000 } base 1 ∧
    (∀ i ∈ [0x000, 0x101, 0x800, 0x801, 0x802, 0x803, 0x804, 0x808, 0x809, 0x80A, 0x80B, 0x820, 0x821, 0x830],
      ∀ k ∈ activeLanes { plain with sa := 8 } base, sysValueOk i ((base.src k).pair 8) = true) ∧
    LastLane { plain with sa := 8, imm := 0x830 } one 0 := by unfold LastLane; decide +kernel

/-- An entry of a block: its store is not visible yet. -/
def e1 : Entry := { id := 1, ctx := B, tag := 1, chunk := 0x2000, stores := [{ lane := 0, seq := 1, be := 15, data := 5 }] }
/-- EYEST, SLICECTL and XLFENCE, with v20:v21 the values 3, 0x20001 and 1. -/
def cmd (v : Word) : State := oneBlock { block0 with lanes := [(0, { lane0 with regs := [(20, v)] }), (1, lane1)] }
theorem witness_commands : ∀ x ∈ [(0x810, (3 : Word)), (0x831, 0x20001), (0x840, 1), (0x840, 0)],
    ∀ k ∈ activeLanes { plain with sa := 20 } (cmd x.2),
      sysValueOk x.1 (((cmd x.2).src k).pair 20) = true := by decide +kernel
/-- XLFENCE waits for an older store of the fibre, and else goes. -/
theorem witness_xlfence : (((cmd 1).src 0).pair 20).getLsbD 0 = true ∧ releaseOk (cmd 1) B 0 (cmd 1).seq = true ∧
    releaseOk { cmd 1 with seq := 9, cores := [(0, { record := [e1] })] } B 0 9 = false := by decide +kernel

theorem witness_halt : activeLanes plain base ≠ [] ∧ base.cur.grp < base.curBlock.groups ∧ base.curBlock.groups ≤ 32 ∧
    base.curBlock.haltMask.getLsbD base.cur.grp = false := by decide +kernel

def evented : State := withBlock { block0 with grps := [(0, { active := true, event := true })] }
theorem witness_wfe_goes_on : activeLanes plain evented ≠ [] ∧ evented.curGrp.event = true := by decide +kernel
theorem witness_wfe_waits : activeLanes plain base ≠ [] ∧ base.curGrp.event = false := by decide +kernel
/-- SEV where a group waits, and where none does. -/
def sleeping : State := withBlock { block0 with groups := 2, lanes := [(0, lane0), (1, lane1), (33, { lane0 with park := .wfe })],
                                                grps := [(0, { active := true }), (1, { active := true })] }
theorem witness_sev : activeLanes plain sleeping ≠ [] ∧ (∃ j < 32, (sleeping.lane B (32 * 1 + j)).park = .wfe) ∧
    ¬ ∃ j < 32, (sleeping.lane B (32 * 0 + j)).park = .wfe := by decide +kernel

def stepping_ : State := withBlock { block0 with step := { deadline := 100, total := 4, opened := true } }
theorem witness_steps : activeLanes { plain with sa := 4, sb := 5 } base ≠ [] ∧
    (activeLanes { plain with sa := 4, sb := 5 } base).head? = some 0 ∧
    stepping_.curBlock.step.opened = true ∧ base.curBlock.step.opened = false ∧
    ¬ (base.die 0).boundary < base.now / 10000 ∧ (({ stepping_ with now := 10000 } : State).die 0).boundary < 10000 / 10000 := by
  decide +kernel

theorem witness_debug_post : (activeLanes plain base).length + (base.die (base.cur.pier / 64)).eye.outbox.length ≤ 256 := by
  decide +kernel

/-! ## Witnesses: memory instructions -/

/-- Pointers that the lanes form: v6:v7, v10:v11 and v12:v13. -/
def gptr (l : Nat) : Dword := BitVec.ofNat 64 (0x2000 + 4 * l)
def sptr (l : Nat) : Dword := BitVec.ofNat 64 (0x9000000000000000 + 16 * l)
def hptr (l : Nat) : Dword := BitVec.ofNat 64 (0xC000000000000100 + 4 * l)
def gf : Fields := { plain with d := 20, sa := 6, sb := 4 }
def sf : Fields := { plain with d := 20, sa := 10, sb := 4 }
def hf : Fields := { plain with d := 20, sa := 12, sb := 4 }

/-- A load and a store of the global and of the host window. -/
theorem witness_load : modeWaits gf base = false ∧ Reaches gf base false .rd RecordWin gptr ∧ Reaches hf base false .rd RecordWin hptr := by
  unfold Reaches RecordWin; decide +kernel
theorem witness_store : Reaches gf base false .wr RecordWin gptr ∧ Reaches hf base false .wr RecordWin hptr ∧
    (base.core base.cur.pier).record.length + entriesNeeded (base.core base.cur.pier) base.cur.blk
      (gf.ord == 1) ((activeLanes gf base).map (fun l => (l, fibreOf base base.cur.blk l, chunkOf (place base l (gptr l))))) ≤ 512 := by
  unfold Reaches RecordWin; decide +kernel
/-- A record with one free entry takes a store of one chunk. -/
def e0 : Entry := { id := 1, ctx := B, tag := 1, chunk := 0x3000, stores := [] }
theorem witness_store_full :
    (511 : Nat) + entriesNeeded { record := [e0] } B false [(0, 1, 0x2000), (1, 1, 0x2000)] ≤ 512 ∧
    entriesNeeded { record := [e0] } B false [(0, 1, 0x3000)] = 0 ∧
    entriesNeeded { record := [e0] } B true [(0, 1, 0x2000), (1, 1, 0x2000)] = 2 := by
  decide +kernel

/-- Where nothing is outstanding, nothing of a block whose lanes hold nothing back is held back. -/
theorem notHeld {f : Fields} {s : State} {ptr : Nat → Dword} {w : Bool} (hm : s.memops = []) (hg : s.sgreqs = [])
    (hl : s.lres = []) (hd : ∀ d ∈ s.dies, d.2.orrery = [])
    (h : ∀ l ∈ activeLanes f s, (s.lane s.cur.blk l).localOps = [] ∧ (windowOf (ptr l) = .acc → s.curBlock.mq = [])) :
    NotHeld f s ptr w := by
  intro l hl'
  have ho : (s.dies.any fun d => d.2.orrery.any fun e => e.2.arrivals.any fun a => a.req.holds s s.cur.blk l 0) = false := by
    simp only [List.any_eq_false]; intro d hdm; simp [hd d hdm]
  refine ⟨(h l hl').1, fun q => ?_, fun _ q => ?_, (h l hl').2⟩
  · simp only [noAcquire, hm, hg, hl, (h l hl').1, List.any_nil, Bool.not_false, Bool.true_and, Bool.not_eq_true']
    rw [List.any_eq_false]; intro d hdm; simp [hd d hdm]
  · have h0 := (h l hl').1
    rw [readsDone, hm, h0]; rfl

theorem witness_local_load : sf.ord = 0 ∧ Reaches sf base false .rd LocalWin sptr ∧ NotHeld sf base sptr false ∧
    AllPresent sf base sptr ∧ (∀ l ∈ activeLanes sf base, (localRead base base.cur.blk (sptr l) (sf.t.bits / 8)).2 = false) ∧
    activeLanes sf one = [0] ∧ effective sf one 0 false .rd (sf.t.bits / 8) true = .ok (sptr 0) := by
  refine ⟨rfl, ?_, notHeld rfl rfl rfl (by decide +kernel) (by decide +kernel), ?_⟩
  · unfold Reaches LocalWin; decide +kernel
  · unfold AllPresent; decide +kernel

/-- Accumulator rows: lane l's word l of row 0. -/
def af : Fields := { plain with d := 20, sa := 18, sb := 4 }
def aptr (l : Nat) : Dword := BitVec.ofNat 64 (0xB000000000000000 + 4 * l)
def rows : State :=
  withBlock { block0 with lanes := [(0, { lane0 with regs := (regs 0).take 3 ++ [(18, 0), (19, 0xB0000000)] }),
                                    (1, { lane1 with regs := (regs 1).take 3 ++ [(18, 4), (19, 0xB0000000)] })] }

theorem witness_local_store : Reaches sf base false .wr LocalWin sptr ∧ NotHeld sf base sptr true ∧ Released sf base ∧
    (base.core base.cur.pier).record.length ≤ 512 ∧ Reaches af rows false .wr LocalWin aptr ∧ NotHeld af rows aptr true := by
  refine ⟨?_, notHeld rfl rfl rfl (by decide +kernel) (by decide +kernel), ?_, by decide +kernel, ?_,
    notHeld rfl rfl rfl (by decide +kernel) (by decide +kernel)⟩
  · unfold Reaches LocalWin; decide +kernel
  · unfold Released; decide +kernel
  · unfold Reaches LocalWin; decide +kernel
/-- The same for cluster-shared memory, at its last word. -/
def cf : Fields := { plain with sa := 16, sb := 4, imm := 0xFFC }
def clustered : State :=
  oneBlock { block0 with lanes := [(0, { lane0 with regs := [(16, 0), (17, 0xA0000000)] }), (1, lane1)] }
theorem witness_cluster_store : effective cf clustered 0 false .wr 4 true = .ok 0xA000000000000FFC ∧
    windowOf 0xA000000000000FFC = .cluster := by decide +kernel

theorem witness_atomic : modeWaits gf base = false ∧
    Reaches gf base true .at_ (fun p => windowOf p = .global ∨ windowOf p = .priv ∨ windowOf p = .host ∧ HostAtomic gf .atom 0) gptr ∧
    Reaches hf base true .at_ (fun p => windowOf p = .global ∨ windowOf p = .priv ∨ windowOf p = .host ∧ HostAtomic hf .atom 0) hptr := by
  unfold Reaches HostAtomic; decide +kernel
theorem witness_atomic_kinds : (∃ mk, AtomForm gf mk .atom 0 true) ∧ (∃ mk, AtomForm gf mk .cas 0 false) ∧
    ∃ mk, AtomForm gf mk .red 0 true := by
  unfold AtomForm; exact ⟨⟨.atom, .inl ⟨rfl, rfl, rfl, rfl⟩⟩, ⟨.atomcas, by simp⟩, ⟨.red, .inr (.inr ⟨rfl, rfl, rfl, rfl⟩)⟩⟩
/-- An atomic on the accumulators, and one on the host that the host does not perform. -/
theorem witness_atomic_refused : Reaches af rows true .at_ (fun p => windowOf p = .acc ∨ windowOf p = .host ∧ ¬ HostAtomic af .atom 0) aptr ∧
    Reaches hf base true .at_ (fun p => windowOf p = .acc ∨ windowOf p = .host ∧ ¬ HostAtomic hf .atom 1) hptr ∧
    base.curRec.handler ≠ 0 ∧ inHandler base.curBlock base.cur.grp = false ∧
    (∀ l ∈ activeLanes hf base, (base.lane base.cur.blk l).hmode = false) ∧ (activeLanes hf base).head? = some 0 := by
  unfold Reaches HostAtomic; decide +kernel
theorem witness_local_atomic : Reaches sf base true .at_ (fun p => windowOf p = .scratch ∨ windowOf p = .cluster) sptr ∧
    NotHeld sf base sptr true ∧ AllPresent sf base sptr ∧ (localRead base B (sptr 0) 4).2 = false ∧
    windowOf (sptr 0) = .scratch := by
  refine ⟨?_, notHeld rfl rfl rfl (by decide +kernel) (by decide +kernel), ?_, by decide +kernel⟩
  · unfold Reaches; decide +kernel
  · unfold AllPresent; decide +kernel

/-- A load and a store behind an access that the core holds back. -/
def holding : State :=
  oneBlock { block0 with lanes := [(0, { lane0 with localOps := [{ id := 0, kind := .st, ptr := 0x9000000000000000, t := .b32, d := 0, pc := 0 }] }),
                                   (1, lane1)] }
theorem witness_held : activeLanes sf holding = [0] ∧ effective sf holding 0 false .rd 4 true = .ok (sptr 0) ∧
    effective sf holding 0 false .wr 4 true = .ok (sptr 0) ∧ LocalWin (sptr 0) ∧ AllPresent sf holding (fun _ => sptr 0) ∧
    (holding.lane holding.cur.blk 0).localOps ≠ [] ∧ (holding.core holding.cur.pier).record.length ≤ 512 := by
  unfold LocalWin AllPresent; decide +kernel

/-- Watchpoint 0 on a word of lane 1, watchpoint 1 on one of lane 0: the pointer that is reported is lane 1's. -/
def watched0 : State :=
  { base with piers := [(0, { dbgctl := 0x30, wpa := [(0, 0x2004), (1, 0x2000)], wpl := [(0, 0x3000003), (1, 0x3000003)] })] }
theorem witness_watch : (∀ a ∈ accesses gf base gptr, a.1 ∈ watched0.curLanes) ∧
    (watched watched0 (accesses gf base gptr) 4 true false).head? = some (1, 0x2004) ∧
    (watched watched0 (accesses gf base gptr) 4 true false).map (·.1) = [1, 0] ∧ watched0.curRec.handler ≠ 0 ∧
    (∀ l ∈ [1, 0], (watched0.lane B l).hmode = false) ∧ inHandler watched0.curBlock 0 = false ∧ NoWatch base ∧
    (watched base (accesses gf base gptr) 4 true false) = [] := by unfold NoWatch; decide +kernel
theorem witness_watch_waits : (∀ a ∈ accesses gf otherHandles gptr, a.1 ∈ otherHandles.curLanes) ∧
    (watched { otherHandles with piers := watched0.piers } (accesses gf otherHandles gptr) 4 true false).head? = some (0, 0x2000) ∧
    inHandler otherHandles.curBlock otherHandles.cur.grp = true := by decide +kernel

def stored : State :=
  { base with
    seq := 9
    cores := [(0, { record := [e1] })] }
theorem witness_rel_goes_on : Released plain base ∧ activeLanes plain base = [0, 1] := by unfold Released; decide +kernel
theorem witness_rel_waits : ¬ Released plain stored := by unfold Released; decide +kernel

/-- A load of lane 0 is outstanding. -/
def loading : State :=
  { one with seq := 9, memops := [{ id := 1, core := 0, blk := B, lane := 0, kind := .load, seq := 1, ptr := 0x2000 }] }
theorem witness_acq_waits : ∀ l ∈ activeLanes plain loading, acquireOk loading loading.cur.pier loading.cur.blk l loading.seq = false :=
  by decide +kernel
theorem witness_acq_done : activeLanes plain one = [0] ∧ acquireOk one one.cur.pier one.cur.blk 0 one.seq = true := by decide +kernel

theorem witness_spcast : ∀ l ∈ activeLanes { plain with d := 2, sa := 5, sub := 2 } base,
    spcast { plain with d := 2, sa := 5, sub := 2 } base l (base.src l) = some 0x9000000000000002 := by decide +kernel

/-- An object of 16 bytes that may be read, written and the place of atomics, at 0x2000; its offsets 0 and 16 are the bounds of OBJPTR. -/
def objects : State :=
  { base with
    mem := [(0x9001, 0x20), (0x9008, 0x10), (0x9010, 0x70)] ++ tableMem,
    launches := [(1, { launch1 with rec_ := { launchRec with objCount := 1 } })] }
def obj0 : Obj := { base := 0x2000, size := 16, attr := 0x70 }
theorem witness_objptr : objWaits objects 0 = false ∧
    (∀ l ∈ activeLanes plain objects, objEntry (objTouched objects 0) l 0 = some obj0) ∧
    (∀ l ∈ activeLanes plain objects, (0 : Int) ≤ ((objects.src l).reg 8).toNat + (0 : Word).toInt ∧
      (((objects.src l).reg 8).toNat : Int) + (0 : Word).toInt ≤ obj0.size) ∧
    ∀ l ∈ activeLanes plain objects, (0 : Int) ≤ ((objects.src l).reg 5).toNat + (14 : Word).toInt ∧
      (((objects.src l).reg 5).toNat : Int) + (14 : Word).toInt ≤ obj0.size := by decide +kernel

/-- A load, a store, an atomic and a line of mode 1 through that object, whose table's leaf stands at 0x30000. -/
def of_ : Fields := { plain with d := 20, sa := 8, sb := 4, sub := 8, imm := 4 }
theorem witness_mode1 : of_.mode1 = true ∧ gf.mode1 = false ∧ tableLeaf objects 0 = some 0x30000 ∧ 0 < objects.curRec.objCount ∧
    modeWaits of_ objects = false ∧
    Reaches of_ (modeTouched of_ objects) false .rd RecordWin (fun _ => 0x2004) ∧
    Reaches of_ (modeTouched of_ objects) false .wr RecordWin (fun _ => 0x2004) ∧
    Reaches { of_ with imm := 0 } (modeTouched of_ objects) true .at_ (fun p => windowOf p = .global ∨ windowOf p = .priv)
      (fun _ => 0x2000) ∧
    ∀ l ∈ activeLanes of_ objects, effective of_ (modeTouched of_ objects) l false .rd 1 false = .ok 0x2004 := by
  unfold Reaches RecordWin; decide +kernel
/-- An entry past the table's end, and a budget of memory reads that is spent. -/
theorem witness_table_reads : base.curRec.objCount ≤ 0 ∧ (0 : Nat) < objects.curRec.objCount ∧
    objWaits { objects with parts := [(0, { part0 with inForce := { part0.inForce with limits := [1] }, use := [(0, 5)] })] } 0 = true := by
  decide +kernel
/-- A U bit that is on its way. -/
theorem witness_use_mark : (0x30000 : Nat) ∈ ({ base with uses := [0x30000] } : State).uses ∧ linkWaits base 0x30000 = false ∧
    (∀ c ∈ base.cores, ∀ o ∈ c.2.owned, o.2 ≠ 0x30000 / 4) ∧ (rdNat base.mem 0x30000 8).testBit 0 = true ∧
    (rdNat base.mem 0x30000 8).testBit 1 = true := by decide +kernel

theorem witness_line_pointers : (∀ l ∈ activeLanes gf base, effective gf base l false .rd 1 false = .ok (gptr l)) ∧
    (∀ l ∈ activeLanes sf base, effective sf base l false .rd 1 false = .ok (sptr l)) ∧ isRecordWin (gptr 0) = true ∧
    physLine base base.curTag (place base 0 (gptr 0)) ≠ none := by
  decide +kernel

/-! ## Witnesses: masked groups, convergence registers, fibres -/

/-- Both lanes present the mask of both. -/
def grpF : Fields := { plain with d := 20, sa := 4, sc := 5, i := true, imm := 3 }
theorem witness_instance : WholeInstance grpF base 3 ∧ (Instr.gshfl grpF).wf = true ∧ (Instr.gred { grpF with sc := 0 }).wf = true ∧
    (Instr.gscan { grpF with sc := 0 }).wf = true ∧ (Instr.gmatch { grpF with sc := 0 }).wf = true ∧
    WholeInstance { grpF with sc := 0 } base 3 := by unfold WholeInstance; decide +kernel
/-- GVOTE's modes 0 and 3. -/
theorem witness_votes : WholeInstance { grpF with d := 2, sa := 3, sc := 0 } base 3 ∧
    (Instr.gvote { grpF with d := 2, sa := 3, sc := 0 }).wf = true ∧ ({ grpF with d := 2, sa := 3, sc := 0 } : Fields).subBits 33 32 ≠ 3 ∧
    WholeInstance { grpF with sa := 3, sc := 0, sub := 3 } base 3 ∧ (Instr.gvote { grpF with sa := 3, sc := 0, sub := 3 }).wf = true ∧
    ({ grpF with sa := 3, sc := 0, sub := 3 } : Fields).subBits 33 32 = 3 := by unfold WholeInstance; decide +kernel

/-- A third live lane, which the mask names too, is not of the batch. -/
def three : State := withBlock { block0 with lanes := [(0, lane0), (1, lane1), (2, { lane0 with pc := 4 })] }
def waitF : Fields := { grpF with imm := 7 }
theorem witness_instance_waits : activeLanes waitF three ≠ [] ∧ (∀ l ∈ activeLanes waitF three, rdB32 waitF (three.src l) = 7) ∧
    (∀ j < 32, three.cur.lanes.getLsbD j = true ∧ (7 : Word).getLsbD j = true ↔ 32 * three.cur.grp + j ∈ activeLanes waitF three) ∧
    lanesMask (activeLanes waitF three) ≠ 7 ∧ (∀ i ∈ three.curGrp.insts, i.mask &&& 7 = 0) ∧
    (∀ i ∈ three.curGrp.insts, ∀ j < 32, i.mask.getLsbD j = true → (three.lane three.cur.blk (32 * three.cur.grp + j)).live = true) ∧
    ∀ j < 32, (7 : Word).getLsbD j = true → (three.lane three.cur.blk (32 * three.cur.grp + j)).live = true := by decide +kernel

/-- No participant owes a local store; and one of a whole instance of GBAR does. -/
def owing : State := withBlock { block0 with
  lanes := [(0, { lane0 with localOps := [{ id := 0, kind := .st, ptr := 0x9000000000000000, t := .b32, d := 0, pc := 0 }] }), (1, lane1)] }
theorem witness_owes : (∀ l ∈ activeLanes grpF base, (base.lane base.cur.blk l).owesAny = false) ∧
    (∀ l ∈ activeLanes grpF base, (base.lane base.cur.blk l).due = none) ∧
    (∃ l ∈ activeLanes grpF owing, (owing.lane owing.cur.blk l).owesAny = true) ∧
    (∀ l ∈ activeLanes grpF owing, rdB32 grpF (owing.src l) = 3) ∧
    ∀ j < 32, owing.cur.lanes.getLsbD j = true ∧ (3 : Word).getLsbD j = true ↔ 32 * owing.cur.grp + j ∈ activeLanes grpF owing := by
  decide +kernel

/-- Lanes with a row word in v20, at a register that counts `n` signatures. -/
def signing (n : Nat) (x : State) : State :=
  { x with blocks := [(B, { block0 with
      lanes := [(0, { lane0 with regs := [(20, 0x10000)] }), (1, { lane1 with regs := [(20, 0x10000)] })]
      cvs := [(0, { count := n })] })] }
def rowF : Fields := { plain with sa := 20, sb := 20 }
def zeroF : Fields := { plain with sa := 8 }

theorem first_absurd {o : Option Signature} {g : Signature} {p : Prop} (h : o.isNone = true) (hg : o = some g) : p := by
  subst hg; cases h
theorem aligned_all {ws : List Word} (h : ws.all (fun w => w.toNat % 128 == 0) = true) : ∀ w ∈ ws, w.toNat % 128 = 0 :=
  fun w hw => by simpa using List.all_eq_true.mp h w hw

theorem signing_first : ((signing 3 base).curBlock.cv 0).first.isNone = true ∧ ((signing 1 one).curBlock.cv 0).first.isNone = true :=
  by decide +kernel

/-- Their block is resident, and no save of it is under way. -/
theorem witness_resident : ∃ p, (signing 1 one).curBlock.place = .resident p := ⟨0, by decide +kernel⟩

/-- For every signing instruction two lanes that sign a register of count 3: the round stays open. -/
theorem witness_signatures : ∀ x ∈ signings, ∃ f, MaySign x f (signing 3 base) (x.vals f (signing 3 base) 0) ∧
    ((signing 3 base).curBlock.cv (x.cv f)).signed + (activeLanes f (signing 3 base)).length <
      ((signing 3 base).curBlock.cv (x.cv f)).count := by
  intro x hx
  simp only [signings, List.mem_cons, List.not_mem_nil, or_false] at hx
  unfold MaySign
  rcases hx with rfl | rfl | rfl | rfl | rfl | rfl | rfl | rfl | rfl | rfl | rfl <;> dsimp only
  all_goals first
    | refine ⟨rowF, ⟨by decide +kernel, by decide +kernel, fun l hl => ⟨?_, by revert l; decide +kernel⟩,
        fun g hg => first_absurd signing_first.1 hg⟩, by decide +kernel⟩
      first
        | trivial
        | exact aligned_all (by revert l; decide +kernel)
        | exact ⟨by revert l; decide +kernel, aligned_all (by revert l; decide +kernel)⟩
        | (revert l; decide +kernel)
    | exact ⟨zeroF, ⟨by decide +kernel, by decide +kernel, by decide +kernel,
        fun g hg => first_absurd signing_first.1 hg⟩, by decide +kernel⟩

/-- For every signing instruction one lane that completes a round of a register of count 1. -/
theorem witness_round : ∀ x ∈ signings, ∃ f, MaySign x f (signing 1 one) (x.vals f (signing 1 one) 0) ∧
    activeLanes f (signing 1 one) = [0] ∧
    ((signing 1 one).curBlock.cv (x.cv f)).signed + 1 = ((signing 1 one).curBlock.cv (x.cv f)).count ∧
    (signing 1 one).curBlock.mq.length < 32 ∧ (signing 1 one).curBlock.mqFull = [] ∧ 0 < 32 * (signing 1 one).curBlock.groups := by
  intro x hx
  simp only [signings, List.mem_cons, List.not_mem_nil, or_false] at hx
  unfold MaySign
  rcases hx with rfl | rfl | rfl | rfl | rfl | rfl | rfl | rfl | rfl | rfl | rfl <;> dsimp only
  all_goals first
    | refine ⟨rowF, ⟨by decide +kernel, by decide +kernel, fun l hl => ⟨?_, by revert l; decide +kernel⟩,
        fun g hg => first_absurd signing_first.2 hg⟩, by decide +kernel⟩
      first
        | trivial
        | exact aligned_all (by revert l; decide +kernel)
        | exact ⟨by revert l; decide +kernel, aligned_all (by revert l; decide +kernel)⟩
        | (revert l; decide +kernel)
    | exact ⟨zeroF, ⟨by decide +kernel, by decide +kernel, by decide +kernel,
        fun g hg => first_absurd signing_first.2 hg⟩, by decide +kernel⟩

/-- CVSET at its greatest count, and CVWAIT for each kind of last round. -/
theorem witness_cvset : activeLanes { plain with i := true, imm := 1024 } base ≠ [] ∧ base.curBlock.accRows ≠ 0 ∧ 1024 ≤ 1024 ∧
    (∀ l ∈ activeLanes { plain with i := true, imm := 1024 } base,
      (rdB32 { plain with i := true, imm := 1024 } (base.src l)).toNat = 1024) ∧ (base.curBlock.cv 0).signed = 0 := by
  decide +kernel
def signedState (r : RoundState) : State :=
  withBlock { block0 with lanes := [(0, { lane0 with signed := [(2, { round := 1, st := r })] }), (1, lane1)] }
theorem witness_cvwait : ∀ r ∈ [RoundState.never, .pending, .issued, .discarded],
    (signedState r).curBlock.accRows ≠ 0 ∧ ((((signedState r).lane B 0).sign 2).st = r) := by decide +kernel

/-- A fibre spawned into an empty lane of its group; and a group without one. -/
theorem witness_spawn : activeLanes plain one = [0] ∧ TargetsOk plain one (fun _ => immTarget plain one.cur.pc) ∧
    emptyLane one.curBlock 0 = some 2 := by unfold TargetsOk; decide +kernel
theorem witness_spawn_full : emptyLane { block0 with lanes := (List.range 32).map (fun l => (l, lane0)) } 0 = none := by
  decide +kernel

theorem witness_barrier : (∀ l ∈ activeLanes plain base, l < 32 * base.curBlock.groups) ∧ activeLanes plain base ≠ [] ∧
    (∀ l < 32 * base.curBlock.groups, (base.lane B l).live = true →
      (l ∈ activeLanes plain base ∨ (base.lane B l).park = .blkbar) ∧ (base.lane B l).owesAny = false) ∧
    ¬ (∀ l < 32 * three.curBlock.groups, (three.lane B l).live = true →
      l ∈ activeLanes plain three ∨ (three.lane B l).park = .blkbar) := by decide +kernel

/-! ## Witnesses: named groups -/

def handle0 : Handle := { live := true, die := 0, idx := 0, gen := 3, member := 0, next := 5 }
def handle1 : Handle := { handle0 with member := 1 }
def member (l : Nat) : Member := { blk := B, lane := l, h := 0, first := 4, next := 5 }
/-- A group of two members at phase 5: phase 4 has completed. -/
def group0 : SgEntry :=
  { used := true, name := 5, nsid := 0, gen := 3, phase := 5, members := [(0, member 0), (1, member 1)] }
def named (x : State) : State :=
  { x with
    blocks := [(B, { block0 with
      lanes := [(0, { lane0 with handles := [(0, handle0)] }), (1, { lane1 with handles := [(0, handle1)] })] })]
    dies := [(0, { root := 0x10000, orrery := [(0, group0)] })] }

theorem witness_join : ∀ l ∈ activeLanes plain base, (hnd plain base l).live = false := by decide +kernel
theorem witness_arrive : ∀ l ∈ activeLanes plain (named base), HandleGood plain (named base) l := by
  unfold HandleGood; decide +kernel
/-- A handle whose group is gone: its entry has another GEN. -/
def stale_ : State := { named one with dies := [(0, { root := 0x10000, orrery := [(0, { group0 with gen := 4 })] })] }
theorem witness_stale : activeLanes plain stale_ = [0] ∧ (hnd plain stale_ 0).live = true ∧ (hnd plain stale_ 0).joining = false ∧
    sgCurrent stale_ (hnd plain stale_ 0) = false ∧ stale_.curLaunch.used = true ∧ stale_.curLaunch.complete = false := by
  decide +kernel
/-- v8 is phase 0: 2^31 phases are before PHASE, so phase 5 itself waits and phase 4 is done. -/
def ph5 : State := { named base with blocks := [(B, { block0 with
  lanes := [(0, { lane0 with handles := [(0, handle0)], regs := [(8, 5)] }),
            (1, { lane1 with handles := [(0, handle1)], regs := [(8, 5)] })] })] }
theorem witness_sgwait_parks : ∀ l ∈ activeLanes { plain with sa := 8 } ph5,
    (hnd { plain with sa := 8 } ph5 l).live = true ∧ (hnd { plain with sa := 8 } ph5 l).joining = false ∧
    sgCurrent ph5 (hnd { plain with sa := 8 } ph5 l) = true ∧
    phaseDone (sgEntry ph5 (hnd { plain with sa := 8 } ph5 l)).phase ((ph5.src l).reg 8) = false := by decide +kernel
def ph4 : State := { named one with blocks := [(B, { block0 with
  lanes := [(0, { lane0 with handles := [(0, handle0)], regs := [(8, 4)] }), (1, lane1)] })] }
theorem witness_sgwait_goes_on : activeLanes { plain with sa := 8 } ph4 = [0] ∧ (hnd { plain with sa := 8 } ph4 0).live = true ∧
    (hnd { plain with sa := 8 } ph4 0).joining = false ∧ sgCurrent ph4 (hnd { plain with sa := 8 } ph4 0) = true ∧
    phaseDone (sgEntry ph4 (hnd { plain with sa := 8 } ph4 0)).phase ((ph4.src 0).reg 8) = true ∧
    acquireOk ph4 ph4.cur.pier ph4.cur.blk 0 ph4.seq = true := by decide +kernel

/-! ## Witnesses: copies -/

/-- An image of one dimension of 4 words in v20 to v25, and the shape it gives. -/
def shape4 : Shape := { esz := 4, dims := [(4, 4)] }
def imaged : State := withBlock { block0 with
  lanes := [(0, { lane0 with regs := [(20, 0x41), (22, 4), (24, 4)] }), (1, lane1)] }
theorem witness_shape : (activeLanes { plain with sa := 20 } imaged).head? = some 0 ∧
    imageHead ((imaged.src 0).reg 20) ((imaged.src 0).reg 21) = some (1, 4) ∧ 20 + 4 * 1 + 1 < imaged.curBlock.window ∧
    shapeLimits { esz := 4, dims := imageDims 1 ((imaged.src 0).words 22 4) } = true := by decide +kernel

/-- A block with that shape in slots 0 and 1, and in v30:v31 an aligned pointer. -/
def copying : State := withBlock { block0 with
  lanes := [(0, { lane0 with regs := [(6, 0x2000), (11, 0x90000000), (12, 0x3000)] }), (1, { lane1 with regs := [(6, 0x2100), (10, 0x80), (11, 0x90000000), (12, 0x3100)] })]
  shapes := [(0, shape4), (1, shape4)] }
/-- From the global to the scratchpad window. -/
def cpF : Fields := { plain with d := 10, sa := 6, sub := 0x08, imm := 0x10 }
theorem witness_cpt : JobRoom cpF copying ∧ (∀ l ∈ activeLanes cpF copying, shapeAt (copying.src l).shapes (cpF.immBits 3 0) = some shape4 ∧
      shapeAt (copying.src l).shapes (cpF.immBits 7 4) = some shape4) ∧ shape4.count = shape4.count ∧
    ∀ l ∈ activeLanes cpF copying, sidesFault copying copying.cur.blk l
      [sideD cpF copying shape4.span shape4.esz l, sideA cpF copying shape4.span shape4.esz l] none = none := by
  unfold JobRoom; decide +kernel
/-- Four words by indices at v12:v13. -/
def gthF : Fields := { plain with d := 10, sa := 6, sb := 12, sub := 0x08, imm := 0x02000004 }
theorem witness_gather : JobRoom gthF copying ∧ ∀ l ∈ activeLanes gthF copying, sidesFault copying copying.cur.blk l
    [sideD gthF copying (4 * 4) 4 l, sideA gthF copying 4 4 l] (some (pairB gthF copying l, 4, 4)) = none := by
  unfold JobRoom; decide +kernel
def sctF : Fields := { gthF with d := 6, sa := 10, sub := 0x01 }
theorem witness_scatter : JobRoom sctF copying ∧ ∀ l ∈ activeLanes sctF copying, sidesFault copying copying.cur.blk l
    [sideD sctF copying 4 4 l, sideA sctF copying (4 * 4) 4 l] (some (pairB sctF copying l, 4, 4)) = none := by
  unfold JobRoom; decide +kernel
theorem witness_fill : (∀ l ∈ activeLanes cpF copying,
      shapeAt (copying.src l).shapes (({ cpF with imm := 0 } : Fields).immBits 3 0) = some shape4) ∧ fillAligned 4 5 = true ∧
    fillAligned 16 4 = true ∧ ∀ l ∈ activeLanes cpF copying,
      sidesFault copying copying.cur.blk l [sideD cpF copying shape4.span shape4.esz l] none = none := by decide +kernel
/-- The last free place of a pier's jobs. -/
theorem witness_chain_job : JobRoom cpF copying ∧ (∀ l ∈ activeLanes cpF copying,
    codeMatches 0 (pairA cpF copying l) = true ∧ (pairA cpF copying l).toNat % 64 = 0) ∧
    (activeLanes cpF copying).getLast? = some 1 := by unfold JobRoom; decide +kernel

/-- Batches: none, all 16 places taken, and 3 unfinished. -/
def batched (n : Nat) (x : State) : State := { x with blocks := [(B, { block0 with
  lanes := [(0, { lane0 with batches := (List.range n).map (fun k => (BitVec.ofNat 32 (k + 1), 1, false)) }), (1, lane1)] })] }
theorem witness_seal : (∀ l ∈ activeLanes plain (batched 15 base), ((batched 15 base).lane (batched 15 base).cur.blk l).unfinished < 16) ∧
    ∃ l ∈ activeLanes plain (batched 16 base), 16 ≤ ((batched 16 base).lane (batched 16 base).cur.blk l).unfinished := by
  decide +kernel
theorem witness_cpwait_parks : ∀ l ∈ activeLanes { plain with imm := 2 } (batched 3 one),
    ({ plain with imm := 2 } : Fields).immBits 4 0 < ((batched 3 one).lane (batched 3 one).cur.blk l).unfinished := by decide +kernel
theorem witness_cpwait_goes_on : activeLanes { plain with imm := 3 } (batched 3 one) = [0] ∧
    ((batched 3 one).lane (batched 3 one).cur.blk 0).unfinished ≤ ({ plain with imm := 3 } : Fields).immBits 4 0 ∧
    acquireOk (batched 3 one) (batched 3 one).cur.pier (batched 3 one).cur.blk 0 (batched 3 one).seq = true := by decide +kernel

/-! ## Witnesses: steps of the memory system and of issue -/

/-- A result of lane 0 with two registers and a predicate. -/
def lres0 : LRes := { id := 7, blk := B, lane := 0, regs := [(20, 1), (21, 2)], pred := some (14, true), flags := 3 }
def resulting : State := { base with lres := [lres0] }
theorem witness_result : resAt resulting 7 = some lres0 ∧ (resulting.lane lres0.blk lres0.lane).live = true ∧
    (lres0.regs.map (·.1)).Nodup ∧ (resulting.block lres0.blk).place ≠ .saved ∧ lres0.mop = 0 ∧ lres0.acq = none := by decide +kernel
/-- The same of a saved block; the value of a completed phase; and the last share of a matrix operation. -/
def savedRes : State := { resulting with blocks := [(B, { block0 with place := .saved })] }
def phaseRes : LRes := { lres0 with acq := some (3, 0) }
def phased : State := { resulting with lres := [phaseRes], seq := 9 }
def shareRes : LRes := { lres0 with mop := 2 }
def lastShare : State := { resulting with lres := [shareRes] }
theorem witness_result_cases : resAt savedRes 7 = some lres0 ∧ (savedRes.block lres0.blk).place = .saved ∧
    resAt phased 7 = some phaseRes ∧ (phased.block phaseRes.blk).onPier = some 0 ∧ acquireOk phased 0 phaseRes.blk 0 3 = true ∧
    resAt lastShare 7 = some shareRes ∧ (lastShare.block shareRes.blk).place ≠ .saved ∧ (lastShare.block shareRes.blk).mqFull = [] := by
  decide +kernel

/-- An operation of lane 0 at an address of the mapped page. -/
def op0 : MemOp := { id := 1, core := 0, blk := B, lane := 0, kind := .load, seq := 1, ptr := 0x2000, d := 20 }
def opState (m : MemOp) : State := { one with seq := 9, memops := [m], hostPages := [0] }
theorem witness_load_home : opAt (opState op0) 1 = some op0 ∧ op0.kind = .load ∧ Plain op0 ∧ inTurn (opState op0) op0 = true ∧
    spotOf (opState op0) (opTag (opState op0) op0) op0.ptr (opBytes op0) .read = .home 0x2000 leaf ∧
    chunkPoisoned (opState op0) 0x2000 = false ∧ CleanRecord ((opState op0).core op0.core) ∧ loadWaits (opState op0) op0 = false ∧
    fillFor (opState op0) op0 = none ∧
    budgetOk (opState op0) ((opState op0).launch (opTag (opState op0) op0)).part 0 1 = true := by
  unfold Plain CleanRecord; decide +kernel
/-- The same with the line's fill outstanding, which has been paid for. -/
def filled : State := { opState op0 with cores := [(0, { fills := [{ id := 4, line := 64, tag := 1, paid := true }] })] }
theorem witness_load_with_fill : fillFor filled op0 = some { id := 4, line := 64, tag := 1, paid := true } ∧
    FillPaid filled 0 0 { id := 4, line := 64, tag := 1, paid := true } := by unfold FillPaid; decide +kernel
/-- Its bytes stand in the record by another fibre, whose own older load is still outstanding. -/
def buffered : State :=
  { opState op0 with
    memops := [{ op0 with id := 2, lane := 1, seq := 1 }, { op0 with seq := 3 }]
    cores := [(0, { record := [{ id := 1, ctx := B, tag := 1, chunk := 0x2000, stores := [{ lane := 1, fib := 1, seq := 2, be := 15, data := 5 }] }] })] }
theorem witness_load_waits : opAt buffered 1 = some { op0 with seq := 3 } ∧ loadWaits buffered { op0 with seq := 3 } = true := by
  decide +kernel
def opH : MemOp := { op0 with ptr := 0xC000000000000100#64 }
theorem witness_load_host : opAt (opState opH) 1 = some opH ∧ Plain opH ∧ inTurn (opState opH) opH = true ∧
    spotOf (opState opH) (opTag (opState opH) opH) opH.ptr (opBytes opH) .read = .host 0x100 ∧
    CleanRecord ((opState opH).core opH.core) ∧ loadWaits (opState opH) opH = false ∧ fillFor (opState opH) opH = none ∧
    budgetOk (opState opH) 0 5 1 = true := by unfold Plain CleanRecord; decide +kernel
def opQ : MemOp := { op0 with kind := .acq }
theorem witness_acquire : opAt (opState opQ) 1 = some opQ ∧ ((opState opQ).block opQ.blk).onPier = some opQ.core ∧
    noAcquire (opState opQ) opQ.blk opQ.lane opQ.seq = true ∧
    acquireOk (opState opQ) opQ.core opQ.blk opQ.lane opQ.seq = true := by decide +kernel

/-- Fills of a host line and of line 64, whose copy stands in its home slice. -/
def fillH : Fill := { line := (2 ^ 64 + 0xC000000000000000) / 128 }
def fillG : Fill := { line := 64, tag := 1 }
def filling (f : Fill) : State :=
  { base with cores := [(0, { fills := [f] })], piers := [(homeSlice 0x2000, { slice := [(64, 0)] })], hostPages := [0] }
theorem witness_fill_host : ((filling fillH).core 0).fills[0]? = some fillH ∧ windowOf (keyPtr (32 * fillH.line)) = .host ∧
    FillPaid (filling fillH) 0 5 fillH ∧ LineRoom ((filling fillH).core 0) fillH.line ∧
    l1On (filling fillH) 0 = true ∧ fillH.dropped = false ∧ fillH.l1 = true ∧ (filling fillH).hostPages.contains
      (hostPageKey (keyPasid (32 * fillH.line)) (ptrOff56 (keyPtr (32 * fillH.line)))) = true := by
  unfold FillPaid LineRoom; decide +kernel
theorem witness_fill_global : ((filling fillG).core 0).fills[0]? = some fillG ∧ windowOf (keyPtr (32 * fillG.line)) ≠ .host ∧
    xlatGlobal (filling fillG) ((filling fillG).launch fillG.tag).part none (keyPtr (32 * fillG.line)) 1 .read = .ok 0x2000 leaf ∧
    inSlice (filling fillG) 0x2000 = true ∧ LineRoom ((filling fillG).core 0) fillG.line ∧ l1On (filling fillG) 0 = true ∧
    fillG.dropped = false ∧ fillG.l1 = true := by unfold LineRoom; decide +kernel
/-- A fill of the home slice alone, and one of a core whose L1 has no power. -/
theorem witness_fill_nothing : ({ fillG with l1 := false } : Fill).l1 = false ∧
    l1On { base with cores := [(0, { off := true, fills := [fillG] })] } 0 = false := by decide +kernel

/-- An entry with its last word granted, and one of the host window. -/
def store1 : Contribution := { lane := 0, seq := 1, be := beMask 60 4, data := 5 }
def drain0 : Entry := { id := 1, ctx := B, tag := 1, chunk := 0x2000, stores := [store1] }
def drainH : Entry := { drain0 with chunk := 0xC000000000000100#64 }
def draining (e : Entry) (own : Tbl Nat) : State :=
  { base with cores := [(0, { record := [e], owned := own })], hostPages := [0], seq := 9 }
theorem witness_drain : findEntry (draining drain0 [(0x80F, 0x80F)]) 0 1 = some drain0 ∧
    drainOk (draining drain0 [(0x80F, 0x80F)]) 0 drain0 = true ∧ windowOf drain0.chunk ≠ .host ∧
    (∀ a ∈ drainActs (draining drain0 [(0x80F, 0x80F)]) 0 drain0 0x2000 leaf.pol,
      a.2 = 0 ∨ budgetOk (draining drain0 [(0x80F, 0x80F)]) (entryPart (draining drain0 [(0x80F, 0x80F)]) 0 drain0) a.1 1 = true) ∧
    entryPlace (draining drain0 [(0x80F, 0x80F)]) 0 drain0 = .ok 0x2000 leaf ∧ leaf.addr ≠ 0 ∧
    unownedWords (draining drain0 [(0x80F, 0x80F)]) 0 drain0 0x2000 = [] ∧
    tfind (drain0.key (draining drain0 [(0x80F, 0x80F)]) + 15) ((draining drain0 [(0x80F, 0x80F)]).core 0).owned = some 0x80F := by
  decide +kernel
/-- A granted entry drains where it was granted, whatever the tables now say; one outside the leases is refused. -/
def grantedE : Entry := { drain0 with grants := [(15, { word := 0x80F })] }
def outside : Entry := { drain0 with chunk := 0x900000 }
theorem witness_drain_granted : entryPlace (draining grantedE [(0x80F, 0x80F)]) 0 grantedE = .ok 0x2000 noLeaf ∧ noLeaf.addr = 0 ∧
    drainOk (draining outside []) 0 outside = true ∧
    entryPlace (draining outside []) 0 outside = .fault codeLease 6 ∧ ((draining outside []).launch outside.tag).used = true := by
  decide +kernel
theorem witness_drain_host : findEntry (draining drainH []) 0 1 = some drainH ∧ drainOk (draining drainH []) 0 drainH = true ∧
    windowOf drainH.chunk = .host ∧ (∀ i ∈ drainH.bytes, inLease ((draining drainH []).launch 1).rec_ (drainH.chunk.toNat + i) = true) ∧
    (draining drainH []).hostPages.contains (hostPageKey 0 (ptrOff56 drainH.chunk)) = true ∧
    budgetOk (draining drainH []) 0 5 1 = true := by decide +kernel

/-- A request for a word that core 4 owns; its revoke, and the acknowledgement. -/
def asking : Entry := { drain0 with requested := 0x8000 }
def contended : State :=
  { draining asking [] with dir := [(0x80F, 4)]
                            revokes := [{ id := 3, core := 4, word := 0x80F, reply := (0, 1) }]
                            acks := [{ id := 5, core := 0, entry := 1 }] }
theorem witness_ownership : findEntry contended 0 1 = some asking ∧ asking.requested.getLsbD 15 = true ∧
    entryXlat contended 0 asking (asking.bytes.filter (fun i => i / 4 == 15)) = .ok 0x2000 leaf ∧
    tfind (0x2000 / 4 + 15) contended.dir = some 4 := by decide +kernel
theorem witness_revoke : contended.revokes.find? (fun x => x.id == 3) = some { id := 3, core := 4, word := 0x80F, reply := (0, 1) } ∧
    contended.acks.find? (fun x => x.id == 5) = some { id := 5, core := 0, entry := 1 } := by decide +kernel

def opA : MemOp := { op0 with kind := .cas, b := [0, 7] }
theorem witness_atomic_home : opAt (opState opA) 1 = some opA ∧ opA.kind ≠ .load ∧ opA.kind ≠ .acq ∧ Plain opA ∧
    windowOf opA.ptr ≠ .host ∧ atomicReady (opState opA) opA = true ∧
    spotOf (opState opA) (opTag (opState opA) opA) opA.ptr (opBytes opA) .atomic = .home 0x2000 leaf ∧
    chunkPoisoned (opState opA) 0x2000 = false ∧ Unowned (opState opA) (physWords 0x2000 (opBytes opA)) ∧
    budgetOk (opState opA) 0 1 1 = true ∧ budgetOk (opState opA) 0 3 1 = true ∧ budgetOk (opState opA) 0 0 1 = true := by
  unfold Plain Unowned; decide +kernel
def opAH : MemOp := { opH with kind := .atom, b := [1] }
theorem witness_atomic_host : opAt (opState opAH) 1 = some opAH ∧ opAH.kind ≠ .load ∧ opAH.kind ≠ .acq ∧ Plain opAH ∧
    windowOf opAH.ptr = .host ∧ atomicReady (opState opAH) opAH = true ∧
    spotOf (opState opAH) (opTag (opState opAH) opAH) opAH.ptr (opBytes opAH) .atomic = .host 0x100 ∧
    budgetOk (opState opAH) 0 5 1 = true := by unfold Plain; decide +kernel

theorem witness_host_write : Unowned base (physWords 0x2000 64) ∧ Unowned contended (physWords 0x2040 64) ∧
    linkWaits base 0x2000 = false ∧ HostFree base 0x2000 64 ∧ frameLost base 0x2000 = false := by
  unfold Unowned HostFree; decide +kernel

/-- A frame that a leaf maps: its page stands, and its page migrates. -/
def mapped (m : Byte) : State :=
  { base with mem := [(0x10000, 0x01), (0x10002, 0x02), (0x20000, 0x01), (0x20002, 0x03), (0x30000, 0x0F), (0x30001, m)] }
/-- A package at position 1 with no fabric port to the dies of position 0, and an earlier write of the host that waits. -/
def linkDown : State :=
  { base with fabric := (List.range 8).map (fun i => (i, { up := false })), package := { base.package with nodePos := 1 } }
def hostBehind : State := { base with cxlReqs := [{ id := 1, addr := 0x4000, bytes := some [1], size := 0 }] }
theorem witness_host_pages : (frameLeaf (mapped 0x02) 0x2000).any (fun x => x.1 == 0 && !x.2.m) = true ∧
    budgetOk (mapped 0x02) 0 1 (mapped 0x02).seq = true ∧ (frameLeaf (mapped 0x03) 0x2000).any (fun x => x.1 == 0 && x.2.m) = true ∧
    frameLeaf State.reset 0x2000 = none ∧ linkWaits linkDown 0x2000 = true ∧ HostFree hostBehind 0x2000 64 ∧
    ¬ HostFree hostBehind 0x3FFF 2 := by unfold HostFree; decide +kernel

/-- A pick with two ready groups. -/
def twoGroups : State := withBlock { block0 with
  groups := 2
  lanes := [(0, lane0), (1, lane1), (32, lane0)]
  grps := [(0, { active := true, lastRun := 5 }), (1, { active := true })] }
theorem witness_pick : twoGroups.run? 0 0 = none ∧ schedGroups twoGroups 0 0 = [(B, 0), (B, 1)] ∧
    (∀ x ∈ schedGroups twoGroups 0 0, (twoGroups.grp x.1 x.2).active = true) ∧
    (∃ x ∈ schedGroups twoGroups 0 0, (candidates twoGroups 0 x.1 x.2).isSome = true) ∧
    candidates twoGroups 0 B 0 = some (.run, [0, 1]) ∧ candidates twoGroups 0 B 1 = some (.run, [32]) := by decide +kernel
/-- A halted group that is stepped. -/
def stepped_ : State :=
  { withBlock { block0 with haltMask := 1, stepGrp := 1 } with piers := [(0, { dbgctl := 0x100 })] }
theorem witness_pick_step : stepped_.run? 0 0 = none ∧ schedGroups stepped_ 0 0 = [(B, 0)] ∧ (stepped_.grp B 0).active = true ∧
    candidates stepped_ 0 B 0 = some (.step, [0, 1]) := by decide +kernel
/-- An active group parked for exactly 64 cycles beside a ready pending one, and a pending one ready for 4,096. -/
def demoting : State := withBlock { block0 with
  groups := 2
  lanes := [(0, { lane0 with park := .wfe }), (32, lane0)]
  grps := [(0, { active := true, parkedFor := 6400 }), (1, { readyFor := 409600 })] }
theorem witness_demote : (demoting.block B).onPier = some 0 ∧ (demoting.grp B 0).active = true ∧
    6400 ≤ (demoting.grp B 0).parkedFor ∧ groupIdle demoting 0 B 0 = true ∧ running demoting B 0 = false ∧
    readyPending demoting 0 (demoting.grp B 0).sched = some (B, 1) := by decide +kernel
theorem witness_promote : (demoting.block B).onPier = some 0 ∧ (demoting.grp B 1).active = false ∧
    1 < (demoting.block B).groups ∧ (candidates demoting 0 B 1).isSome = true ∧
    ((schedGroups demoting 0 (demoting.grp B 1).sched).filter (fun x => (demoting.grp x.1 x.2).active)).length < 8 := by
  decide +kernel
/-- Eight active groups of a scheduler, and a pending one ready for 4,096 cycles. -/
def fullSet : State := withBlock { block0 with
  groups := 9
  lanes := [(256, lane0)]
  grps := (List.range 8).map (fun g => (g, { active := true, entered := g })) ++ [(8, { readyFor := 409600 })] }
theorem witness_promote_full : (fullSet.block B).onPier = some 0 ∧ (fullSet.grp B 8).active = false ∧
    8 < (fullSet.block B).groups ∧ (candidates fullSet 0 B 8).isSome = true ∧
    8 ≤ ((schedGroups fullSet 0 (fullSet.grp B 8).sched).filter (fun x => (fullSet.grp x.1 x.2).active)).length ∧
    409600 ≤ (fullSet.grp B 8).readyFor := by decide +kernel

/-- A run that waits for the refetch of a line of NOPs at 0x3000. -/
def nops : List Byte := oneLine 0
def refetching : State :=
  { base with
    blocks := [(B, { block0 with lanes := [(0, { lane0 with pc := 0x3000 }), (1, { lane1 with pc := 0x3000 })] })]
    runs := [(0, { id := 4, blk := B, grp := 0, lanes := 3, refetch := true })]
    mem := wrBytes tableMem 0x3000 nops }
theorem witness_refetch : refetching.run? 0 0 = some { id := 4, blk := B, grp := 0, lanes := 3, refetch := true } ∧
    (groupLanes 0 3).filter (fun l => laneFree (refetching.lane B l)) = [0, 1] ∧ (refetching.lane B 0).pc = 0x3000 ∧
    budgetOk refetching 0 0 4 = true ∧ l1iOn refetching 0 = true ∧
    xlatGlobal refetching (refetching.launch (refetching.block B).tag).part (some (refetching.launch (refetching.block B).tag).rec_)
      (pcLine 0x3000) 64 .read = .ok 0x3000 leaf ∧ chunkPoisoned refetching 0x3000 = false ∧
    lineGood (rdBytes (setU refetching leaf).mem 0x3000 64) = true := by decide +kernel
/-- A presence wait at its bound, with its line still absent. -/
def absentWait : List (Nat × Dword × Nat × Nat) := [(0, 0x9000000000000000, B, 0)]
def presenting : State := withBlock { block0 with
  absent := [(0, [1])]
  grps := [(0, { active := true, park := .presence absentWait (2 ^ 24 * 100) })] }
theorem witness_presence : (presenting.grp B 0).park = .presence absentWait (2 ^ 24 * 100) ∧
    absentWait.filter (fun x => (tfind x.2.2.2 (presenting.block x.2.2.1).absent).isSome) ≠ [] ∧ (∀ x ∈ absentWait, x.1 / 32 = 0) ∧
    (presenting.launch (presenting.block B).tag).used = true ∧ (presenting.launch (presenting.block B).tag).complete = false := by
  decide +kernel

/-! ## Witnesses: the orrery -/

def join1 : SgReq := { id := 1, seq := 1, blk := B, lane := 1, h := 1, hnd := {}, kind := .join 5, d := 20, fib := 1 }
def requesting (r : SgReq) : State := { named base with seq := 9, sgreqs := [r] }
theorem witness_join_group : reqOf (requesting join1) 1 = some join1 ∧ join1.dead = false ∧ reqFirst (requesting join1) join1 = true ∧
    budgetOk (requesting join1) join1.part 6 1 = true ∧ homeDie (requesting join1) 0 5 = 0 ∧
    ((requesting join1).die 0).orrery.find? (fun e => e.2.used && e.2.name == 5 && e.2.nsid == 0) = some (0, group0) ∧
    group0.closing = false ∧ lowestFree 65535 (fun m => (tfind m group0.members).isSome) = some 2 := by decide +kernel
def join2 : SgReq := { join1 with kind := .join 6 }
theorem witness_new_group : reqOf (requesting join2) 1 = some join2 ∧ reqFirst (requesting join2) join2 = true ∧
    ((requesting join2).die (homeDie (requesting join2) 0 6)).orrery.find?
      (fun e => e.2.used && e.2.name == 6 && e.2.nsid == 0) = none ∧
    lowestFree 4096 (fun i => (getSg (requesting join2) (homeDie (requesting join2) 0 6) i).used) = some 0 ∧
    nsEntries (requesting join2) 0 < ((requesting join2).part join2.part).inForce.quota := by decide +kernel
/-- An arrival of member 0 while member 1 is missing. -/
def arrive1 : SgReq := { join1 with lane := 0, h := 0, hnd := handle0, kind := .arrive, phase := 5 }
theorem witness_arrival_counts : reqOf (requesting arrive1) 1 = some arrive1 ∧ reqFirst (requesting arrive1) arrive1 = true ∧
    budgetOk (requesting arrive1) arrive1.part 6 1 = true ∧ sgCurrent (requesting arrive1) arrive1.hnd = true ∧
    tfind arrive1.hnd.member (reqEntry (requesting arrive1) arrive1).members = some (member 0) ∧ (member 0).left = false ∧
    ((1, member 1) ∈ (reqEntry (requesting arrive1) arrive1).members ∧ 1 ≠ arrive1.hnd.member ∧ (member 1).inPhase 5 = true ∧ (member 1).arrived 5 = false) := by
  decide +kernel
/-- The only member arrives. -/
def alone : State := { requesting arrive1 with dies := [(0, { orrery := [(0, { group0 with members := [(0, { member 0 with first := 5 })] })] })] }
theorem witness_phase_completes : reqFirst alone arrive1 = true ∧
    (reqEntry alone arrive1).members = [(arrive1.hnd.member, { member 0 with first := 5 })] ∧
    ({ member 0 with first := 5 } : Member).first = (reqEntry alone arrive1).phase ∧ arrive1.phase = (reqEntry alone arrive1).phase := by
  decide +kernel
def query1 : SgReq := { arrive1 with kind := .query 3 }
def close1 : SgReq := { arrive1 with kind := .close }
theorem witness_query_close : query1.live (requesting query1) = true ∧ reqFirst (requesting query1) query1 = true ∧
    reqFirst (requesting close1) close1 = true ∧ sgCurrent (requesting close1) close1.hnd = true := by decide +kernel

/-! ## Witnesses: the quadrant and the engine -/

/-- An operation with these values, signed by lane 0 with register v20. -/
def mop (op : Nat) (f : Fields) (vals : List Dword) (started : Bool) : MOp :=
  { id := 1, sig := { op := op, bits := 0, vals := vals, fields := f, lane := 0, pc := 0 }, cv := 0, round := 1,
    signers := [(0, 20)], started := started }
/-- The configuration of one quadrant with slots 0, and of two side by side. -/
def cfg1 : MCfg := { set := true }
def cfg2 : MCfg := { set := true, shape := 1 }
def planeOf (c : MCfg) : Plane := { loaded := true, cfg := c }
/-- Slot 0 holds elements of 4 bits. -/
def narrow (x : Block) : State :=
  { withBlock x with launches := [(1, { launch1 with rec_ := { launchRec with slots := [5] } })] }
def quad (o : MOp) : State := narrow { block0 with cfg := cfg1, plane0 := planeOf cfg1, mq := [o] }
def rowWord : Dword := 0x10000

theorem witness_matrix_issue : ∀ o ∈ [mop 0xC0 plain [] false, mop 0xC2 plain [] false, mop 0xC3 plain [rowWord, 0] false,
      mop 0xC4 plain [0] false, mop 0xC5 plain [0, 1, 2, 3, 4] false, mop 0xC6 plain [rowWord] false, mop 0xC7 plain [] false],
    o.sig.op = 0xC2 ∨ (Heads (quad o) 0 B o ∧ o.started = false ∧ mopFault (quad o) B o = none ∧
      mcfgClash (quad o) B (mcfgNew o.fields) = [] ∧ ((quad o).block B).cfg.shape = 0 ∧
      mopHeld (quad o) B 0 ((quad o).block B).cfg o = false) := by unfold Heads; decide +kernel
/-- An exchange of planes, with the shadow plane loaded, and a load of weights. -/
def swapping : State :=
  narrow { block0 with cfg := cfg1, plane0 := planeOf cfg1, plane1 := planeOf cfg1, mq := [mop 0xC2 plain [] false] }
def loadingW : State :=
  narrow { block0 with cfg := cfg1, scratchSize := 65536, mq := [mop 0xC1 plain [0] false] }
theorem witness_swap_issue : Heads swapping 0 B (mop 0xC2 plain [] false) ∧ mopFault swapping B (mop 0xC2 plain [] false) = none ∧
    mopHeld swapping B 0 (swapping.block B).cfg (mop 0xC2 plain [] false) = false ∧
    Heads loadingW 0 B (mop 0xC1 plain [0] false) ∧ mopFault loadingW B (mop 0xC1 plain [0] false) = none ∧
    mopHeld loadingW B 0 (loadingW.block B).cfg (mop 0xC1 plain [0] false) = false := by
  unfold Heads; decide +kernel

/-- Two quadrants side by side, each with its stream at the head. -/
def fusedBlock (k : Nat) : Block :=
  { block0 with idx := k, spos := k, place := .resident k, cfg := cfg2, plane0 := planeOf cfg2, mq := [mop 0xC3 plain [rowWord, 0] false] }
def fused : State :=
  { base with
    launches := [(1, { launch1 with rec_ := { launchRec with span := 2 } })]
    blocks := [(B, fusedBlock 0), (B + 1, fusedBlock 1)] }
def stream : MOp := mop 0xC3 plain [rowWord, 0] false
theorem witness_fused : Heads fused 0 B stream ∧ B ≠ B + 1 ∧ (fused.block B).cfg.shape ≠ 0 ∧
    partners fused B (fused.block B).cfg.shape = some [B, B + 1] ∧ mqHead fused (B + 1) = some stream ∧ stream.started = false ∧
    (fused.block (B + 1)).cfg = (fused.block B).cfg ∧ (fused.block (B + 1)).mstrs = (fused.block B).mstrs ∧ stream.sig.op = 0xC3 ∧
    mopFault fused B stream = none ∧ mopFault fused (B + 1) stream = none ∧
    (∀ x ∈ [(B, stream), (B + 1, stream)], ∀ y ∈ [(B, stream), (B + 1, stream)],
      mstrAgree (fused.launch (fused.block B).tag).rec_ (fused.block B).cfg (fused.block x.1).spos x.2 (fused.block y.1).spos y.2 = true ∧
      mopHeld fused x.1 ((quadPier (fused.block x.1)).getD 0) (fused.block x.1).cfg x.2 = false) := by
  unfold Heads; decide +kernel

/-- Each operation at the head, started, with no line absent and no poison; MCFG names one quadrant. -/
theorem witness_matrix_complete : ∀ o ∈ [mop 0xC0 plain [] true, mop 0xC1 plain [0] true, mop 0xC2 plain [] true,
      mop 0xC3 plain [rowWord, 0] true, mop 0xC5 plain [127, 1, 2, 3, 4] true, mop 0xC6 plain [rowWord] true, mop 0xC7 plain [] true],
    Heads (quad o) 0 B o ∧ o.started = true ∧ ((quad o).block B).mqFull = [] ∧ (mcfgNew o.fields).shape = 0 ∧
    partners (quad o) B 0 = some [B] ∧ mopAbsent (quad o) B o = [] ∧ ((quad o).block B).cfg.shape = 0 ∧
    ((quad o).block B).accPoison = [] ∧ CleanPad ((quad o).block B) ∧ (activePlane ((quad o).block B)).poison = [] := by
  unfold Heads CleanPad; decide +kernel
/-- Both streams started. -/
def streamOn : MOp := mop 0xC3 plain [rowWord, 0] true
def fusedOn : State :=
  { fused with blocks := [(B, { fusedBlock 0 with mq := [streamOn] }), (B + 1, { fusedBlock 1 with mq := [streamOn] })] }
theorem witness_fused_complete : Heads fusedOn 0 B streamOn ∧ partners fusedOn B (fusedOn.block B).cfg.shape = some [B, B + 1] ∧
    ∀ q ∈ [B, B + 1], (fusedOn.block q).mqFull = [] ∧ (fusedOn.block q).cfg = (fusedOn.block B).cfg ∧
      (fusedOn.block q).accPoison = [] ∧ CleanPad (fusedOn.block q) ∧ (activePlane (fusedOn.block q)).poison = [] ∧
      mqHead fusedOn q = some streamOn ∧ streamOn.sig.op = 0xC3 ∧ streamOn.started = true ∧ mopAbsent fusedOn q streamOn = [] := by
  unfold Heads CleanPad; decide +kernel
def reading (o : MOp) : State := { quad o with mrdas := [{ blk := B, lane := 0, cv := 0, round := 1 }] }
theorem witness_mrda : ∀ o ∈ [mop 0xC4 { plain with t := .f32 } [127] true, mop 0xC4 plain [127] true],
    Heads (reading o) 0 B o ∧ o.started = true ∧ o.signers = [(0, 20)] ∧ ((reading o).block B).accPoison = [] ∧
    ∃ m ∈ (reading o).mrdas, m.blk = B ∧ m.cv = o.cv ∧ m.round = o.round ∧ m.lane = 0 := by unfold Heads; decide +kernel

/-- An MRDA with two signers. -/
def readTwo : MOp := { mop 0xC4 plain [127] true with signers := [(0, 20), (1, 24)] }
def readingTwo : State :=
  { quad readTwo with mrdas := [{ blk := B, lane := 0, cv := 0, round := 1 }, { blk := B, lane := 1, cv := 0, round := 1 }] }
theorem witness_mrda_two : Heads readingTwo 0 B readTwo ∧ readTwo.started = true ∧ (readingTwo.block B).mqFull = [] ∧
    readTwo.read = false ∧ (readingTwo.block B).accPoison = [] ∧ readTwo.signers ≠ [] ∧ (∀ g ∈ readTwo.signers, ∃ m ∈ readingTwo.mrdas,
      m.blk = B ∧ m.cv = readTwo.cv ∧ m.round = readTwo.round ∧ m.lane = g.1) := by unfold Heads; decide +kernel

/-- The signer's result has been written. -/
def readMrda : MOp := { mop 0xC4 plain [127] true with read := true }
theorem witness_mrda_read : Heads (quad readMrda) 0 B readMrda ∧ readMrda.started = true ∧ readMrda.read = true ∧
    mrdaOwes (quad readMrda) B readMrda.id = false ∧ (mop 0xC4 plain [127] true).read = false := by unfold Heads; decide +kernel

/-- A load of weights whose line 0 another job keeps absent, for exactly 2^24 cycles. -/
def lateLoad : MOp := { mop 0xC1 plain [0] true with waitOn := some (B, 0), waited := 2 ^ 24 * 100 }
def matrixLate : State := narrow { block0 with cfg := cfg1, mq := [lateLoad], absent := [(0, [1])] }
theorem witness_matrix_presence : Heads matrixLate 0 B lateLoad ∧ lateLoad.started = true ∧ lateLoad.waitOn = some (B, 0) ∧
    mopAbsent matrixLate B lateLoad ≠ [] ∧ 2 ^ 24 * 100 ≤ lateLoad.waited ∧
    (matrixLate.launch (matrixLate.block B).tag).used = true ∧ (matrixLate.launch (matrixLate.block B).tag).complete = false := by
  unfold Heads; decide +kernel

/-- A copy of four words from 0x2000 to 0x3000. -/
def job0 : Job :=
  { id := 1, kind := .cpt, die := 0, part := 0, tag := 1, blk := some B, lane := 0, fib := 1, seq := 1, wshape := shape4,
    rshape := shape4, dst := 0x3000, src := 0x2000 }
def jobState (j : Job) : State := { base with seq := 9, jobs := [j] }
def jobLate : Job := { job0 with st := .running, waits := [(B, 0, 2 ^ 24 * 100)] }
theorem witness_job_presence : findJob { jobState jobLate with blocks := [(B, { block0 with absent := [(0, [2])] })] } 1 = some jobLate ∧
    jobLate.st = .running ∧ jobLate.waits.find? (fun w => w.2.2 ≥ 2 ^ 24 * 100) = some (B, 0, 2 ^ 24 * 100) ∧ 2 ≠ jobLate.id ∧ jobLate.failed = none ∧
    2 ∈ tget [] ({ block0 with absent := [(0, [2])] } : Block).absent 0 := by decide +kernel

theorem witness_job_starts : findJob (jobState job0) 1 = some job0 ∧ job0.st = .waiting ∧ jobHeld (jobState job0) job0 = false ∧
    channelOk (jobState job0) job0 = true ∧ jobReleased (jobState job0) job0 = true ∧
    footprintWaits (jobState job0) job0 job0.seq (jobFootprint (jobState job0) job0) = false ∧
    padsHeld (jobState job0) job0 = false := by decide +kernel
def jobDone : Job := { job0 with st := .running, done := [(0, 0), (1, 4), (2, 8), (3, 12)] }
def jobFailed : Job := { job0 with st := .running, failed := some (0x16, 0x2000) }
theorem witness_job_ends : findJob (jobState jobDone) 1 = some jobDone ∧ allDone jobDone = true ∧ jobDone.failed = none ∧
    ((jobState jobDone).block B).dropping = false ∧ ((jobState jobDone).lane B 0).live = true ∧
    ((jobState jobDone).lane B 0).fib = jobDone.fib ∧ findJob (jobState jobFailed) 1 = some jobFailed ∧
    ((jobState jobFailed).launch jobFailed.tag).used = true := by decide +kernel
def jobRuns : Job := { job0 with st := .running }
def jobMarked : State := readMark (jobState jobRuns) jobRuns (jobRuns.src + BitVec.ofNat 64 (jobRuns.rshape.off 3)) 4
theorem witness_element : findJob (jobState jobRuns) 1 = some jobRuns ∧ 3 < jobRuns.wshape.count ∧ NoLimits (jobState jobRuns) 0 ∧
    awake (jobState jobRuns) = true ∧
    engineRead jobMarked jobRuns (jobRuns.src + BitVec.ofNat 64 (jobRuns.rshape.off 3)) 4 = .bytes [0, 0, 0, 0] false 1 ∧
    engineDest jobMarked jobRuns (jobRuns.dst + BitVec.ofNat 64 (jobRuns.wshape.off 3)) 4 = .home 0x300C leaf ∧
    0x300C % 64 + 4 ≤ 64 ∧ Unowned jobMarked (physWords 0x300C 4) := by unfold NoLimits Unowned; decide +kernel

/-- A chain at the record at 0x3000: four words from 0x2000 to 0x4000, with OWN set or clear. -/
def chainMem (ctl : Nat) : List Host.Cell :=
  wrNat (wrNat (wrNat (wrNat tableMem 0x3008 8 0x4000) 0x3010 8 0x2000) 0x3018 8 ctl) 0x3020 8 0x4000003
def chain0 : Job :=
  { id := 1, kind := .chain, die := 0, part := 0, tag := 1, blk := some B, lane := 0, fib := 1, seq := 1, recPtr := 0x3000, st := .running }
def chainState (ctl : Nat) (j : Job) : State :=
  { jobState j with mem := chainMem ctl
                    blocks := [(B, { block0 with accRows := 0 })] }
/-- The same chain before it starts. -/
def chainWaits : Job := { chain0 with st := .waiting }
theorem witness_chain_starts : findJob (jobState chainWaits) 1 = some chainWaits ∧ jobHeld (jobState chainWaits) chainWaits = false ∧
    channelOk (jobState chainWaits) chainWaits = true ∧ jobReleased (jobState chainWaits) chainWaits = true := by decide +kernel
/-- The state once the read of the record has set U. -/
def chainMarked (ctl : Nat) : State := readMark (chainState ctl chain0) chain0 chain0.recPtr 64
theorem witness_chain_ended : findJob (chainState 0 chain0) 1 = some chain0 ∧ jobHeld (chainState 0 chain0) chain0 = false ∧
    recordPtrOk chain0 chain0.recPtr = true ∧ NoLimits (chainState 0 chain0) chain0.part ∧
    (∃ bs, engineRead (chainMarked 0) chain0 chain0.recPtr 64 = .bytes bs false 1 ∧
      (leNat ((bs.drop 24).take 8)).testBit 0 = false) := by
  refine ⟨by decide +kernel, by decide +kernel, by decide +kernel, by unfold NoLimits; decide +kernel, rdBytes (chainMem 0) 0x3000 64, by decide +kernel, by decide +kernel⟩
theorem witness_chain_record : engineRead (chainMarked 0x981) chain0 chain0.recPtr 64 = .bytes (rdBytes (chainMem 0x981) 0x3000 64) false 1 ∧
    NoneSaved (chainState 0x981 chain0) ∧
    (leNat (((rdBytes (chainMem 0x981) 0x3000 64).drop 24).take 8)).testBit 0 = true ∧
    recShape (rdBytes (chainMem 0x981) 0x3000 64) = .inline (some shape4) ∧
    recFault (chainMarked 0x981) chain0 (rdBytes (chainMem 0x981) 0x3000 64) (some shape4) = none ∧
    (chainState 0x981 chain0).jobs = [chain0] ∧ ∀ b ∈ (chainState 0x981 chain0).blocks, quadPier b.2 = none := by
  refine ⟨by decide +kernel, ?_, by decide +kernel⟩
  intro b hb
  have : b = (B, { block0 with accRows := 0 }) := by simpa [chainState, jobState] using hb
  subst this
  exact ⟨by decide, fun p h => by cases h⟩
/-- Its last element is written. -/
def chainDone : Job :=
  { chain0 with recLive := true, recCtl := 0x981, wshape := shape4, rshape := shape4, done := jobDone.done, dst := 0x4000, src := 0x2000 }
theorem witness_chain_finish : findJob (chainState 0x981 chainDone) 1 = some chainDone ∧ chainDone.failed = none ∧
    allDone chainDone = true ∧ chainDone.recCwp = 0 ∧
    engineDest (chainState 0x981 chainDone) chainDone (chainDone.recPtr + 24) 8 = .home 0x3018 leaf ∧ 0x3018 % 64 + 8 ≤ 64 ∧
    Unowned (chainState 0x981 chainDone) (physWords 0x3018 8) ∧ NoLimits (chainState 0x981 chainDone) 0 := by
  unfold Unowned NoLimits; decide +kernel

/-- Two ranks of a reduction of one word: the second has come to the orrery. -/
def card0 : Card := { kind := 3, p := 2, n := 1, send := 0x2000, recv := 0x3000, name := 5 }
def coll1 : Job := { job0 with kind := .coll, st := .meeting, card := card0, recPtr := 0x5000 }
def coll2 : Job := { coll1 with id := 2, inst := 7, card := { card0 with rank := 1 } }
def inst0 : Coll := { id := 7, die := 0, part := 0, name := 5, jobs := [2] }
def meeting (cs : List Coll) : State := { base with seq := 9, jobs := [coll1, coll2], colls := cs }
theorem witness_rendezvous : findJob (meeting []) 1 = some coll1 ∧ coll1.inst = 0 ∧ budgetOk (meeting []) 0 6 1 = true ∧
    (meeting []).colls.find? (fun c => c.part == coll1.part && c.name == coll1.card.name) = none := by decide +kernel
theorem witness_rendezvous_meets : findJob (meeting [inst0]) 1 = some coll1 ∧
    (meeting [inst0]).colls.find? (fun c => c.part == coll1.part && c.name == coll1.card.name) = some inst0 ∧ inst0.started = false ∧
    (∀ x ∈ (meeting [inst0]).jobs.filter (fun x => inst0.jobs.contains x.id), x.card.rank ≠ coll1.card.rank ∧
      cardsAgree x.card coll1.card = true) ∧
    (((meeting [inst0]).jobs.filter (fun x => inst0.jobs.contains x.id)).head?.map (·.card.p)) =
      some (((meeting [inst0]).jobs.filter (fun x => inst0.jobs.contains x.id)).length + 1) := by decide +kernel
/-- The rank that came first says another count of elements. -/
def coll2n : Job := { coll2 with card := { card0 with rank := 1, n := 2 } }
def disagreeing : State := { meeting [inst0] with jobs := [coll1, coll2n] }
theorem witness_rendezvous_fails : findJob disagreeing 1 = some coll1 ∧ budgetOk disagreeing 0 6 1 = true ∧
    disagreeing.jobs.filter (fun x => inst0.jobs.contains x.id) = [coll2n] ∧ coll2n.card.rank ≠ coll1.card.rank ∧
    coll2n.card.p = [coll2n].length + 1 ∧ cardsAgree coll2n.card coll1.card = false := by decide +kernel
/-- A collective of one rank, all of it written. -/
def collDone : Job := { coll1 with st := .running, inst := 7, done := [(0, 0)], card := { card0 with p := 1 } }
def inst1 : Coll := { inst0 with jobs := [1], started := true }
def collFinal : State := { base with jobs := [collDone], colls := [inst1] }
theorem witness_collective : collFinal.colls.find? (fun x => x.id == 7 && x.die == 0) = some inst1 ∧ collFinal.frozen inst1.part = false ∧
    (∀ j ∈ collFinal.jobs, inst1.jobs.contains j.id = true → j.failed = none ∧ allDone j = true) ∧
    collFinal.jobs.filter (fun x => inst1.jobs.contains x.id) = [collDone] := by decide +kernel
theorem witness_collective_words : WordsGo collFinal [collDone] :=
  ⟨by decide +kernel, by unfold NoLimits; decide +kernel, trivial⟩

/-! ## Witnesses: queues, packets and launches -/

/-- Rings of 16 slots for queue 5 of partition 0 and interface 0, STATE 1. -/
def ctl5 : Dword := BitVec.ofNat 64 (2 ^ 42 + 4 * 64 + 4 * 1024)
def queue5 : Queue := { mapped := true, ring := 0x60000, evring := 0x61000, ctl := ctl5, tail := 1 }
/-- A die 0 whose queue 5 is `x`, with more bytes of memory. -/
def queued (x : Queue) (mem : List Host.Cell) : State :=
  { base with mem := mem, queues := [(5, x)], ifaces := [(0, { pasids := [(0, 1)], remap := [(0, 6)] })]
              parts := [(0, { inForce := { v := true, quota := 256, piers := 1, slots := 1, saveBase := 0x100000, saveSize := 0x1000000, framesB := 0x100000 }
                              share := 1024 })] }

theorem witness_doorbells : ifaceUp (queued queue5 tableMem) 0 = true ∧ doorbellQueue (queued queue5 tableMem) 0 4 0 = none ∧
    doorbellQueue (queued queue5 tableMem) 0 8 0x500000002 = some 5 ∧ ((queued queue5 tableMem).queue 5).mapped = true ∧
    ahead ((0x500000002 : Dword).setWidth 32) ((queued queue5 tableMem).queue 5).tail = true ∧
    ahead ((0x500000002 : Dword).setWidth 32) ((queued queue5 tableMem).queue 5).evHead = true ∧
    awake (queued queue5 tableMem) = true := by decide +kernel

/-- The descriptor of the last queue, with its rings at 0. -/
def descMem : List Host.Cell := wrNat (wrNat [] 0x8FFD8 4 1) 0x8FFE0 8 ctl5.toNat
def described (x : Queue) : State := { queued {} descMem with queues := [(4095, x)], package := { qdbase := 0x50000 } }
theorem unmappable_of {s : State} {k : Nat} (h : (descOf s k).ctl = 0) : mappable s k = false := by
  simp only [mappable, h]
  rw [show ctlState 0 = 0 by decide]
  simp
/-- Every other descriptor is zero. -/
theorem unmappable {k : Nat} (h : k < 4095) : mappable (described {}) k = false := by
  have hz : rdBytes descMem (0x50000 + 64 * k + 32) 8 = rdBytes [] (0x50000 + 64 * k + 32) 8 :=
    rdBytes_congr 8 _ fun i hi => by
      rw [descMem, wrNat, rdByte_wrBytes_outside (Or.inl (by omega)), wrNat, rdByte_wrBytes_outside (Or.inl (by omega))]
  refine unmappable_of ?_
  exact (congrArg (fun l => BitVec.ofNat 64 (leNat l)) hz).trans (by simp [rdBytes, rdByte, leNat])
theorem witness_queue_map : mappable (described {}) 4095 = true ∧
    (∀ k < 4096, k ≠ 4095 → mappable (described {}) k = false) ∧ (mappedQueues (described {})).length < 128 ∧
    (mappedOf (described {}) (ctlPart (descOf (described {}) 4095).ctl)).length <
      ((described {}).part (ctlPart (descOf (described {}) 4095).ctl)).inForce.slots :=
  ⟨by decide +kernel, fun _ h n => unmappable (by omega), by decide +kernel, by decide +kernel⟩
def idleQueue : Queue := { queue5 with tail := 0 }
theorem witness_queue_unmap : ((queued idleQueue tableMem).queue 5).mapped = true ∧ nextRequest (queued idleQueue tableMem) 5 = none ∧
    waitPending ((queued idleQueue tableMem).queue 5) = false ∧ ((queued idleQueue tableMem).queue 5).packets = [] := by decide +kernel

/-- A slot with TSCALE 1.0. -/
def slotWord : Nat := 0x3F800000 * 2 ^ 32
/-- A launch record at 0x40000: one block of one lane, with its fault record in its lease. -/
def recMem (m : List Host.Cell) : List Host.Cell :=
  let put (l : List (Nat × Nat × Nat)) : List Host.Cell := l.foldl (fun a x => wrNat a (0x40000 + x.1) x.2.1 x.2.2) m
  put ([(20, 2, 1), (22, 2, 8), (30, 2, 1), (64, 8, 0x8000), (58, 2, 1), (264, 8, 0x10000)] ++
    (List.range 8).map (fun i => (128 + 8 * i, 8, slotWord)))
/-- Request 1 of queue 5, of a type, at ring slot 1. -/
def reqMem (type flags : Nat) (addr : Nat) : List Host.Cell :=
  wrNat (wrNat (wrNat (wrNat (wrNat (recMem tableMem) 0x60040 1 type) 0x60041 1 flags) 0x60042 2 5) 0x60044 4 1) 0x60050 8 addr
def reqBytes (type flags addr : Nat) : List Byte := rdBytes (reqMem type flags addr) 0x60040 64
def request (type flags addr : Nat) : State := queued queue5 (reqMem type flags addr)

/-- A request that is refused (type 0), a MARKER, a LAUNCH with no record at its address, and one with a sound record. -/
theorem witness_request : ∀ x ∈ [request 0 0 0, request 5 0 0, request 1 0 0x48000, request 1 0 0x40000],
    mayAccept x 5 = true ∧ NoLimits x (queuePart x 5) := by unfold NoLimits; decide +kernel
theorem witness_request_refused : nextRequest (request 0 0 0) 5 = some (reqBytes 0 0 0, 1) ∧
    packetStatus (request 0 0 0) 5 (reqBytes 0 0 0) ≠ 0 := by decide +kernel
/-- A slot that nobody has written yet. -/
theorem witness_request_unwritten : mayAccept (queued queue5 tableMem) 5 = true ∧
    Machine.slotRead (queued queue5 tableMem) 5 = .unwritten 1 ∧ NoLimits (queued queue5 tableMem) 0 := by
  unfold NoLimits; decide +kernel
theorem witness_request_taken : nextRequest (request 5 0 0) 5 = some (reqBytes 5 0 0, 1) ∧
    packetStatus (request 5 0 0) 5 (reqBytes 5 0 0) = 0 ∧ fieldAt (reqBytes 5 0 0) 0 1 ≠ 1 := by decide +kernel
/-- The record of a request, and the state once its slot and it have been read. -/
def recAt (addr : Nat) : List Byte := rdBytes (reqMem 1 0 addr) addr 512
def afterRead (addr : Nat) : State :=
  queueMark (slotMarked (request 1 0 addr) 5) (queuePart (request 1 0 addr) 5) (packetAddr (reqBytes 1 0 addr)) 512
theorem witness_launch_refused : nextRequest (request 1 0 0x48000) 5 = some (reqBytes 1 0 0x48000, 1) ∧
    packetStatus (request 1 0 0x48000) 5 (reqBytes 1 0 0x48000) = 0 ∧ fieldAt (reqBytes 1 0 0x48000) 0 1 = 1 ∧
    packetRead (request 1 0 0x48000) 5 (reqBytes 1 0 0x48000) = .ok (recAt 0x48000) false 8 ∧
    launchStatus (afterRead 0x48000) 5 (recAt 0x48000) ≠ 0 := by decide +kernel
theorem witness_launch_taken : nextRequest (request 1 0 0x40000) 5 = some (reqBytes 1 0 0x40000, 1) ∧
    packetStatus (request 1 0 0x40000) 5 (reqBytes 1 0 0x40000) = 0 ∧ fieldAt (reqBytes 1 0 0x40000) 0 1 = 1 ∧
    packetRead (request 1 0 0x40000) 5 (reqBytes 1 0 0x40000) = .ok (recAt 0x40000) false 8 ∧
    launchStatus (afterRead 0x40000) 5 (recAt 0x40000) = 0 ∧
    freeTag (request 1 0 0x40000) = some 2 := by decide +kernel
/-- A packet whose pointer is 0x2000 and whose other fields are `rest`. -/
def pkt (type : Nat) (rest : List Byte) : Packet :=
  { type := type, flags := 2, seq := 1, pasid := 0, payload := leBytes 8 0x2000 ++ rest, tag := 1 }
def queueHolds (p : Packet) : State := queued { queue5 with packets := [p], lastAcc := 1 } tableMem
/-- A WAITVAL for the word at 0x2000 to equal 0, and to equal 1, under a full mask. -/
def waits (v : Nat) : Packet := pkt 2 (leBytes 8 v ++ leBytes 8 (2 ^ 64 - 1) ++ leBytes 8 0)
theorem witness_packets_start : ∀ p ∈ [pkt 1 [], waits 0, waits 1, pkt 3 [], pkt 4 [], pkt 5 [], pkt 6 []],
    startable (queueHolds p) 5 p.type = some p := by decide +kernel
theorem witness_waitval : queueRead (queueHolds (waits 0)) (queuePart (queueHolds (waits 0)) 5) 0 0x2000 4 = .ok [0, 0, 0, 0] false 1 ∧
    (waits 0).addr = 0x2000 ∧ wordSize (waits 0) = 4 ∧ NoLimits (queueHolds (waits 0)) 0 ∧
    waitHolds (waits 0) (leNat [0, 0, 0, 0]) = true ∧ waitHolds (waits 1) (leNat [0, 0, 0, 0]) = false := by unfold NoLimits; decide +kernel
/-- A WAITVAL that was read 1 µs ago, one that nothing has read yet, and one whose link is down. -/
def polled (t : Option Nat) : Packet := { waits 1 with started := true, polled := t }
def polling (t : Option Nat) : State := { queueHolds (polled t) with now := 1000 }
theorem witness_poll : ∀ t ∈ [none, some 0], ((polling t).queue 5).mapped = true ∧
    ((polling t).queue 5).packets.find? (fun x => x.type == 2 && x.started) = some (polled t) ∧
    queueUp (polling t) 5 = true ∧ (polling t).frozen (queuePart (polling t) 5) = false ∧
    (∀ n ∈ (polled t).polled, n + 1000 ≤ (polling t).now) ∧
    queueRead (polling t) (queuePart (polling t) 5) 0 0x2000 4 = .ok [0, 0, 0, 0] false 1 ∧
    queueUp { polling t with linkUp := 0 } 5 = false := by decide +kernel
/-- Eight bytes at 0x2000 can be stored, and an event where the event ring stands. -/
theorem witness_can_store : CanStore (queueHolds (pkt 3 [])) 5 0 0 0x2000 4 ∧ CanStore (queueHolds (pkt 6 [])) 5 0 0 0x2000 8 ∧
    CanStore { queueHolds (pkt 3 []) with hostPages := [0] } 5 0 0 0xC000000000000100 4 :=
  ⟨⟨fun h => absurd h (by decide), fun _ => ⟨by decide +kernel, 0x2000, leaf, by decide +kernel, by unfold Unowned; decide +kernel⟩⟩,
   ⟨fun h => absurd h (by decide), fun _ => ⟨by decide +kernel, 0x2000, leaf, by decide +kernel, by unfold Unowned; decide +kernel⟩⟩,
   ⟨fun _ => by decide +kernel, fun h => absurd (by decide) h⟩⟩
def event1 : Event := { kind := 1, status := 0, rseq := 1, tag := 1, fcode := 0, fsum := 0, irq := true }
def reporting : State := queued { queue5 with events := [event1] } tableMem
theorem witness_event : (reporting.queue 5).events = [event1] ∧ (reporting.queue 5).mapped = true ∧ eventRoom (reporting.queue 5) = true ∧
    queueUp reporting 5 = true ∧ ringSpace reporting 5 = 0 ∧ CanStore reporting 5 0 event1.id (eventPlace (reporting.queue 5)) 32 ∧
    tfind (ctlVec (reporting.queue 5).ctl) (reporting.iface (ctlIface (reporting.queue 5).ctl)).remap = some 6 ∧
    (6 - 1 : Dword).getLsbD 62 = false ∧ event1.irq = true :=
  ⟨by decide +kernel, by decide +kernel, by decide +kernel, by decide +kernel, by decide +kernel,
   ⟨fun h => absurd h (by decide +kernel), fun _ => ⟨by decide +kernel, 0x61020, leaf, by decide +kernel, by unfold Unowned; decide +kernel⟩⟩, by decide +kernel, by decide, rfl⟩
/-- A write of the launch's fault record is still to reach its page. -/
def recording : State := { reporting with frWrites := [{ tag := 1, part := 0, ptr := 0x8000, bytes := [1] }] }
theorem witness_event_waits : (recording.queue 5).events = [event1] ∧ event1.kind = 1 ∧ (∃ w ∈ recording.frWrites, w.tag = event1.tag) ∧
    recordUnderWay reporting event1 = false := by decide +kernel
theorem witness_record_write : recording.frWrites.find? (fun x => x.tag == 1) = some { tag := 1, part := 0, ptr := 0x8000, bytes := [1] } ∧
    walkRoot recording (ptrDie 0x8000) 0 (ptrOff56 0x8000) = .ok 0x8000 leaf ∧ leaf.m = false ∧ linkWaits recording 0x8000 = false ∧
    Unowned recording (physWords 0x8000 1) := by unfold Unowned; decide +kernel
/-- The same through an entry that names file 2 of application core 0, which is the partition's, and without an entry. -/
def remapped (r : Tbl Dword) : State :=
  { reporting with ifaces := [(0, { remap := r })]
                   parts := [(0, { inForce := { v := true, quota := 256, harts := 1 } })] }
theorem witness_event_remap : tfind (ctlVec (reporting.queue 5).ctl) ((remapped []).iface 0).remap = none ∧
    tfind (ctlVec (reporting.queue 5).ctl) ((remapped [(0, BitVec.ofNat 64 (2 ^ 62 + 2 * 2 ^ 11 + 9 + 1))]).iface 0).remap =
      some (BitVec.ofNat 64 (2 ^ 62 + 2 * 2 ^ 11 + 9 + 1)) ∧
    hartPart (remapped []) 0 = some (queuePart (remapped []) 5) := by decide +kernel

/-- A launch of one block of 40 lanes that may be dispatched onto cluster 0 of die 0. -/
def waiting : Launch := { launch1 with nextSpan := 0, rec_ := { launchRec with lanes := 40, maxBlk := 0, privSize := 0, entry := 0x3000 } }
def dispatching (st : Nat) : State :=
  { queued {} tableMem with
    launches := [(1, waiting)], blocks := []
    dies := [(0, { root := 0x10000, clusters := [(0, { st := st })] })] }
theorem witness_dispatch : ∀ st ∈ [1, 2], nextSpan ((dispatching st).launch 1) = some (0, [0]) ∧ mayDispatch (dispatching st) 1 = true ∧
    clusterTakes (dispatching st) 1 0 0 0 [0] = true ∧ waiting.rec_.coop = false ∧
    wantedBefore (dispatching st) 0 (dispatching st).seq = false ∧ (getCluster (dispatching st) 0 0).st = st ∧
    (st = 2 → ungatedTakes (dispatching st) 1 [0] = false) := by decide +kernel
theorem witness_dispatch_all : ∀ st ∈ [1, 2], (placeSpan (dispatching st) 1 0 0 0 0 [0]).isSome = true := by decide +kernel
/-! ## Witnesses: the end of a launch, partitions, pre-emption and saves -/

/-- Launch 1 as `l` beside block 0 as `x`, at time `now`. -/
def launched (l : Launch) (x : Block) (now : Nat) : State :=
  { queued { queue5 with packets := [{ pkt 1 [] with started := true }] } tableMem with
    launches := [(1, { l with queue := 5, seq := 1 })], blocks := [(B, x)], now := now }
def gone : Block := { block0 with place := .nowhere, lanes := [] }
theorem witness_pin : ∀ l ∈ ((launched { launch1 with pinned := false } block0 0).launch 1).rec_.leases.take 1,
    rangeOk (launched { launch1 with pinned := false } block0 0) { launch1 with pinned := false } l = true := by decide +kernel
def retired1 : Launch := { launch1 with retired := 1, rec_ := { launchRec with maxBlk := 0 } }
theorem witness_complete : ((launched retired1 gone 0).launch 1).used = true ∧ ((launched retired1 gone 0).launch 1).complete = false ∧
    workLeft (launched retired1 gone 0) 1 = false ∧ ((launched retired1 gone 0).launch 1).terminating = false ∧
    allRetired ((launched retired1 gone 0).launch 1) = true ∧
    ((launched retired1 gone 0).queue 5).packets.find? (fun p => p.seq == ((launched retired1 gone 0).launch 1).seq) =
      some { pkt 1 [] with started := true } ∧ ({ pkt 1 [] with started := true } : Packet).flags.getLsbD 1 = true := by decide +kernel
def finished : Launch := { retired1 with complete := true }
theorem witness_release : ((launched finished gone 0).launch 1).complete = true ∧ tagBusy (launched finished gone 0) 1 = false := by decide +kernel
/-- A launch that has been terminating for exactly 10 ms. -/
def ending : Launch := { launch1 with terminating := true, termAt := 5 }
theorem witness_terminate : ((launched ending block0 10000005).launch 1).used = true ∧
    ((launched ending block0 10000005).launch 1).terminating = true ∧ ((launched ending block0 10000005).launch 1).stopped = false ∧
    ((launched ending block0 10000005).launch 1).complete = false ∧
    ((launched ending block0 10000005).launch 1).termAt + 10000000 ≤ (launched ending block0 10000005).now ∧
    ((launched ending block0 10000005).part ((launched ending block0 10000005).launch 1).part).reason = 0 := by decide +kernel

def partState (p : Part) : State := { launched launch1 block0 5 with parts := [(0, p)] }
def resetting (c : Bool) : State := { partState { part0 with reason := 4, cleared := c } with queues := [] }
theorem witness_tenant_reset : ((resetting false).part 0).reason ≠ 0 ∧ ((resetting false).part 0).cleared = false ∧
    ((resetting true).part 0).reason ≠ 0 ∧ ((resetting true).part 0).cleared = true ∧
    (∀ q ∈ partQueues (resetting true) 0, ((resetting true).queue q).events = []) :=
  ⟨by decide +kernel, by decide +kernel, by decide +kernel, by decide +kernel, fun _ _ => rfl⟩
theorem witness_apply_refused : applyBad (partState part0) 0 = true := by decide +kernel
/-- An entry of one pier, of no frames guaranteed. -/
def entry1 : Part := { written := { v := true, quota := 256, slots := 1, piers := 1 } }
theorem witness_apply : applyBad (partState entry1) 0 = false := by
  have hm : inMemory (partState entry1) 0 0 = true ∧ inMemory (partState entry1) 0 16777216 = true ∧
      4096 * nodeDies (partState entry1) = 16384 := by decide +kernel
  simp only [applyBad, show (partState entry1).part 0 = entry1 from rfl, show (partState entry1).parts = [(0, entry1)] from rfl,
    show entry1.written.saveBase = 0 from rfl, show entry1.written.saveSize = 0 from rfl, show entry1.written.capBase = 0 from rfl,
    hm.1, hm.2.1, hm.2.2]
  simp [entry1, applyBad.sumOfNat]
theorem witness_force : ((partState part0).part 0).shrinking = false := by decide +kernel
/-- Pier 9 is being given up. -/
def shrinking : Part := { part0 with releasing := [9], shrinking := true }
theorem witness_release_pier : (partState shrinking).parts.find? (fun p => p.2.releasing.contains 9) = some (0, shrinking) ∧
    (∀ b ∈ (partState shrinking).blocks, b.2.onPier ≠ some 9 ∧ quadPier b.2 ≠ some 9) ∧
    ((partState shrinking).core 9).record = [] ∧ coopWaits (partState shrinking) 0 = false := by decide +kernel
/-- A partition of the period that ends, and one whose use has been counted in the new one already. -/
theorem witness_period : (launched launch1 block0 10000).period < (launched launch1 block0 10000).now / 10000 ∧
    ((launched launch1 block0 10000).part 0).period + 1 = (launched launch1 block0 10000).now / 10000 ∧
    ({ part0 with period := 1 } : Part).period = (launched launch1 block0 10000).now / 10000 := by decide +kernel

/-- A slice of launch 1 that began at 0 and has ended, with and without another launch that waits for the pier. -/
def sliced (ls : Tbl Launch) (z : Zone) : State :=
  { queued {} tableMem with
    launches := (1, launch1) :: ls, now := 20000
    dies := [(0, { root := 0x10000, clusters := [(0, { st := 0, slices := [(1, 0)] })], zones := [(0, z)] })] }
def other : Launch := { waiting with rec_ := { waiting.rec_ with scratch := 2097152 } }
theorem witness_slice : (sliced [] {}).frozen 0 = false ∧ endedSlices (sliced [] {}) 0 = [(0, 0, 1)] ∧
    ¬ Serves (sliced [] {}) 0 0 0 1 := by unfold Serves; decide +kernel
theorem witness_slice_given : (sliced [(2, other)] {}).frozen 0 = false ∧ endedSlices (sliced [(2, other)] {}) 0 = [(0, 0, 1)] ∧
    Serves (sliced [(2, other)] {}) 0 0 0 1 ∧ ((sliced [(2, other)] {}).launch 1).used = true ∧
    ((sliced [(2, other)] {}).launch 1).terminating = false := by unfold Serves; decide +kernel
/-- What a pre-emption of it does: no block's finish is known, and the save fits. -/
theorem witness_preempted : launch1.rec_.coop = false ∧ latestFinish (onCluster (sliced [] {}) 0 0 1) = none ∧
    launch1.rec_.idem = false ∧ onCluster (sliced [] {}) 0 0 1 = [(B, block0)] ∧ block0.place = .resident 0 := by decide +kernel
/-- And one whose finish is known and early enough. -/
def finishing : Block := { block0 with step := { opened := true }, gov := { finish := some 30000 } }
theorem witness_drains : latestFinish (onCluster { sliced [] {} with blocks := [(B, finishing)] } 0 0 1) = some 30000 ∧
    30000 ≤ (sliced [] {}).now + pdeadNs (sliced [] {}) 0 := by decide +kernel
theorem witness_close : (tget {} ((sliced [] { seqRuns := 2 }).die 0).zones 0 : Zone).seqRuns = 2 ∧
    clusterTags (sliced [] { seqRuns := 2 }) 0 0 = [1] ∧ (sliced [] { seqRuns := 2 }).frozen 0 = false := by decide +kernel
theorem witness_dry : (tget {} ((sliced [] { seqRuns := 1 }).die 0).zones 0 : Zone).seqRuns = 1 ∧
    clusterBlocks (sliced [] { seqRuns := 1 }) 0 0 = [(B, block0)] ∧ block0.dropping = false ∧ launch1.terminating = false := by decide +kernel
/-- A drain at its deadline; and a block that has none stays. -/
theorem witness_deadline : onCluster { sliced [] {} with blocks := [(B, { block0 with drainBy := 20000 })] } 0 0 1 =
    [(B, { block0 with drainBy := 20000 })] ∧ 20000 ≤ (sliced [] {}).now ∧ block0.drainBy = 0 := by decide +kernel
def evacuating : Block := { block0 with place := .saving 0, evac := true, saveBy := 20000 }
theorem witness_abandon : (B, evacuating) ∈ ({ sliced [] {} with blocks := [(B, evacuating)] } : State).blocks ∧
    evacuating.saveBy ≤ (sliced [] {}).now ∧ ((sliced [] {}).launch 1).complete = false := by decide +kernel

/-- A block asked to save, with nothing outstanding, and the same block saved. -/
def saving : State :=
  { sliced [] {} with blocks := [(B, { block0 with place := .saving 0, image := 0x100000 })], cur := {} }
theorem witness_save : (saving.block B).place = .saving 0 ∧ (saving.block B).dropping = false ∧ saving.frozen 0 = false ∧
    saveReady saving B 0 = true := by decide +kernel
def savedState : State :=
  { queued {} tableMem with
    launches := [(1, { launch1 with rec_ := { launchRec with privSize := 0 } })]
    blocks := [(B, { block0 with place := .saved, image := 0x100000 })], cur := {}
    dies := [(0, { root := 0x10000, clusters := [(0, { st := 0 })] })] }
theorem witness_restore : restoreAll savedState 1 0 0 0 0 = some [(0, 0, 0, 0)] ∧ (getCluster savedState 0 0).st < 2 ∧
    ((savedOf savedState 1 0).map (·.1)).Nodup ∧ (∀ b ∈ savedOf savedState 1 0, imageLost savedState b.2 b.2.savedRec = false) ∧
    (savedOf savedState 1 0)[0]? = some (B, { block0 with place := .saved, image := 0x100000 }) := by decide +kernel
/-- After MOISTURE nothing is saved. -/
theorem witness_save_moist : ({ saving with package := { saving.package with moisture := true } } : State).package.moisture = true ∧
    saving.package.moisture = false := by decide +kernel
theorem witness_restore_lanes : ∀ l, (savedState.lane B l).stale = [] := by
  intro l
  show ((tfind l block0.lanes).getD {}).stale = []
  simp only [block0, tfind]
  split
  · rfl
  · split <;> rfl
theorem witness_restore_first : ∀ q, wantedBefore savedState 0 q = false := fun _ => rfl
/-- A cooperative launch of two spans, both saved, whose second asks for cluster 1. -/
def coopSaved : State :=
  { savedState with
    launches := [(1, { launch1 with nextSpan := 2, rec_ := { launchRec with privSize := 0, coop := true, maxBlk := 1, span := 1 } })]
    blocks := [(B, { block0 with place := .saved, image := 0x100000 }), (B + 1, { block0 with idx := 1, place := .saved, image := 0x200000 })]
    parts := [(0, { part0 with inForce := { part0.inForce with piers := 0x11 }, share := 1024 })]
    dies := [(0, { root := 0x10000, clusters := [(0, { st := 0 }), (1, { st := 0 })] })] }
theorem witness_restore_coop : restoreAll coopSaved 1 1 0 1 0 = some [(1, 0, 1, 0), (0, 0, 0, 0)] ∧ savedSpans coopSaved 1 = [0, 1] ∧
    (getCluster coopSaved 0 1).st < 2 := by decide +kernel
/-! ## Witnesses: the registers and agents outside the core -/

theorem witness_l1ctl : (base.pier 0).l1ctl.getLsbD 0 ≠ (1 : Dword).getLsbD 0 ∧ (base.pier 0).l1ctl.getLsbD 1 ≠ (2 : Dword).getLsbD 1 ∧
    (base.pier 0).l1ctl = (0 : Dword).setWidth 2 := by decide +kernel
def fence1 : Fence := { id := 3, entries := [(0, 4)], mirror := false }
/-- An eyepiece with words, and a group parked at a fence whose entry has drained. -/
def eyes (inbox : List Dword) (outbox : List (Dword × Word × Nat)) : State :=
  { withBlock { block0 with grps := [(0, { active := true, park := .fence 3 3 })] } with
    fences := [fence1], dies := [(0, { eye := { inbox := inbox, outbox := outbox } })] }
theorem witness_outside : (base.block B).onPier = some 0 ∧ ((eyes (List.replicate 7 0) []).die 0).eye.inbox.length < 8 ∧
    8 ≤ ((eyes (List.replicate 8 0) []).die 0).eye.inbox.length ∧ ((eyes [] []).die 0).eye.outbox = [] ∧
    ((eyes [] [(1, 2, 3)]).die 0).eye.outbox = (1, 2, 3) :: [] ∧ (eyes [] []).fences.find? (fun x => x.id == 3) = some fence1 ∧
    (∀ e ∈ fence1.entries, ∀ y ∈ ((eyes [] []).core e.1).record, y.id ≠ e.2) ∧ ((eyes [] []).grp B 0).park = .fence 3 3 := by
  decide +kernel
def supervised : State := { base with launches := [(1, { launch1 with rec_ := { launchRec with supv := true } })] }
theorem witness_inbox : (supervised.block B).onPier = some 0 ∧ 0 / 64 = 0 ∧ (supervised.launch (supervised.block B).tag).rec_.supv = true ∧
    0 < (supervised.block B).groups := by decide +kernel

def migrating (m : Machine.Migration) : State := { base with dies := [(0, { mig := m })] }
theorem witness_migration : Memory.wf (migrating {}).mem = true ∧
    (∀ m ∈ [({ dst := 0x8000 } : Machine.Migration), { dst := 0x20000 }, { dst := 0x20000, busy := true, run := (0, 0x20000, 0) }],
      ((migrating m).die 0).mig = m ∧ (m.dst.toNat % migBytes m.size ≠ 0 ↔ m.dst = 0x8000) ∧ m.src.toNat % migBytes m.size = 0 ∧ m.size ≠ 3 ∧
      m.src.toNat / 2 ^ 41 = 0 ∧ m.dst.toNat / 2 ^ 41 = 0 ∧ ownedIn (migrating m) 0 (2 ^ 16) = [] ∧
      (m.busy = true → m.run.1 = 0 ∧ m.run.2.1 = 0x20000 ∧ migBytes m.run.2.2 = 2 ^ 16) ∧
      ownedIn (migrating m) m.dst.toNat (2 ^ 16) = []) := by decide +kernel

/-- A launch that waits for host page 3 under PASID 1. -/
def hostLaunch : Launch :=
  { launch1 with pinned := false, pasid := 1, rec_ := { launchRec with nLease := 1, leases := [(0xC000000000003000#64, 4096)] } }
def pageReq : PageReq := { part := 0, gen := 2, space := 1, page := 3 }
def hostAsking : State :=
  { launched hostLaunch block0 1000000 with parts := [(0, { part0 with gen := 2 })], pageReqs := [pageReq] }
theorem witness_pages : (1 : BitVec 4) ≠ (hostAsking.part 0).gen ∧ (2 : BitVec 4) = (hostAsking.part 0).gen ∧
    hostAsking.pageReqs.find? (fun r => r.part == 0 && r.gen == 2 && r.space % 2 ^ 20 == 1 && r.page == 3) = some pageReq ∧
    awake hostAsking = true ∧ pageNeeded (hostAsking.launch 1) 3 = true ∧
    hostAsking.hostPages.contains ((hostAsking.launch 1).pasid * 2 ^ 44 + 3) = false ∧
    ifaceUp hostAsking (hostAsking.launch 1).iface = true ∧
    (hostAsking.part 0).ageAt < hostAsking.now / 1000000 := by decide +kernel

/-- A write of an entry's first word, of a zone's controls without a command; a mapped queue. -/
theorem witness_window : (partState part0).part 0 = part0 ∧ part0.shrinking = false ∧ (0x21 : Dword).toNat &&& 0x9C = 0 ∧
    (0x15 : Dword).toNat / 64 % 4 = 0 ∧ awake base = true ∧ ((0x1FFFF8 : Nat) < 0x200000 ∨ 0x204000 ≤ 0x1FFFF8 ∨ 0x1FFFF8 % 0x1000 ≠ 0) ∧
    ((queued queue5 tableMem).queue 5).mapped = true ∧ 5 < 4096 := by decide +kernel

theorem witness_governor : (({ base with now := 10000 } : State).die 0).boundary < ({ base with now := 10000 } : State).now / 10000 ∧
    dieBlocks { base with blocks := [] } 0 = [] ∧ (getCluster base 0 0).boosted = false ∧
    (getCluster { base with dies := [(0, { clusters := [(3, { boosted := true })] })] } 0 3).boosted = true := by decide +kernel
def supplied : State := { base with now := 5, dies := [(0, { settleAt := 5, offset := 8, decayAt := 5, clusters := [(0, { limit := 5 })] })] }
theorem witness_supply : (supplied.die 0).settleAt ≠ 0 ∧ (supplied.die 0).offset ≠ 0 ∧ (supplied.die 0).decayAt ≤ supplied.now ∧
    (getCluster supplied 0 0).limit ≤ supplied.now := by decide +kernel

/-- A die with one cluster and its zone, and no block. -/
def powering (c : Cluster) (z : Zone) (now : Nat) : State :=
  { base with blocks := [], now := now, dies := [(0, { clusters := [(0, c)], zones := [(0, z)] })] }
theorem witness_gate : ∀ x ∈ [powering { st := 1 } {} 0, powering { st := 0 } { seqRuns := 1 } 0, powering { st := 0 } { seqRuns := 2 } 0],
    ((getCluster x 0 0).st = 1 ∨ (getCluster x 0 0).st = 0 ∧ (getZone x 0 0).seqRuns ≠ 0) ∧ clusterBlocks x 0 0 = [] ∧
    ∀ k ∈ [0, 1, 2, 3], (x.core (64 * 0 + 4 * 0 + k)).record = [] ∧ quadHolder x (64 * 0 + 4 * 0 + k) = none := by decide +kernel
theorem witness_wake : (getCluster (powering { st := 3, wakeAt := 7 } {} 7) 0 0).st = 3 ∧
    (getCluster (powering { st := 3, wakeAt := 7 } {} 7) 0 0).wakeAt ≤ (powering { st := 3, wakeAt := 7 } {} 7).now := by decide +kernel

/-- Shares of 1,000 beside one of 24, and of 25. -/
def sharing : State := { base with parts := [(1, { shareW := 1000 })] }
theorem witness_calloc :
    ((List.range 64).map (fun k => if k = 0 then (24 : Dword).toNat % 2048 else (sharing.part k).shareW)).sum = 1024 ∧
    1024 < ((List.range 64).map (fun k => if k = 0 then (25 : Dword).toNat % 2048 else (sharing.part k).shareW)).sum := by decide +kernel
theorem witness_zone : (getZone (powering {} { boundary := 0 } 10000) 0 0).boundary < (powering {} { boundary := 0 } 10000).now / 10000 := by
  decide +kernel
/-- Each condition at its limit of 100 µs: too hot, DP low, DP high; FLOW low needs the flow wanted, which is some value in a cluster's zone. -/
def trapping (b : Nat) (z : Zone) : State := powering {} { z with since := [(b, 1)] } 100000
theorem witness_zone_trap :
    ∀ x ∈ [(0, ({ temp := 961 } : Zone)), (1, { dp := 199 }), (2, { dp := 2001 })],
    tget 0 (getZone (trapping x.1 x.2) 0 0).since x.1 ≠ 0 ∧
    tget 0 (getZone (trapping x.1 x.2) 0 0).since x.1 - 1 + 100000 ≤ (trapping x.1 x.2).now ∧
    (getZone (trapping x.1 x.2) 0 0).trap.getLsbD x.1 = false ∧ trapHolds (trapping x.1 x.2) 0 0 x.1 = true := by decide +kernel
/-- FLOW 0 with a flow wanted. -/
def flowing : State := { trapping 3 { dp := 500 } with blocks := [(B, block0)], parts := [(0, { inForce := { v := true, piers := 1 }, share := 1024, shareW := 1024 })] }
theorem witness_zone_flow : tget 0 (getZone flowing 0 0).since 3 - 1 + 100000 ≤ flowing.now ∧
    (getZone flowing 0 0).trap.getLsbD 3 = false ∧ trapHolds flowing 0 0 3 = true := by decide +kernel

/-- A zone that has been dry for 2 ms, over a gated cluster and one at work. -/
def drying (st : Nat) : State := powering { st := st } { drySince := 1, dp := 199, rise := 33, riseNs := 1000000 } 2000000
theorem witness_zone_dry : (getZone (drying 2) 0 0).st = 0 ∧ (getZone (drying 2) 0 0).drySince ≠ 0 ∧
    (getZone (drying 2) 0 0).drySince - 1 + 2000000 ≤ (drying 2).now ∧ (getZone (drying 2) 0 0).dp < (getZone (drying 2) 0 0).dpMin ∧
    ((getZone (drying 2) 0 0).slope : Int) * (getZone (drying 2) 0 0).riseNs < (getZone (drying 2) 0 0).rise * 1000000 ∧
    gatedNow (drying 2) 0 0 = true ∧ gatedNow (drying 0) 0 0 = false ∧ (drying 2).package.moisture = false := by
  decide +kernel
/-- Priming at the end of a phase: closed, open and good at both limits, and open and bad at the second and third attempt. -/
def priming (z : Zone) : State := powering {} { z with st := 1, phaseEnd := 9 } 9
theorem witness_priming : ∀ z ∈ [({} : Zone), { opened := true, dp := 200 }, { opened := true, dp := 2000 },
      { opened := true, dp := 199, tries := 2 }, { opened := true, dp := 2001, tries := 3 }],
    (getZone (priming z) 0 0).st = 1 ∧ (getZone (priming z) 0 0).phaseEnd ≤ (priming z).now ∧ (priming z).package.moisture = false := by
  decide +kernel
theorem witness_zone_commands : (getZone (priming {}) 0 0).st ≠ 0 ∧ (getZone (drying 0) 0 0).st = 0 ∧ (getZone (drying 0) 0 0).seqRuns = 0 ∧
    (getZone (powering {} { st := 3 } 0) 0 0).st = 3 ∧ (getZone (powering {} { st := 4 } 0) 0 0).st = 4 := by decide +kernel

/-! ## Witnesses: the fleet -/

/-- Memory link 3 has been down for 10 ms, and trains. -/
def downLink : Port := { up := false, downAt := 1, training := true }
def linked : State :=
  { base with memLinks := [(3, downLink)], fabric := [(3, downLink)], now := 10000001, package := { nPkg := 1 } }
theorem witness_links : hasFlits (.memoryLink 3) = true ∧ (portGet linked (.memoryLink 3)).up = false ∧
    (portGet linked (.memoryLink 3)).downAt + 10000000 ≤ linked.now ∧ (portGet linked (.memoryLink 3)).training = true ∧
    (portGet linked (.memoryLink 3)).lost = false ∧ 1 ≠ linked.package.nodePos ∧ 1 ∈ nodeMembers linked ∧
    linked.package.warm = none ∧ (linked.part 0).reason = 0 := by decide +kernel
/-- A fabric port that trains, whose far end holds the package's own place. -/
def clashing : State := { linked with fabric := [(3, { downLink with peer := some 0 })] }
theorem witness_fabric_clash : (portGet clashing (.fabric 3)).training = true ∧
    (portGet clashing (.fabric 3)).peer = some clashing.package.nodePos ∧
    (portGet linked (.fabric 3)).peer ≠ some linked.package.nodePos := by decide +kernel
theorem witness_ethernet : (portGet base (.ethernet 0)).up = true ∧ (base.part 0).inForce.v = true ∧ base.frozen 0 = false ∧
    0x2000 % 64 + [(1 : Byte)].length ≤ 64 ∧ windowOf (BitVec.ofNat 64 0x2000) ≠ .host ∧
    xlatGlobal base 0 none (BitVec.ofNat 64 0x2000) 1 .write = .ok 0x2000 leaf ∧ Unowned base (physWords 0x2000 1) ∧
    windowOf (BitVec.ofNat 64 0x2000) = .global ∧ (∀ r ∈ base.rdmaReqs, r.id ≠ base.seq) ∧ NoLimits base 0 ∧
    queueRead base 0 ringPasid (BitVec.ofNat 64 0x2000) 2 = .ok [0, 0] false 1 := by unfold Unowned NoLimits; decide +kernel
theorem witness_soft_errors : (512 * 31 + 63) / 512 < 32 * (base.block B).groups ∧ (512 * 31 + 63) % 512 < (base.block B).window ∧
    4 * 1023 < (base.block B).scratchSize ∧ (128 * 127 + 127) / 128 < (base.block B).accRows := by decide +kernel
/-- A warm reset for a lost member that came at this instant, and one that came before. -/
def warming (now : Nat) : State := { base with now := now, package := { base.package with warm := some (3, 5) } }
theorem witness_warm : (warming 5).package.warm = some (3, (warming 5).now) ∧ (5 : Nat) ≠ (warming 6).now ∧
    (1 : Dword).getLsbD 0 = true ∧ (base.part (5 % 64)).reason = 0 ∧ base.package.warm = none := by decide +kernel
theorem witness_power : ({ base with powered := false } : State).powered = false ∧ base.package.warmStopped = false ∧
    base.boot.active ≤ 1 ∧ (base.launch 1).used = true ∧ (base.part 0).inForce.v = true := by decide +kernel

/-! ## Witnesses: application cores -/

/-- Hart 0 of partition 0, with interface 0 of that partition, and a word owned. -/
def harted : State :=
  { base with
    parts := [(0, { inForce := { v := true, quota := 256, harts := 1 } })]
    ifaces := [(0, { assigned := true, vf := some 0 })]
    cores := [(2048, { owned := [(0x800, 0x800)] })]
    harts := [(0, { resv := some (0x2000, 4), regs := [(5, 7)] })] }
theorem witness_hart : ∀ i ∈ [HartOp.load 6 0x2000 4 true, .lr 6 0x2000 4 true, .store 5 0x2000 4, .sc 6 5 0x2000 4 true, .zero 0x2010,
      .amo 6 5 0x2000 4 .add true true, .fence true true, .fenceI, .clean 0x2000, .flush 0x2000, .inval 0x2000],
    HartCan harted 0 0 i := by unfold HartCan; decide +kernel
theorem witness_hart_places : hartPlace harted 0 0x2000 = .memory leaf ∧ hartPlace harted 0 (2 ^ 46) = .notify 0 0 ∧
    hartPlace harted 0 (2 ^ 46 + 2 ^ 32) = .imsic 0 0 0 ∧ hartPlace harted 0 (2 ^ 47) = .none := by decide +kernel
theorem admits_harted (k : Nat) : Admits harted 0 k := fun _ => rfl
theorem witness_hart_reads : HartReads harted 0 0 0x2000 4 leaf (some 0) :=
  ⟨by decide +kernel, Or.inr ⟨by decide +kernel, Or.inr (Or.inr ⟨by decide +kernel, by decide +kernel, by decide +kernel,
    by decide +kernel, Or.inr (admits_harted 0)⟩)⟩⟩
/-- The same bytes in the core's L1, and in its L2 alone. -/
def hartedL1 : State := { harted with cores := [(2048, { l1 := [(0x800, 9)], owned := [(0x800, 0x800)] })] }
def hartedL2 : State := { harted with cores := [(2048, { l2 := (List.range 16).map (fun i => (0x800 + i, 9)), owned := [(0x800, 0x800)] })] }
theorem witness_hart_caches : HartReads hartedL1 0 0 0x2000 4 leaf (some 9) ∧ HartReads hartedL2 0 0 0x2000 4 leaf (some 9) :=
  ⟨⟨by decide +kernel, Or.inr ⟨by decide +kernel, Or.inl ⟨by decide +kernel, by decide +kernel⟩⟩⟩,
   ⟨by decide +kernel, Or.inr ⟨by decide +kernel, Or.inr (Or.inl ⟨by decide +kernel, by decide +kernel, by decide +kernel⟩)⟩⟩⟩
/-- The same bytes poisoned, and their page. -/
def hartedBad : State := { harted with memPoison := [0x2000 / 64] }
theorem witness_hart_poison : HartReads hartedBad 0 0 0x2000 4 leaf none ∧ pagePoison harted { leaf with p := true } 0x2000 = true :=
  ⟨⟨by decide +kernel, Or.inr ⟨by decide +kernel, Or.inr (Or.inr ⟨by decide +kernel, by decide +kernel, by decide +kernel,
    by decide +kernel, Or.inr fun _ => rfl⟩)⟩⟩, by decide +kernel⟩
theorem witness_hart_room :
    (∀ w ∈ physWords 0x2000 4, (tfind w (harted.core 2048).owned).isSome = true) ∧ HartRoom harted 0 0x2000 ∧ leaf.w = true ∧
    HartCan hartedBad 0 0 (.load 6 0x2000 4 true) ∧ HartCan harted 0 0 (.store 5 (2 ^ 46) 4) ∧
    HartCan harted 0 0 (.store 5 (2 ^ 46 + 2 ^ 32) 4) ∧ HartCan harted 0 0 (.load 6 (2 ^ 47) 4 true) := by
  unfold HartRoom HartCan; decide +kernel
/-- A page that may not be written. -/
def readOnly : State := { harted with mem := [(0x10000, 0x01), (0x10002, 0x02), (0x20000, 0x01), (0x20002, 0x03), (0x30000, 0x0B), (0x30001, 0x02)] }
theorem witness_hart_read_only : hartPlace readOnly 0 0x2000 = .memory { leaf with w := false } := by decide +kernel
theorem witness_hart_sc : hartReserved harted 0 0x2000 4 = true ∧ hartReserved harted 0 0x2004 4 = false := by decide +kernel
theorem witness_hart_amo : leaf.m = false ∧ leaf.a = true ∧ linkWaits harted 0x3000 = false ∧ hartHolds harted 0 (physWords 0x3000 4) = false ∧
    hartReleased (hartBegin harted 0) 0 = true ∧ hartPoison harted leaf 0x3000 = false ∧ HartCan harted 0 0 (.amo 6 5 0x3000 4 .add true true) ∧
    Unowned harted (physWords 0x3000 4) ∧ (harted.core 2048).record = [] := by unfold Unowned HartCan; decide +kernel
/-- A core whose record keeps a release from being complete. -/
def holdingCore : State :=
  { harted with cores := [(2048, { record := [{ id := 1, ctx := 2 ^ 60, chunk := 0x2000, stores := [{ lane := 0, seq := 0, be := 1, data := 0 }] }] })] }
theorem witness_hart_fence : hartReleased (hartBegin holdingCore 0) 0 = false := by decide +kernel

/-- An interrupt of mode S that is pending and enabled, and an identity of the machine file; nothing of either. -/
def interrupted (mip mie mst : Dword) (md : HartMode) : State :=
  { harted with harts := [(0, { resv := some (0x2000, 4), pc := 0x100, mode := md,
                                csrs := [(Csr.mip, mip), (Csr.mie, mie), (Csr.mstatus, mst)] })] }
theorem witness_hart_interrupt : awake (interrupted 2 2 2 .s) = true ∧ (hartAwake (interrupted 2 2 2 .s) 0).isSome = true ∧
    interruptOrder.find? (fun k => interruptPending ((interrupted 0x888 0x888 8 .m).hart 0) k &&
      interruptEnabled ((interrupted 0x888 0x888 8 .m).hart 0) k) = some 11 ∧
    interruptOrder.find? (fun k => interruptPending ((interrupted 0x80 0x80 0 .u).hart 0) k &&
      interruptEnabled ((interrupted 0x80 0x80 0 .u).hart 0) k) = some 7 := by decide +kernel
/-- Mode S under an Sv39 table at 0x40000, whose root entry for the address is not valid. -/
def paged : State :=
  { harted with harts := [(0, { mode := .s, csrs := [(Csr.satp, BitVec.ofNat 64 (8 * 2 ^ 60 + 0x40))] })] }
theorem witness_hart_translate : svTranslate paged 0 .load 0x2000 = .fault 13 0 ∧ 0x2000 % 4 = 0 ∧ (paged.hart 0).held = none ∧
    awake paged = true ∧ (hartAwake paged 0).isSome = true := by decide +kernel
theorem witness_hart_return : ((harted.hart 0).mode = .m ∧ (paged.hart 0).mode ≠ .m) ∧ (harted.hart 0).held = none ∧
    (hartAwake harted 0).isSome = true := by decide +kernel
/-! ## Witnesses: whole-machine rules -/

theorem witness_encode : (Instr.iadd plain).wf = true ∧ (Instr.iadd plain).opFields.isSome = true ∧ decodeWord 0 = .ok (.nop { plain with gp := 0 }) := by
  decide +kernel
theorem witness_mem_form : base.memWf ∧ base.safe ∧ ({ base with agenda := [.advance 1] } : State).agenda ≠ [] ∧
    nextHas (step base) (fun _ => true) = true := by
  refine ⟨⟨by decide +kernel, by decide +kernel⟩, fun t h => by simp [base, State.reset] at h, by decide +kernel, by decide +kernel⟩

/-- A run of scheduler 0 of pier 0, over a line of NOPs with these control bits. -/
def lineOf (ctl : Nat) : List Byte := List.replicate 60 0 ++ leBytes 4 (ctl + 2 ^ 16 * parOf 0)
def issuing (ctl : Nat) : State :=
  { base with agenda := [.issue 0 0], runs := [(0, { blk := B, grp := 0, lanes := 3 })], cores := [(0, { l1i := [(0, lineOf ctl)] })], cur := {} }
def preparedKind (s : State) : Nat :=
  match prepareIssue { s with agenda := [] } 0 0 with
  | .done _ => 0
  | .one a t => if nextHas (exec a.i t) (fun _ => true) then 1 else 9
  | .two a b t =>
    match exec a.i t with
    | .next u => if nextHas (exec b.i (secondSlot a b u)) (fun _ => true) then 2 else 9
    | _ => 9
/-- No run, a single slot, and a pair. -/
theorem witness_issue : preparedKind { issuing 0 with runs := [] } = 0 ∧ preparedKind (issuing 0) = 1 ∧ preparedKind (issuing 32) = 2 ∧
    awake (issuing 0) = true := by decide +kernel
theorem witness_event_turn : (Instr.moisture).wf = true ∧ (Instr.moisture).opFields = none ∧ answers base .moisture = true := by decide +kernel
/-- The state before the fetch, and after it. -/
def fetching : State := { issuing 0 with cur := { pier := 0, sched := 0, blk := B, grp := 0, lanes := lanesMask [0, 1], pc := 0, next := pcNext 0 } }
def fetched : State := (fetchLine fetching 0 1 0 0).1
theorem witness_step_decodes : budgetHeld (issuing 0) B 0 = false ∧ (issuing 0).run? 0 0 = some { blk := B, grp := 0, lanes := 3 } ∧ launchRuns (issuing 0) 1 = true ∧
    ((issuing 0).block B).onPier = some 0 ∧ (groupLanes 0 3).filter (fun l => laneFree (((issuing 0).block B).lane l)) = 0 :: [1] ∧
    (((issuing 0).block B).lane 0).pc = 0 ∧ (fetchLine fetching 0 1 0 0).2 = .line (lineOf 0) ∧ lineSound (lineOf 0) = true ∧
    linePair (lineOf 0) (pcSlot 0) = false ∧ decodeWord (lineSlot (lineOf 0) (pcSlot 0)) = .ok (.nop { plain with gp := 0 }) ∧
    decodeFault (lineSlot (lineOf 0) (pcSlot 0)) (fetched.launch (fetched.block B).tag).rec_ ((fetched.block B).lane 0).hmode = none ∧
    (∀ l ∈ 0 :: [1], ((fetched.block B).lane l).entering = false) ∧ (wordFields (lineSlot (lineOf 0) (pcSlot 0))).w = false ∧
    breakAt (fetched.pier 0) [0] = none := by decide +kernel

end Sys2Proof.Tests
end

/-! Proofs about the lanes of the issuing batch: what a change of the active lanes of its block gives, and the registers
and predicates that the results of an instruction leave. -/
namespace Sys2Proof.Machine
open Sys2Proof Sys2Proof.Claim

/-! ## Changes of the active lanes -/

theorem overLanes_congr {b : Block} {ls : List Nat} {g g' : Nat → Lane → Lane} (h : ∀ l ∈ ls, g l = g' l) :
    overLanes b ls g = overLanes b ls g' :=
  List.foldl_ext _ _ b (fun _ l hl => by rw [h l hl])

theorem block_updCurBlock (s : State) (g : Block → Block) : (s.updCurBlock g).block s.cur.blk = g (s.block s.cur.blk) :=
  State.block_setBlock ..

/-- A change of lanes of the issuing block is one of these lanes alone. -/
theorem onlyLanes_overLanes (s : State) (ls : List Nat) (g : Nat → Lane → Lane) :
    OnlyLanes s (s.updCurBlock (fun b => overLanes b ls g)) := by
  refine ⟨rfl, fun b hb => State.block_setBlock_ne _ _ hb, ?_⟩
  rw [block_updCurBlock]
  exact overLanes_eq ..

/-- Where the active lanes are changed by `g`, what `g` does to each of them is what the instruction does. -/
theorem perLane_overLanes {f : Fields} {s : State} {g : Nat → Lane → Lane} {P : Nat → Src → Lane → Lane → Prop}
    (h : ∀ l ∈ activeLanes f s, ∀ x, P l (s.src l) x (g l x)) :
    PerLane f s (s.updCurBlock (fun b => overLanes b (activeLanes f s) g)) P := by
  have hl : ∀ l, (s.updCurBlock (fun b => overLanes b (activeLanes f s) g)).lane s.cur.blk l =
      if l ∈ activeLanes f s then g l (s.lane s.cur.blk l) else s.lane s.cur.blk l := by
    intro l
    rw [State.lane_eq, block_updCurBlock]
    exact overLanes_lane _ (activeLanes_nodup f s) ..
  refine ⟨onlyLanes_overLanes .., fun l => ⟨fun ha => ?_, fun ha => ?_⟩⟩
  · rw [hl, if_pos ha]; exact h l ha _
  · rw [hl, if_neg ha]

@[simp] theorem raiseHere_nil (s : State) : raiseHere s [] = s := rfl

/-- An instruction none of whose lanes faults changes each active lane. -/
theorem perLaneF_of_ok {f : Fields} {s : State} {g : Nat → Src → Except LaneFault (Lane → Lane)} {h : Nat → Lane → Lane}
    (hg : ∀ l ∈ activeLanes f s, g l (s.src l) = .ok (h l)) :
    perLaneF f s g = s.updCurBlock (fun b => overLanes b (activeLanes f s) h) := by
  have hf : (activeLanes f s).filterMap (fun l => match g l (s.src l) with | .error e => some e | .ok _ => none) = [] := by
    rw [List.filterMap_eq_nil_iff]
    intro l hl
    simp only [hg l hl]
  have hb : ∀ b, overLanes b (activeLanes f s) (fun l x => match g l (s.src l) with | .ok h => h x | .error _ => x) =
      overLanes b (activeLanes f s) h := by
    intro b
    refine overLanes_congr (fun l hl => ?_)
    simp only [hg l hl]
  unfold perLaneF
  dsimp only
  exact (congrArg₂ raiseHere (congrArg s.updCurBlock (funext hb)) hf).trans (raiseHere_nil _)

/-! ## Results in registers and predicates -/

@[simp] theorem wordsOf_length (n : Nat) : ∀ v, (wordsOf n v).length = n := by
  induction n with
  | zero => intro v; rfl
  | succ n ih => intro v; rw [wordsOf, List.length_cons, ih]

theorem wordsOf_getD (n : Nat) : ∀ v k, k < n → (wordsOf n v).getD k 0 = BitVec.ofNat 32 (v / 2 ^ (32 * k)) := by
  induction n with
  | zero => intro v k hk; omega
  | succ n ih =>
    intro v k hk
    cases k with
    | zero => simp [wordsOf]
    | succ k =>
      rw [wordsOf, List.getD_cons_succ, ih _ _ (by omega), Nat.div_div_eq_div_mul, ← Nat.pow_add,
        show 32 + 32 * k = 32 * (k + 1) by omega]

/-- A write of registers leaves the rest of the lane. -/
theorem setRegs_eq (ws : List Word) : ∀ (l : Lane) (n : Nat), l.setRegs n ws = { l with regs := (l.setRegs n ws).regs } := by
  induction ws with
  | nil => intro l n; rfl
  | cons w ws ih => intro l n; exact ih (l.setReg n w) (n + 1)

theorem regsSet_setRegs (d n v : Nat) (l : Lane) : RegsSet d n v id l (l.setRegs d (wordsOf n v)) := by
  refine ⟨setRegs_eq .., fun k hk => ?_, fun k hk => ?_⟩
  · rw [Lane.reg_setRegs, if_pos ⟨by omega, by rw [wordsOf_length]; omega⟩, Nat.add_sub_cancel_left, wordsOf_getD _ _ _ hk]
  · rw [Lane.reg_setRegs, if_neg (by rw [wordsOf_length]; omega)]

/-- A write of one register is one of the single word of its value. -/
theorem regsSet_setReg (d v : Nat) (l : Lane) : RegsSet d 1 v id l (l.setReg d (BitVec.ofNat 32 v)) :=
  regsSet_setRegs d 1 v l

theorem getLsbD_ofNat_two_pow {w k : Nat} (hk : k < w) (d : Nat) : (BitVec.ofNat w (2 ^ d)).getLsbD k = decide (k = d) := by
  rw [BitVec.getLsbD_ofNat, Nat.testBit_two_pow]
  simp [hk, eq_comm]

theorem predSet_setPred (d : Nat) (v : Bool) (l : Lane) : PredSet d v id l (l.setPred d v) := by
  unfold Lane.setPred
  by_cases hd : d = 15
  · rw [if_pos hd]
    exact ⟨rfl, fun k _ => by simp [hd]⟩
  · rw [if_neg hd]
    refine ⟨rfl, fun k hk => ?_⟩
    have hb := getLsbD_ofNat_two_pow hk d
    dsimp only
    cases v with
    | true =>
      rw [if_pos rfl, BitVec.getLsbD_or, hb]
      by_cases he : k = d <;> simp [he, hd]
    | false =>
      rw [if_neg Bool.false_ne_true, BitVec.getLsbD_and, BitVec.getLsbD_not, hb]
      by_cases he : k = d <;> simp [he, hd, hk]

end Sys2Proof.Machine

/-! Reads of the launch's object table (R12, R113 to R116, R278, R342, R343): what a read leaves, and how the batch waits
where the budget is spent. -/
namespace Sys2Proof.Machine
open Sys2Proof Sys2Proof.Claim

/-! ## A read within the budget -/

/-- A state that differs from `s` in what a read of the object table may change: the number of the next free value, the
partitions' budgets, the lines of home slices and the U bits on their way. -/
def TableReadFrom (s u : State) : Prop :=
  (∃ n ps qs us, u = { s with free := n, parts := ps, piers := qs, uses := us }) ∧
  ∀ p, u.pier p = { s.pier p with slice := (u.pier p).slice }

theorem TableReadFrom.refl (s : State) : TableReadFrom s s := ⟨⟨_, _, _, _, rfl⟩, fun _ => rfl⟩

theorem TableReadFrom.draw (s : State) : TableReadFrom s { s with free := s.free + 1 } :=
  ⟨⟨_, _, _, _, rfl⟩, fun _ => rfl⟩

theorem TableReadFrom.charge {s u : State} (h : TableReadFrom s u) (p k q n : Nat) : TableReadFrom s (charge u p k q n) := by
  obtain ⟨⟨_, _, _, _, rfl⟩, hp⟩ := h
  exact ⟨⟨_, _, _, _, rfl⟩, hp⟩

theorem TableReadFrom.setU {s u : State} (h : TableReadFrom s u) (lf : Leaf) : TableReadFrom s (setU u lf) := by
  obtain ⟨⟨_, _, _, _, rfl⟩, hp⟩ := h
  rw [setU_frame]
  exact ⟨⟨_, _, _, _, rfl⟩, hp⟩

/-- A change of the lines of one home slice. -/
theorem TableReadFrom.slice {s u : State} (h : TableReadFrom s u) (p : Nat) (g : Pier → List (Nat × Nat)) :
    TableReadFrom s (u.updPier p (fun x => { x with slice := g x })) := by
  obtain ⟨⟨_, _, _, _, rfl⟩, hp⟩ := h
  refine ⟨⟨_, _, _, _, rfl⟩, fun k => ?_⟩
  rw [State.updPier_eq]
  by_cases hk : k = p
  · subst hk; rw [State.pier_setPier, hp]
  · rw [State.pier_setPier_ne _ _ hk]; exact hp k

theorem TableReadFrom.sliceFill {s u : State} (h : TableReadFrom s u) (part line : Nat) :
    TableReadFrom s (sliceFill u part line) := by
  unfold Machine.sliceFill
  dsimp only
  split
  · exact h.slice ..
  · exact h.slice ..

theorem sliceFill_uses (s : State) (part line : Nat) : (sliceFill s part line).uses = s.uses := by
  unfold sliceFill
  dsimp only
  split <;> rfl

/-- A read of an entry before it asks for U: the free value is drawn, and a read that reaches memory is charged and may fill
its home slice. -/
def objCharged (s : State) (i : Nat) : State :=
  let part := s.curLaunch.part
  let t : State := { s with free := s.free + 1 }
  match objFar s i with
  | some pa =>
    let al := allocates s part pa 0
    let v := charge t part 0 (curRun s) (if al then 128 else 64)
    if al then sliceFill v part (pa / 128) else v
  | none => t

theorem objCharged_from (s : State) (i : Nat) : TableReadFrom s (objCharged s i) := by
  have hd := TableReadFrom.draw s
  unfold objCharged
  cases objFar s i with
  | none => exact hd
  | some pa =>
    dsimp only
    split
    · exact (hd.charge ..).sliceFill ..
    · exact hd.charge ..

theorem objCharged_uses (s : State) (i : Nat) : (objCharged s i).uses = s.uses := by
  unfold objCharged
  cases objFar s i with
  | none => rfl
  | some pa =>
    dsimp only
    split
    · exact sliceFill_uses ..
    · rfl

theorem objTouched_out {s : State} {i : Nat} (h : s.curRec.objCount ≤ i) : objTouched s i = s := if_pos h

/-- What a read of an entry does: it asks for U of the leaf that translates the entry, where one does. -/
theorem objTouched_in {s : State} {i : Nat} (h : i < s.curRec.objCount) :
    (tableLeaf s i = none ∧ objTouched s i = objCharged s i) ∨
      ∃ lf, tableLeaf s i = some lf.addr ∧ objTouched s i = setU (objCharged s i) lf := by
  have ht : objTouched s i = match walkRoot s (ptrDie (objPtr s i)) s.curLaunch.part (ptrOff56 (objPtr s i)) with
      | .ok _ lf => setU (objCharged s i) lf
      | _ => objCharged s i := if_neg (Nat.not_le.mpr h)
  have hl : tableLeaf s i = match walkRoot s (ptrDie (objPtr s i)) s.curLaunch.part (ptrOff56 (objPtr s i)) with
      | .ok _ lf => some lf.addr
      | _ => none := rfl
  rw [ht, hl]
  cases walkRoot s (ptrDie (objPtr s i)) s.curLaunch.part (ptrOff56 (objPtr s i)) with
  | ok pa lf => exact .inr ⟨lf, rfl, rfl⟩
  | fault c k => exact .inl ⟨rfl, rfl⟩
  | waits => exact .inl ⟨rfl, rfl⟩

theorem objTouched_from (s : State) (i : Nat) : TableReadFrom s (objTouched s i) := by
  rcases Nat.lt_or_ge i s.curRec.objCount with h | h
  · obtain ⟨_, ht⟩ | ⟨lf, _, ht⟩ := objTouched_in h
    · rw [ht]; exact objCharged_from s i
    · rw [ht]; exact (objCharged_from s i).setU lf
  · rw [objTouched_out h]; exact .refl s

/-! What a state after a read of the table shares with the state before it. -/

section
variable {s u : State} (h : TableReadFrom s u)
include h

theorem TableReadFrom.frame : u = { s with free := u.free, parts := u.parts, piers := u.piers, uses := u.uses } := by
  obtain ⟨⟨_, _, _, _, rfl⟩, _⟩ := h; rfl

theorem TableReadFrom.cur : u.cur = s.cur := by
  obtain ⟨⟨_, _, _, _, rfl⟩, _⟩ := h; rfl

theorem TableReadFrom.mem : u.mem = s.mem := by
  obtain ⟨⟨_, _, _, _, rfl⟩, _⟩ := h; rfl

theorem TableReadFrom.src (l : Nat) : u.src l = s.src l := by
  obtain ⟨⟨_, _, _, _, rfl⟩, _⟩ := h; rfl

theorem TableReadFrom.activeLanes (f : Fields) : activeLanes f u = activeLanes f s := by
  obtain ⟨⟨_, _, _, _, rfl⟩, _⟩ := h; rfl

theorem TableReadFrom.absentLines (b l : Nat) (p : Dword) (n : Nat) : absentLines u b l p n = absentLines s b l p n := by
  obtain ⟨⟨_, _, _, _, rfl⟩, _⟩ := h; rfl

end

theorem modeTouched_from (f : Fields) (s : State) : TableReadFrom s (modeTouched f s) := by
  unfold modeTouched
  split
  · exact objTouched_from ..
  · exact .refl s

/-! ## The U bits that are asked for (R278) -/

theorem mem_addTo {x a : Nat} {l : List Nat} : a ∈ addTo x l ↔ a = x ∨ a ∈ l := by
  unfold addTo
  split
  · rename_i h
    exact ⟨.inr, fun ha => ha.elim (fun e => e ▸ List.contains_iff_mem.mp h) id⟩
  · rw [List.mem_append, List.mem_singleton, or_comm]

/-- A leaf that is used has U set already, or U is asked for. -/
theorem setU_asks (s : State) (lf : Leaf) :
    (rdByte s.mem (lf.addr + 1)).getLsbD 1 = true ∨ lf.addr ∈ (setU s lf).uses := by
  unfold setU
  split
  · exact .inl ‹_›
  · exact .inr (mem_addTo.mpr (.inl rfl))

/-- The use of a leaf asks for no U but its own. -/
theorem mem_setU_uses {s : State} {lf : Leaf} {a : Nat} (h : a ∈ (setU s lf).uses) : a ∈ s.uses ∨ a = lf.addr := by
  unfold setU at h
  split at h
  · exact .inl h
  · exact (mem_addTo.mp h).symm

theorem objTouched_asks {s : State} {i a : Nat} (hi : i < s.curRec.objCount) (ha : tableLeaf s i = some a) :
    (rdByte s.mem (a + 1)).getLsbD 1 = true ∨ a ∈ (objTouched s i).uses := by
  obtain ⟨hn, _⟩ | ⟨lf, hs, ht⟩ := objTouched_in hi
  · rw [hn] at ha; cases ha
  · rw [hs] at ha; cases ha
    rw [ht, ← (objCharged_from s i).mem]
    exact setU_asks ..

theorem mem_objTouched_uses {s : State} {i a : Nat} (h : a ∈ (objTouched s i).uses) :
    a ∈ s.uses ∨ tableLeaf s i = some a := by
  rcases Nat.lt_or_ge i s.curRec.objCount with hi | hi
  · obtain ⟨_, ht⟩ | ⟨lf, hs, ht⟩ := objTouched_in hi
    · rw [ht, objCharged_uses] at h; exact .inl h
    · rw [ht] at h
      obtain h | rfl := mem_setU_uses h
      · rw [objCharged_uses] at h; exact .inl h
      · exact .inr hs
  · rw [objTouched_out hi] at h; exact .inl h

theorem memOffset_long (f : Fields) : memOffset false f = f.imm.toInt := by
  rw [memOffset, if_neg Bool.false_ne_true, toInt, BitVec.ofNat_toNat, BitVec.setWidth_eq]

/-! ## A read for which the budget is spent (R343) -/

theorem retryLanes_lane (s : State) {ls : List Nat} (hn : ls.Nodup) (p : Park) (l : Nat) :
    (retryLanes s ls p).lane s.cur.blk l =
      if l ∈ ls then { (s.lane s.cur.blk l).back s l with park := p } else s.lane s.cur.blk l := by
  change ((s.updCurBlock (fun b => overLanes b ls (fun l y => { y.back s l with park := p }))).block s.cur.blk).lane l = _
  rw [block_updCurBlock]
  exact overLanes_lane _ hn ..

/-- A lane that is taken back to its slot goes back as R57 says. -/
theorem goesBack_back (s : State) (l : Nat) (p : Park) (x : Lane) : GoesBack s l p x { x.back s l with park := p } := by
  refine ⟨rfl, fun h => ?_, fun h => ?_⟩
  · simp only [Lane.back, h, Option.isSome_none, Bool.false_eq_true, if_false]
  · simp only [Lane.back, Option.isSome_iff_ne_none.mpr h, if_true]

/-- A retry changes lanes and the issuing batch. -/
theorem retryLanes_frame (s : State) (ls : List Nat) (p : Park) :
    ∃ b c, retryLanes s ls p = { s with blocks := b, cur := c } := ⟨_, _, rfl⟩

/-- A batch that waits for a read of the table stalls its partition and goes back to its slot. -/
theorem objStay_frame (s : State) :
    objStay s = { s with blocks := (objStay s).blocks, parts := (objStay s).parts, cur := (objStay s).cur } := by
  obtain ⟨b, c, h⟩ := retryLanes_frame (stall s s.curLaunch.part 0 (curRun s)) s.curLanes .run
  have hs : objStay s = { stall s s.curLaunch.part 0 (curRun s) with blocks := b, cur := c } := h
  rw [hs]
  rfl

theorem objStay_lane (s : State) (l : Nat) :
    (l ∈ s.curLanes → GoesBack s l .run (s.lane s.cur.blk l) ((objStay s).lane s.cur.blk l)) ∧
    (l ∉ s.curLanes → (objStay s).lane s.cur.blk l = s.lane s.cur.blk l) := by
  have h : (objStay s).lane s.cur.blk l = _ :=
    retryLanes_lane (stall s s.curLaunch.part 0 (curRun s)) (curLanes_nodup s) .run l
  rw [h]
  refine ⟨fun hl => ?_, fun hl => ?_⟩
  · rw [if_pos hl]
    exact goesBack_back s l .run _
  · rw [if_neg hl]
    rfl

theorem withTable_waits {i : Nat} {s : State} (h : objWaits s i = true) (go : State → State) :
    withTable i s go = objStay s := if_pos h

theorem withTable_reads {i : Nat} {s : State} (h : objWaits s i = false) (go : State → State) :
    withTable i s go = go (objTouched s i) := if_neg (Bool.eq_false_iff.mp h)

theorem withMode_waits {f : Fields} {s : State} (hm : f.mode1 = true) (h : objWaits s f.sc.toNat = true) (go : State → State) :
    withMode f s go = objStay s := if_pos (by rw [modeWaits, hm, h]; rfl)

theorem withMode_reads {f : Fields} {s : State} (h : modeWaits f s = false) (go : State → State) :
    withMode f s go = go (modeTouched f s) := if_neg (Bool.eq_false_iff.mp h)

/-- Every instruction that reads the table stays where the budget is spent. -/
theorem exec_tableWaits {f : Fields} {s : State} {mk : Fields → Instr} (h : objWaits s f.sc.toNat = true)
    (hmk : mk ∈ [Instr.objq, .objptr] ∨
      f.mode1 = true ∧ mk ∈ [Instr.ld, .st, .atom, .atomcas, .red, .pfch, .cdrop, .prstest]) :
    exec (mk f) s = .next (objStay s) := by
  rcases hmk with hmk | ⟨hm, hmk⟩
  · simp only [List.mem_cons, List.not_mem_nil, or_false] at hmk
    rcases hmk with rfl | rfl <;> exact congrArg Host.Outcome.next (withTable_waits h _)
  · simp only [List.mem_cons, List.not_mem_nil, or_false] at hmk
    rcases hmk with rfl | rfl | rfl | rfl | rfl | rfl | rfl | rfl <;>
      exact congrArg Host.Outcome.next (withMode_waits hm h _)

/-! ## U is set at its home (R278) -/

/-- A word that no core owns has only its place in the directory to lose. -/
theorem clearOwner_unowned {s : State} {w : Nat} (h : ∀ c ∈ s.cores, ∀ o ∈ c.2.owned, o.2 ≠ w) :
    clearOwner s w = { s with dir := tdel w s.dir } := by
  have hf : s.cores.foldl (fun (t : State) (c : Nat × Core) =>
      if c.2.owned.any (fun o => o.2 == w) then revokeAt t c.1 w else t) s = s := by
    refine List.foldlRecOn (motive := (· = s)) _ _ rfl (fun t ht c hc => ?_)
    have hn : c.2.owned.any (fun o => o.2 == w) = false :=
      List.any_eq_false.mpr (fun o ho => by simpa using h c hc o ho)
    rw [hn]
    exact ht
  rw [clearOwner, hf]

theorem useMark_unowned {s : State} {a : Nat} (ha : a ∈ s.uses) (hl : linkWaits s a = false)
    (ho : ∀ c ∈ s.cores, ∀ o ∈ c.2.owned, o.2 ≠ a / 4) (h0 : (rdNat s.mem a 8).testBit 0 = true)
    (h1 : (rdNat s.mem a 8).testBit 1 = true) :
    useMark s a = homeWrite { s with uses := s.uses.filter (· ≠ a), dir := tdel (a / 4) s.dir } (a + 1)
      [rdByte s.mem (a + 1) ||| 2] := by
  have hc : clearOwners { s with uses := s.uses.filter (· != a) } [a / 4] =
      { s with uses := s.uses.filter (· ≠ a), dir := tdel (a / 4) s.dir } := by
    rw [clearOwners, List.foldl_cons, List.foldl_nil, clearOwner_unowned (by exact ho)]
    simp only [ne_eq, decide_not, bne, beq_eq_decide]
  unfold useMark
  dsimp only
  rw [hc, if_neg (by simp [ha, hl])]
  exact if_pos (by rw [h0, h1]; rfl)

end Sys2Proof.Machine

/-! The statement about pointers and the object table, part by part. -/
namespace Sys2Proof.Claim
open Sys2Proof.Machine

/-! ## The instructions -/

theorem exec_sptest (f : Fields) (s : State) :
    ∃ u, exec (.sptest f) s = .next u ∧ PerLane f s u (fun _ x l l' =>
      PredSet f.d.toNat (if f.subBits 34 32 = 6 then (spaceCheck s s.cur.blk (x.pair f.sa.toNat) 1).isNone
        else spaceWindow (f.subBits 34 32) == some (windowOf (x.pair f.sa.toNat))) id l l') := by
  refine ⟨_, rfl, perLane_overLanes (fun l _ y => ?_)⟩
  dsimp only
  generalize f.subBits 34 32 = w
  rcases eq_or_ne w 6 with rfl | hw
  · exact predSet_setPred ..
  · rw [if_neg hw]
    split
    · contradiction
    · exact predSet_setPred ..

theorem exec_objq {f : Fields} {s : State} (h : objWaits s f.sc.toNat = false) :
    ∃ u, exec (.objq f) s = .next u ∧ PerLane f (objTouched s f.sc.toNat) u (fun n _ l l' =>
      let e := (objEntry (objTouched s f.sc.toNat) n f.sc.toNat).getD { base := 0, size := 0, attr := 0 }
      if f.subBits 33 32 = 0 then RegsSet f.d.toNat 2 e.size id l l'
      else if f.subBits 33 32 = 1 then RegsSet f.d.toNat 2 e.base.toNat id l l'
      else RegsSet f.d.toNat 1 (e.attr % 2 ^ 16) id l l') := by
  refine ⟨_, congrArg Host.Outcome.next (withTable_reads h _), perLane_overLanes (fun l _ y => ?_)⟩
  dsimp only
  generalize f.subBits 33 32 = w
  match w with
  | 0 => exact regsSet_setRegs ..
  | 1 => exact regsSet_setRegs ..
  | w + 2 => exact regsSet_setReg ..

theorem exec_spcast {f : Fields} {s : State} {v : Nat → Dword} (h : ∀ l ∈ activeLanes f s, spcast f s l (s.src l) = some (v l)) :
    ∃ u, exec (.spcast f) s = .next u ∧ PerLane f s u (fun n _ l l' => RegsSet f.d.toNat 2 (v n).toNat id l l') := by
  have hu := perLaneF_of_ok (f := f) (s := s)
    (g := fun l x => match spcast f s l x with
      | some v => .ok (fun y => y.setRegs f.d.toNat (wordsOf 2 v.toNat))
      | none => .error { lane := l, code := Code.spaceInvalid, open_ := true })
    (h := fun l y => y.setRegs f.d.toNat (wordsOf 2 (v l).toNat)) (fun l hl => by simp only [h l hl])
  exact ⟨_, congrArg Host.Outcome.next hu, perLane_overLanes (fun l _ y => regsSet_setRegs ..)⟩

/-- The offset into its object that a lane's pointer has (R130). -/
def objOffset (f : Fields) (x : Src) : Int := ((x.reg f.sa.toNat).toNat : Int) + f.imm.toInt

/-- Where no lane's offset leaves its object, each active lane gets the pointer. -/
theorem objptrAt_inside {f : Fields} {s : State} {e : Nat → Obj}
    (he : ∀ l ∈ activeLanes f s, objEntry s l f.sc.toNat = some (e l) ∧ 0 ≤ objOffset f (s.src l) ∧
      objOffset f (s.src l) ≤ (e l).size) :
    objptrAt f s = s.updCurBlock (fun b => overLanes b (activeLanes f s) (fun l y =>
      y.setRegs f.d.toNat (wordsOf 2 ((e l).base + BitVec.ofInt 64 (objOffset f (s.src l))).toNat))) := by
  unfold objptrAt
  dsimp only
  rw [perLaneF_of_ok]
  intro l hl
  obtain ⟨hs, h0, h1⟩ := he l hl
  have hb : (decide (objOffset f (s.src l) < 0) || decide (((e l).size : Int) < objOffset f (s.src l))) = false := by
    simp only [Bool.or_eq_false_iff, decide_eq_false_iff_not]
    omega
  unfold objOffset at hb
  simp only [hs, memOffset_long, hb, Bool.false_eq_true, if_false, objOffset]

theorem exec_objptr {f : Fields} {s : State} {e : Nat → Obj} (h : objWaits s f.sc.toNat = false)
    (he : ∀ l ∈ activeLanes f s, objEntry (objTouched s f.sc.toNat) l f.sc.toNat = some (e l) ∧
      0 ≤ objOffset f (s.src l) ∧ objOffset f (s.src l) ≤ (e l).size) :
    ∃ u, exec (.objptr f) s = .next u ∧ PerLane f (objTouched s f.sc.toNat) u (fun n x l l' =>
      RegsSet f.d.toNat 2 ((e n).base + BitVec.ofInt 64 (objOffset f x)).toNat id l l') := by
  have hr := objTouched_from s f.sc.toNat
  simp only [← hr.activeLanes, ← hr.src] at he
  exact ⟨_, congrArg Host.Outcome.next ((withTable_reads h _).trans (objptrAt_inside he)),
    perLane_overLanes (fun l _ y => regsSet_setRegs ..)⟩

theorem exec_prstest {f : Fields} {s : State} {ptr : Nat → Dword} (h : modeWaits f s = false)
    (hp : ∀ l ∈ activeLanes f s, effective f (modeTouched f s) l false .rd 1 false = .ok (ptr l)) :
    ∃ u, exec (.prstest f) s = .next u ∧ PerLane f (modeTouched f s) u (fun n _ l l' =>
      PredSet f.d.toNat (absentLines s s.cur.blk n (ptr n) 1).isEmpty id l l') := by
  have hr := modeTouched_from f s
  refine ⟨_, congrArg Host.Outcome.next ((withMode_reads h _).trans (perLaneF_of_ok (h := fun l y =>
    y.setPred f.d.toNat (absentLines s s.cur.blk l (ptr l) 1).isEmpty) (fun l hl => ?_))),
    perLane_overLanes (fun l _ y => predSet_setPred ..)⟩
  rw [hr.activeLanes] at hl
  simp only [hp l hl, hr.absentLines, hr.cur]

/-! ## The parts and the whole -/

theorem pointerQueries : PointerQueries := ⟨exec_sptest, fun _ _ h => exec_objq h⟩

theorem pointerMaking : PointerMaking :=
  ⟨fun _ _ _ h => exec_spcast h, fun _ _ _ h he => exec_objptr h he, fun _ _ _ h hp => exec_prstest h hp⟩

theorem tableReads : TableReads := by
  refine ⟨fun f s h => ?_, fun f s h => ?_, fun s i => ?_, fun f s h mk hmk => ?_, fun s a ha hl ho h0 h1 => ?_⟩
  · exact ⟨by rw [modeWaits, h]; rfl, if_neg (by rw [h]; decide)⟩
  · exact ⟨by rw [modeWaits, h]; rfl, if_pos h⟩
  · have hr := objTouched_from s i
    exact ⟨hr.frame, hr.2, objTouched_out, fun hi a => objTouched_asks hi, fun a => mem_objTouched_uses⟩
  · exact ⟨_, exec_tableWaits h hmk, objStay_frame s, objStay_lane s⟩
  · rw [useMark_unowned ha hl ho h0 h1]
    refine ⟨rfl, fun x => ?_⟩
    refine (rdByte_wrByte s.mem (a + 1) x _).trans ?_
    rcases eq_or_ne x (a + 1) with rfl | hx
    · rw [if_pos rfl]
    · rw [if_neg hx, if_neg hx]

/-- Settles O19: each instruction changes its active lanes alone, from a state in which the read of the object table has
changed no lane, no block and no memory; a read that waits takes the batch back to its slot. -/
theorem pointers : Obligations.Pointers := ⟨pointerQueries, pointerMaking, tableReads⟩

end Sys2Proof.Claim

/-! Results that an instruction writes to the registers of its lanes, at once or as outstanding results (R19, R56, R60). -/
namespace Sys2Proof.Claim
open Sys2Proof Sys2Proof.Machine

/-! ## Results written at once -/

/-- Flags added to FPSTAT leave the registers of a result. -/
theorem RegsSet.flag {d n v : Nat} {x y : Lane} (h : RegsSet d n v id x y) (q : Flags) :
    RegsSet d n v (fun z => { z with fpstat := z.fpstat ||| q }) x (y.flag q) := by
  obtain ⟨hy, hin, hout⟩ := h
  refine ⟨?_, hin, hout⟩
  rw [hy]
  rfl

theorem Writes.of_aluT {mk : Fields → Instr} {ty : Fields → Ty} {val : Fields → Src → Nat}
    (h : ∀ f s, exec (mk f) s = .next (aluT f s (ty f) (val f))) : Writes mk ty val := fun f s =>
  ⟨_, h f s, perLane_overLanes (fun _ _ _ => regsSet_setRegs ..)⟩

theorem WritesF.of_aluF {mk : Fields → Instr} {ty : Fields → Ty} {val : Fields → State → Src → Nat × Flags}
    (h : ∀ f s, exec (mk f) s = .next (aluF f s (ty f) (val f s))) : WritesF mk ty val := fun f s =>
  ⟨_, h f s, perLane_overLanes (fun _ _ _ => (regsSet_setRegs ..).flag _)⟩

/-- An instruction that writes results completes, and changes lanes with guard 1 alone. -/
theorem WritesF.completes {mk : Fields → Instr} {ty : Fields → Ty} {val : Fields → State → Src → Nat × Flags}
    (h : WritesF mk ty val) (f : Fields) (s : State) :
    ∃ u, exec (mk f) s = .next u ∧ OnlyLanes s u ∧
      ∀ l, l ∉ activeLanes f s → u.lane s.cur.blk l = s.lane s.cur.blk l :=
  let ⟨u, hu, ho, hl⟩ := h f s
  ⟨u, hu, ho, fun l => (hl l).2⟩

/-! ## Outstanding results -/

/-- Results that become outstanding one after the other take the order numbers that come next. -/
theorem foldl_pushL {α : Type} (r : α → LRes) (ls : List α) : ∀ s : State,
    ls.foldl (fun t l => pushL t (r l)) s =
      { s with lres := s.lres ++ (ls.zipIdx s.seq).map (fun p => { r p.1 with id := p.2 }), seq := s.seq + ls.length } := by
  induction ls with
  | nil => intro s; simp
  | cons a ls ih =>
    intro s
    rw [List.foldl_cons, ih]
    simp [pushL, State.tick, List.zipIdx_cons, Nat.add_assoc, Nat.add_comm 1]

/-- One result for each lane of the list, in order: nothing else changes. -/
theorem foldl_pushL_lanes {r : Nat → LRes} (hr : ∀ l, (r l).lane = l) (ls : List Nat) (s : State) :
    let u := ls.foldl (fun t l => pushL t (r l)) s
    u = { s with lres := u.lres, seq := u.seq } ∧
    ∃ new : List LRes, u.lres = s.lres ++ new ∧ new.map (·.lane) = ls ∧
      ∀ x ∈ new, s.seq ≤ x.id ∧ x = { r x.lane with id := x.id } := by
  intro u
  have hu : u = _ := foldl_pushL r ls s
  rw [hu]
  refine ⟨rfl, _, rfl, ?_, fun x hx => ?_⟩
  · simp [List.map_map, Function.comp_def, hr]
  · obtain ⟨p, hp, rfl⟩ := List.mem_map.mp hx
    exact ⟨List.le_snd_of_mem_zipIdx hp, by simp only [hr]⟩

theorem Starts.of_perLaneL {mk : Fields → Instr} {ty : Fields → Ty} {val : Fields → State → Nat → Nat × Flags}
    {g : Fields → State → Src → Nat × Flags} (h : ∀ f s, exec (mk f) s = .next (perLaneL f s (g f s) (ty f)))
    (hg : ∀ f s l, g f s (s.src l) = val f s l) : Starts mk ty val := by
  intro f s
  obtain ⟨hu, new, hn, hl, hx⟩ := foldl_pushL_lanes (r := fun l =>
    { id := 0, blk := s.cur.blk, lane := l, regs := regPairs f.d.toNat (resT (ty f) (g f s (s.src l)).1),
      flags := (g f s (s.src l)).2 }) (fun _ => rfl) (activeLanes f s) s
  refine ⟨_, h f s, hu, new, hn, hl, fun r hr => ?_⟩
  obtain ⟨hid, hr⟩ := hx r hr
  rw [hr, ← hg]
  exact ⟨rfl, rfl, rfl, hid, rfl, rfl⟩

/-! ## Operands as numbers below 2^n -/

theorem opA_lt (f : Fields) (x : Src) : opA f x < 2 ^ f.t.bits := Nat.mod_lt _ (Nat.two_pow_pos _)

theorem immT_lt (t : Ty) (w : Word) : immT t w < 2 ^ t.bits := by
  by_cases h : t = .s64
  · subst h; exact (BitVec.ofInt 64 _).isLt
  · have : immT t w = w.toNat % 2 ^ t.bits := by cases t <;> first | rfl | exact absurd rfl h
    rw [this]
    exact Nat.mod_lt _ (Nat.two_pow_pos _)

theorem opB_lt (f : Fields) (x : Src) : opB f x < 2 ^ f.t.bits := by
  unfold opB rdB
  split
  · exact immT_lt ..
  · exact Nat.mod_lt _ (Nat.two_pow_pos _)

theorem bitsA_toNat (f : Fields) (x : Src) : (bitsA f x).toNat = opA f x := by
  rw [bitsA, BitVec.toNat_ofNat, Nat.mod_eq_of_lt (opA_lt f x)]

end Sys2Proof.Claim

/-! Shifts and rotates (R22). -/
namespace Sys2Proof.Claim
open Sys2Proof Sys2Proof.Machine

/-- An instruction that shifts by its second source writes what `sh` makes of its first, by the count modulo the width. -/
theorem Writes.of_shiftBy {op : Nat} {mk : Fields → Instr} {sh : (n : Nat) → BitVec n → Nat → BitVec n}
    (h : ∀ f s, exec (mk f) s = .next (shiftBy op f s))
    (hs : ∀ t a c, a < 2 ^ t.bits → shiftT op t a c = (sh t.bits (BitVec.ofNat _ a) (c % t.bits)).toNat) :
    Writes mk ofT (fun f x => (sh f.t.bits (bitsA f x) (wordB f x % f.t.bits)).toNat) := by
  refine Writes.of_aluT (fun f s => (h f s).trans ?_)
  have hv : ∀ x, shiftT op f.t (opA f x) (wordB f x) = (sh f.t.bits (bitsA f x) (wordB f x % f.t.bits)).toNat :=
    fun x => hs _ _ _ (opA_lt f x)
  rw [← funext hv]
  rfl

theorem shiftT_shl (t : Ty) (a c : Nat) (h : a < 2 ^ t.bits) :
    shiftT 0x15 t a c = (BitVec.ofNat t.bits a <<< (c % t.bits)).toNat := by
  rw [BitVec.toNat_shiftLeft, BitVec.toNat_ofNat, Nat.mod_eq_of_lt h]
  rfl

theorem shiftT_shr (t : Ty) (a c : Nat) (h : a < 2 ^ t.bits) :
    shiftT 0x16 t a c = (BitVec.ofNat t.bits a >>> (c % t.bits)).toNat := by
  rw [BitVec.toNat_ushiftRight, BitVec.toNat_ofNat, Nat.mod_eq_of_lt h]
  rfl

theorem shiftT_rotl (t : Ty) (a c : Nat) (h : a < 2 ^ t.bits) :
    shiftT 0x18 t a c = ((BitVec.ofNat t.bits a).rotateLeft (c % t.bits)).toNat := by
  have hr : a >>> (t.bits - c % t.bits) < 2 ^ t.bits := Nat.lt_of_le_of_lt (Nat.shiftRight_le ..) h
  rw [BitVec.toNat_rotateLeft, Nat.mod_mod, BitVec.toNat_ofNat, Nat.mod_eq_of_lt h]
  show (a <<< (c % t.bits) ||| a >>> (t.bits - c % t.bits)) % 2 ^ t.bits = _
  rw [Nat.or_mod_two_pow, Nat.mod_eq_of_lt hr]

/-- Settles O3: the model's shift of a number is the shift of its bits, one law for each opcode; SAR's is how bit vectors
shift arithmetically. -/
theorem shiftsAndRotates : Obligations.ShiftsAndRotates :=
  ⟨.of_shiftBy (fun _ _ => rfl) shiftT_shl, .of_shiftBy (fun _ _ => rfl) shiftT_shr,
    .of_shiftBy (sh := fun _ => BitVec.sshiftRight) (fun _ _ => rfl) (fun _ _ _ _ => rfl),
    .of_shiftBy (sh := fun _ => BitVec.rotateLeft) (fun _ _ => rfl) shiftT_rotl⟩

end Sys2Proof.Claim

/-! The float instructions that complete at once (R29, R90, R93). -/
namespace Sys2Proof.Claim
open Sys2Proof Sys2Proof.Machine

theorem floatArithmetic : FloatArithmetic :=
  ⟨.of_aluF fun _ _ => rfl, .of_aluF fun _ _ => rfl, .of_aluF fun _ _ => rfl, .of_aluF fun _ _ => rfl,
    .of_aluF fun _ _ => rfl, .of_aluF fun _ _ => rfl, .of_aluF fun _ _ => rfl, .of_aluF fun _ _ => rfl,
    .of_aluF fun _ _ => rfl, .of_aluF fun _ _ => rfl⟩

theorem approximateResults : ApproximateResults :=
  ⟨.of_aluF fun _ _ => rfl, .of_aluF fun _ _ => rfl, .of_aluF fun _ _ => rfl, .of_aluF fun _ _ => rfl,
    .of_aluF fun _ _ => rfl, .of_aluF fun _ _ => rfl, .of_aluF fun _ _ => rfl, .of_aluF fun _ _ => rfl⟩

theorem floatFormsComplete : FloatFormsComplete := by
  obtain ⟨add, sub, mul, min, max, fma, dot2, scale, frac, rnd⟩ := floatArithmetic
  obtain ⟨rcp, rsq, exp2, log2, sin, cos, tanh, sigm⟩ := approximateResults
  unfold FloatFormsComplete
  simp only [List.forall_mem_cons]
  exact ⟨add.completes, sub.completes, mul.completes, fma.completes, min.completes, max.completes, rcp.completes,
    rsq.completes, exp2.completes, log2.completes, sin.completes, cos.completes, tanh.completes, sigm.completes,
    dot2.completes, scale.completes, frac.completes, rnd.completes, fun _ h => absurd h List.not_mem_nil⟩

/-- Settles O7: each instruction writes the result of its rule to its lanes with guard 1, so it completes. -/
theorem floatResults : Obligations.FloatResults := ⟨floatArithmetic, approximateResults, floatFormsComplete⟩

end Sys2Proof.Claim

/-! Division, square root and quantisation (R21, R31, R56, R98). -/
namespace Sys2Proof.Claim
open Sys2Proof Sys2Proof.Machine

theorem ofInt_natCast {n v : Nat} (h : v < 2 ^ n) : ofInt n (v : Int) = v := by
  rw [ofInt, BitVec.ofInt_natCast, BitVec.toNat_ofNat, Nat.mod_eq_of_lt h]

/-- The quotient of R21 as one of integers; that of unsigned operands is no larger than the dividend. -/
theorem divRem_quotient {t : Ty} {a : Nat} (b : Nat) (ha : a < 2 ^ t.bits) :
    divRem false t a b = if b = 0 then 2 ^ t.bits - 1 else ofInt t.bits ((valT t a).tdiv (valT t b)) := by
  cases hs : t.signed with
  | true => simp [divRem, hs]
  | false =>
    have hq : ofInt t.bits ((a : Int).tdiv b) = a / b :=
      ofInt_natCast (Nat.lt_of_le_of_lt (Nat.div_le_self ..) ha)
    simp only [divRem, valT, hs, hq, beq_iff_eq, Bool.false_eq_true, if_false]

/-- The remainder of R21 as one of integers. -/
theorem divRem_remainder {t : Ty} {a : Nat} (b : Nat) (ha : a < 2 ^ t.bits) :
    divRem true t a b = if b = 0 then a else ofInt t.bits ((valT t a).tmod (valT t b)) := by
  cases hs : t.signed with
  | true => simp [divRem, hs]
  | false =>
    have hr : ofInt t.bits ((a : Int).tmod b) = a % b :=
      ofInt_natCast (Nat.lt_of_le_of_lt (Nat.mod_le ..) ha)
    simp [divRem, valT, hs, hr]

theorem divisionStarts : DivisionStarts :=
  ⟨.of_perLaneL (fun _ _ => rfl) (fun f s l => congrArg (·, 0) (divRem_quotient _ (opA_lt f (s.src l)))),
    .of_perLaneL (fun _ _ => rfl) (fun f s l => congrArg (·, 0) (divRem_remainder _ (opA_lt f (s.src l))))⟩

/-! ## The computed form of QNT -/

theorem putElem_zero (w v : Nat) : putElem w 0 v 0 = v % 2 ^ w := by simp [putElem]

/-- Two elements packed from the lowest bits up. -/
theorem putElem_one (w a b : Nat) : putElem w 1 b (putElem w 0 a 0) = a % 2 ^ w + 2 ^ w * (b % 2 ^ w) := by
  have ha : a % 2 ^ w < 2 ^ w := Nat.mod_lt _ (Nat.two_pow_pos w)
  have hh : a % 2 ^ w / 2 ^ (w * (1 + 1)) = 0 :=
    Nat.div_eq_of_lt (Nat.lt_of_lt_of_le ha (Nat.pow_le_pow_right (by decide) (by omega)))
  simp [putElem, Nat.shiftRight_eq_div_pow, hh]

/-- The scale that lane `l` shares with the active lanes of its block of lanes (R41, R98). -/
def qntScale (f : Fields) (s : State) (l : Nat) : Nat :=
  scaleCode (fieldSlot f s).fmt (blockMax (((activeLanes f s).filter (qntSame (fieldSlot f s) l)).flatMap
    (fun k => qntElems (fieldSlot f s) f (s.src k))))

/-- The quantised elements of lane `l`. -/
def qntCodes (f : Fields) (s : State) (l : Nat) : List FRes :=
  (qntElems (fieldSlot f s) f (s.src l)).map (fun x => quantElem (fieldSlot f s) x (qntScale f s l))

/-- The codes of a lane packed in a word. -/
def qntPack (w : Nat) : List FRes → Nat
  | [a, b] => putElem w 1 b.1 (putElem w 0 a.1 0)
  | a :: _ => putElem w 0 a.1 0
  | [] => 0

/-- The result that lane `l` is owed. -/
def qntRes (f : Fields) (s : State) (l : Nat) : LRes :=
  { id := 0, blk := s.cur.blk, lane := l
    regs := [(f.d.toNat, BitVec.ofNat 32 (qntPack (fieldSlot f s).fmt.width (qntCodes f s l) + qntScale f s l * 2 ^ 24))]
    flags := (qntCodes f s l).foldl (fun q r => q ||| r.2) 0 }

theorem exec_qntComputed (f : Fields) (s : State) :
    exec (.qntComputed f) s = .next ((activeLanes f s).foldl (fun t l => pushL t (qntRes f s l)) s) := by
  refine congrArg Host.Outcome.next (congrArg (fun g => (activeLanes f s).foldl g s) ?_)
  funext t l
  unfold qntRes qntPack
  rfl

/-- What a lane's packed word and flags are, with one element in each lane or with two (R98). -/
theorem qntRes_words (f : Fields) (s : State) (l : Nat) :
    let sl := fieldSlot f s
    let e (i : Nat) : Nat × Flags := quantElem sl (fmtF32.dec ((s.src l).reg (f.sa.toNat + i)).toNat) (qntScale f s l)
    (qntRes f s l).regs = [(f.d.toNat, BitVec.ofNat 32
      ((if sl.blk = 64 then (e 0).1 % 2 ^ sl.fmt.width + 2 ^ sl.fmt.width * ((e 1).1 % 2 ^ sl.fmt.width)
        else (e 0).1 % 2 ^ sl.fmt.width) + qntScale f s l * 2 ^ 24))] ∧
    (qntRes f s l).flags = if sl.blk = 64 then (e 0).2 ||| (e 1).2 else (e 0).2 := by
  intro sl e
  by_cases hb : sl.blk = 64
  · have hc : qntCodes f s l = [e 0, e 1] := by simp [qntCodes, qntElems, sl, e, hb]
    simp [qntRes, hc, qntPack, putElem_one, hb, sl]
  · have hc : qntCodes f s l = [e 0] := by simp [qntCodes, qntElems, sl, e, hb]
    simp [qntRes, hc, qntPack, putElem_zero, hb, sl]

theorem longLatencyStarts : LongLatencyStarts := by
  refine ⟨.of_perLaneL (fun _ _ => rfl) (fun _ _ _ => rfl), .of_perLaneL (fun _ _ => rfl) (fun _ _ _ => rfl),
    .of_perLaneL (fun _ _ => rfl) (fun _ _ _ => rfl), fun f s => ?_⟩
  obtain ⟨hu, new, hn, hl, hx⟩ := foldl_pushL_lanes (r := qntRes f s) (fun _ => rfl) (activeLanes f s) s
  refine ⟨_, exec_qntComputed f s, hu, new, hn, hl, fun r hr => ?_⟩
  obtain ⟨-, hr⟩ := hx r hr
  obtain ⟨hregs, hflags⟩ := qntRes_words f s r.lane
  exact ⟨congrArg LRes.blk hr, (congrArg LRes.regs hr).trans hregs, (congrArg LRes.flags hr).trans hflags⟩

/-- Settles O6: every lane with guard 1 is owed one result, which carries the words and flags of its rule. -/
theorem longLatencyResults : Obligations.LongLatencyResults := ⟨divisionStarts, longLatencyStarts⟩

end Sys2Proof.Claim

/-! The rounding of a value that its format holds (R23, R25). -/
namespace Sys2Proof.Claim
open Sys2Proof Sys2Proof.Machine

/-- A format whose top exponent holds infinities and NaNs, and whose largest finite value has every fraction bit set and the
exponent below. -/
structure TopHoldsInf (f : Fmt) : Prop where
  inf : f.inf = true
  wide : 2 ≤ f.eb
  max : f.dec f.maxCode = .fin false (2 ^ (f.mb + 1) - 1) ((2 ^ f.eb - 2 : Nat) - f.bias - f.mb)

/-- A code is its sign, its exponent and its fraction. -/
theorem code_parts (f : Fmt) {code : Nat} (h : code < 2 ^ f.width) :
    code = f.sgn (code.testBit (f.eb + f.mb)) + (code >>> f.mb) % 2 ^ f.eb * 2 ^ f.mb + code % 2 ^ f.mb := by
  have hs : f.sgn (code.testBit (f.eb + f.mb)) = 2 ^ (f.eb + f.mb) * (code / 2 ^ (f.eb + f.mb)) := by
    have hlt : code / 2 ^ (f.eb + f.mb) < 2 := by
      rw [Nat.div_lt_iff_lt_mul (Nat.two_pow_pos _), ← Nat.pow_succ']
      exact h.trans_eq (by rw [Fmt.width]; congr 1; omega)
    rw [Nat.testBit_eq_decide_div_mod_eq, Nat.mod_eq_of_lt hlt, Fmt.sgn]
    rcases Nat.lt_succ_iff_lt_or_eq.mp hlt with h0 | h1
    · simp [Nat.lt_one_iff.mp h0]
    · simp [h1]
  have he := Nat.div_add_mod (code / 2 ^ f.mb) (2 ^ f.eb)
  have hm := Nat.div_add_mod code (2 ^ f.mb)
  rw [Nat.div_div_eq_div_mul, ← Nat.pow_add, Nat.add_comm f.mb] at he
  rw [hs, Nat.shiftRight_eq_div_pow]
  calc code = 2 ^ f.mb * (2 ^ f.eb * (code / 2 ^ (f.eb + f.mb)) + code / 2 ^ f.mb % 2 ^ f.eb) + code % 2 ^ f.mb := by
        rw [he, hm]
    _ = _ := by rw [Nat.pow_add]; ring

/-- What a code with a finite value holds: a subnormal with exponent 0, or a normal one with its exponent below the top. -/
theorem finite_code {f : Fmt} (hf : TopHoldsInf f) {code k : Nat} {n : Bool} {e : Int} (hc : code < 2 ^ f.width)
    (hd : f.dec code = .fin n k e) :
    (k < 2 ^ f.mb ∧ e = f.emin - f.mb ∧ code = f.sgn n + k) ∨
    ∃ x : Nat, 0 < x ∧ x < 2 ^ f.eb - 1 ∧ 2 ^ f.mb ≤ k ∧ k < 2 ^ (f.mb + 1) ∧ e = (x : Int) - f.bias - f.mb ∧
      code = f.sgn n + x * 2 ^ f.mb + (k - 2 ^ f.mb) := by
  have hne : (f == fmtE4M3) = false := by
    rw [beq_eq_false_iff_ne]
    rintro rfl
    exact absurd hf.inf (by decide)
  have hp := code_parts f hc
  have hm := Nat.mod_lt code (Nat.two_pow_pos f.mb)
  have hx := Nat.mod_lt (code >>> f.mb) (Nat.two_pow_pos f.eb)
  revert hd
  rw [Fmt.dec]
  generalize code.testBit (f.eb + f.mb) = neg at hp ⊢
  generalize (code >>> f.mb) % 2 ^ f.eb = x at hp hx ⊢
  generalize code % 2 ^ f.mb = m at hp hm ⊢
  simp only [hf.inf, hne, Bool.true_and, Bool.false_and, Bool.false_eq_true, if_false, beq_iff_eq]
  intro hd
  by_cases htop : x = 2 ^ f.eb - 1
  · rw [if_pos htop] at hd
    split at hd <;> cases hd
  · rw [if_neg htop] at hd
    by_cases h0 : x = 0
    · rw [if_pos h0] at hd
      cases hd
      exact .inl ⟨hm, rfl, by rw [hp, h0]; simp⟩
    · rw [if_neg h0] at hd
      cases hd
      exact .inr ⟨x, Nat.pos_of_ne_zero h0, by omega, Nat.le_add_left .., by rw [Nat.pow_succ]; omega, rfl, by
        rw [hp, Nat.add_sub_cancel]⟩

/-- The exponent at which a finite value's code holds it is the one that it is rounded at. -/
theorem round_exponent {f : Fmt} {k : Nat} {e : Int} (h0 : k ≠ 0)
    (h : (k < 2 ^ f.mb ∧ e = f.emin - f.mb) ∨ (2 ^ f.mb ≤ k ∧ k < 2 ^ (f.mb + 1) ∧ f.emin - f.mb ≤ e)) :
    (if (Nat.log2 k : Int) + e - f.mb < f.emin - f.mb then f.emin - f.mb else (Nat.log2 k : Int) + e - f.mb) = e := by
  rcases h with ⟨hk, he⟩ | ⟨hk, hk', he⟩
  · have hl : Nat.log2 k < f.mb := (Nat.log2_lt h0).mpr hk
    rw [if_pos (by omega), he]
  · have hl : Nat.log2 k = f.mb := (Nat.log2_eq_iff h0).mpr ⟨hk, hk'⟩
    rw [if_neg (by omega)]
    omega

/-- No value that a code holds is beyond the largest finite one. -/
theorem exceeds_false {f : Fmt} (hf : TopHoldsInf f) {k : Nat} {e : Int} (hk : k < 2 ^ (f.mb + 1))
    (he : e ≤ (2 ^ f.eb - 2 : Nat) - f.bias - f.mb) : f.exceeds k e = false := by
  have hp := Nat.le_mul_of_pos_right (2 ^ (f.mb + 1) - 1) (Nat.two_pow_pos (((2 ^ f.eb - 2 : Nat) - f.bias - f.mb : Int) - e).toNat)
  simp only [Fmt.exceeds, hf.max, he, if_true, decide_eq_false_iff_not]
  omega

/-- A value rounded at its own exponent, and not beyond the largest finite one, is packed as it is, with no flag. -/
theorem fin_of_round {f : Fmt} {k : Nat} {e : Int} (mode : Nat) (n : Bool) (h0 : k ≠ 0)
    (hq : (if (Nat.log2 k : Int) + e - f.mb < f.emin - f.mb then f.emin - f.mb else (Nat.log2 k : Int) + e - f.mb) = e)
    (hx : f.exceeds k e = false) : f.fin mode false n k e = (f.pack n k e, 0) := by
  have hr : roundTo mode n k e e = (k, true) := by simp [roundTo]
  simp only [Fmt.fin, Fmt.round, hq, hr, hx, beq_iff_eq, h0, if_false, Bool.false_eq_true, Bool.false_and, if_true]

/-- In a format of that kind the rounding of a value that a code holds gives the code. -/
theorem fin_dec {f : Fmt} (hf : TopHoldsInf f) {mode code k : Nat} {n : Bool} {e : Int} (hc : code < 2 ^ f.width)
    (hd : f.dec code = .fin n k e) : f.fin mode false n k e = (code, 0) := by
  rcases finite_code hf hc hd with ⟨hk, he, hcode⟩ | ⟨x, hx0, hx, hk, hk', he, hcode⟩
  · by_cases h0 : k = 0
    · simp [Fmt.fin, h0, hcode]
    · have htop : e ≤ (2 ^ f.eb - 2 : Nat) - f.bias - f.mb := by
        have := Nat.pow_le_pow_right (n := 2) (by decide) hf.wide
        rw [he, Fmt.emin]
        omega
      rw [fin_of_round mode n h0 (round_exponent h0 (.inl ⟨hk, he⟩))
        (exceeds_false hf (hk.trans_le (Nat.pow_le_pow_right (by decide) (by omega))) htop)]
      simp [Fmt.pack, h0, hk, hcode]
  · have h0 : k ≠ 0 := by have := Nat.two_pow_pos f.mb; omega
    have hmin : f.emin - f.mb ≤ e := by rw [Fmt.emin]; omega
    have htop : e ≤ (2 ^ f.eb - 2 : Nat) - f.bias - f.mb := by omega
    rw [fin_of_round mode n h0 (round_exponent h0 (.inr ⟨hk, hk', hmin⟩)) (exceeds_false hf hk' htop)]
    have hq : (e + f.mb + f.bias).toNat = x := by omega
    simp [Fmt.pack, h0, Nat.not_lt.mpr hk, Nat.ne_of_lt hk', hq, hcode]

/-- Settles O8: each of the three formats is of the kind above. -/
theorem roundingKeepsExactValues : Obligations.RoundingKeepsExactValues := by
  intro m hm mode code n k e hc hd
  have hf : TopHoldsInf m := by
    simp only [List.mem_cons, List.not_mem_nil, or_false] at hm
    rcases hm with rfl | rfl | rfl <;> exact ⟨rfl, by decide, by decide⟩
  exact fin_dec hf hc hd

end Sys2Proof.Claim

/-! The statement about matrix operations: a fused stream over blocks whose numbers and fields disagree (R45, R163, R172). -/
namespace Sys2Proof.Claim
open Sys2Proof Sys2Proof.Machine

/-- Two quadrants side by side, of 8-bit elements. -/
def strayCfg : MCfg := { set := true, shape := 1 }

/-- Weights of zero. The last physical row ends after its first column, so that a row of results is one word and the step is
quick to evaluate. -/
def strayPlane : Plane := { loaded := true, cfg := strayCfg, weights := List.replicate (127 * 128 + 1) 0 }

/-- A started stream of one row, with its activations at offset 0. -/
def strayStream : MOp :=
  { id := 1, cv := 0, round := 1, signers := [], started := true
    sig := { op := 0xC3, bits := 0, vals := [0x10000, 0], fields := wordFields 0, lane := 0, pc := 0 } }

def strayBlock (pier idx spos : Nat) : Block :=
  { tag := 1, idx := idx, spos := spos, place := .resident pier, groups := 1, scratchSize := 4096, accRows := 128
    cfg := strayCfg, plane0 := strayPlane, mq := [strayStream] }

/-- The neighbour of block 2^32, by its number. -/
def strayNumber : Nat := 2 ^ 32 + 1

/-- Spans of two blocks. Block 2^32 + 1 stands where the neighbour of block 2^32 is looked for, but by its own field it is
block 2 of the launch, so it looks for its left neighbour in the span of block 2^32 + 2. There it finds a scratchpad with a
poisoned word. -/
def straySpan : State :=
  { State.reset with
    launches := [(1, { used := true, rec_ := { span := 2, slots := [0x3F80000000000007] } })]
    blocks := [(2 ^ 32, strayBlock 0 0 0), (strayNumber, strayBlock 1 2 1),
      (2 ^ 32 + 2, { strayBlock 4 2 0 with mq := [], scratchPoison := [0] })] }

theorem straySpan_heads : Heads straySpan 0 (2 ^ 32) strayStream := by unfold Heads; decide +kernel

/-- Each of the two blocks meets what the statement asks of a block that a fused stream joins. -/
theorem straySpan_joined : ∀ q ∈ [2 ^ 32, strayNumber],
    (straySpan.block q).mqFull = [] ∧ (straySpan.block q).cfg = (straySpan.block (2 ^ 32)).cfg ∧
    (straySpan.block q).accPoison = [] ∧ CleanPad (straySpan.block q) ∧ (activePlane (straySpan.block q)).poison = [] ∧
    mqHead straySpan q = some strayStream ∧ strayStream.sig.op = 0xC3 ∧ strayStream.started = true ∧
    mopAbsent straySpan q strayStream = [] := by
  unfold CleanPad; decide +kernel

/-- The neighbour's results are poisoned by the other span's activations: its operation stays at the head of a stopped
queue. -/
theorem straySpan_stays {u : State} (h : exec (.matrixOpComplete 0) straySpan = .next u) : (u.block strayNumber).mq ≠ [] := by
  have hr : (match exec (.matrixOpComplete 0) straySpan with
      | .next v => (v.block strayNumber).mq.isEmpty
      | _ => true) = false := by decide +kernel
  rw [h] at hr
  exact List.isEmpty_eq_false_iff.mp hr

/-- Refutes O30: the completion of a fused stream is stated of every state, also of one in which a block's index is not that
of its number. The blocks that the shape joins are found in the span of the head's block, but where the activations of each
enter is found in its own span, of which nothing is supposed; a poisoned word there stops its queue (R155, R172), and the
stream is not complete in every quadrant. -/
theorem not_matrixOperations : ¬ Obligations.MatrixOperations := by
  rintro ⟨-, hc, -⟩
  obtain ⟨-, -, -, -, fused, -⟩ := hc straySpan 0 (2 ^ 32) strayStream straySpan_heads rfl (by decide +kernel)
  obtain ⟨u, pad, hu, -, -, hq⟩ := fused [2 ^ 32, strayNumber] rfl (by decide +kernel) (by decide +kernel) (fun q hq => by
    obtain ⟨hfull, hcfg, hacc, hpad, hpl, hhead, hop, hst, habs⟩ := straySpan_joined q hq
    exact ⟨hfull, hcfg, hacc, hpad, hpl, _, hhead, hop, hst, habs⟩)
  have hn : strayNumber ∈ [2 ^ 32, strayNumber] := by simp
  obtain ⟨-, -, -, -, -, hhead, -⟩ := straySpan_joined _ hn
  obtain ⟨hmq, -⟩ := hq _ hn _ hhead
  exact straySpan_stays hu (hmq.trans (by decide +kernel))

end Sys2Proof.Claim

/-! Results in registers and predicates that a lane's own operands give (R61, R74, R82). -/
namespace Sys2Proof.Claim
open Sys2Proof Sys2Proof.Machine

/-- A result may be given as another number where the two agree on every operand. -/
theorem Writes.congr {mk : Fields → Instr} {ty : Fields → Ty} {val val' : Fields → Src → Nat} (h : Writes mk ty val)
    (hv : ∀ f x, val f x = val' f x) : Writes mk ty val' :=
  (funext₂ hv : val = val') ▸ h

theorem WritesP.of_aluP {mk : Fields → Instr} {val : Fields → Src → Bool}
    (h : ∀ f s, exec (mk f) s = .next (aluP f s (val f))) : WritesP mk val := fun f s =>
  ⟨_, h f s, perLane_overLanes (fun _ _ _ => predSet_setPred ..)⟩

/-- Flags added to FPSTAT leave the predicate of a result. -/
theorem PredSet.flag {d : Nat} {v : Bool} {x y : Lane} (h : PredSet d v id x y) (q : Flags) :
    PredSet d v (fun z => { z with fpstat := z.fpstat ||| q }) x (y.flag q) := by
  obtain ⟨hy, hp⟩ := h
  refine ⟨?_, hp⟩
  rw [hy]
  rfl

/-- Where registers are written before a predicate, each write leaves the other's part of the lane, and both leave the
rest. -/
theorem regsSet_predSet_setRegs_setPred (d n v p : Nat) (c : Bool) (x y : Lane)
    (hy : y = (x.setRegs d (wordsOf n v)).setPred p c) :
    RegsSet d n v (fun z => { z with preds := y.preds }) x y ∧ PredSet p c (fun z => { z with regs := y.regs }) x y := by
  obtain ⟨hz, hin, hout⟩ := regsSet_setRegs d n v x
  generalize x.setRegs d (wordsOf n v) = z at hy hz hin hout
  obtain ⟨hf, hp⟩ := predSet_setPred p c z
  rw [← hy] at hf hp
  have hregs : y.regs = z.regs := (congrArg Lane.regs hf).trans rfl
  have hreg : y.reg = z.reg := by funext k; rw [Lane.reg, Lane.reg, hregs]
  have hpreds : z.preds = x.preds := (congrArg Lane.preds hz).trans rfl
  have hyx : y = { x with regs := y.regs, preds := y.preds } := by
    rw [hregs]
    exact hf.trans (congrArg (fun w : Lane => { w with preds := y.preds }) hz)
  exact ⟨⟨hyx, hreg ▸ hin, hreg ▸ hout⟩, hyx, hpreds ▸ hp⟩

end Sys2Proof.Claim

/-! Moves and selection (R81). -/
namespace Sys2Proof.Claim
open Sys2Proof Sys2Proof.Machine

/-- Settles O1: NOP answers the state that it is given, MOV and SEL write what they choose among their operands. -/
theorem movesAndSelects : Obligations.MovesAndSelects :=
  ⟨fun _ _ => rfl, .of_aluT fun _ _ => rfl, .of_aluT fun _ _ => rfl⟩

end Sys2Proof.Claim

/-! Addition with carry (R76). -/
namespace Sys2Proof.Claim
open Sys2Proof Sys2Proof.Machine

/-- One SUB bit as a number. -/
theorem subBits_one (f : Fields) (i : Nat) : f.subBits (32 + i) (32 + i) = (f.sub.getLsbD i).toNat := by
  simp [Fields.subBits, ← BitVec.testBit_toNat, Nat.toNat_testBit, Nat.shiftRight_eq_div_pow]

/-- The carry-in is p[SC] where SUB bit 36 asks for it. -/
theorem carryIn_eq (f : Fields) (p : Bool) :
    (f.subBits 36 36 == 1 && p).toNat = if f.sub.getLsbD 4 && p then 1 else 0 := by
  rw [show f.subBits 36 36 = _ from subBits_one f 4]
  cases f.sub.getLsbD 4 <;> cases p <;> rfl

/-- A word whose fields break a condition of its row is refused (R67). -/
theorem decodeWord_refused {w : BitVec 96} {r : EncRow} (hop : wordOp w ≠ 0xFF) (hr : encRow (wordOp w) = some r)
    (hok : r.ok (wordFields w) = false) : decodeWord w = .error .reservedField := by
  have hf : fieldsOk r (wordFields w) = false := by rw [fieldsOk, hok, Bool.and_false]
  simp [decodeWord, hop, hr, hf]

/-- A word that names a carry-in predicate without asking for it is refused. -/
theorem decodeWord_carry_refused {w : BitVec 96} (hop : wordOp w = 0x0E) (hb : (wordFields w).subBits 36 36 = 0)
    (hc : (wordFields w).sc ≠ 0) : decodeWord w = .error .reservedField := by
  refine decodeWord_refused (by rw [hop]; decide) ((congrArg encRow hop).trans rfl) ?_
  show ((wordFields w).subBits 36 36 == 1 || (wordFields w).sc == 0) = false
  rw [hb, beq_false_of_ne hc]
  rfl

/-- Settles O2: each lane's sum is formed from its operands as they stood, and its registers are written before its
carry-out. -/
theorem addWithCarry : Obligations.AddWithCarry := by
  refine ⟨fun w => decodeWord_carry_refused, fun f s => ⟨_, rfl, perLane_overLanes (fun l _ y => ?_)⟩⟩
  dsimp only
  rw [carryIn_eq]
  exact regsSet_predSet_setRegs_setPred _ _ _ _ _ _ _ rfl

end Sys2Proof.Claim

/-! Bits of numbers: complements, reversals, counts and fields (R75, R79). -/
namespace Sys2Proof.Machine
open Sys2Proof

theorem ofBits_succ (n : Nat) (g : Nat → Bool) : ofBits (n + 1) g = ofBits n g + (g n).toNat * 2 ^ n := by
  rw [ofBits, List.range_succ, List.foldl_append]
  cases h : g n <;> simp [ofBits, h]

/-- A number made from the bits of another is that number. -/
theorem ofBits_eq {g : Nat → Bool} {v : Nat} :
    ∀ {n : Nat}, (∀ i, i < n → g i = v.testBit i) → ofBits n g = v % 2 ^ n
  | 0, _ => by simp [ofBits, Nat.mod_one]
  | n + 1, h => by
    rw [ofBits_succ, ofBits_eq (fun i hi => h i (by omega)), h n (by omega), Nat.toNat_testBit, Nat.mod_pow_succ,
      Nat.mul_comm]

theorem brev_eq_reverse (n a : Nat) : brev n a = (BitVec.ofNat n a).reverse.toNat := by
  have hb : ∀ i, i < n → a.testBit (n - 1 - i) = (BitVec.ofNat n a).reverse.toNat.testBit i := fun i hi => by
    have hj : n - 1 - i < n := by omega
    rw [BitVec.testBit_toNat, BitVec.getLsbD_reverse, BitVec.getMsbD, BitVec.getLsbD_ofNat]
    simp [hi, hj]
  rw [brev, ofBits_eq hb, Nat.mod_eq_of_lt (BitVec.isLt _)]

theorem notT_eq_not (n a : Nat) : notT n a = (~~~ BitVec.ofNat n a).toNat := by
  rw [BitVec.toNat_not, BitVec.toNat_ofNat, notT]

/-! ## Counts -/

theorem foldl_count (p : Nat → Bool) (is : List Nat) :
    ∀ k, is.foldl (fun k i => if p i then k + 1 else k) k = k + is.countP p := by
  induction is with
  | nil => intro k; rfl
  | cons i is ih => intro k; rw [List.foldl_cons, ih, List.countP_cons]; split <;> omega

theorem popc_eq_countP (n a : Nat) : popc n a = (List.range n).countP (fun i => a.testBit i) :=
  (foldl_count ..).trans (Nat.zero_add _)

theorem countP_range_lt (n k : Nat) : (List.range n).countP (fun i => decide (i < k)) = min n k := by
  induction n with
  | zero => simp
  | succ n ih =>
    simp only [List.range_succ, List.countP_append, ih, List.countP_singleton, decide_eq_true_eq]
    split <;> omega

theorem countP_range_ge (n k : Nat) : (List.range n).countP (fun i => decide (k ≤ i)) = n - k := by
  induction n with
  | zero => simp
  | succ n ih =>
    simp only [List.range_succ, List.countP_append, ih, List.countP_singleton, decide_eq_true_eq]
    split <;> omega

/-- The places that lie above every set bit are those above the highest one. -/
theorem clz_eq_countP (n a : Nat) : clz n a = (List.range n).countP (fun i => decide (a < 2 ^ i)) := by
  by_cases h : a = 0
  · simp [clz, h]
  · simp only [← Nat.log2_lt h, ← Nat.succ_le_iff, countP_range_ge, clz, beq_iff_eq, h, if_false]
    omega

theorem mod_two_pow_eq_zero_iff (a k : Nat) : a % 2 ^ k = 0 ↔ ∀ i, i < k → a.testBit i = false := by
  constructor
  · intro h i hi
    have hbit : (a % 2 ^ k).testBit i = Nat.testBit 0 i := by rw [h]
    simpa [Nat.testBit_mod_two_pow, hi] using hbit
  · intro h
    refine Nat.eq_of_testBit_eq (fun i => ?_)
    rw [Nat.testBit_mod_two_pow, Nat.zero_testBit]
    by_cases hi : i < k <;> simp [hi, h]

/-- Where bit `k` is the lowest set one, or no bit below `n` is set and `k` is `n`, there are `k` places up to which no bit
is set. -/
theorem countP_low_zeros {n a k : Nat} (hlow : ∀ j, j < k → a.testBit j = false) (hkn : k ≤ n)
    (hset : k < n → a.testBit k = true) : (List.range n).countP (fun i => decide (a % 2 ^ (i + 1) = 0)) = k := by
  have hp : ∀ i ∈ List.range n, decide (a % 2 ^ (i + 1) = 0) = true ↔ decide (i < k) = true := by
    intro i hi
    have hin := List.mem_range.mp hi
    rw [decide_eq_true_eq, decide_eq_true_eq, mod_two_pow_eq_zero_iff]
    refine ⟨fun h => ?_, fun h j hj => hlow j (by omega)⟩
    by_contra hn
    exact absurd (hset (by omega)) (by rw [h k (by omega)]; decide)
  rw [List.countP_congr hp, countP_range_lt, Nat.min_eq_right hkn]

theorem ctz_eq_countP (n a : Nat) : ctz n a = (List.range n).countP (fun i => decide (a % 2 ^ (i + 1) = 0)) := by
  rw [ctz]
  cases hf : (List.range n).find? (fun i => a.testBit i) with
  | none =>
    have hlow : ∀ j, j < n → a.testBit j = false := by simpa using List.find?_range_eq_none.mp hf
    exact (countP_low_zeros hlow le_rfl (fun h => absurd h (lt_irrefl n))).symm
  | some k =>
    obtain ⟨hset, hk, hlow⟩ := List.find?_range_eq_some.mp hf
    exact (countP_low_zeros (by simpa using hlow) (List.mem_range.mp hk).le (fun _ => hset)).symm

end Sys2Proof.Machine

/-! The integer, bitwise, field and byte instructions (R74, R75, R77 to R80). -/
namespace Sys2Proof.Claim
open Sys2Proof Sys2Proof.Machine

theorem bitsB_toNat (f : Fields) (x : Src) : (bitsB f x).toNat = opB f x := by
  rw [bitsB, BitVec.toNat_ofNat, Nat.mod_eq_of_lt (opB_lt f x)]

theorem minMaxT_min (t : Ty) (a b : Nat) : minMaxT false t a b = if valT t a ≤ valT t b then a else b := by
  by_cases h : valT t a ≤ valT t b <;> simp [minMaxT, h]

theorem minMaxT_max (t : Ty) (a b : Nat) : minMaxT true t a b = if valT t a ≤ valT t b then b else a := by
  by_cases h : valT t a ≤ valT t b <;> simp [minMaxT, h]

/-- A two-source instruction writes its function of the operands at SA and at SB or IMM. -/
theorem Writes.of_alu2 {mk : Fields → Instr} {g : Fields → Nat → Nat → Nat} {val : Fields → Src → Nat}
    (h : ∀ f s, exec (mk f) s = .next (alu2 f s (g f))) (hv : ∀ f x, g f (opA f x) (opB f x) = val f x) :
    Writes mk ofT val :=
  (Writes.of_aluT h).congr hv

/-- A one-source count writes its function of the width and of the operand at SA. -/
theorem Writes.of_count1 {mk : Fields → Instr} {g : Nat → Nat → Nat} {val : Fields → Src → Nat}
    (h : ∀ f s, exec (mk f) s = .next (count1 f s g)) (hv : ∀ f x, g f.t.bits (opA f x) = val f x) :
    Writes mk b32 val :=
  (Writes.of_aluT h).congr hv

theorem integerArithmetic : IntegerArithmetic := by
  refine ⟨.of_aluT fun _ _ => rfl, .of_aluT fun _ _ => rfl, .of_aluT fun _ _ => rfl, .of_aluT fun _ _ => rfl,
    .of_aluT fun _ _ => rfl, ?min, ?max, .of_aluT fun _ _ => rfl, .of_aluT fun _ _ => rfl, ?lea⟩
  case min => exact .of_alu2 (fun _ _ => rfl) fun f x => minMaxT_min f.t (opA f x) (opB f x)
  case max => exact .of_alu2 (fun _ _ => rfl) fun f x => minMaxT_max f.t (opA f x) (opB f x)
  case lea =>
    refine (Writes.of_aluT fun _ _ => rfl).congr fun f x => ?_
    simp only [beq_iff_eq]
    rfl

/-- A bitwise operation of the operands is that of their bits. -/
theorem bitwise_and (f : Fields) (x : Src) : Nat.land (opA f x) (opB f x) = (bitsA f x &&& bitsB f x).toNat := by
  rw [BitVec.toNat_and, bitsA_toNat, bitsB_toNat]
  rfl

theorem bitwise_or (f : Fields) (x : Src) : Nat.lor (opA f x) (opB f x) = (bitsA f x ||| bitsB f x).toNat := by
  rw [BitVec.toNat_or, bitsA_toNat, bitsB_toNat]
  rfl

theorem bitwise_xor (f : Fields) (x : Src) : Nat.xor (opA f x) (opB f x) = (bitsA f x ^^^ bitsB f x).toNat := by
  rw [BitVec.toNat_xor, bitsA_toNat, bitsB_toNat]
  rfl

theorem bitwise_andn (f : Fields) (x : Src) :
    Nat.land (opA f x) (notT f.t.bits (opB f x)) = (bitsA f x &&& ~~~ bitsB f x).toNat := by
  rw [BitVec.toNat_and, bitsA_toNat, notT_eq_not]
  rfl

theorem bitwiseResults : BitwiseResults :=
  ⟨.of_alu2 (fun _ _ => rfl) bitwise_and, .of_alu2 (fun _ _ => rfl) bitwise_or, .of_alu2 (fun _ _ => rfl) bitwise_xor,
    .of_alu2 (fun _ _ => rfl) bitwise_andn,
    (Writes.of_aluT fun _ _ => rfl).congr fun f x => notT_eq_not f.t.bits (opA f x),
    (Writes.of_aluT fun _ _ => rfl).congr fun f x => brev_eq_reverse f.t.bits (opA f x),
    .of_count1 (fun _ _ => rfl) fun f x => popc_eq_countP f.t.bits (opA f x),
    .of_count1 (fun _ _ => rfl) fun f x => clz_eq_countP f.t.bits (opA f x),
    .of_count1 (fun _ _ => rfl) fun f x => ctz_eq_countP f.t.bits (opA f x)⟩

/-- The bits of its control that BFI takes for its place and its length (R79). -/
theorem bfi_eq (n a r : Nat) (c : Word) :
    let pos := c.toNat % 256
    let len := min (c.toNat / 256 % 256) n
    bfi n a r c = ofBits n (fun j => if pos ≤ j ∧ j < pos + len then a.testBit (j - pos) else r.testBit j) := by
  simp only [bfi, Nat.shiftRight_eq_div_pow, Bool.and_eq_true, decide_eq_true_eq]

/-- A sum over the four bytes of a word. -/
theorem foldl_range_four {α : Type} [AddCommMonoid α] (e : Nat → α) (c : α) :
    (List.range 4).foldl (fun s i => s + e i) c = e 0 + e 1 + e 2 + e 3 + c := by
  simp only [List.range_succ, List.range_zero, List.nil_append, List.foldl_append, List.foldl_cons, List.foldl_nil]
  abel

/-- PRMT puts the four bytes that its control bytes make side by side. -/
theorem prmt_eq (a b c : Nat) :
    let p (i : Nat) : Nat := permByte a b (byteAt c i)
    prmt a b c = p 0 + p 1 * 2 ^ 8 + p 2 * 2 ^ 16 + p 3 * 2 ^ 24 := by
  intro p
  have h : prmt a b c = (List.range 4).foldl (fun v i => v + p i * 2 ^ (8 * i)) 0 := by
    simp only [prmt, p, permByte]
  rw [h, foldl_range_four]
  simp

/-- Byte `i` of a word as a number of eight bits. -/
theorem byteAt_word (v : Word) (i : Nat) : byteAt v.toNat i = (v.extractLsb' (8 * i) 8).toNat := by
  rw [BitVec.extractLsb'_toNat]
  rfl

theorem toInt_byteAt (v : Word) (i : Nat) : toInt 8 (byteAt v.toNat i) = (v.extractLsb' (8 * i) 8).toInt := by
  rw [byteAt_word, toInt, BitVec.ofNat_toNat, BitVec.setWidth_eq]

/-- The sum that IDOT4 forms. -/
theorem dot4_eq (sat : Bool) (t : Ty) (a b : Word) (c : Nat) : dot4 sat t a.toNat b.toNat c =
    let e (v : Word) (i : Nat) : Int :=
      if t.signed then ((v.extractLsb' (8 * i) 8).toInt) else ((v.extractLsb' (8 * i) 8).toNat : Int)
    let v := e a 0 * e b 0 + e a 1 * e b 1 + e a 2 * e b 2 + e a 3 * e b 3 + valT t c
    if sat then satT t v else ofInt 32 v := by
  simp only [dot4, toInt_byteAt]
  simp only [byteAt_word]
  rw [foldl_range_four (fun i => _ * _)]

theorem fieldsAndBytes : FieldsAndBytes := by
  refine ⟨.of_aluT fun _ _ => rfl, ?bfi, ?prmt, ?idot4⟩
  case bfi => exact (Writes.of_aluT fun _ _ => rfl).congr fun f x => bfi_eq f.t.bits (opA f x) (opC f x) (rdB32 f x)
  case prmt => exact (Writes.of_aluT fun _ _ => rfl).congr fun f x => prmt_eq _ _ _
  case idot4 => exact (Writes.of_aluT fun _ _ => rfl).congr fun f x => dot4_eq _ _ _ _ _

/-- Settles O4: each instruction writes the model's function of its operands, which is the rule's own. -/
theorem integerResults : Obligations.IntegerResults := ⟨integerArithmetic, bitwiseResults, fieldsAndBytes⟩

end Sys2Proof.Claim

/-! The instructions with a predicate result (R82 to R84, R91, R92). -/
namespace Sys2Proof.Claim
open Sys2Proof Sys2Proof.Machine

/-- Bit 15 set over the lower fifteen. -/
theorem or_bit15 (p : BitVec 16) : p.toNat ||| 0x8000 = 2 ^ 15 + p.toNat % 2 ^ 15 := by
  have hadd : 2 ^ 15 + p.toNat % 2 ^ 15 = 2 ^ 15 ||| p.toNat % 2 ^ 15 := by
    simpa using Nat.two_pow_add_eq_or_of_lt (Nat.mod_lt p.toNat (Nat.two_pow_pos 15)) 1
  rw [hadd, show 0x8000 = 2 ^ 15 from rfl]
  refine Nat.eq_of_testBit_eq (fun i => ?_)
  rw [Nat.testBit_or, Nat.testBit_or, Nat.testBit_mod_two_pow, Nat.testBit_two_pow]
  rcases Nat.lt_trichotomy i 15 with h | h | h
  · simp [h, h.ne']
  · simp [h]
  · have hp : p.toNat.testBit i = false :=
      Nat.testBit_lt_two_pow (p.isLt.trans_le (Nat.pow_le_pow_right (by decide) h))
    simp [hp, h.not_gt]

/-- PPUT takes the bits that its mask names, of p0 to p14 (R84). -/
theorem pput_bit (p : BitVec 16) (m v : Word) {i : Nat} (hi : i < 16) :
    let k := BitVec.ofNat 16 (m.toNat % 2 ^ 15)
    ((p &&& ~~~ k) ||| (BitVec.ofNat 16 v.toNat &&& k)).getLsbD i =
      if i < 15 ∧ m.getLsbD i then v.getLsbD i else p.getLsbD i := by
  intro k
  have hm : k.getLsbD i = (decide (i < 15) && m.getLsbD i) := by
    rw [BitVec.getLsbD_ofNat, Nat.testBit_mod_two_pow, BitVec.testBit_toNat, decide_eq_true hi, Bool.true_and]
  have hv : (BitVec.ofNat 16 v.toNat).getLsbD i = v.getLsbD i := by
    rw [BitVec.getLsbD_ofNat, BitVec.testBit_toNat, decide_eq_true hi, Bool.true_and]
  rw [BitVec.getLsbD_or, BitVec.getLsbD_and, BitVec.getLsbD_and, BitVec.getLsbD_not, hm, hv]
  by_cases h : i < 15 ∧ m.getLsbD i = true
  · simp [h]
  · have hb : (decide (i < 15) && m.getLsbD i) = false := by simpa using h
    simp [h, hb, hi]

theorem predicateWrites : PredicateWrites :=
  ⟨.of_aluP fun _ _ => rfl, .of_aluP fun _ _ => rfl, (Writes.of_aluT fun _ _ => rfl).congr fun _ x => or_bit15 x.preds,
    fun _ _ => ⟨_, rfl, perLane_overLanes (fun _ _ y => ⟨rfl, fun _ hi => pput_bit y.preds _ _ hi⟩)⟩⟩

theorem floatPredicates : FloatPredicates :=
  ⟨fun _ _ => ⟨_, rfl, perLane_overLanes (fun _ _ _ => (predSet_setPred ..).flag _)⟩, .of_aluP fun _ _ => rfl⟩

/-- Settles O5: a comparison or a test writes one predicate, PGET the predicate word to a register, PPUT the predicates that
its mask names; a float comparison then adds its flag. -/
theorem predicateResults : Obligations.PredicateResults := ⟨predicateWrites, floatPredicates⟩

end Sys2Proof.Claim

/-! The conversions, and the exchange within a quad (R95 to R102). -/
namespace Sys2Proof.Claim
open Sys2Proof Sys2Proof.Machine

theorem flag_zero (l : Lane) : l.flag 0 = l := by simp [Lane.flag]

/-- No flags added to FPSTAT leave it as it is. -/
theorem RegsSet.no_flag {d n v : Nat} {x y : Lane} (h : RegsSet d n v id x y) :
    RegsSet d n v (fun z => { z with fpstat := z.fpstat ||| 0 }) x y :=
  flag_zero y ▸ h.flag 0

/-- A result that is exact raises no flag. -/
theorem WritesF.of_aluT {mk : Fields → Instr} {ty : Fields → Ty} {val : Fields → State → Src → Nat}
    (h : ∀ f s, exec (mk f) s = .next (aluT f s (ty f) (val f s))) : WritesF mk ty (fun f s x => (val f s x, 0)) := fun f s =>
  ⟨_, h f s, perLane_overLanes (fun _ _ _ => (regsSet_setRegs ..).no_flag)⟩

theorem conversions : Conversions :=
  ⟨.of_aluF fun _ _ => rfl, .of_aluF fun _ _ => rfl, .of_aluF fun _ _ => rfl, .of_aluF fun _ _ => rfl,
    .of_aluF fun _ _ => rfl, .of_aluF fun _ _ => rfl⟩

/-! ## Compression -/

/-- Two words written side by side. -/
theorem setRegs_pair (l : Lane) (d : Nat) (v w : Word) :
    let l' := l.setRegs d [v, w]
    l' = { l with regs := l'.regs } ∧ l'.reg d = v ∧ l'.reg (d + 1) = w ∧ ∀ r, r < d ∨ d + 2 ≤ r → l'.reg r = l.reg r := by
  refine ⟨setRegs_eq .., ?_, ?_, fun r hr => ?_⟩
  · simp [Lane.reg_setRegs]
  · simp [Lane.reg_setRegs]
  · rw [Lane.reg_setRegs, if_neg (by simp only [List.length_cons, List.length_nil]; omega)]

theorem exec_cmpr (f : Fields) (s : State) : ∃ u, exec (.cmpr f) s = .next u ∧ PerLane f s u (fun _ x l l' =>
    let slot := f.subBits 35 35 = 1
    let w := if slot then 8 else 16
    let v := if slot then wordA f x else wordA f x + 2 ^ 32 * (x.reg (f.sa.toNat + 1)).toNat
    let k := compress (fun i => if slot then (fieldSlot f s).fmt.val (getElem w i v) else (tyFmt f.t).dec (getElem w i v))
    l' = { l with regs := l'.regs } ∧
    l'.reg f.d.toNat = BitVec.ofNat 32 (getElem w k.1 v + 2 ^ w * getElem w k.2 v) ∧
    l'.reg (f.d.toNat + 1) = BitVec.ofNat 32 (k.1 + 4 * k.2) ∧
    ∀ r, r < f.d.toNat ∨ f.d.toNat + 2 ≤ r → l'.reg r = l.reg r) := by
  refine ⟨_, rfl, perLane_overLanes (fun l _ y => ?_)⟩
  by_cases hs : f.subBits 35 35 = 1
  · simp only [hs, beq_self_eq_true, if_true, Nat.add_zero]
    exact setRegs_pair ..
  · simp only [hs, beq_iff_eq, if_false]
    exact setRegs_pair ..

/-! ## Quads -/

/-- A quad instruction gives each lane with guard 1 what it makes of the lane's number. -/
theorem perLane_quadOp {f : Fields} {s : State} (g : Nat → Nat × Flags) :
    PerLane f s (quadOp f s g) (fun n _ l l' =>
      RegsSet f.d.toNat f.t.regs (extT f.t (g n).1) (fun y => { y with fpstat := y.fpstat ||| (g n).2 }) l l') :=
  perLane_overLanes (fun _ _ _ => (regsSet_setRegs ..).flag _)

/-- An exchange that gives each lane the operand of the lane at `src` in its quad. -/
theorem perLane_quadVal {f : Fields} {s : State} (src : Nat → Nat) :
    PerLane f s (quadOp f s (fun l => (quadVal f s l (src l), 0))) (fun n _ l l' =>
      RegsSet f.d.toNat f.t.regs (extT f.t (opA f (s.src (4 * (n / 4) + src n)))) id l l') :=
  perLane_overLanes (fun _ _ y => (flag_zero (y.wrT ..)).symm ▸ regsSet_setRegs ..)

/-- The two bits of IMM that name the source of a lane's position (R102). -/
theorem qswz_source (i k : Nat) : i >>> (2 * k) % 4 = i / 4 ^ k % 4 := by
  rw [Nat.shiftRight_eq_div_pow, Nat.pow_mul]

theorem exec_qswz (f : Fields) (s : State) :
    exec (.qswz f) s = .next (quadOp f s (fun l => (quadVal f s l (f.imm.toNat / 4 ^ (l % 4) % 4), 0))) := by
  simp only [← qswz_source]
  rfl

theorem exactConversionsAndQuads : ExactConversionsAndQuads := by
  refine ⟨.of_aluT fun _ _ => rfl, .of_aluT fun _ _ => rfl, exec_cmpr, fun f s mk src h => ?_,
    fun f s => ⟨_, rfl, perLane_quadOp _⟩⟩
  rcases h with ⟨rfl, rfl⟩ | ⟨rfl, rfl⟩
  · exact ⟨_, exec_qswz f s, perLane_quadVal _⟩
  · exact ⟨_, rfl, perLane_quadVal _⟩

/-- An instruction that completes with a change of its active lanes leaves the others. -/
theorem PerLane.completes {i : Instr} {f : Fields} {s : State} {P : Nat → Src → Lane → Lane → Prop}
    (h : ∃ u, exec i s = .next u ∧ PerLane f s u P) :
    ∃ u, exec i s = .next u ∧ OnlyLanes s u ∧ ∀ l, l ∉ activeLanes f s → u.lane s.cur.blk l = s.lane s.cur.blk l :=
  let ⟨u, hu, ho, hl⟩ := h
  ⟨u, hu, ho, fun l => (hl l).2⟩

theorem conversionFormsComplete : ConversionFormsComplete := by
  obtain ⟨cvtf, cvtfi, cvtif, cvtn, dqnt, dpwe⟩ := conversions
  obtain ⟨cvtw, scaleq, cmpr, quad, qred⟩ := exactConversionsAndQuads
  unfold ConversionFormsComplete
  simp only [List.forall_mem_cons]
  exact ⟨cvtf.completes, cvtfi.completes, cvtif.completes, cvtn.completes, cvtw.completes, dqnt.completes, dpwe.completes,
    scaleq.completes, fun f s => PerLane.completes (cmpr f s),
    fun f s => PerLane.completes (quad f s .qswz _ (.inl ⟨rfl, rfl⟩)),
    fun f s => PerLane.completes (quad f s .qbcast _ (.inr ⟨rfl, rfl⟩)), fun f s => PerLane.completes (qred f s),
    fun _ h => absurd h List.not_mem_nil⟩

/-- Settles O9: a conversion writes its function of the lane's operands, an exchange that of the quad's; each of them
completes with that result. -/
theorem conversionResults : Obligations.ConversionResults :=
  ⟨conversions, exactConversionsAndQuads, conversionFormsComplete⟩

end Sys2Proof.Claim

/-! Lanes of the issuing batch by their numbers in its group, and masks of lanes. -/
namespace Sys2Proof.Machine
open Sys2Proof

theorem maskLanes_sorted (m : Word) : (maskLanes m).Pairwise (· < ·) := List.Pairwise.filter _ List.pairwise_lt_range

theorem activeLanes_sorted (f : Fields) (s : State) : (activeLanes f s).Pairwise (· < ·) :=
  .filter _ (.map _ (fun _ _ h => Nat.add_lt_add_left h _) (maskLanes_sorted _))

theorem activeLanes_mod {f : Fields} {s : State} {l : Nat} (h : l ∈ activeLanes f s) : 32 * s.cur.grp + l % 32 = l := by
  obtain ⟨j, hj, -, rfl⟩ := mem_curLanes.mp (mem_activeLanes.mp h).1
  omega

/-- Among the active lanes the numbers in the group stand as the lanes do. -/
theorem activeLanes_mod_lt_iff {f : Fields} {s : State} {k l : Nat} (hk : k ∈ activeLanes f s) (hl : l ∈ activeLanes f s) :
    k % 32 < l % 32 ↔ k < l := by
  have := activeLanes_mod hk
  have := activeLanes_mod hl
  omega

theorem activeLanes_mod_sorted (f : Fields) (s : State) : ((activeLanes f s).map (· % 32)).Pairwise (· < ·) :=
  List.pairwise_map.mpr ((activeLanes_sorted f s).imp_of_mem fun hk hl h => (activeLanes_mod_lt_iff hk hl).mpr h)

theorem mem_activeLanes_mod {f : Fields} {s : State} {j : Nat} (hj : j < 32) :
    j ∈ (activeLanes f s).map (· % 32) ↔ 32 * s.cur.grp + j ∈ activeLanes f s := by
  rw [List.mem_map]
  constructor
  · rintro ⟨l, hl, rfl⟩
    rwa [activeLanes_mod hl]
  · exact fun h => ⟨_, h, by omega⟩

/-! ## Masks -/

theorem getLsbD_laneMask (ls : List Nat) {j : Nat} (hj : j < 32) : (laneMask ls).getLsbD j = decide (j ∈ ls) := by
  have hfold : ∀ m : Word, (ls.foldl (fun m k => m ||| BitVec.ofNat 32 (2 ^ k)) m).getLsbD j =
      (m.getLsbD j || decide (j ∈ ls)) := by
    induction ls with
    | nil => simp
    | cons a r ih =>
      intro m
      rw [List.foldl_cons, ih, BitVec.getLsbD_or, getLsbD_ofNat_two_pow hj]
      simp [Bool.or_assoc]
  rw [laneMask, hfold]
  simp

theorem laneMask_maskLanes (m : Word) : laneMask (maskLanes m) = m := by
  refine BitVec.eq_of_getLsbD_eq (fun j hj => ?_)
  rw [getLsbD_laneMask _ hj, Bool.eq_iff_iff, decide_eq_true_iff, mem_maskLanes]
  simp [hj]

theorem getLsbD_lanesMask (f : Fields) (s : State) {j : Nat} (hj : j < 32) :
    (lanesMask (activeLanes f s)).getLsbD j = true ↔ 32 * s.cur.grp + j ∈ activeLanes f s := by
  rw [lanesMask, getLsbD_laneMask _ hj, decide_eq_true_iff, mem_activeLanes_mod hj]

theorem maskLanes_lanesMask (f : Fields) (s : State) :
    maskLanes (lanesMask (activeLanes f s)) = (activeLanes f s).map (· % 32) := by
  refine (maskLanes_sorted _).eq_of_mem_iff (activeLanes_mod_sorted f s) (fun j => ?_)
  rw [mem_maskLanes]
  constructor
  · rintro ⟨hj, h⟩
    exact (mem_activeLanes_mod hj).mpr ((getLsbD_lanesMask f s hj).mp h)
  · intro h
    have hj : j < 32 := by
      obtain ⟨l, -, rfl⟩ := List.mem_map.mp h
      omega
    exact ⟨hj, (getLsbD_lanesMask f s hj).mpr ((mem_activeLanes_mod hj).mp h)⟩

/-- A mask that names the active lanes among others names more lanes than they are. -/
theorem length_lt_of_mask {f : Fields} {s : State} {m : Word} (hsub : ∀ l ∈ activeLanes f s, m.getLsbD (l % 32) = true)
    (hne : lanesMask (activeLanes f s) ≠ m) : (activeLanes f s).length < (maskLanes m).length := by
  have hs : List.Sublist ((activeLanes f s).map (· % 32)) (maskLanes m) := by
    rw [← maskLanes_lanesMask]
    refine List.monotone_filter_right _ (fun j h => ?_)
    have hj := BitVec.lt_of_getLsbD h
    have := hsub _ ((getLsbD_lanesMask f s hj).mp h)
    rwa [show (32 * s.cur.grp + j) % 32 = j by omega] at this
  rw [← List.length_map (· % 32)]
  refine lt_of_le_of_ne hs.length_le (fun he => hne ?_)
  rw [lanesMask, hs.eq_of_length he, laneMask_maskLanes]

/-! ## Tables filled in rising order -/

/-- A number beyond those of a table takes the last place. -/
theorem tins_last {α : Type} {k : Nat} (v : α) : ∀ {t : Tbl α}, (∀ e ∈ t, e.1 < k) → tins k v t = t ++ [(k, v)]
  | [], _ => rfl
  | e :: r, h => by
    rw [tins, if_pos (h e List.mem_cons_self), tins_last v (fun x hx => h x (List.mem_cons_of_mem e hx))]
    rfl

theorem foldl_tins {α β : Type} {key : β → Nat} (v : β → α) : ∀ {ls : List β} {t : Tbl α},
    (∀ e ∈ t, ∀ l ∈ ls, e.1 < key l) → (ls.map key).Pairwise (· < ·) →
    ls.foldl (fun t l => tins (key l) (v l) t) t = t ++ ls.map (fun l => (key l, v l))
  | [], t, _, _ => by simp
  | a :: r, t, h, hs => by
    obtain ⟨ha, hr⟩ := List.pairwise_cons.mp hs
    rw [List.foldl_cons, tins_last _ (fun e he => h e he a List.mem_cons_self), foldl_tins v _ hr]
    · simp
    · intro e he l hl
      rcases List.mem_append.mp he with he | he
      · exact h e he l (List.mem_cons_of_mem a hl)
      · obtain rfl := List.mem_singleton.mp he
        exact ha _ (List.mem_map_of_mem hl)

/-- The entry of a number that only one entry has. -/
theorem tfind_of_mem {α : Type} {k : Nat} {v : α} : ∀ {t : Tbl α}, (t.map (·.1)).Nodup → (k, v) ∈ t → tfind k t = some v
  | (j, u) :: r, hn, h => by
    obtain ⟨hj, hr⟩ := List.nodup_cons.mp hn
    rcases List.mem_cons.mp h with h | h
    · cases h
      exact if_pos rfl
    · have hne : j ≠ k := fun he => hj (List.mem_map.mpr ⟨_, h, he.symm⟩)
      rw [tfind, if_neg hne, tfind_of_mem hr h]

theorem tfind_eq_none {α : Type} {k : Nat} : ∀ {t : Tbl α}, k ∉ t.map (·.1) → tfind k t = none
  | [], _ => rfl
  | (j, u) :: r, h => by
    rw [List.map_cons, List.mem_cons, not_or] at h
    rw [tfind, if_neg (Ne.symm h.1), tfind_eq_none h.2]

end Sys2Proof.Machine

/-! Changes of the lanes of one block, by what a lane and a group read as afterwards. -/
namespace Sys2Proof.Machine
open Sys2Proof

/-- Of the state only blocks differ, and there each lane of block `b` is changed by `g` of its number; every other lane and
every group read as before. -/
structure LanesBy (b : Nat) (g : Nat → Lane → Lane) (s u : State) : Prop where
  frame : u = { s with blocks := u.blocks }
  lane : ∀ c l, u.lane c l = if c = b then g l (s.lane c l) else s.lane c l
  grp : ∀ c k, u.grp c k = s.grp c k

namespace LanesBy
variable {b : Nat} {g g' : Nat → Lane → Lane} {s t u : State}

theorem refl (b : Nat) (s : State) : LanesBy b (fun _ x => x) s s := ⟨rfl, fun _ _ => (ite_self _).symm, fun _ _ => rfl⟩

theorem trans (h : LanesBy b g s t) (h' : LanesBy b g' t u) : LanesBy b (fun l x => g' l (g l x)) s u := by
  refine ⟨?_, fun c l => ?_, fun c k => (h'.grp c k).trans (h.grp c k)⟩
  · rw [h'.frame, h.frame]
  · rw [h'.lane, h.lane]
    split <;> rfl

theorem congr (h : LanesBy b g s u) (hg : ∀ l, g l (s.lane b l) = g' l (s.lane b l)) : LanesBy b g' s u := by
  refine ⟨h.frame, fun c l => ?_, h.grp⟩
  rw [h.lane]
  split
  · next hc => rw [hc, hg]
  · rfl

/-- A change of the issuing block that leaves all but its lanes. -/
theorem updBlock {f : Block → Block} (hf : f (s.block b) = { s.block b with lanes := (f (s.block b)).lanes }) :
    LanesBy b (fun l _ => (f (s.block b)).lane l) s (s.updBlock b f) := by
  have hb : ∀ c, (s.updBlock b f).block c = if c = b then f (s.block b) else s.block c := fun c => tget_tput ..
  refine ⟨rfl, fun c l => ?_, fun c k => ?_⟩
  · rw [State.lane_eq, hb]
    split <;> rfl
  · rw [State.grp_eq, hb]
    split
    · next hc => rw [hf, hc]; rfl
    · rfl

theorem updLane (b l : Nat) (f : Lane → Lane) (s : State) :
    LanesBy b (fun k x => if k = l then f x else x) s (s.updLane b l f) := by
  refine (updBlock (f := fun x => x.updLane l f) rfl).congr (fun k => ?_)
  rw [Block.updLane_eq]
  by_cases hk : k = l
  · subst hk; rw [if_pos rfl, Block.lane_setLane]; rfl
  · rw [if_neg hk, Block.lane_setLane_ne _ _ hk]; rfl

theorem updBlock_overLanes {ls : List Nat} (hn : ls.Nodup) (f : Nat → Lane → Lane) (b : Nat) (s : State) :
    LanesBy b (fun l x => if l ∈ ls then f l x else x) s (s.updBlock b (fun x => overLanes x ls f)) :=
  (updBlock (f := fun x => overLanes x ls f) (overLanes_eq ..)).congr (fun l => overLanes_lane ls hn _ f l)

/-- The lanes of a list, each changed in its turn. -/
theorem foldl {f : Nat → Lane → Lane} {h : State → Nat → State}
    (hh : ∀ t l, LanesBy b (fun k x => if k = l then f l x else x) t (h t l)) :
    ∀ {ls : List Nat}, ls.Nodup → ∀ s, LanesBy b (fun l x => if l ∈ ls then f l x else x) s (ls.foldl h s)
  | [], _, s => (refl b s).congr (fun _ => rfl)
  | a :: r, hn, s => by
    obtain ⟨ha, hr⟩ := List.nodup_cons.mp hn
    refine ((hh s a).trans (foldl hh hr (h s a))).congr (fun l => ?_)
    by_cases hl : l = a
    · subst hl; simp [ha]
    · simp [hl]

/-- Lanes that are not changed read as before. -/
theorem lane_same (h : LanesBy b (fun _ x => x) s u) (c l : Nat) : u.lane c l = s.lane c l := by
  rw [h.lane, ite_self]

end LanesBy

/-- A group that keeps its instances reads as before. -/
theorem lanesBy_insts (s : State) (b g : Nat) :
    LanesBy b (fun _ x => x) s (s.updGrp b g (fun x => { x with insts := (s.grp b g).insts })) := by
  have hb : ∀ c, (s.updGrp b g (fun x => { x with insts := (s.grp b g).insts })).block c =
      if c = b then (s.block b).setGrp g (s.grp b g) else s.block c := fun c => tget_tput ..
  refine ⟨rfl, fun c l => ?_, fun c k => ?_⟩
  · rw [State.lane_eq, hb]
    split
    · next hc => rw [hc]; rfl
    · rfl
  · rw [State.grp_eq, hb]
    split
    · next hc =>
      rw [hc, Block.grp, Block.setGrp, tget_tput]
      split
      · next hk => rw [hk]
      · rfl
    · rfl

/-! ## A STEP that lanes come to owe (R197, log entry 97) -/

/-- Lanes that leave a barrier together differ in what they owe alone, and in nothing where none of them owes a STEP. -/
theorem joinDue_lane {ls : List Nat} (hn : ls.Nodup) (x : Block) (l : Nat) :
    (joinDue x ls).lane l = { x.lane l with due := ((joinDue x ls).lane l).due } ∧
    ((∀ k ∈ ls, (x.lane k).due = none) → (joinDue x ls).lane l = x.lane l) := by
  unfold joinDue
  rw [overLanes_lane _ hn]
  split
  · split
    · next k hk =>
      refine ⟨rfl, fun hd => ?_⟩
      have hs := List.find?_some hk
      rw [hd k (List.mem_of_find?_eq_some hk)] at hs
      cases hs
    · exact ⟨rfl, fun _ => rfl⟩
  · exact ⟨rfl, fun _ => rfl⟩

theorem joinDue_eq (x : Block) (ls : List Nat) : joinDue x ls = { x with lanes := (joinDue x ls).lanes } := overLanes_eq ..

end Sys2Proof.Machine

/-! How a masked group instruction meets its Instance (R104). -/
namespace Sys2Proof.Machine
open Sys2Proof

/-- The operands that lane `l` brings to its Instance. -/
def arrivalOf (f : Fields) (s : State) (l : Nat) : Arrival :=
  let x := s.src l
  { a := BitVec.ofNat 64 (rdT x f.t f.sa.toNat), c := x.reg f.sc.toNat, p := x.pred (f.sa.toNat % 16), d := f.d.toNat
    pc := s.cur.pc }

/-- The Instance that the active lanes open under mask `m`. -/
def ownInstance (op : Nat) (f : Fields) (s : State) (m : Word) : Instance :=
  { mask := m, op := op, t := f.t, sub := f.sub, arrivals := (activeLanes f s).map (fun l => (l % 32, arrivalOf f s l)) }

/-- The active lanes present mask `m`, which names exactly them of the batch, and no pending Instance meets it. -/
structure Presents (f : Fields) (s : State) (m : Word) : Prop where
  nonempty : activeLanes f s ≠ []
  mask : ∀ l ∈ activeLanes f s, rdB32 f (s.src l) = m
  named : ∀ j < 32, s.cur.lanes.getLsbD j = true ∧ m.getLsbD j = true ↔ 32 * s.cur.grp + j ∈ activeLanes f s
  free : ∀ i ∈ s.curGrp.insts, i.mask &&& m = 0

theorem and_eq_zero_iff {a b : Word} : a &&& b = 0 ↔ ∀ j < 32, a.getLsbD j = true → b.getLsbD j = false := by
  constructor
  · intro h j _ ha
    have hb : (a &&& b).getLsbD j = false := by rw [h]; simp
    simpa [ha] using hb
  · intro h
    refine BitVec.eq_of_getLsbD_eq (fun j hj => ?_)
    rw [BitVec.getLsbD_and]
    cases ha : a.getLsbD j
    · simp
    · simp [h j hj ha]

section
variable {f : Fields} {s : State} {m : Word} (h : Presents f s m)
include h

theorem Presents.bit {l : Nat} (hl : l ∈ activeLanes f s) : m.getLsbD (l % 32) = true :=
  ((h.named _ (by omega)).mpr ((activeLanes_mod hl).symm ▸ hl)).2

/-- The first Instance of the group that the arrival would meet is none. -/
theorem Presents.find_none : s.curGrp.insts.find? (fun i => i.mask &&& lanesMask (activeLanes f s) != 0) = none := by
  refine List.find?_eq_none.mpr (fun i hi => ?_)
  have hz : i.mask &&& lanesMask (activeLanes f s) = 0 := and_eq_zero_iff.mpr (fun j hj hi' => by
    have hm := and_eq_zero_iff.mp (h.free i hi) j hj hi'
    by_contra hb
    have := ((h.named j hj).mpr ((getLsbD_lanesMask f s hj).mp (Bool.eq_true_of_not_eq_false hb))).2
    rw [hm] at this
    cases this)
  simp [hz]

/-- The lanes disagree on no mask, arrive under no other's, and leave none of the batch that theirs names behind. -/
theorem Presents.agrees :
    ((activeLanes f s).any (fun l => rdB32 f (s.src l) != m) || lanesMask (activeLanes f s) &&& ~~~ m != 0 ||
      (m &&& s.cur.lanes) &&& ~~~ lanesMask (activeLanes f s) != 0) = false := by
  have hany : (activeLanes f s).any (fun l => rdB32 f (s.src l) != m) = false :=
    List.any_eq_false.mpr (fun l hl => by simp [h.mask l hl])
  have hin : lanesMask (activeLanes f s) &&& ~~~ m = 0 := and_eq_zero_iff.mpr (fun j hj hb => by
    have := ((h.named j hj).mpr ((getLsbD_lanesMask f s hj).mp hb)).2
    simp [this])
  have hout : (m &&& s.cur.lanes) &&& ~~~ lanesMask (activeLanes f s) = 0 := and_eq_zero_iff.mpr (fun j hj hb => by
    rw [BitVec.getLsbD_and, Bool.and_eq_true] at hb
    have := (getLsbD_lanesMask f s hj).mpr ((h.named j hj).mp hb.symm)
    simp [this])
  simp [hany, hin, hout]

/-- The arrivals make an Instance by themselves: it completes where it is done, and else the lanes wait in it. -/
theorem arriveMasked_opens (op : Nat) :
    let i := ownInstance op f s m
    arriveMasked op f s =
      if instanceDone s s.cur.blk s.cur.grp i then
        let u := finishInstance (s.updGrp s.cur.blk s.cur.grp (fun x => { x with insts := s.curGrp.insts }))
          s.cur.blk s.cur.grp i
        if op == 0x74 then u.endRun else u
      else
        sweepInstances ((s.updGrp s.cur.blk s.cur.grp (fun x => { x with insts := s.curGrp.insts ++ [i] })).updCurBlock
          (fun x => overLanes x (activeLanes f s) (fun _ y => { y with park := .masked }))) s.cur.blk s.cur.grp := by
  intro i
  have hi : i = { mask := m, op := op, t := f.t, sub := f.sub, arrivals :=
      (activeLanes f s).foldl (fun t l => tins (l % 32) (arrivalOf f s l) t) [] } := by
    rw [foldl_tins _ (fun _ he => absurd he List.not_mem_nil) (activeLanes_mod_sorted f s)]
    rfl
  clear_value i
  have hne := h.nonempty
  have hmask := h.mask
  have hag := h.agrees
  have hfind := h.find_none
  unfold arriveMasked
  generalize activeLanes f s = ls at *
  cases ls with
  | nil => exact absurd rfl hne
  | cons l0 r =>
    have hm0 := hmask l0 List.mem_cons_self
    unfold lanesMask at hag hfind
    unfold arrivalOf at hi
    unfold State.curGrp at *
    simp only [hm0, hag, hfind, Bool.false_eq_true, if_false, ← hi]

/-- The Instance is done where its mask names no other lane, and for a GBAR no participant owes a local store. -/
theorem Presents.done_eq (op : Nat) (t : State) (b : Nat) : instanceDone t b s.cur.grp (ownInstance op f s m) =
    (decide (lanesMask (activeLanes f s) = m) && (op != 0x74 || (activeLanes f s).all (fun l => !(t.lane b l).owesAny))) := by
  have hlen : ((activeLanes f s).length == (maskLanes m).length) = decide (lanesMask (activeLanes f s) = m) := by
    by_cases he : lanesMask (activeLanes f s) = m
    · have := congrArg List.length (maskLanes_lanesMask f s)
      rw [he, List.length_map] at this
      simp [he, this]
    · simp [he, (length_lt_of_mask (fun l => h.bit) he).ne]
  have hall : ((activeLanes f s).map (fun l => (l % 32, arrivalOf f s l))).all
      (fun p => !(t.lane b (32 * s.cur.grp + p.1)).owesAny) = (activeLanes f s).all (fun l => !(t.lane b l).owesAny) := by
    rw [List.all_map, Bool.eq_iff_iff, List.all_eq_true, List.all_eq_true]
    exact forall₂_congr (fun l hl => by rw [Function.comp_apply, activeLanes_mod hl])
  rw [← hlen, ← hall, ← List.length_map (as := activeLanes f s) (fun l => (l % 32, arrivalOf f s l))]
  rfl

end

end Sys2Proof.Machine

/-! A complete Instance: its participants go on with their results (R104 step 5). -/
namespace Sys2Proof.Machine
open Sys2Proof Sys2Proof.Claim

/-- A lane that waits in an Instance goes on. -/
def wake (x : Lane) : Lane := if x.park == .masked then { x with park := .run } else x

theorem wake_run {x : Lane} (h : x.park = .run) : wake x = x := by rw [wake, h]; rfl

/-- What lane `l` gets of the Instance that the active lanes make by themselves. -/
def ownGift (op : Nat) (f : Fields) (s : State) (m : Word) (l : Nat) : Gift :=
  (ownInstance op f s m).gift (l % 32) (arrivalOf f s l)

/-- The outstanding result that it becomes. -/
def giftRes (op : Nat) (f : Fields) (s : State) (m : Word) (l : Nat) : LRes :=
  { id := 0, blk := s.cur.blk, lane := l, regs := regPairs f.d.toNat (ownGift op f s m l).regs
    flags := (ownGift op f s m l).flags }

/-- A gift that a lane gets at once. -/
def Gift.give (r : Gift) (d : Nat) (x : Lane) : Lane :=
  match r.pred with
  | some v => (x.setRegs d r.regs).setPred d v
  | none => x.setRegs d r.regs

/-- Results that are written later leave the lanes that wake. -/
theorem completeInstance_later {op : Nat} (hop : maskedL op = true) (f : Fields) (s t : State) (m : Word) :
    completeInstance t s.cur.blk s.cur.grp (ownInstance op f s m) =
      (activeLanes f s).foldl (fun t l => pushL t (giftRes op f s m l))
        ((activeLanes f s).foldl (fun t l => t.updLane s.cur.blk l wake) t) := by
  have hpush : ∀ (ls : List Nat) (r : LRes) (t : State), ls.foldl (fun t l => t.updLane s.cur.blk l wake) (pushL t r) =
      pushL (ls.foldl (fun t l => t.updLane s.cur.blk l wake) t) r :=
    fun ls r t => List.foldl_hom (fun t => pushL t r) (fun _ _ => rfl)
  have hsplit : ∀ (ls : List Nat) (t : State),
      ls.foldl (fun t l => pushL (t.updLane s.cur.blk l wake) (giftRes op f s m l)) t =
        ls.foldl (fun t l => pushL t (giftRes op f s m l)) (ls.foldl (fun t l => t.updLane s.cur.blk l wake) t) := by
    intro ls
    induction ls with
    | nil => intro t; rfl
    | cons a r ih => intro t; rw [List.foldl_cons, ih, hpush]; rfl
  rw [← hsplit, completeInstance, Instance.parts, ownInstance, List.foldl_map]
  refine List.foldl_ext _ _ t (fun u l hl => ?_)
  dsimp only
  rw [if_pos hop, activeLanes_mod hl]
  rfl

/-- Results that are written at once. -/
theorem completeInstance_now {op : Nat} (hop : maskedL op = false) (f : Fields) (s t : State) (m : Word) :
    completeInstance t s.cur.blk s.cur.grp (ownInstance op f s m) = (activeLanes f s).foldl (fun t l =>
      (t.updLane s.cur.blk l wake).updLane s.cur.blk l ((ownGift op f s m l).give f.d.toNat)) t := by
  rw [completeInstance, Instance.parts, ownInstance, List.foldl_map]
  refine List.foldl_ext _ _ t (fun u l hl => ?_)
  dsimp only
  rw [if_neg (Bool.eq_false_iff.mp hop), activeLanes_mod hl]
  rfl

/-! ## A whole Instance -/

theorem presents_whole {f : Fields} {s : State} {m : Word} (h : WholeInstance f s m) : Presents f s m := by
  obtain ⟨hne, hm, hl, hfree⟩ := h
  refine ⟨hne, fun l hl => (hm l hl).1, fun j hj => ?_, hfree⟩
  rw [← hl, getLsbD_lanesMask f s hj]
  refine and_iff_right_of_imp (fun ha => ?_)
  obtain ⟨k, -, hk, he⟩ := mem_curLanes.mp (mem_activeLanes.mp ha).1
  rwa [← Nat.add_left_cancel he]

/-- The state in which a whole Instance completes. -/
def opened (s : State) : State := s.updGrp s.cur.blk s.cur.grp (fun x => { x with insts := s.curGrp.insts })

theorem lanesBy_opened (s : State) : LanesBy s.cur.blk (fun _ x => x) s (opened s) := lanesBy_insts ..

section
variable {f : Fields} {s : State} {m : Word} (h : WholeInstance f s m)
include h

/-- The participants of a whole Instance did not wait. -/
theorem wake_whole {l : Nat} (hl : l ∈ activeLanes f s) : wake (s.lane s.cur.blk l) = s.lane s.cur.blk l := by
  obtain ⟨-, hrun, -, -⟩ := h
  exact wake_run (hrun l hl).2

theorem mask_whole : lanesMask (activeLanes f s) = m := by
  obtain ⟨-, -, hm, -⟩ := h
  exact hm

theorem arriveMasked_whole {op : Nat} (hop : op ≠ 0x74) :
    arriveMasked op f s = completeInstance (opened s) s.cur.blk s.cur.grp (ownInstance op f s m) := by
  have hp := presents_whole h
  have hd : instanceDone s s.cur.blk s.cur.grp (ownInstance op f s m) = true := by
    rw [hp.done_eq, decide_eq_true (mask_whole h)]
    simp [hop]
  have hb : (op == 0x74) = false := beq_false_of_ne hop
  have hi : (ownInstance op f s m).op = op := rfl
  rw [arriveMasked_opens hp op, if_pos hd]
  simp only [hb, finishInstance, hi, Bool.false_eq_true, if_false]
  rfl

/-- A whole Instance of an instruction with results of their own time: each participant is owed its gift, and every lane
and every group reads as before. -/
theorem arriveMasked_later {op : Nat} (hop : maskedL op = true) :
    let u := arriveMasked op f s
    u = { s with lres := u.lres, seq := u.seq, blocks := u.blocks } ∧
    (∀ b l g, u.lane b l = s.lane b l ∧ u.grp b g = s.grp b g) ∧
    ∃ new : List LRes, u.lres = s.lres ++ new ∧ new.map (·.lane) = activeLanes f s ∧
      ∀ r ∈ new, r = { giftRes op f s m r.lane with id := r.id } := by
  intro u
  have hne : op ≠ 0x74 := by rintro rfl; cases hop
  have hw : LanesBy s.cur.blk (fun _ x => x) s
      ((activeLanes f s).foldl (fun t l => t.updLane s.cur.blk l wake) (opened s)) := by
    refine ((lanesBy_opened s).trans (LanesBy.foldl (f := fun _ => wake) (fun t l => LanesBy.updLane s.cur.blk l wake t)
      (activeLanes_nodup f s) _)).congr (fun l => ?_)
    split
    · next hl => exact wake_whole h hl
    · rfl
  have hu : u = _ := (arriveMasked_whole h hne).trans (completeInstance_later hop f s _ m)
  obtain ⟨hf, new, hn, hl, hx⟩ := foldl_pushL_lanes (r := giftRes op f s m) (fun _ => rfl) (activeLanes f s)
    ((activeLanes f s).foldl (fun t l => t.updLane s.cur.blk l wake) (opened s))
  rw [← hu] at hf hn
  generalize (activeLanes f s).foldl (fun t l => t.updLane s.cur.blk l wake) (opened s) = v at *
  refine ⟨?_, fun b l g => ⟨?_, ?_⟩, new, ?_, hl, fun r hr => (hx r hr).2⟩
  · rw [hf, hw.frame]
  · rw [hf]
    exact hw.lane_same b l
  · rw [hf]
    exact hw.grp b g
  · rw [hn, hw.frame]

theorem completeInstance_whole {op : Nat} (hop : maskedL op = false) :
    LanesBy s.cur.blk (fun l x => if l ∈ activeLanes f s then (ownGift op f s m l).give f.d.toNat x else x) s
      (completeInstance (opened s) s.cur.blk s.cur.grp (ownInstance op f s m)) := by
  rw [completeInstance_now hop]
  refine ((lanesBy_opened s).trans (LanesBy.foldl (f := fun l x => (ownGift op f s m l).give f.d.toNat (wake x))
    (fun t l => ((LanesBy.updLane s.cur.blk l wake t).trans
      (LanesBy.updLane s.cur.blk l ((ownGift op f s m l).give f.d.toNat) _)).congr (fun k => ?_))
    (activeLanes_nodup f s) _)).congr (fun l => ?_)
  · split <;> rfl
  · split
    · next hl => rw [wake_whole h hl]
    · rfl

/-- A whole Instance of an instruction whose results are written at once. -/
theorem arriveMasked_now {op : Nat} (hop : maskedL op = false) (hne : op ≠ 0x74) :
    LanesBy s.cur.blk (fun l x => if l ∈ activeLanes f s then (ownGift op f s m l).give f.d.toNat x else x) s
      (arriveMasked op f s) := by
  rw [arriveMasked_whole h hne]
  exact completeInstance_whole h hop

/-- A whole Instance of GBAR ends the run, and of the lanes changes what they owe alone. -/
theorem arriveMasked_gbar (ho : ∀ l ∈ activeLanes f s, (s.lane s.cur.blk l).owesAny = false) :
    ∃ v, arriveMasked 0x74 f s = State.endRun v ∧ v = { s with blocks := v.blocks } ∧ (∀ b g, v.grp b g = s.grp b g) ∧
      (∀ b l, v.lane b l = { s.lane b l with due := (v.lane b l).due }) ∧
      ((∀ l ∈ activeLanes f s, (s.lane s.cur.blk l).due = none) → ∀ b l, v.lane b l = s.lane b l) := by
  have hp := presents_whole h
  have hd : instanceDone s s.cur.blk s.cur.grp (ownInstance 0x74 f s m) = true := by
    rw [hp.done_eq, decide_eq_true (mask_whole h)]
    simpa using ho
  have hls : (ownInstance 0x74 f s m).parts.map (fun p => 32 * s.cur.grp + p.1) = activeLanes f s := by
    rw [Instance.parts, ownInstance, List.map_map]
    exact (List.map_congr_left (fun l hl => activeLanes_mod hl)).trans (List.map_id _)
  have hc : LanesBy s.cur.blk (fun _ x => x) s (completeInstance (opened s) s.cur.blk s.cur.grp (ownInstance 0x74 f s m)) :=
    (completeInstance_whole h rfl).congr (fun _ => ite_self _)
  have ha : arriveMasked 0x74 f s = State.endRun
      ((completeInstance (opened s) s.cur.blk s.cur.grp (ownInstance 0x74 f s m)).updBlock s.cur.blk
        (fun x => joinDue x (activeLanes f s))) := by
    rw [arriveMasked_opens hp, if_pos hd, ← hls]
    rfl
  generalize completeInstance (opened s) s.cur.blk s.cur.grp (ownInstance 0x74 f s m) = t at ha hc
  have hj := joinDue_lane (activeLanes_nodup f s) (t.block s.cur.blk)
  have ht : ∀ l, (t.block s.cur.blk).lane l = s.lane s.cur.blk l := hc.lane_same s.cur.blk
  simp only [ht] at hj
  have hv := hc.trans (LanesBy.updBlock (f := fun x => joinDue x (activeLanes f s)) (joinDue_eq (t.block s.cur.blk) _))
  refine ⟨_, ha, hv.frame, hv.grp, fun b l => ?_, fun hdue b l => ?_⟩
  · rw [hv.lane]
    split
    · next hb => rw [hb]; exact (hj l).1
    · rfl
  · rw [hv.lane]
    split
    · next hb => rw [hb]; exact (hj l).2 hdue
    · rfl

end

end Sys2Proof.Machine

/-! What the participants of a whole Instance get (R105 to R108). -/
namespace Sys2Proof.Claim
open Sys2Proof Sys2Proof.Machine

/-- The value in an arrival of Instance `i`. -/
def valueIn (i : Instance) (a : Arrival) : Nat := a.a.toNat % 2 ^ i.t.bits

/-- The operand that a lane brings is the one that it presents, where its type has no more than 64 bits. -/
theorem valueIn_arrivalOf {f : Fields} (ht : f.t.bits ≤ 64) (op : Nat) (s : State) (m : Word) (l : Nat) :
    valueIn (ownInstance op f s m) (arrivalOf f s l) = given f s l := by
  have hlt : given f s l < 2 ^ f.t.bits := Nat.mod_lt _ (Nat.two_pow_pos _)
  have h64 : given f s l < 2 ^ 64 := hlt.trans_le (Nat.pow_le_pow_right (by decide) ht)
  show (BitVec.ofNat 64 (given f s l)).toNat % 2 ^ f.t.bits = _
  rw [BitVec.toNat_ofNat, Nat.mod_eq_of_lt h64, Nat.mod_eq_of_lt hlt]

/-- The mask says which lanes of the group take part. -/
theorem tfind_parts {f : Fields} {s : State} {m : Word} (hm : lanesMask (activeLanes f s) = m) (op k : Nat) :
    tfind k (ownInstance op f s m).parts = if m.getLsbD k then some (arrivalOf f s (32 * s.cur.grp + k)) else none := by
  have hk : (ownInstance op f s m).parts.map (·.1) = (activeLanes f s).map (· % 32) := by
    rw [Instance.parts, ownInstance, List.map_map]
    rfl
  have hn : ((ownInstance op f s m).parts.map (·.1)).Nodup := hk ▸ (activeLanes_mod_sorted f s).nodup
  split
  · next hb =>
    have hj := BitVec.lt_of_getLsbD hb
    have ha := (getLsbD_lanesMask f s hj).mp (hm ▸ hb)
    refine tfind_of_mem hn (List.mem_map.mpr ⟨_, ha, ?_⟩)
    rw [show (32 * s.cur.grp + k) % 32 = k by omega]
  · next hb =>
    refine tfind_eq_none (fun h => hb ?_)
    rw [← hm]
    rw [hk, ← maskLanes_lanesMask, mem_maskLanes] at h
    exact h.2

theorem tfind_given {f : Fields} {s : State} {m : Word} (ht : f.t.bits ≤ 64) (hm : lanesMask (activeLanes f s) = m)
    (op k : Nat) : (tfind k (ownInstance op f s m).parts).map (valueIn (ownInstance op f s m)) = givenAt f s m k := by
  rw [tfind_parts hm, givenAt]
  split
  · exact congrArg some (valueIn_arrivalOf ht op s m _)
  · rfl

theorem shuffleSrc_eq (mode l : Nat) (c : Word) : shuffleSrc mode l c = shuffleFrom mode l c := by
  match mode with
  | 0 => rfl
  | 1 => rfl
  | 2 => simp only [shuffleSrc, shuffleFrom, Nat.lt_succ_iff]
  | _ + 3 => rfl

theorem gift_shfl {i : Instance} (hop : i.op = 0x70) (l : Nat) (me : Arrival) :
    i.gift l me = { regs := resT i.t (((shuffleSrc (i.sub.toNat % 4) l me.c).bind
      (fun k => (tfind k i.parts).map (valueIn i))).getD (valueIn i me)) } := by
  unfold Instance.gift
  rw [hop]
  dsimp only
  cases shuffleSrc (i.sub.toNat % 4) l me.c with
  | none => rfl
  | some k =>
    dsimp only [Option.bind_some]
    cases tfind k i.parts <;> rfl

theorem ownGift_shfl {f : Fields} {s : State} {m : Word} (ht : f.t.bits ≤ 64) (hm : lanesMask (activeLanes f s) = m)
    (l : Nat) : ownGift 0x70 f s m l = { regs := resT f.t (((shuffleFrom (f.subBits 33 32) (l % 32)
      ((s.src l).reg f.sc.toNat)).bind (givenAt f s m)).getD (given f s l)) } := by
  rw [ownGift, gift_shfl rfl, shuffleSrc_eq, ← valueIn_arrivalOf ht 0x70 s m, ← funext (tfind_given ht hm 0x70)]
  rfl

theorem ownGift_red {f : Fields} {s : State} {m : Word} (ht : f.t.bits ≤ 64) (hm : lanesMask (activeLanes f s) = m)
    (l : Nat) : ownGift 0x72 f s m l =
      let r := treeRed (f.subBits 35 32) f.t 5 (allLanes.map (givenAt f s m))
      { regs := resT f.t r.1, flags := r.2 } := by
  rw [← funext (tfind_given ht hm 0x72)]
  rfl

/-- The values that the participants present, in rising lane order. -/
theorem map_value_parts {f : Fields} {s : State} {m : Word} (ht : f.t.bits ≤ 64) (op : Nat) :
    (ownInstance op f s m).parts.map (fun p => valueIn (ownInstance op f s m) p.2) = givenList f s := by
  rw [Instance.parts, ownInstance, List.map_map]
  exact List.map_congr_left (fun l _ => valueIn_arrivalOf ht op s m l)

/-- The participants of which something is true are the active lanes of which it is. -/
theorem filter_parts (f : Fields) (s : State) (m : Word) (op : Nat) (p : Nat × Arrival → Bool) :
    (ownInstance op f s m).parts.filter p =
      ((activeLanes f s).filter (fun l => p (l % 32, arrivalOf f s l))).map (fun l => (l % 32, arrivalOf f s l)) := by
  rw [Instance.parts, ownInstance, List.filter_map]
  rfl

/-- A member of a rising list stands behind those that are smaller. -/
theorem idxOf_eq_length_filter {l : Nat} : ∀ {ls : List Nat}, ls.Pairwise (· < ·) → l ∈ ls →
    (ls.filter (fun k => decide (k < l))).length = ls.idxOf l
  | a :: r, hs, hl => by
    obtain ⟨ha, hr⟩ := List.pairwise_cons.mp hs
    rcases List.mem_cons.mp hl with rfl | hl
    · have hf : r.filter (fun k => decide (k < l)) = [] :=
        List.filter_eq_nil_iff.mpr (fun k hk => by simpa using (ha k hk).le)
      simp [hf]
    · have hlt := ha l hl
      rw [List.filter_cons, if_pos (by simpa using hlt), List.length_cons, idxOf_eq_length_filter hr hl,
        List.idxOf_cons_ne _ hlt.ne]

/-- The place of a participant in an Instance. -/
theorem position_parts {f : Fields} {s : State} {m : Word} {l : Nat} (hl : l ∈ activeLanes f s) (op : Nat) :
    ((ownInstance op f s m).parts.filter (fun p => p.1 < l % 32)).length = (activeLanes f s).idxOf l := by
  rw [filter_parts, List.length_map, ← idxOf_eq_length_filter (activeLanes_sorted f s) hl]
  refine congrArg List.length (List.filter_congr (fun k hk => ?_))
  exact decide_eq_decide.mpr (activeLanes_mod_lt_iff hk hl)

theorem ownGift_scan {f : Fields} {s : State} {m : Word} {l : Nat} (ht : f.t.bits ≤ 64) (hl : l ∈ activeLanes f s) :
    ownGift 0x73 f s m l =
      let all := scanRed (f.subBits 35 32) f.t none (if f.subBits 36 36 = 1 then (givenList f s).dropLast else givenList f s)
      let pos := (activeLanes f s).idxOf l
      { regs := resT f.t (if f.subBits 36 36 = 1 then
            (if pos = 0 then redIdent (f.subBits 35 32) f.t else all.1.getD (pos - 1) 0)
          else all.1.getD pos 0)
        flags := all.2 } := by
  have hx : f.subBits 36 36 = 1 ↔ f.sub.getLsbD 4 = true := by
    rw [show f.subBits 36 36 = _ from subBits_one f 4]
    cases f.sub.getLsbD 4 <;> decide
  rw [← position_parts hl 0x73 (m := m), ← map_value_parts ht 0x73 (m := m)]
  simp only [hx, ← beq_iff_eq (b := 0)]
  rfl

theorem gift_match {i : Instance} (hop : i.op = 0x75) (l : Nat) (me : Arrival) :
    i.gift l me = { regs := [laneMask ((i.parts.filter (fun p => valueIn i p.2 == valueIn i me)).map (·.1))] } := by
  unfold Instance.gift
  rw [hop]
  rfl

theorem ownGift_match {f : Fields} {s : State} {m : Word} (ht : f.t.bits ≤ 64) (l : Nat) :
    ownGift 0x75 f s m l = { regs := [lanesMask ((activeLanes f s).filter (fun k => given f s k == given f s l))] } := by
  rw [ownGift, gift_match rfl, filter_parts, List.map_map]
  simp only [valueIn_arrivalOf ht]
  rfl

/-- A word written as a result of 32 bits. -/
theorem resT_b32 (w : Word) : resT .b32 w.toNat = [w] := by
  show [BitVec.ofNat 32 (w.toNat % 2 ^ 32)] = [w]
  rw [Nat.mod_eq_of_lt w.isLt, BitVec.ofNat_toNat, BitVec.setWidth_eq]

/-! ## The types of the instructions with results of their own time -/

/-- A well-formed instruction keeps to the row of its opcode, in the field SA and in its type among others (R59, R61). -/
theorem row_of_wf {op : Nat} {f : Fields} {r : EncRow} (hr : encRow op = some r) (h : shaocWf op f = true) :
    r.a.ok f.sa = true ∧ f.t ∈ r.types := by
  rw [shaocWf, hr] at h
  simp only [fieldsOk, Bool.and_eq_true, List.contains_iff_mem] at h
  obtain ⟨⟨⟨⟨⟨⟨⟨⟨-, ha⟩, -⟩, -⟩, -⟩, ht⟩, -⟩, -⟩, -⟩ := h
  exact ⟨ha, ht⟩

theorem bits_of_tyBits {t : Ty} (h : t ∈ tyBits) : t.bits ≤ 64 := by revert h; revert t; decide
theorem bits_of_tyRed {t : Ty} (h : t ∈ tyRed) : t.bits ≤ 64 := by revert h; revert t; decide

theorem InstanceStarts.of_gift {op : Nat} {mk : Fields → Instr} {ty : Fields → Ty}
    {val : Fields → State → Word → Nat → Nat × Flags} (hop : maskedL op = true)
    (he : ∀ f s, exec (mk f) s = .next (arriveMasked op f s))
    (hg : ∀ f s m, (mk f).wf = true → lanesMask (activeLanes f s) = m → ∀ l ∈ activeLanes f s,
      ownGift op f s m l = { regs := resT (ty f) (val f s m l).1, flags := (val f s m l).2 }) : InstanceStarts mk ty val := by
  intro f s m hwf h
  obtain ⟨hu, hs, new, hn, hl, hx⟩ := arriveMasked_later h hop
  refine ⟨_, he f s, hu, hs, new, hn, hl, fun r hr => ?_⟩
  have hgift := hg f s m hwf (mask_whole h) r.lane (hl ▸ List.mem_map_of_mem hr)
  rw [hx r hr, giftRes, hgift]
  exact ⟨rfl, rfl, rfl⟩

theorem groupResults : GroupResults := by
  refine ⟨.of_gift (op := 0x70) rfl (fun _ _ => rfl) fun f s m hwf hm l _ => ?_,
    .of_gift (op := 0x72) rfl (fun _ _ => rfl) fun f s m hwf hm l _ => ?_,
    .of_gift (op := 0x73) rfl (fun _ _ => rfl) fun f s m hwf hm l hl => ?_,
    .of_gift (op := 0x75) rfl (fun _ _ => rfl) fun f s m hwf hm l _ => ?_⟩
  · exact ownGift_shfl (bits_of_tyBits (row_of_wf (op := 0x70) rfl hwf).2) hm l
  · exact ownGift_red (bits_of_tyRed (row_of_wf (op := 0x72) rfl hwf).2) hm l
  · exact ownGift_scan (bits_of_tyRed (row_of_wf (op := 0x73) rfl hwf).2) hl
  · rw [ownGift_match (bits_of_tyBits (row_of_wf (op := 0x75) rfl hwf).2), ← resT_b32]
    rfl

/-! ## Votes, barriers and elections -/

theorem gift_vote {i : Instance} (hop : i.op = 0x71) (hm : i.sub.toNat % 4 ≠ 3) (l : Nat) (me : Arrival) :
    let yes := i.parts.filter (·.2.p)
    i.gift l me = { pred := some (if i.sub.toNat % 4 = 0 then yes.length == i.parts.length
      else if i.sub.toNat % 4 = 1 then yes.length != 0 else yes.length == 0 || yes.length == i.parts.length) } := by
  have hlt := Nat.mod_lt i.sub.toNat (show 0 < 4 by decide)
  unfold Instance.gift
  rw [hop]
  dsimp only
  generalize i.sub.toNat % 4 = k at *
  match k with
  | 0 => rfl
  | 1 => rfl
  | 2 => rfl
  | 3 => exact absurd rfl hm

theorem gift_ballot {i : Instance} (hop : i.op = 0x71) (hm : i.sub.toNat % 4 = 3) (l : Nat) (me : Arrival) :
    let yes := i.parts.filter (·.2.p)
    i.gift l me = { regs := [laneMask (yes.map (·.1)), BitVec.ofNat 32 (yes.length + 2 ^ 16 * i.parts.length)] } := by
  unfold Instance.gift
  rw [hop, hm]
  rfl

theorem gift_elect {i : Instance} (hop : i.op = 0x76) (l : Nat) (me : Arrival) :
    i.gift l me = { pred := some (i.parts.head?.map (·.1) == some l) } := by
  unfold Instance.gift
  rw [hop]
  rfl

theorem length_parts (op : Nat) (f : Fields) (s : State) (m : Word) :
    (ownInstance op f s m).parts.length = (activeLanes f s).length := List.length_map ..

/-- The participants that vote yes. -/
def yesLanes (f : Fields) (s : State) : List Nat := (activeLanes f s).filter (fun l => (s.src l).pred f.sa.toNat)

theorem yes_parts {f : Fields} (ha : f.sa.toNat < 16) (s : State) (m : Word) (op : Nat) :
    (ownInstance op f s m).parts.filter (·.2.p) = (yesLanes f s).map (fun l => (l % 32, arrivalOf f s l)) := by
  rw [filter_parts]
  simp only [arrivalOf, Nat.mod_eq_of_lt ha, yesLanes]

theorem ownGift_vote {f : Fields} (ha : f.sa.toNat < 16) (hm : f.subBits 33 32 ≠ 3) (s : State) (m : Word) (l : Nat) :
    ownGift 0x71 f s m l = { pred := some (if f.subBits 33 32 = 0 then (yesLanes f s).length == (activeLanes f s).length
      else if f.subBits 33 32 = 1 then (yesLanes f s).length != 0
      else (yesLanes f s).length == 0 || (yesLanes f s).length == (activeLanes f s).length) } := by
  rw [ownGift, gift_vote (i := ownInstance 0x71 f s m) rfl hm, yes_parts ha, length_parts, List.length_map]
  rfl

theorem ownGift_ballot {f : Fields} (ha : f.sa.toNat < 16) (hm : f.subBits 33 32 = 3) (s : State) (m : Word) (l : Nat) :
    ownGift 0x71 f s m l = { regs := [lanesMask (yesLanes f s),
      BitVec.ofNat 32 ((yesLanes f s).length + 2 ^ 16 * (activeLanes f s).length)] } := by
  rw [ownGift, gift_ballot (i := ownInstance 0x71 f s m) rfl hm, yes_parts ha, length_parts, List.length_map, List.map_map]
  rfl

theorem ownGift_elect {f : Fields} {s : State} {l : Nat} (hl : l ∈ activeLanes f s) (m : Word) :
    ownGift 0x76 f s m l = { pred := some (decide ((activeLanes f s).head? = some l)) } := by
  rw [ownGift, gift_elect rfl, Instance.parts, ownInstance, List.head?_map]
  cases hh : (activeLanes f s).head? with
  | none => rw [List.head?_eq_none_iff.mp hh] at hl; cases hl
  | some k =>
    have hk := activeLanes_mod (List.mem_of_mem_head? hh)
    have := activeLanes_mod hl
    have : k % 32 = l % 32 ↔ k = l := by omega
    simp [beq_eq_decide, this]

/-- Two words side by side as a number. -/
theorem wordsOf_pair (w : Word) (n : Nat) : wordsOf 2 (w.toNat + 2 ^ 32 * n) = [w, BitVec.ofNat 32 n] := by
  have hd : (w.toNat + 2 ^ 32 * n) / 2 ^ 32 = n := by have := w.isLt; omega
  have hw : BitVec.ofNat 32 (w.toNat + 2 ^ 32 * n) = w := by
    apply BitVec.eq_of_toNat_eq
    rw [BitVec.toNat_ofNat, Nat.add_mul_mod_self_left, Nat.mod_eq_of_lt w.isLt]
  rw [wordsOf, wordsOf, wordsOf, hd, hw]

/-- A whole Instance of an instruction whose results are written at once changes its participants as `P` says of their
gifts, and nothing else. -/
theorem exec_now {op : Nat} {mk : Fields → Instr} {f : Fields} {s : State} {m : Word} {P : Nat → Lane → Lane → Prop}
    (h : WholeInstance f s m) (hop : maskedL op = false) (hne : op ≠ 0x74) (he : exec (mk f) s = .next (arriveMasked op f s))
    (hg : ∀ l ∈ activeLanes f s, ∀ x, P l x ((ownGift op f s m l).give f.d.toNat x)) :
    ∃ u, exec (mk f) s = .next u ∧ u = { s with blocks := u.blocks } ∧ ∀ l,
      (l ∈ activeLanes f s → P l (s.lane s.cur.blk l) (u.lane s.cur.blk l)) ∧
      (l ∉ activeLanes f s → u.lane s.cur.blk l = s.lane s.cur.blk l) := by
  obtain ⟨hf, hl, -⟩ := arriveMasked_now h hop hne
  refine ⟨_, he, hf, fun l => ?_⟩
  rw [hl, if_pos rfl]
  exact ⟨fun ha => by rw [if_pos ha]; exact hg l ha _, fun ha => if_neg ha⟩

/-- GVOTE names a predicate. -/
theorem vote_source {f : Fields} (h : (Instr.gvote f).wf = true) : f.sa.toNat < 16 :=
  of_decide_eq_true (row_of_wf (op := 0x71) rfl h).1

theorem groupVotes : GroupVotes := by
  intro f s m h yes mode
  refine ⟨fun hwf hmode => ?_, fun hwf hmode => ?_, fun ho => ?_, ?_⟩
  · refine exec_now (op := 0x71) h rfl (by decide) rfl (fun l _ x => ?_)
    rw [ownGift_vote (vote_source hwf) hmode]
    exact predSet_setPred ..
  · refine exec_now (op := 0x71) h rfl (by decide) rfl (fun l _ x => ?_)
    rw [ownGift_ballot (vote_source hwf) hmode, ← wordsOf_pair]
    exact regsSet_setRegs ..
  · obtain ⟨v, he, hf, hg, hl, hd⟩ := arriveMasked_gbar h ho
    exact ⟨_, congrArg Host.Outcome.next he, congrArg State.endRun hf, hg, hl, hd⟩
  · refine exec_now (op := 0x76) h rfl (by decide) rfl (fun l ha x => ?_)
    rw [ownGift_elect ha]
    exact predSet_setPred ..

/-- Settles O20: a whole Instance completes where it opens, each participant with what its rule makes of the arrivals; the
model's table of arrivals is the participants' operands in rising lane order. -/
theorem groupOperations : Obligations.GroupOperations := ⟨groupResults, groupVotes⟩

end Sys2Proof.Claim

/-! Lanes that wait in a new Instance (R104 steps 1 and 4). -/
namespace Sys2Proof.Machine
open Sys2Proof Sys2Proof.Claim

theorem helperIn_eq_false {b : Block} {g : Nat} {m : Word} :
    helperIn b g m = false ↔ ∀ j < 32, m.getLsbD j = true → (b.lane (32 * g + j)).live = true := by
  rw [helperIn, List.any_eq_false]
  simp [mem_maskLanes]

/-- Where every lane that a pending Instance names is live, none of them ends. -/
theorem sweepInstances_live {s : State} {b g : Nat} (h : ∀ i ∈ (s.grp b g).insts, helperIn (s.block b) g i.mask = false) :
    sweepInstances s b g = s := by
  have hbad : ((s.block b).grp g).insts.filter (fun i => helperIn (s.block b) g i.mask) = [] :=
    List.filter_eq_nil_iff.mpr (fun i hi => by simp [h i hi])
  simp only [sweepInstances, hbad, List.isEmpty_nil, if_true]

/-- The state in which the active lanes wait in Instance `i`. -/
def parked (f : Fields) (s : State) (i : Instance) : State :=
  (s.updGrp s.cur.blk s.cur.grp (fun x => { x with insts := s.curGrp.insts ++ [i] })).updCurBlock
    (fun x => overLanes x (activeLanes f s) (fun _ y => { y with park := .masked }))

theorem block_parked (f : Fields) (s : State) (i : Instance) : (parked f s i).block s.cur.blk =
    overLanes ((s.block s.cur.blk).setGrp s.cur.grp { s.curGrp with insts := s.curGrp.insts ++ [i] }) (activeLanes f s)
      (fun _ y => { y with park := .masked }) := by
  simp [parked, State.updCurBlock, State.curGrp]

theorem lane_parked (f : Fields) (s : State) (i : Instance) (l : Nat) : (parked f s i).lane s.cur.blk l =
    if l ∈ activeLanes f s then { s.lane s.cur.blk l with park := .masked } else s.lane s.cur.blk l := by
  rw [State.lane_eq, block_parked, overLanes_lane _ (activeLanes_nodup f s)]
  rfl

theorem insts_parked (f : Fields) (s : State) (i : Instance) :
    ((parked f s i).grp s.cur.blk s.cur.grp).insts = s.curGrp.insts ++ [i] := by
  rw [State.grp_eq, block_parked, overLanes_eq]
  exact congrArg Group.insts (Block.grp_setGrp ..)

/-- Waiting in an Instance leaves a fibre live. -/
theorem live_parked (f : Fields) (s : State) (i : Instance) (l : Nat) :
    ((parked f s i).lane s.cur.blk l).live = (s.lane s.cur.blk l).live := by
  rw [lane_parked]
  split <;> rfl

theorem arriveMasked_waits {f : Fields} {s : State} {m : Word} (h : Presents f s m) {op : Nat}
    (hnot : instanceDone s s.cur.blk s.cur.grp (ownInstance op f s m) = false)
    (hlive : ∀ i ∈ ownInstance op f s m :: s.curGrp.insts, ∀ j < 32, i.mask.getLsbD j = true →
      (s.lane s.cur.blk (32 * s.cur.grp + j)).live = true) :
    arriveMasked op f s = parked f s (ownInstance op f s m) := by
  rw [arriveMasked_opens h, if_neg (Bool.eq_false_iff.mp hnot)]
  refine sweepInstances_live (s := parked f s (ownInstance op f s m)) (fun i hi => helperIn_eq_false.mpr (fun j hj hb => ?_))
  rw [insts_parked] at hi
  refine (live_parked f s _ _).trans (hlive i ?_ j hj hb)
  simpa [or_comm] using hi

end Sys2Proof.Machine

namespace Sys2Proof.Claim
open Sys2Proof Sys2Proof.Machine

theorem instanceWaits : InstanceWaits := by
  intro f s m mk op hmk hne hm hnamed hwait hfree hlive hmask
  have he : exec (mk f) s = .next (arriveMasked op f s) := by
    simp only [List.mem_cons, List.not_mem_nil, or_false, Prod.mk.injEq] at hmk
    rcases hmk with ⟨rfl, rfl⟩ | ⟨rfl, rfl⟩ | ⟨rfl, rfl⟩ | ⟨rfl, rfl⟩ | ⟨rfl, rfl⟩ | ⟨rfl, rfl⟩ | ⟨rfl, rfl⟩ <;> rfl
  have hp : Presents f s m := ⟨hne, hm, hnamed, hfree⟩
  have hnot : instanceDone s s.cur.blk s.cur.grp (ownInstance op f s m) = false := by
    rw [hp.done_eq]
    rcases hwait with hne | ⟨rfl, l, hl, ho⟩
    · rw [decide_eq_false hne, Bool.false_and]
    · have : (activeLanes f s).all (fun l => !(s.lane s.cur.blk l).owesAny) = false :=
        List.all_eq_false.mpr ⟨l, hl, by rw [ho]; decide⟩
      rw [this]
      exact Bool.and_false _
  have hw := arriveMasked_waits hp hnot (List.forall_mem_cons.mpr ⟨hmask, hlive⟩)
  refine ⟨_, ownInstance op f s m, he, ?_⟩
  rw [hw]
  exact ⟨rfl, insts_parked .., rfl, rfl, rfl, rfl, by rw [ownInstance, List.map_map]; rfl, lane_parked f s _⟩

end Sys2Proof.Claim

/-! The block barrier (R140). -/
namespace Sys2Proof.Machine
open Sys2Proof Sys2Proof.Claim

theorem barrierMet_iff (x : Block) : barrierMet x = true ↔
    (∀ l < 32 * x.groups, (x.lane l).live = true → (x.lane l).park = .blkbar ∧ (x.lane l).owesAny = false) ∧
    ∃ l < 32 * x.groups, (x.lane l).park = .blkbar := by
  simp only [barrierMet, blockLanes, Bool.and_eq_true, List.all_eq_true, List.any_eq_true, List.mem_range, beq_iff_eq,
    Bool.or_eq_true, Bool.not_eq_true']
  refine and_congr_left (fun _ => forall₂_congr (fun l _ => ?_))
  cases (x.lane l).live <;> simp

theorem settleBarrier_unmet {x : Block} (h : ¬ barrierMet x = true) : settleBarrier x = x := if_neg h

/-- Lanes that leave a barrier in several batches differ in what they owe alone, and in nothing where none owes a STEP. -/
theorem foldl_joinDue {pick : Nat → List Nat} (hn : ∀ g, (pick g).Nodup) : ∀ (gs : List Nat) (y : Block),
    let z := gs.foldl (fun y g => joinDue y (pick g)) y
    z = { y with lanes := z.lanes } ∧ (∀ l, z.lane l = { y.lane l with due := (z.lane l).due }) ∧
    ((∀ g, ∀ k ∈ pick g, (y.lane k).due = none) → ∀ l, z.lane l = y.lane l)
  | [], y => ⟨rfl, fun _ => rfl, fun _ _ => rfl⟩
  | g :: gs, y => by
    obtain ⟨hz, hl, hd⟩ := foldl_joinDue hn gs (joinDue y (pick g))
    have hj := joinDue_lane (hn g) y
    refine ⟨?_, fun l => ?_, fun hnone l => ?_⟩
    · rw [List.foldl_cons, hz, joinDue_eq]
    · rw [List.foldl_cons, hl, (hj l).1]
    · have hy : ∀ l, (joinDue y (pick g)).lane l = y.lane l := fun l => (hj l).2 (hnone g)
      rw [List.foldl_cons, hd (fun g' k hk => by rw [hy]; exact hnone g' k hk), hy]

/-- The lanes of a block that stand at its barrier. -/
def standing (x : Block) : List Nat := (blockLanes x).filter (fun l => (x.lane l).park == .blkbar)

theorem standing_nodup (x : Block) : (standing x).Nodup := List.Nodup.filter _ List.nodup_range

theorem mem_standing {x : Block} {l : Nat} : l ∈ standing x ↔ l < 32 * x.groups ∧ (x.lane l).park = .blkbar := by
  simp [standing, blockLanes]

/-- A met barrier lets the lanes that stand at it go on. -/
theorem settleBarrier_met {x : Block} (h : barrierMet x = true) :
    settleBarrier x = { x with lanes := (settleBarrier x).lanes } ∧ ∀ l ∈ standing x,
      (settleBarrier x).lane l = { x.lane l with park := .run, due := ((settleBarrier x).lane l).due } ∧
      ((∀ k ∈ standing x, (x.lane k).due = none) → ((settleBarrier x).lane l).due = none) := by
  have hs : settleBarrier x = (List.range x.groups).foldl (fun y g => joinDue y ((standing x).filter (fun l => l / 32 == g)))
      (overLanes x (standing x) (fun _ y => { y with park := .run })) := if_pos h
  have hy : ∀ l ∈ standing x, (overLanes x (standing x) (fun _ y => { y with park := .run })).lane l =
      { x.lane l with park := .run } := fun l hl => by rw [overLanes_lane _ (standing_nodup x), if_pos hl]
  obtain ⟨hz, hl, hd⟩ := foldl_joinDue (fun g => (standing_nodup x).filter (fun l => l / 32 == g)) (List.range x.groups)
    (overLanes x (standing x) (fun _ y => { y with park := .run }))
  rw [← hs] at hz hl hd
  refine ⟨by rw [hz, overLanes_eq], fun l hm => ⟨by rw [hl, hy l hm], fun hnone => ?_⟩⟩
  rw [hd (fun g k hk => by rw [hy k (List.mem_of_mem_filter hk)]; exact hnone k (List.mem_of_mem_filter hk)), hy l hm]
  exact hnone l hm

end Sys2Proof.Machine

namespace Sys2Proof.Claim
open Sys2Proof Sys2Proof.Machine

/-- The state in which the active lanes stand at the barrier. -/
def arrived (f : Fields) (s : State) : State :=
  s.updCurBlock (fun b => overLanes b (activeLanes f s) (fun _ l => { l with park := .blkbar }))

theorem lanesBy_arrived (f : Fields) (s : State) :
    LanesBy s.cur.blk (fun l x => if l ∈ activeLanes f s then { x with park := .blkbar } else x) s (arrived f s) :=
  LanesBy.updBlock_overLanes (activeLanes_nodup f s) (fun _ l => { l with park := .blkbar }) s.cur.blk s

/-- A lane of the block with the barrier's arrivals is as it was but for how it waits. -/
theorem lane_arrived (f : Fields) (s : State) (l : Nat) : (arrived f s).curBlock.lane l =
    if l ∈ activeLanes f s then { s.lane s.cur.blk l with park := .blkbar } else s.lane s.cur.blk l := by
  have h := (lanesBy_arrived f s).lane s.cur.blk l
  rwa [if_pos rfl] at h

theorem groups_arrived (f : Fields) (s : State) : (arrived f s).curBlock.groups = s.curBlock.groups := by
  show ((arrived f s).block s.cur.blk).groups = (s.block s.cur.blk).groups
  rw [arrived, block_updCurBlock, overLanes_eq]

/-- A lane waits at the barrier. -/
def AtBarrier (f : Fields) (s : State) (l : Nat) : Prop := l ∈ activeLanes f s ∨ (s.lane s.cur.blk l).park = .blkbar

theorem park_arrived (f : Fields) (s : State) (l : Nat) :
    ((arrived f s).curBlock.lane l).park = .blkbar ↔ AtBarrier f s l := by
  rw [lane_arrived, AtBarrier]
  split <;> simp [*]

theorem arrived_rest (f : Fields) (s : State) (l : Nat) : (arrived f s).curBlock.lane l =
    { s.lane s.cur.blk l with park := ((arrived f s).curBlock.lane l).park } := by
  rw [lane_arrived]
  split <;> rfl

/-- The barrier is met where every live fibre of the block waits at it and owes no local store. -/
theorem barrierMet_arrived {f : Fields} {s : State} (hin : ∀ l ∈ activeLanes f s, l < 32 * s.curBlock.groups)
    (hne : activeLanes f s ≠ []) : barrierMet (arrived f s).curBlock = true ↔
      ∀ l < 32 * s.curBlock.groups, (s.lane s.cur.blk l).live = true →
        AtBarrier f s l ∧ (s.lane s.cur.blk l).owesAny = false := by
  obtain ⟨l, hl⟩ := List.exists_mem_of_ne_nil _ hne
  have hsome : ∃ l < 32 * s.curBlock.groups, ((arrived f s).curBlock.lane l).park = .blkbar :=
    ⟨l, hin l hl, (park_arrived f s l).mpr (.inl hl)⟩
  rw [barrierMet_iff, groups_arrived, and_iff_left hsome]
  refine forall₂_congr (fun l _ => ?_)
  rw [park_arrived, arrived_rest]
  rfl

/-- The arrivals, and the barrier settled where it is met. -/
def settled (f : Fields) (s : State) : State := (arrived f s).updCurBlock settleBarrier

theorem lane_settled (f : Fields) (s : State) (l : Nat) :
    (settled f s).lane s.cur.blk l = (settleBarrier (arrived f s).curBlock).lane l :=
  congrArg (Block.lane · l) (block_updCurBlock (arrived f s) settleBarrier)

/-- Of the state a change of the issuing block leaves all but the blocks. -/
theorem updCurBlock_frame (s : State) (g : Block → Block) :
    s.updCurBlock g = { s with blocks := (s.updCurBlock g).blocks } := rfl

theorem endRun_updCurBlock (s : State) (g : Block → Block) : s.endRun.updCurBlock g = (s.updCurBlock g).endRun := rfl

theorem settled_frame (f : Fields) (s : State) : settled f s = { s with blocks := (settled f s).blocks } := by
  rw [settled, updCurBlock_frame, arrived, updCurBlock_frame s]

theorem exec_blkbar_unmet {f : Fields} {s : State} (h : ¬ barrierMet (arrived f s).curBlock = true) :
    exec (.blkbar f) s = .next (settled f s) :=
  congrArg (fun t : State => Host.Outcome.next (t.updCurBlock settleBarrier)) (if_neg h)

theorem exec_blkbar_met {f : Fields} {s : State} (h : barrierMet (arrived f s).curBlock = true) :
    exec (.blkbar f) s = .next (settled f s).endRun :=
  (congrArg (fun t : State => Host.Outcome.next (t.updCurBlock settleBarrier)) (if_pos h)).trans
    (congrArg Host.Outcome.next (endRun_updCurBlock ..))

theorem blockBarrier : BlockBarrier := by
  intro f s hin hne waits met
  have hmet : _ ↔ met := barrierMet_arrived hin hne
  have hstand : ∀ l < 32 * s.curBlock.groups, waits l → l ∈ standing (arrived f s).curBlock := fun l hl hw =>
    mem_standing.mpr ⟨(groups_arrived f s).symm ▸ hl, (park_arrived f s l).mpr hw⟩
  have hframe := settled_frame f s
  have hmem : (settled f s).mem = s.mem := by rw [settled_frame]
  have hlane := lane_settled f s
  by_cases hb : barrierMet (arrived f s).curBlock = true
  · have he := exec_blkbar_met hb
    obtain ⟨-, hgo⟩ := settleBarrier_met hb
    generalize settled f s = v at he hframe hmem hlane
    refine ⟨_, he, hmem, fun hn => absurd (hmet.mp hb) hn,
      fun _ => ⟨congrArg State.endRun hframe, fun l hl hw => ?_, fun hd l hl hw => ?_⟩⟩
    · obtain ⟨hrun, -⟩ := hgo l (hstand l hl hw)
      rw [← hlane, arrived_rest] at hrun
      exact hrun
    · obtain ⟨-, hdue⟩ := hgo l (hstand l hl hw)
      refine (congrArg Lane.due (hlane l)).trans (hdue (fun k hk => ?_))
      obtain ⟨hk, hp⟩ := mem_standing.mp hk
      rw [arrived_rest]
      exact hd k (groups_arrived f s ▸ hk) ((park_arrived f s k).mp hp)
  · refine ⟨_, exec_blkbar_unmet hb, hmem, fun _ => ⟨hframe, fun l => ?_⟩,
      fun hm => absurd (hmet.mpr hm) hb⟩
    rw [hlane, settleBarrier_unmet hb, lane_arrived]

/-- Settles O21: no lane that an Instance names has ended, so none of the pending ones does; the last arriver finds every
live fibre of its block at the barrier. -/
theorem instancesAndBarriers : Obligations.InstancesAndBarriers := ⟨instanceWaits, blockBarrier⟩

end Sys2Proof.Claim

/-! Step records, and the instructions that read a number (R131, R138, R139, R201, R203, R204). -/
namespace Sys2Proof.Claim
open Sys2Proof Sys2Proof.Machine

/-! ## Step records (R201) -/

/-- A change of the issuing block's step record and of what the governor keeps of it, and of nothing else. -/
theorem updCurBlock_step (s : State) (g : Block → StepRec × GovMem) :
    let t := s.updCurBlock (fun x => { x with step := (g x).1, gov := (g x).2 })
    t = { s with blocks := t.blocks } ∧ (∀ b, b ≠ s.cur.blk → t.block b = s.block b) ∧
      t.block s.cur.blk = { s.curBlock with step := (g s.curBlock).1, gov := (g s.curBlock).2 } :=
  ⟨rfl, fun _ hb => State.block_setBlock_ne _ _ hb, block_updCurBlock ..⟩

/-- The step that DLSET leaves, with the deadline `a` and the total `b` of its lane. -/
def stepSet (s : State) (a b : Nat) (x : Block) : StepRec × GovMem :=
  (if a = 0 ∨ b = 0 then { x.step with opened := false } else { deadline := s.now + a, total := b, opened := true }, {})

theorem exec_dlset {f : Fields} {s : State} {l : Nat} {ls : List Nat} (h : activeLanes f s = l :: ls) :
    exec (.dlset f) s = .next (s.updCurBlock (fun x =>
      let r := stepSet s ((s.src l).reg f.sa.toNat).toNat ((s.src l).reg f.sb.toNat).toNat x
      { x with step := r.1, gov := r.2 })) := by
  refine (congrArg Host.Outcome.next ?_ : _)
  rw [h]
  dsimp only [stepSet]
  refine congrArg s.updCurBlock (funext fun x => ?_)
  simp only [Bool.or_eq_true, decide_eq_true_eq]
  split <;> rfl

/-- The step that DLPROG leaves, which adds `n` units: at a boundary that is not handled yet they wait for the next (R325). -/
def stepAdd (s : State) (n : Nat) (x : Block) : StepRec × GovMem :=
  let late : Prop := (s.die (s.cur.pier / 64)).boundary < s.now / 10000
  let st := x.step
  let more := min (st.done + n) (2 ^ 32 - 1) - st.done
  (if st.opened then
    { st with done := min (st.done + n) (2 ^ 32 - 1), fresh := if late then st.fresh else st.fresh + more,
              ahead := if late then st.ahead + more else st.ahead }
   else st, x.gov)

/-- A sum taken one element after the other. -/
theorem foldl_add_eq_sum (g : Nat → Nat) (ls : List Nat) : ls.foldl (fun n l => n + g l) 0 = (ls.map g).sum := by
  rw [List.sum_eq_foldl, List.foldl_map]

theorem exec_dlprog (f : Fields) (s : State) :
    exec (.dlprog f) s = .next (s.updCurBlock (fun x =>
      let r := stepAdd s ((activeLanes f s).map (fun l => (rdB32 f (s.src l)).toNat)).sum x
      { x with step := r.1, gov := r.2 })) := by
  refine (congrArg Host.Outcome.next ?_ : _)
  rw [foldl_add_eq_sum]
  refine congrArg s.updCurBlock (funext fun x => ?_)
  simp only [stepAdd, dlAdd, saturate32, decide_eq_true_eq]
  cases x.step.opened <;> rfl

theorem exec_dlend {f : Fields} {s : State} (h : activeLanes f s ≠ []) :
    exec (.dlend f) s = .next (s.updCurBlock (fun x => { x with step := { x.step with opened := false }, gov := x.gov })) :=
  congrArg Host.Outcome.next (if_neg (by rwa [List.isEmpty_iff]))

theorem stepRecords : StepRecords := by
  intro f s h
  obtain ⟨l, ls, hl⟩ := List.exists_cons_of_ne_nil h
  obtain ⟨hu, hub, huc⟩ :=
    updCurBlock_step s (stepSet s ((s.src l).reg f.sa.toNat).toNat ((s.src l).reg f.sb.toNat).toNat)
  obtain ⟨hv, hvb, hvc⟩ := updCurBlock_step s (stepAdd s ((activeLanes f s).map (fun l => (rdB32 f (s.src l)).toNat)).sum)
  obtain ⟨hw, hwb, hwc⟩ := updCurBlock_step s (fun x => ({ x.step with opened := false }, x.gov))
  refine ⟨_, _, _, exec_dlset hl, exec_dlprog f s, exec_dlend h, ?_, fun k hk => ?_, ?_, ?_⟩
  · simp only [List.forall_mem_cons]
    exact ⟨⟨hu, hub, by rw [huc]⟩, ⟨hv, hvb, by rw [hvc]⟩, ⟨hw, hwb, by rw [hwc]⟩, by simp⟩
  · rw [hl] at hk
    cases hk
    rw [huc]
    rfl
  · rw [hvc]
    rfl
  · rw [hwc]

/-! ## Numbers (R131, R138, R139, R203, R204) -/

theorem exec_fid (f : Fields) (s : State) : ∃ u, exec (.fid f) s = .next u ∧ PerLane f s u (fun n _ l l' =>
    RegsSet f.d.toNat 1 ((([n, n / 32, s.curBlock.groups, s.curBlock.idx, s.curRec.maxBlk, s.curBlock.idx / s.curRec.span,
      s.curBlock.spos, s.curRec.span] : List Nat).getD (f.subBits 35 32) s.curTag) % 2 ^ 32) id l l') := by
  refine ⟨_, rfl, perLane_overLanes (fun l _ y => ?_)⟩
  have hm : ∀ v, RegsSet f.d.toNat 1 (v % 2 ^ 32) id y (y.setReg f.d.toNat (BitVec.ofNat 32 v)) := fun v => by
    rw [show BitVec.ofNat 32 v = BitVec.ofNat 32 (v % 2 ^ 32) from BitVec.eq_of_toNat_eq (by simp)]
    exact regsSet_setReg ..
  generalize f.subBits 35 32 = k
  match k with
  | 0 | 1 | 2 | 3 | 4 | 5 | 6 | 7 => exact hm _
  | k + 8 => exact hm _

/-- A count of the core that the second slot of a pair reads as it was before the pair (R58). -/
theorem seen_getD (x : Src) (w : Word) :
    (x.seen.getD (w.setWidth 64)).toNat = match x.seen with | some v => v.toNat | none => w.toNat := by
  cases x.seen with
  | some v => rfl
  | none => exact BitVec.toNat_setWidth_of_le (by decide)

theorem fstatVal_eq (f : Fields) (s : State) : fstatVal f s = ([s.cur.lanes, lanesMask (activeLanes f s),
    laneMask (allLanes.filter (fun j => (s.lane s.cur.blk (32 * s.cur.grp + j)).live))] : List Word).getD (f.subBits 33 32)
    (BitVec.ofNat 32 ((blockLanes s.curBlock).filter (fun l => (s.lane s.cur.blk l).live)).length) := by
  unfold fstatVal
  generalize f.subBits 33 32 = k
  match k with
  | 0 | 1 | 2 => rfl
  | k + 3 => rfl

theorem exec_fstat : WritesF .fstat b32 (fun f s x =>
    ((match x.seen with | some v => v.toNat | none => (([s.cur.lanes, lanesMask (activeLanes f s),
      laneMask (allLanes.filter (fun j => (s.lane s.cur.blk (32 * s.cur.grp + j)).live))] : List Word).getD (f.subBits 33 32)
      (BitVec.ofNat 32 ((blockLanes s.curBlock).filter (fun l => (s.lane s.cur.blk l).live)).length)).toNat), 0)) := by
  refine WritesF.of_aluT (fun f s => ?_)
  simp only [← fstatVal_eq, ← seen_getD]
  rfl

theorem counter_eq (s : State) (l k : Nat) : counter s s.cur.blk l k = ([s.curBlock.cyc / 100, (s.lane s.cur.blk l).inst.toNat,
    (s.grp s.cur.blk (l / 32)).parkTotal / 100] : List Nat).getD k s.curBlock.cpb.toNat := by
  match k with
  | 0 | 1 | 2 => rfl
  | k + 3 => rfl

theorem exec_cntrd (f : Fields) (s : State) : ∃ u, exec (.cntrd f) s = .next u ∧ PerLane f s u (fun n x l l' =>
    RegsSet f.d.toNat 2 (match x.seen with | some v => v.toNat | none => ([s.curBlock.cyc / 100, (s.lane s.cur.blk n).inst.toNat,
      (s.grp s.cur.blk (n / 32)).parkTotal / 100] : List Nat).getD (f.subBits 33 32) s.curBlock.cpb.toNat % 2 ^ 64) id l l') := by
  refine ⟨_, rfl, perLane_overLanes (fun l _ y => ?_)⟩
  rw [← counter_eq]
  cases (s.src l).seen with
  | some v => exact regsSet_setRegs ..
  | none =>
    dsimp only [Option.getD_none]
    rw [BitVec.toNat_ofNat]
    exact regsSet_setRegs ..

theorem zoneVal_eq (z : Zone) (k : Nat) : zoneVal z k =
    ([z.st, z.valve, (z.temp.signExtend 32).toNat] : List Nat).getD k (if z.st = 0 then z.heatOk else 0) := by
  match k with
  | 0 | 1 => rfl
  | 2 =>
    change ofInt 32 (toInt 16 z.temp.toNat) = (z.temp.signExtend 32).toNat
    rw [ofInt, toInt, BitVec.ofNat_toNat, BitVec.setWidth_eq]
    rfl
  | k + 3 => rfl

theorem exec_zoneq : WritesF .zoneq b32 (fun f s _ =>
    let z := zoneAt s s.cur.pier
    (([z.st, z.valve, (z.temp.signExtend 32).toNat] : List Nat).getD (f.subBits 33 32)
      (if z.st = 0 then z.heatOk else 0), 0)) := by
  refine WritesF.of_aluT (fun f s => ?_)
  simp only [← zoneVal_eq]
  rfl

theorem exec_recst : WritesF .recst b32 (fun _ s x =>
    let es := (s.core s.cur.pier).record.filter (fun e => e.ctx == s.cur.blk)
    ((match x.seen with
      | some v => v.toNat
      | none => (2 ^ 16 * (es.filter (fun e => e.acks != 0)).length + es.length) % 2 ^ 32), 0)) := by
  refine WritesF.of_aluT (fun f s => ?_)
  have hr : ∀ x : Src, _ = _ := fun x => seen_getD x (recst (s.core s.cur.pier) s.cur.blk)
  simp only [recst, BitVec.toNat_ofNat] at hr
  simp only [← hr]
  rfl

theorem numbersRead : NumbersRead :=
  ⟨exec_fid, exec_fstat, WritesF.of_aluT (fun _ s => by simp only [← BitVec.toNat_ofNat]; rfl), exec_cntrd,
    WritesF.of_aluT (fun _ _ => rfl), exec_zoneq, exec_recst⟩

/-- Settles O14: each of the three writes of a step record is a change of the issuing block's record alone; each of the
others writes its number to its lanes with guard 1. -/
theorem stepsAndCounters : Obligations.StepsAndCounters := ⟨stepRecords, numbersRead⟩

end Sys2Proof.Claim

/-! One cause that arises in several lanes of a batch (R189 to R191, R196, R206). -/
namespace Sys2Proof.Machine
open Sys2Proof Sys2Proof.Claim

/-! ## Lanes that are changed alike -/

/-- A change that is the same done twice reaches each lane of a list, however often it is named. -/
theorem overLanes_lane_idem {g : Lane → Lane} (hg : ∀ x, g (g x) = g x) (ls : List Nat) : ∀ (b : Block) (l : Nat),
    (overLanes b ls (fun _ => g)).lane l = if l ∈ ls then g (b.lane l) else b.lane l := by
  induction ls with
  | nil => intro b l; simp [overLanes]
  | cons a r ih =>
    intro b l
    refine (ih (b.updLane a g) l).trans ?_
    rw [Block.updLane_eq]
    by_cases hl : l = a
    · subst hl; simp [hg]
    · simp [hl, Block.lane_setLane_ne _ _ hl]

theorem overLanes_grp (b : Block) (ls : List Nat) (g : Nat → Lane → Lane) (k : Nat) :
    (overLanes b ls g).grp k = b.grp k := by
  rw [overLanes_eq]; rfl

/-- The lanes that a mask of lanes of the issuing batch names in its group are these lanes. -/
theorem mem_lanesMask {s : State} {ls : List Nat} (h : ∀ l ∈ ls, l ∈ s.curLanes) {l : Nat} :
    l ∈ (maskLanes (lanesMask ls)).map (32 * s.cur.grp + ·) ↔ l ∈ ls := by
  have hmod : ∀ k ∈ ls, 32 * s.cur.grp + k % 32 = k := by
    intro k hk
    obtain ⟨j, hj, -, rfl⟩ := mem_curLanes.mp (h k hk)
    omega
  simp only [List.mem_map, mem_maskLanes, lanesMask]
  constructor
  · rintro ⟨j, ⟨hj, hm⟩, rfl⟩
    rw [getLsbD_laneMask _ hj, decide_eq_true_iff] at hm
    obtain ⟨k, hk, rfl⟩ := List.mem_map.mp hm
    rwa [hmod k hk]
  · intro hl
    have hj : l % 32 < 32 := Nat.mod_lt _ (by decide)
    exact ⟨l % 32, ⟨hj, by rw [getLsbD_laneMask _ hj, decide_eq_true_iff]; exact List.mem_map_of_mem hl⟩, hmod l hl⟩

theorem lanesMask_ne_zero {s : State} {ls : List Nat} (h : ∀ l ∈ ls, l ∈ s.curLanes) {l : Nat} (hl : l ∈ ls) :
    lanesMask ls ≠ 0 := by
  intro h0
  have hm := (mem_lanesMask h).mpr hl
  rw [h0] at hm
  simp [maskLanes] at hm

/-- Whether a group is in handler mode follows from what its lanes say of themselves. -/
theorem inHandler_congr {x y : Block} {g : Nat}
    (h : ∀ l, (y.lane l).live = (x.lane l).live ∧ (y.lane l).hmode = (x.lane l).hmode) : inHandler y g = inHandler x g := by
  simp only [inHandler, h]

/-! ## Faults of one code -/

/-- Faults that all have one code. -/
def alike (code : BitVec 8) (acc : List (Nat × Dword)) : List LaneFault :=
  acc.map (fun a => { lane := a.1, code := code, val := a.2 })

theorem faultCodes_alike (code : BitVec 8) {acc : List (Nat × Dword)} (h : acc ≠ []) : faultCodes (alike code acc) = [code] := by
  obtain ⟨a, r, rfl⟩ := List.exists_cons_of_ne_nil h
  rw [alike, faultCodes, List.map_map, List.map_cons, List.eraseDups_cons]
  have : (r.map ((fun x : LaneFault => x.code) ∘ fun a => { lane := a.1, code := code, val := a.2 })).filter
      (fun b => !b == code) = [] := by
    rw [List.filter_eq_nil_iff]
    intro b hb
    obtain ⟨x, -, rfl⟩ := List.mem_map.mp hb
    simp
  simp only [Function.comp_def] at this ⊢
  rw [this]
  rfl

/-- The lanes `ls` stand at `pc`, before their cause is raised. -/
def standAt (s : State) (ls : List Nat) (pc : Dword) : State :=
  let s' := s.updCurBlock (fun b => overLanes b ls (fun _ l => { l with pc := pc }))
  if pc == s.cur.pc then { s' with cur := { s'.cur with again := s'.cur.again ||| lanesMask ls } } else s'

/-- Faults of one code raise one cause, with the value of the first. -/
theorem raiseFaults_alike {s : State} {code : BitVec 8} {acc : List (Nat × Dword)} {a : Nat × Dword}
    (h : acc.head? = some a) (pc at_ : Dword) :
    raiseFaults s (alike code acc) pc at_ = raiseCause (standAt s (acc.map (·.1)) pc) s.cur.blk s.cur.grp
      { code := code, pc := pc, val := a.2, mask := lanesMask (acc.map (·.1)) } at_ 0 := by
  have hne : acc ≠ [] := by rintro rfl; cases h
  have hf : (alike code acc).filter (fun x => x.code == code) = alike code acc := by
    rw [List.filter_eq_self]
    intro x hx
    obtain ⟨y, -, rfl⟩ := List.mem_map.mp hx
    exact beq_self_eq_true _
  have hl : (alike code acc).map (·.lane) = acc.map (·.1) := by simp [alike]
  have hm : (alike code acc).map (fun x => x.lane % 32) = (acc.map (·.1)).map (· % 32) := by simp [alike]
  have ho : (alike code acc).any (·.open_) = false := by simp [alike]
  have hh : (alike code acc).head? = some { lane := a.1, code := code, val := a.2 } := by simp [alike, h]
  rw [raiseFaults, faultCodes_alike code hne, List.foldl_cons, List.foldl_nil]
  dsimp only
  rw [hf, hl, hm, ho, hh]
  rfl

/-! ## The lanes stand at their slot -/

/-- Of the state only the blocks and the issuing batch may differ. -/
def BlocksCur (s u : State) : Prop := ∃ b c, u = { s with blocks := b, cur := c }

theorem BlocksCur.updBlock {s u : State} (h : BlocksCur s u) (b : Nat) (f : Block → Block) : BlocksCur s (u.updBlock b f) := by
  obtain ⟨_, _, rfl⟩ := h
  exact ⟨_, _, rfl⟩

theorem BlocksCur.endRun {s u : State} (h : BlocksCur s u) : BlocksCur s u.endRun := by
  obtain ⟨_, _, rfl⟩ := h
  exact ⟨_, _, rfl⟩

section
variable (s : State) (ls : List Nat) (pc : Dword)

/-- The issuing block's lanes differ, and the mark of the lanes that issue again. -/
theorem standAt_frame : ∃ c, standAt s ls pc =
    { s.updCurBlock (fun b => overLanes b ls (fun _ l => { l with pc := pc })) with cur := c } := by
  unfold standAt
  dsimp only
  split
  · exact ⟨_, rfl⟩
  · exact ⟨_, rfl⟩

theorem standAt_blocksCur : BlocksCur s (standAt s ls pc) := by
  obtain ⟨c, h⟩ := standAt_frame s ls pc
  exact ⟨_, c, h⟩

theorem standAt_block : (standAt s ls pc).block s.cur.blk = overLanes s.curBlock ls (fun _ l => { l with pc := pc }) := by
  obtain ⟨c, h⟩ := standAt_frame s ls pc
  rw [h]
  exact block_updCurBlock s (fun b => overLanes b ls (fun _ l => { l with pc := pc }))

theorem standAt_lane (l : Nat) : ((standAt s ls pc).block s.cur.blk).lane l =
    if l ∈ ls then { s.lane s.cur.blk l with pc := pc } else s.lane s.cur.blk l := by
  rw [standAt_block]
  exact overLanes_lane_idem (g := fun x => { x with pc := pc }) (fun _ => rfl) ..

theorem standAt_inHandler : inHandler ((standAt s ls pc).block s.cur.blk) s.cur.grp = inHandler s.curBlock s.cur.grp := by
  refine inHandler_congr (fun l => ?_)
  rw [standAt_lane]
  split <;> exact ⟨rfl, rfl⟩

theorem standAt_tag : ((standAt s ls pc).block s.cur.blk).tag = s.curTag := by
  rw [standAt_block, overLanes_eq]; rfl

/-- What a cause that is raised leaves of memory and of what is outstanding. -/
def Kept (s u : State) : Prop :=
  u.mem = s.mem ∧ u.hostMem = s.hostMem ∧ u.memops = s.memops ∧ u.cores = s.cores ∧ u.lres = s.lres

theorem Kept.trans {s t u : State} (h : Kept s t) (h' : Kept t u) : Kept s u := by
  obtain ⟨h1, h2, h3, h4, h5⟩ := h
  obtain ⟨k1, k2, k3, k4, k5⟩ := h'
  exact ⟨k1.trans h1, k2.trans h2, k3.trans h3, k4.trans h4, k5.trans h5⟩

theorem Kept.endRun (s : State) : Kept s s.endRun := ⟨rfl, rfl, rfl, rfl, rfl⟩

theorem standAt_kept : Kept s (standAt s ls pc) := by
  obtain ⟨c, h⟩ := standAt_frame s ls pc
  rw [h]
  exact ⟨rfl, rfl, rfl, rfl, rfl⟩

theorem standAt_frWrites : (standAt s ls pc).frWrites = s.frWrites := by
  obtain ⟨c, h⟩ := standAt_frame s ls pc
  rw [h]; rfl

theorem standAt_launch (t : Nat) : (standAt s ls pc).launch t = s.launch t := by
  obtain ⟨c, h⟩ := standAt_frame s ls pc
  rw [h]; rfl

end

/-! ## Entering the handler (R190) -/

/-- The header goes out as the launch then stands. -/
theorem headerGoesOut_putHeader {s t : State} {tag : Nat} (hw : t.frWrites = s.frWrites)
    (hp : (t.launch tag).part = (s.launch tag).part) (hr : (t.launch tag).rec_ = (s.launch tag).rec_) :
    HeaderGoesOut s (putHeader t tag) tag := by
  have h0 : BitVec.ofNat 64 ((t.launch tag).rec_.frptr.toNat + 0) = (s.launch tag).rec_.frptr := by
    rw [hr, Nat.add_zero, BitVec.ofNat_toNat, BitVec.setWidth_eq]
  have hf : (putHeader t tag).frWrites = t.frWrites ++ [FrWrite.mk tag (t.launch tag).part
      (BitVec.ofNat 64 ((t.launch tag).rec_.frptr.toNat + 0)) (frHeader tag (t.launch tag))] := rfl
  rw [HeaderGoesOut, hf, h0, hw, hp]
  rfl

section
variable (s : State) (b g : Nat) (c : Cause)

theorem enterHandler_header : HeaderGoesOut s (enterHandler s b g c) (s.block b).tag := by
  unfold enterHandler
  refine headerGoesOut_putHeader rfl ?_ ?_
  · rw [State.updLaunch_eq, State.launch_setLaunch]; rfl
  · rw [State.updLaunch_eq, State.launch_setLaunch]; rfl

theorem enterHandler_kept : Kept s (enterHandler s b g c) := by
  rw [Kept, enterHandler_frame]
  exact ⟨rfl, rfl, rfl, rfl, rfl⟩

theorem enterHandler_block : (enterHandler s b g c).block b =
    (overLanes (s.block b) ((maskLanes c.mask).map (32 * g + ·)) (fun _ l =>
      { l with hmode := true, pc := (s.launch (s.block b).tag).rec_.handler, entering := true, park := .run, skip := false,
               due := none })).updGrp g (fun y => { y with trap := c, stepped := false }) :=
  State.block_setBlock ..

theorem enterHandler_lane (l : Nat) : ((enterHandler s b g c).block b).lane l =
    if l ∈ (maskLanes c.mask).map (32 * g + ·) then
      { (s.block b).lane l with hmode := true, pc := (s.launch (s.block b).tag).rec_.handler, entering := true, park := .run,
                                skip := false, due := none }
    else (s.block b).lane l := by
  rw [enterHandler_block]
  exact overLanes_lane _ (List.Nodup.map (fun _ _ h => Nat.add_left_cancel h) (maskLanes_nodup _)) (s.block b) _ l

theorem enterHandler_trap : (((enterHandler s b g c).block b).grp g).trap = c := by
  rw [enterHandler_block, Block.updGrp_eq, Block.grp_setGrp]

theorem enterHandler_launch : (enterHandler s b g c).launch (s.block b).tag =
    { s.launch (s.block b).tag with hcount := min ((s.launch (s.block b).tag).hcount + 1) 65535 } :=
  State.launch_setLaunch ..

end

/-! ## The cause is taken, or waits -/

/-- A routed cause of lanes outside handler mode waits while others of their group are in it. -/
theorem raiseCause_waits {s : State} {b g : Nat} {c : Cause} (at_ : Dword) (k : Nat) (hm : c.mask ≠ 0)
    (hr : routed c.code = true) (hh : (s.launch (s.block b).tag).rec_.handler ≠ 0)
    (ho : ∀ x ∈ (maskLanes c.mask).map (32 * g + ·), ((s.block b).lane x).hmode = false) (hg : inHandler (s.block b) g = true) :
    raiseCause s b g c at_ k = (s.updBlock b (fun x =>
      (overLanes x ((maskLanes c.mask).map (32 * g + ·)) (fun _ y => { y with park := .trapPending })).updGrp g
        (fun y => { y with pending := y.pending ++ [c] }))).endRun := by
  have hl : ((maskLanes c.mask).map (32 * g + ·)).any (fun x => ((s.block b).lane x).hmode) = false :=
    List.any_eq_false.mpr (fun x hx => by simp [ho x hx])
  have hm' : ¬ c.mask = 0#32 := hm
  have hh' : ¬ (s.launch (s.block b).tag).rec_.handler = 0#64 := hh
  simp only [raiseCause, hl, hg]
  simp [hm', hh', hr]

section
variable {s : State} {ls : List Nat} {pc at_ : Dword} {c : Cause} {k : Nat} (hls : ∀ l ∈ ls, l ∈ s.curLanes) (hne : ls ≠ [])
  (hc : c.mask = lanesMask ls) (hr : routed c.code = true) (hh : s.curRec.handler ≠ 0)
  (ho : ∀ l ∈ ls, (s.lane s.cur.blk l).hmode = false)
include hls hne hc hr hh ho

/-- The lanes' cause is taken where their group is outside handler mode; nothing but what enters the handler changes. -/
theorem raiseCause_standAt_takes (hg : inHandler s.curBlock s.cur.grp = false) :
    let u := raiseCause (standAt s ls pc) s.cur.blk s.cur.grp c at_ k
    TakesCause s u ls c ∧ u.memops = s.memops ∧ u.cores = s.cores ∧ u.lres = s.lres ∧
      ∀ l, l ∉ ls → u.lane s.cur.blk l = s.lane s.cur.blk l := by
  obtain ⟨a, ha⟩ := List.exists_mem_of_ne_nil ls hne
  have hmem : ∀ l, l ∈ (maskLanes c.mask).map (32 * s.cur.grp + ·) ↔ l ∈ ls := fun l => by rw [hc]; exact mem_lanesMask hls
  have hown : ∀ j < 32, c.mask.getLsbD j = true → (((standAt s ls pc).block s.cur.blk).lane (32 * s.cur.grp + j)).hmode = false := by
    intro j hj hm
    have hl := (hmem (32 * s.cur.grp + j)).mp (List.mem_map_of_mem (mem_maskLanes.mpr ⟨hj, hm⟩))
    rw [standAt_lane, if_pos hl]
    exact ho _ hl
  have he : raiseCause (standAt s ls pc) s.cur.blk s.cur.grp c at_ k =
      (enterHandler (standAt s ls pc) s.cur.blk s.cur.grp c).endRun :=
    raiseCause_enters at_ k (by rw [hc]; exact lanesMask_ne_zero hls ha) hr
      (by rw [standAt_tag, standAt_launch]; exact hh) hown (by rw [standAt_inHandler]; exact hg)
  have htag := standAt_tag s ls pc
  intro u
  have hu : u = (enterHandler (standAt s ls pc) s.cur.blk s.cur.grp c).endRun := he
  have hlane : ∀ l, u.lane s.cur.blk l = if l ∈ ls then entered s (s.lane s.cur.blk l) else s.lane s.cur.blk l := by
    intro l
    rw [hu, State.lane_eq, State.endRun_block, enterHandler_lane, standAt_lane, htag, standAt_launch]
    simp only [hmem]
    by_cases hl : l ∈ ls
    · simp only [if_pos hl]; rfl
    · simp only [if_neg hl]
  have hlaunch : u.launch s.curTag = { s.curLaunch with hcount := min (s.curLaunch.hcount + 1) 65535 } := by
    have := enterHandler_launch (standAt s ls pc) s.cur.blk s.cur.grp c
    rw [htag, standAt_launch] at this
    rw [hu, State.endRun_launch, this]
    rfl
  have hhead : HeaderGoesOut s u s.curTag := by
    have := enterHandler_header (standAt s ls pc) s.cur.blk s.cur.grp c
    rw [HeaderGoesOut, htag, standAt_frWrites, standAt_launch] at this
    rw [hu, HeaderGoesOut, State.endRun_frWrites, State.endRun_launch, this]
  have hkept : Kept s u := by
    rw [hu]
    exact ((standAt_kept s ls pc).trans (enterHandler_kept ..)).trans (.endRun _)
  obtain ⟨hmem', hhost, hops, hcores, hlres⟩ := hkept
  refine ⟨⟨?_, fun l hl => ?_, ?_, ?_, hmem', hhost, hhead⟩, hops, hcores, hlres, fun l hl => ?_⟩
  · rw [hu, State.grp_eq, State.endRun_block, enterHandler_trap]
  · rw [hlane, if_pos hl]
  · rw [hlaunch]
  · rw [hu]; rfl
  · rw [hlane, if_neg hl]

/-- It waits while others of their group are in handler mode. -/
theorem raiseCause_standAt_waits (hg : inHandler s.curBlock s.cur.grp = true) :
    CauseWaits s (raiseCause (standAt s ls c.pc) s.cur.blk s.cur.grp c at_ k) ls c := by
  obtain ⟨a, ha⟩ := List.exists_mem_of_ne_nil ls hne
  have hmem : ∀ l, l ∈ (maskLanes c.mask).map (32 * s.cur.grp + ·) ↔ l ∈ ls := fun l => by rw [hc]; exact mem_lanesMask hls
  have hown : ∀ l ∈ (maskLanes c.mask).map (32 * s.cur.grp + ·), (((standAt s ls c.pc).block s.cur.blk).lane l).hmode = false := by
    intro l hl
    rw [standAt_lane, if_pos ((hmem l).mp hl)]
    exact ho _ ((hmem l).mp hl)
  rw [raiseCause_waits at_ k (by rw [hc]; exact lanesMask_ne_zero hls ha) hr
    (by rw [standAt_tag, standAt_launch]; exact hh) hown (by rw [standAt_inHandler]; exact hg)]
  refine ⟨?_, rfl, ?_, fun l => ?_⟩
  · obtain ⟨_, _, hf⟩ := ((standAt_blocksCur s ls c.pc).updBlock ..).endRun
    rw [hf]
  · rw [State.grp_eq, State.endRun_block, State.updBlock_eq, State.block_setBlock, Block.updGrp_eq, Block.grp_setGrp,
      overLanes_grp, standAt_block, overLanes_grp]
    rfl
  · rw [State.lane_eq, State.endRun_block, State.updBlock_eq, State.block_setBlock, Block.updGrp_eq, Block.lane_setGrp,
      overLanes_lane_idem (g := fun y => { y with park := .trapPending }) (fun _ => rfl), standAt_lane]
    simp only [hmem]
    by_cases hl : l ∈ ls
    · simp only [if_pos hl]
    · simp only [if_neg hl]
end
end Sys2Proof.Machine

/-! The lanes of an access that pass its checks, or that all fail them; and operations that go out one after the other (R119,
R120, R123). -/
namespace Sys2Proof.Machine
open Sys2Proof Sys2Proof.Claim

/-! ## The lanes that pass and those that do not -/

theorem sortLanes_ok {α : Type} {ls : List Nat} {g : Nat → Except LaneFault α} {v : Nat → α} (h : ∀ l ∈ ls, g l = .ok (v l)) :
    sortLanes ls g = (ls.map (fun l => (l, v l)), []) := by
  refine Prod.ext ?_ ?_
  · refine (List.filterMap_congr (g := fun l => some (l, v l)) (fun l hl => ?_)).trans (congrFun List.filterMap_eq_map' ls)
    rw [h l hl]
  · refine List.filterMap_eq_nil_iff.mpr (fun l hl => ?_)
    rw [h l hl]

theorem sortLanes_error {α : Type} {ls : List Nat} {g : Nat → Except LaneFault α} {e : Nat → LaneFault}
    (h : ∀ l ∈ ls, g l = .error (e l)) : sortLanes ls g = ([], ls.map e) := by
  refine Prod.ext ?_ ?_
  · refine List.filterMap_eq_nil_iff.mpr (fun l hl => ?_)
    rw [h l hl]
  · refine (List.filterMap_congr (g := fun l => some (e l)) (fun l hl => ?_)).trans (congrFun List.filterMap_eq_map' ls)
    rw [h l hl]

/-- The accesses of checked lanes, all to the windows that `win` names, or none of them. -/
theorem filter_accesses_all {win : Dword → Bool} {f : Fields} {s : State} {ptr : Nat → Dword}
    (h : ∀ l ∈ activeLanes f s, win (ptr l) = true) : (accesses f s ptr).filter (fun a => win a.2) = accesses f s ptr := by
  refine List.filter_eq_self.mpr (fun a ha => ?_)
  obtain ⟨l, hl, rfl⟩ := List.mem_map.mp ha
  exact h l hl

theorem filter_accesses_none {win : Dword → Bool} {f : Fields} {s : State} {ptr : Nat → Dword}
    (h : ∀ l ∈ activeLanes f s, win (ptr l) = false) : (accesses f s ptr).filter (fun a => win a.2) = [] := by
  refine List.filter_eq_nil_iff.mpr (fun a ha => ?_)
  obtain ⟨l, hl, rfl⟩ := List.mem_map.mp ha
  simp [h l hl]

theorem map_fst_accesses (f : Fields) (s : State) (ptr : Nat → Dword) : (accesses f s ptr).map (·.1) = activeLanes f s := by
  simp [accesses, Function.comp_def]

/-! ## What a read of the object table leaves of an access -/

section
variable {s u : State} (h : TableReadFrom s u)
include h

theorem TableReadFrom.accesses (f : Fields) (ptr : Nat → Dword) : accesses f u ptr = accesses f s ptr := by
  rw [Claim.accesses, h.activeLanes]; rfl

theorem TableReadFrom.place (l : Nat) (p : Dword) : place u l p = place s l p := by
  obtain ⟨⟨_, _, _, _, rfl⟩, _⟩ := h; rfl

theorem TableReadFrom.memops : u.memops = s.memops := by
  obtain ⟨⟨_, _, _, _, rfl⟩, _⟩ := h; rfl

theorem TableReadFrom.lres : u.lres = s.lres := by
  obtain ⟨⟨_, _, _, _, rfl⟩, _⟩ := h; rfl

theorem TableReadFrom.seq : u.seq = s.seq := by
  obtain ⟨⟨_, _, _, _, rfl⟩, _⟩ := h; rfl

theorem TableReadFrom.block (b : Nat) : u.block b = s.block b := by
  obtain ⟨⟨_, _, _, _, rfl⟩, _⟩ := h; rfl

theorem TableReadFrom.core (c : Nat) : u.core c = s.core c := by
  obtain ⟨⟨_, _, _, _, rfl⟩, _⟩ := h; rfl

theorem TableReadFrom.launch (t : Nat) : u.launch t = s.launch t := by
  obtain ⟨⟨_, _, _, _, rfl⟩, _⟩ := h; rfl

end

/-! ## Operations that go out (R56) -/

/-- Between `x` and `y` one operation of lane `l` of the batch that issues in `s` has gone out, and `P` holds of it. -/
def OneOp (s x y : State) (l : Nat) (P : MemOp → Prop) : Prop :=
  (∃ m, y.memops = x.memops ++ [m] ∧ m.lane = l ∧ m.core = s.cur.pier ∧ m.blk = s.cur.blk ∧ m.seq = x.seq ∧ m.dead = false ∧
    P m) ∧ x.seq < y.seq

/-- A list of operations that go out one after the other, each from a state of which `I` holds: one for each lane. -/
theorem foldl_oneOp {α : Type} {s : State} {P : MemOp → Prop} {I : State → Prop} {g : State → α → State} {lane : α → Nat} :
    ∀ {as : List α} {x : State}, I x → (∀ a ∈ as, ∀ y, I y → OneOp s y (g y a) (lane a) P ∧ I (g y a)) →
    x.seq ≤ (as.foldl g x).seq ∧ I (as.foldl g x) ∧ ∃ new : List MemOp, (as.foldl g x).memops = x.memops ++ new ∧
      new.map (·.lane) = as.map lane ∧ ∀ m ∈ new, m.core = s.cur.pier ∧ m.blk = s.cur.blk ∧ x.seq ≤ m.seq ∧
        m.seq < (as.foldl g x).seq ∧ m.dead = false ∧ P m
  | [], x, hx, _ => ⟨Nat.le_refl _, hx, [], by simp⟩
  | a :: as, x, hx, hg => by
    obtain ⟨⟨⟨m, hm, hlane, hcore, hblk, hseq, hdead, hP⟩, hlt⟩, hy⟩ := hg a List.mem_cons_self x hx
    obtain ⟨hle, hI, new, hnew, hlanes, hall⟩ := foldl_oneOp hy (fun b hb => hg b (List.mem_cons_of_mem a hb))
    rw [List.foldl_cons]
    refine ⟨by omega, hI, m :: new, by rw [hnew, hm]; simp, by simp [hlane, hlanes], fun k hk => ?_⟩
    rcases List.mem_cons.mp hk with rfl | hk
    · exact ⟨hcore, hblk, hseq.ge, by omega, hdead, hP⟩
    · obtain ⟨h1, h2, h3, h4⟩ := hall k hk
      exact ⟨h1, h2, by omega, h4⟩

/-- The same for the accesses of the active lanes. -/
theorem addsOps_foldl {f : Fields} {s : State} {ptr : Nat → Dword} {P : MemOp → Prop} {I : State → Prop}
    {g : State → Nat × Dword → State} (h0 : I s)
    (hg : ∀ l ∈ activeLanes f s, ∀ y, I y → OneOp s y (g y (l, ptr l)) l P ∧ I (g y (l, ptr l))) :
    AddsOps f s ((accesses f s ptr).foldl g s) P ∧ I ((accesses f s ptr).foldl g s) := by
  have hg' : ∀ a ∈ accesses f s ptr, ∀ y, I y → OneOp s y (g y a) a.1 P ∧ I (g y a) := by
    intro a ha
    obtain ⟨l, hl, rfl⟩ := List.mem_map.mp ha
    exact hg l hl
  obtain ⟨-, hI, new, hnew, hlanes, hall⟩ := foldl_oneOp h0 hg'
  exact ⟨⟨new, hnew, hlanes.trans (map_fst_accesses f s ptr), hall⟩, hI⟩

theorem addsOps_mono {f : Fields} {s u : State} {P Q : MemOp → Prop} (h : AddsOps f s u P) (hPQ : ∀ m, P m → Q m) :
    AddsOps f s u Q := by
  obtain ⟨new, hnew, hlanes, hall⟩ := h
  refine ⟨new, hnew, hlanes, fun m hm => ?_⟩
  obtain ⟨h1, h2, h3, h4, h5, h6⟩ := hall m hm
  exact ⟨h1, h2, h3, h4, h5, hPQ m h6⟩

/-- Of the state only the outstanding operations, the cores and the order number may differ. -/
def OpsFrom (s u : State) : Prop := ∃ ms cs n, u = { s with memops := ms, cores := cs, seq := n }

theorem OpsFrom.refl (s : State) : OpsFrom s s := ⟨_, _, _, rfl⟩

theorem OpsFrom.frame {s u : State} (h : OpsFrom s u) : u = { s with memops := u.memops, cores := u.cores, seq := u.seq } := by
  obtain ⟨_, _, _, rfl⟩ := h; rfl

end Sys2Proof.Machine

/-! Loads, atomics and reductions that go out (R119, R120, R123). -/
namespace Sys2Proof.Machine
open Sys2Proof Sys2Proof.Claim

theorem core_updCore (s : State) (c k : Nat) (g : Core → Core) :
    (s.updCore c g).core k = if k = c then g (s.core c) else s.core k := tget_tput ..

/-- The cores have the records, the words and the owned words that they had. -/
def CoresKept (s u : State) : Prop :=
  ∀ c, (u.core c).record = (s.core c).record ∧ (u.core c).l1 = (s.core c).l1 ∧ (u.core c).owned = (s.core c).owned

theorem CoresKept.updCore {s u : State} (h : CoresKept s u) (c : Nat) {g : Core → Core}
    (hg : ∀ x, (g x).record = x.record ∧ (g x).l1 = x.l1 ∧ (g x).owned = x.owned) : CoresKept s (u.updCore c g) := by
  intro k
  rw [core_updCore]
  obtain ⟨h1, h2, h3⟩ := hg (u.core c)
  split
  · next hk => subst hk; rw [h1, h2, h3]; exact h k
  · exact h k

/-- A request for a line leaves the records, the words and the owned words of every core. -/
theorem CoresKept.requestFill {s u : State} (h : CoresKept s u) (core tag line : Nat) (pol : Option Nat) (l1 : Bool) :
    CoresKept s (requestFill u core tag line pol l1) :=
  CoresKept.updCore (u := u.tick) h core (fun _ => ⟨rfl, rfl, rfl⟩)

/-! ## Loads of the record's windows -/

/-- The load that lane `l` makes of `p`. -/
def loadOp (f : Fields) (pol : Option Nat) (s : State) (l : Nat) (p : Dword) : MemOp :=
  { id := s.seq, core := s.cur.pier, blk := s.cur.blk, lane := l, kind := .load, seq := s.seq, ptr := place s l p,
    t := f.t, d := f.d.toNat, acquire := f.ord == 1, pol := pol, pc := s.cur.pc }

/-- A load goes out, and with it perhaps a request for its line. -/
theorem recordLoad_cases (f : Fields) (pol : Option Nat) (s : State) (l : Nat) (p : Dword) :
    let t : State := { s with memops := s.memops ++ [loadOp f pol s l p], seq := s.seq + 1 }
    recordLoad f pol s l p = t ∨
      recordLoad f pol s l p = requestFill t s.cur.pier s.curTag (wordKey (place s l p) (tagPasid s s.curTag) / 32) pol := by
  intro t
  unfold recordLoad
  dsimp only
  split
  · exact .inr rfl
  · exact .inl rfl

/-- What is said of the load of a lane. -/
def LoadSaid (f : Fields) (t s : State) (ptr : Nat → Dword) (m : MemOp) : Prop :=
  m.kind = .load ∧ m.ptr = place s m.lane (ptr m.lane) ∧ m.t = f.t ∧ m.d = f.d.toNat ∧ m.acquire = (f.ord == 1) ∧
    m.pol = accessPol f t false m.lane

theorem recordLoad_out {f : Fields} {s x : State} (ptr : Nat → Dword) (hx : OpsFrom s x ∧ CoresKept s x) (l : Nat) :
    let y := recordLoad f (accessPol f s false l) x l (ptr l)
    OneOp s x y l (LoadSaid f s s ptr) ∧ OpsFrom s y ∧ CoresKept s y := by
  obtain ⟨⟨ms, cs, n, rfl⟩, hk⟩ := hx
  have hop : ∀ y : State, y.memops = ms ++ [loadOp f (accessPol f s false l) { s with memops := ms, cores := cs, seq := n } l (ptr l)] →
      n < y.seq → OneOp s { s with memops := ms, cores := cs, seq := n } y l (LoadSaid f s s ptr) := fun y hy hn =>
    ⟨⟨_, hy, rfl, rfl, rfl, rfl, rfl, rfl, rfl, rfl, rfl, rfl, rfl⟩, hn⟩
  intro y
  obtain hy | hy := recordLoad_cases f (accessPol f s false l) { s with memops := ms, cores := cs, seq := n } l (ptr l)
  · have hy : y = _ := hy
    rw [hy]
    exact ⟨hop _ rfl (Nat.lt_succ_self n), ⟨_, _, _, rfl⟩, hk⟩
  · have hy : y = _ := hy
    rw [hy]
    exact ⟨hop _ rfl (Nat.lt_succ_of_lt (Nat.lt_succ_self n)), ⟨_, _, _, rfl⟩, CoresKept.requestFill (by exact hk) _ _ _ _ _⟩

/-- LD of lanes that all pass their checks, with pointers to the record's windows. -/
theorem ldAt_record {f : Fields} {s : State} {ptr : Nat → Dword} (hp : Reaches f s false .rd RecordWin ptr) :
    ∃ u, ldAt f s = watch u (accesses f s ptr) (f.t.bits / 8) true false ∧ OpsFrom s u ∧
      AddsOps f s u (LoadSaid f s s ptr) ∧ CoresKept s u := by
  have hr : sortLanes (activeLanes f s) (fun l => effective f s l false .rd (f.t.bits / 8) true) = (accesses f s ptr, []) :=
    sortLanes_ok (fun l hl => (hp l hl).1)
  have hloc : (accesses f s ptr).filter (fun a => !isRecordWin a.2) = [] :=
    filter_accesses_none (win := fun p => !isRecordWin p) (fun l hl => by rw [(hp l hl).2]; rfl)
  have hwin : ∀ a ∈ accesses f s ptr, isRecordWin a.2 = true := by
    intro a ha
    obtain ⟨l, hl, rfl⟩ := List.mem_map.mp ha
    exact (hp l hl).2
  obtain ⟨hadds, hops, hcores⟩ := addsOps_foldl (f := f) (ptr := ptr) (P := LoadSaid f s s ptr)
    (I := fun x => OpsFrom s x ∧ CoresKept s x) (g := fun x a => recordLoad f (accessPol f s false a.1) x a.1 a.2)
    ⟨.refl s, fun _ => ⟨rfl, rfl, rfl⟩⟩ (fun l _ y hy => recordLoad_out ptr hy l)
  refine ⟨_, ?_, hops, hadds, hcores⟩
  unfold ldAt
  dsimp only
  rw [hr]
  dsimp only
  rw [hloc, List.flatMap_nil, List.isEmpty_nil, raiseHere_nil]
  refine congrArg (fun u => watch u _ _ _ _) (List.foldl_ext _ _ _ (fun x a ha => ?_))
  rw [if_pos (hwin a ha)]

end Sys2Proof.Machine

/-! Atomics and reductions that go out, or that their window refuses (R119, R123, R124). -/
namespace Sys2Proof.Machine
open Sys2Proof Sys2Proof.Claim

/-- The instruction of an atomic's form is the model's atomic of its kind and operation. -/
theorem exec_atomForm {f : Fields} {mk : Fields → Instr} {kind : MemKind} {op : Nat} {short : Bool}
    (h : AtomForm f mk kind op short) (s : State) : exec (mk f) s = .next (atomic kind op short f s) := by
  have hi : f.immBits 31 28 = f.imm.toNat / 2 ^ 28 % 16 := by
    simp [Fields.immBits, Nat.shiftRight_eq_div_pow]
  rcases h with ⟨rfl, rfl, rfl, rfl⟩ | ⟨rfl, rfl, rfl, rfl⟩ | ⟨rfl, rfl, rfl, rfl⟩
  · rw [← hi]; rfl
  · rfl
  · rw [← hi]; rfl

theorem hostAtomOk_iff (f : Fields) (kind : MemKind) (op : Nat) : hostAtomOk kind op f.t = true ↔ HostAtomic f kind op := by
  simp [hostAtomOk, HostAtomic, or_assoc]

/-- An atomic's window admits it (R124). -/
def Admitted (f : Fields) (kind : MemKind) (op : Nat) (p : Dword) : Prop :=
  ¬ (windowOf p = .acc ∨ windowOf p = .host ∧ ¬ HostAtomic f kind op)

theorem refused_iff (f : Fields) (kind : MemKind) (op : Nat) (p : Dword) :
    (decide (windowOf p = .acc) || (decide (windowOf p = .host) && !hostAtomOk kind op f.t)) = true ↔
      ¬ Admitted f kind op p := by
  rw [Admitted, Classical.not_not, ← hostAtomOk_iff]
  simp

theorem atomCheck_ok {f : Fields} {s : State} {l : Nat} {kind : MemKind} {op : Nat} {short : Bool} {p : Dword}
    (h : effective f s l short .at_ (f.t.bits / 8) true = .ok p) (ha : Admitted f kind op p) :
    atomCheck kind op short f s l = .ok p := by
  unfold atomCheck
  rw [h]
  exact if_neg (fun hr => (refused_iff f kind op p).mp hr ha)

theorem atomCheck_refused {f : Fields} {s : State} {l : Nat} {kind : MemKind} {op : Nat} {short : Bool} {p : Dword}
    (h : effective f s l short .at_ (f.t.bits / 8) true = .ok p) (ha : ¬ Admitted f kind op p) :
    atomCheck kind op short f s l = .error { lane := l, code := Code.spaceInvalid, val := p } := by
  unfold atomCheck
  rw [h]
  exact if_pos ((refused_iff f kind op p).mpr ha)

/-- An atomic that no lane's window admits is a fault of every lane, at the slot. -/
theorem atomicAt_refused {f : Fields} {s : State} {kind : MemKind} {op : Nat} {short : Bool} {ptr : Nat → Dword}
    (hp : Reaches f s short .at_ (fun p => ¬ Admitted f kind op p) ptr) :
    atomicAt kind op short f s = raiseFaults s (alike Code.spaceInvalid (accesses f s ptr)) s.cur.pc s.cur.pc := by
  have hr : sortLanes (activeLanes f s) (atomCheck kind op short f s) = ([], alike Code.spaceInvalid (accesses f s ptr)) := by
    refine (sortLanes_error (fun l hl => atomCheck_refused (hp l hl).1 (hp l hl).2)).trans ?_
    rw [alike, accesses, List.map_map]
    rfl
  have hu : (if (decide (f.ord = 2) || (decide (f.ord = 1) && decide (kind = .red))) = true then unreleased s [] else []) = [] :=
    ite_self _
  unfold atomicAt
  dsimp only
  rw [hr]
  dsimp only
  rw [List.filter_nil, List.map_nil, hu]
  rfl

/-! ## Atomics of the record's windows -/

/-- What is said of the atomic of a lane. -/
def AtomSaid (f : Fields) (s : State) (kind : MemKind) (op : Nat) (ptr : Nat → Dword) (m : MemOp) : Prop :=
  m.kind = kind ∧ m.ptr = place s m.lane (ptr m.lane) ∧ m.t = f.t ∧ m.d = f.d.toNat ∧
    m.op = op ∧ m.b = (s.src m.lane).words f.sb.toNat (if kind = .cas then 2 * f.t.regs else f.t.regs) ∧
    m.release = releases f kind ∧ m.acquire = acquires f kind ∧ m.pol = accessPol f s (kind == .red) m.lane

theorem recordAtom_out {f : Fields} {s x : State} (kind : MemKind) (op : Nat) (ptr : Nat → Dword) (hx : OpsFrom s x) (l : Nat) :
    let y := recordAtom kind op f (accessPol f s (kind == .red) l) x l (ptr l)
    OneOp s x y l (AtomSaid f s kind op ptr) ∧ OpsFrom s y := by
  obtain ⟨ms, cs, n, rfl⟩ := hx
  exact ⟨⟨⟨_, rfl, rfl, rfl, rfl, rfl, rfl, rfl, rfl, rfl, rfl, rfl, rfl, rfl, rfl, rfl⟩, Nat.lt_succ_self n⟩, _, _, _, rfl⟩

theorem atomicAt_record {f : Fields} {s : State} {kind : MemKind} {op : Nat} {short : Bool} {ptr : Nat → Dword}
    (hp : Reaches f s short .at_ (fun p => isRecordWin p = true ∧ Admitted f kind op p) ptr) :
    ∃ u, atomicAt kind op short f s = watch u (accesses f s ptr) (f.t.bits / 8) true true ∧ OpsFrom s u ∧
      AddsOps f s u (AtomSaid f s kind op ptr) := by
  have hr : sortLanes (activeLanes f s) (atomCheck kind op short f s) = (accesses f s ptr, []) :=
    sortLanes_ok (fun l hl => atomCheck_ok (hp l hl).1 (hp l hl).2.2)
  have hrec : (accesses f s ptr).filter (fun a => isRecordWin a.2) = accesses f s ptr :=
    filter_accesses_all (fun l hl => (hp l hl).2.1)
  have hloc : (accesses f s ptr).filter (fun a => !isRecordWin a.2) = [] :=
    filter_accesses_none (win := fun p => !isRecordWin p) (fun l hl => by rw [(hp l hl).2.1]; rfl)
  obtain ⟨hadds, hops⟩ := addsOps_foldl (f := f) (ptr := ptr) (P := AtomSaid f s kind op ptr) (I := OpsFrom s)
    (g := fun x a => recordAtom kind op f (accessPol f s (kind == .red) a.1) x a.1 a.2) (.refl s)
    (fun l _ y hy => recordAtom_out kind op ptr hy l)
  refine ⟨_, ?_, hops, hadds⟩
  unfold atomicAt
  dsimp only
  rw [hr]
  dsimp only
  rw [hloc, hrec, List.map_nil, List.flatMap_nil, List.isEmpty_nil, raiseHere_nil]
  have hu : (if (decide (f.ord = 2) || (decide (f.ord = 1) && decide (kind = .red))) = true then unreleased s [] else []) = [] :=
    ite_self _
  rw [hu]
  rfl

end Sys2Proof.Machine

/-! The order among a fibre's accesses to the local windows (R122, R126), which those of other lanes keep. -/
namespace Sys2Proof.Machine
open Sys2Proof Sys2Proof.Claim

/-- Two folds agree whose steps agree where `I` holds of what is left of the list and of the state. -/
theorem foldl_congr_rest {α σ : Type} {I : List α → σ → Prop} {g h : σ → α → σ}
    (hs : ∀ a r y, I (a :: r) y → g y a = h y a ∧ I r (h y a)) : ∀ {as : List α} {x : σ}, I as x →
    as.foldl g x = as.foldl h x ∧ I [] (as.foldl h x)
  | [], _, hx => ⟨rfl, hx⟩
  | a :: r, x, hx => by
    obtain ⟨he, hr⟩ := hs a r x hx
    rw [List.foldl_cons, List.foldl_cons, he]
    exact foldl_congr_rest hs hr

/-- From `x` to `y` nothing has come to stand that the fibre in lane `l` of block `b` waits for, and what its accesses read of
the batch and of the block stands. -/
structure LaneKept (b l : Nat) (x y : State) : Prop where
  cur : y.cur = x.cur
  lane : y.lane b l = x.lane b l
  block : (y.block b).mq = (x.block b).mq ∧ (y.block b).shapes = (x.block b).shapes
  memops : ∃ ms, y.memops = x.memops ++ ms ∧ ∀ m ∈ ms, m.lane ≠ l
  lres : ∃ rs, y.lres = x.lres ++ rs ∧ ∀ r ∈ rs, r.acq = none
  sgreqs : y.sgreqs = x.sgreqs
  dies : y.dies = x.dies

namespace LaneKept
variable {b l : Nat} {x y z : State}

theorem refl (b l : Nat) (x : State) : LaneKept b l x x :=
  ⟨rfl, rfl, ⟨rfl, rfl⟩, ⟨[], by simp⟩, ⟨[], by simp⟩, rfl, rfl⟩

theorem trans (h : LaneKept b l x y) (h' : LaneKept b l y z) : LaneKept b l x z := by
  obtain ⟨hc, hl, ⟨hm, hs⟩, ⟨ms, hms, hml⟩, ⟨rs, hrs, hra⟩, hg, hd⟩ := h
  obtain ⟨hc', hl', ⟨hm', hs'⟩, ⟨ms', hms', hml'⟩, ⟨rs', hrs', hra'⟩, hg', hd'⟩ := h'
  refine ⟨hc'.trans hc, hl'.trans hl, ⟨hm'.trans hm, hs'.trans hs⟩, ⟨ms ++ ms', ?_, ?_⟩, ⟨rs ++ rs', ?_, ?_⟩, hg'.trans hg,
    hd'.trans hd⟩
  · rw [hms', hms, List.append_assoc]
  · exact fun m hm => (List.mem_append.mp hm).elim (hml m) (hml' m)
  · rw [hrs', hrs, List.append_assoc]
  · exact fun r hr => (List.mem_append.mp hr).elim (hra r) (hra' r)

/-- A change of what the lane's order does not read keeps it. -/
theorem of_frame (h : LaneKept b l x y) (hb : z.blocks = y.blocks) (hc : z.cur = y.cur) (hm : z.memops = y.memops)
    (hr : z.lres = y.lres) (hg : z.sgreqs = y.sgreqs) (hd : z.dies = y.dies) : LaneKept b l x z := by
  have hblk : z.block b = y.block b := by unfold State.block; rw [hb]
  obtain ⟨h1, h2, h3, h4, h5, h6, h7⟩ := h
  exact ⟨hc.trans h1, by rw [State.lane_eq, hblk]; exact h2, by rwa [hblk], by rwa [hm], by rwa [hr], hg.trans h6, hd.trans h7⟩

theorem pushL (h : LaneKept b l x y) {r : LRes} (hr : r.acq = none) : LaneKept b l x (pushL y r) := by
  refine h.trans ⟨rfl, rfl, ⟨rfl, rfl⟩, ⟨[], by simp [Machine.pushL]⟩, ⟨_, rfl, fun q hq => ?_⟩, rfl, rfl⟩
  rw [List.mem_singleton.mp hq]
  exact hr

theorem reportLane (h : LaneKept b l x y) (b' l' : Nat) (pc : Dword) (code : BitVec 8) (cause : Nat) (addr : Dword) :
    LaneKept b l x (reportLane y b' l' pc code cause addr) := by
  obtain ⟨_, _, _, _, hf⟩ := report_from y (y.block b').tag
    { code := code, cause := cause, lane := l', block := (y.block b').idx, pc := pc, addr := addr }
  have hf' : Machine.reportLane y b' l' pc code cause addr = _ := hf
  rw [hf']
  exact h.of_frame rfl rfl rfl rfl rfl rfl

/-- A change of a block that leaves its lanes, its matrix queue and its shapes. -/
theorem updBlock (h : LaneKept b l x y) (k : Nat) {g : Block → Block}
    (hg : ∀ z, (g z).lane l = z.lane l ∧ (g z).mq = z.mq ∧ (g z).shapes = z.shapes) : LaneKept b l x (y.updBlock k g) := by
  have hb : (y.updBlock k g).block b = if b = k then g (y.block k) else y.block b := tget_tput ..
  obtain ⟨h1, h2, h3⟩ := hg (y.block k)
  refine h.trans ⟨rfl, ?_, ?_, ⟨[], by simp⟩, ⟨[], by simp⟩, rfl, rfl⟩
  · rw [State.lane_eq, hb]
    split
    · next hk => subst hk; exact h1
    · rfl
  · rw [hb]
    split
    · next hk => subst hk; exact ⟨h2, h3⟩
    · exact ⟨rfl, rfl⟩

theorem acquireAt (h : LaneKept b l x y) (c q : Nat) (pc : Dword) {k : Nat} (hk : k ≠ l) :
    LaneKept b l x (acquireAt y c b k q pc) := by
  unfold Machine.acquireAt acquireNow
  dsimp only
  split
  · refine LaneKept.updBlock (y := y.tick.updCore c acquireCore) ?_ b (g := fun z => z.updLane k (fun w => { w with tracked := [] }))
      (fun z => ⟨Block.lane_setLane_ne _ _ (Ne.symm hk), rfl, rfl⟩)
    exact h.of_frame rfl rfl rfl rfl rfl rfl
  · refine h.trans ⟨rfl, rfl, ⟨rfl, rfl⟩, ⟨_, rfl, fun m hm => ?_⟩, ⟨[], by simp⟩, rfl, rfl⟩
    rw [List.mem_singleton.mp hm]
    exact hk

/-- The lane's operands stand. -/
theorem src {s y : State} (h : LaneKept s.cur.blk l s y) : y.src l = s.src l := by
  have hlive : State.liveSrc (y.block s.cur.blk) l = State.liveSrc (s.block s.cur.blk) l := by
    have hl : (y.block s.cur.blk).lane l = (s.block s.cur.blk).lane l := h.lane
    simp only [State.liveSrc, hl, h.block.2]
  have hheld : y.heldSrc l = s.heldSrc l := by simp only [State.heldSrc, h.cur, h.lane]
  simp only [State.src, hheld, h.cur, hlive]

end LaneKept

/-! ## What holds a lane's access back -/

/-- A request of a lane that stands holds the same back. -/
theorem holds_congr {b l : Nat} {x y : State} (h : y.lane b l = x.lane b l) (q : Nat) (r : SgReq) :
    r.holds y b l q = r.holds x b l q := by
  unfold SgReq.holds SgReq.live
  by_cases hb : r.blk = b
  · by_cases hl : r.lane = l
    · rw [hb, hl, h]
    · simp only [beq_false_of_ne hl, Bool.and_false, Bool.false_and]
  · simp only [beq_false_of_ne hb, Bool.false_and]

theorem any_of_appended {α : Type} {xs ys new : List α} {p : α → Bool} (h : ys = xs ++ new) (hn : ∀ a ∈ new, p a = false) :
    ys.any p = xs.any p := by
  have hf : new.any p = false := List.any_eq_false.mpr (fun a ha => by simp [hn a ha])
  rw [h, List.any_append, hf, Bool.or_false]

section
variable {b l : Nat} {x y : State} (h : LaneKept b l x y)
include h

theorem LaneKept.readsDone (q : Nat) : readsDone y b l q = readsDone x b l q := by
  obtain ⟨ms, hms, hml⟩ := h.memops
  unfold Machine.readsDone
  rw [any_of_appended hms (fun m hm => by simp [olderOp, hml m hm]), h.lane]

theorem LaneKept.noAcquire (q : Nat) : noAcquire y b l q = noAcquire x b l q := by
  obtain ⟨ms, hms, hml⟩ := h.memops
  obtain ⟨rs, hrs, hra⟩ := h.lres
  unfold Machine.noAcquire
  rw [any_of_appended hms (fun m hm => by simp [olderOp, hml m hm]), any_of_appended hrs (fun r hr => by simp [hra r hr]),
    h.lane, h.sgreqs, h.dies]
  simp only [holds_congr h.lane]

end

/-- Nothing holds back an access of the lane, now or after accesses of other lanes. -/
theorem holdsLocal_of_notHeld {f : Fields} {t x : State} {ptr : Nat → Dword} {w : Bool} (hn : NotHeld f t ptr w) {l : Nat}
    (hl : l ∈ activeLanes f t) (h : LaneKept t.cur.blk l t x) {o : LocalOp} (hp : o.ptr = ptr l) (hk : w = false → o.kind = .load) :
    holdsLocal x t.cur.blk l o = false := by
  obtain ⟨hops, hacq, hrd, hmq⟩ := hn l hl
  have hload : (o.kind != .load && !readsDone x t.cur.blk l o.id) = false := by
    cases w with
    | false => rw [hk rfl]; rfl
    | true => rw [h.readsDone, hrd rfl]; simp
  have hacc : (windowOf o.ptr == .acc && !(x.block t.cur.blk).mq.isEmpty) = false := by
    by_cases hw : windowOf (ptr l) = .acc
    · have hq : (x.block t.cur.blk).mq = [] := h.block.1.trans (hmq hw)
      rw [hq]; simp
    · simp [hp, hw]
  unfold holdsLocal
  rw [hload, hacc, h.lane, h.noAcquire, hops, hacq]
  rfl

end Sys2Proof.Machine

/-! Atomics at a scratchpad's port (R123, R124). -/
namespace Sys2Proof.Machine
open Sys2Proof Sys2Proof.Claim

/-! ## Writes to a scratchpad -/

/-- The blocks differ in scratchpad bytes alone, with what keeps account of these. -/
def ScratchFrom (s u : State) (e : Nat) : Prop :=
  u.block e = { s.block e with scratch := (u.block e).scratch, scratchPoison := (u.block e).scratchPoison,
                               older := (u.block e).older }

section
variable {s : State} {b l n : Nat} {p : Dword} {bs : List Byte} {bad : Bool} (hw : windowOf p ≠ .acc)
include hw

theorem localWrite_scratch_frame :
    localWrite s b l n p bs bad = { s with blocks := (localWrite s b l n p bs bad).blocks, seq := s.seq + 1 } := by
  unfold localWrite
  rw [if_neg hw]
  rfl

/-- A write to a scratchpad writes exactly its bytes, to the block that its pointer reaches. -/
theorem localWrite_scratch_block (e : Nat) :
    ScratchFrom s (localWrite s b l n p bs bad) e ∧ ((localWrite s b l n p bs bad).block e).scratch =
      if e = scratchBlock s b p then wrBytes (s.block e).scratch (ptrOff24 p) bs else (s.block e).scratch := by
  have hb : (localWrite s b l n p bs bad).block e = if e = scratchBlock s b p then
      scratchWrite (s.block (scratchBlock s b p)) (ptrOff24 p) bs bad s.seq n (if scratchBlock s b p = b then some l else none)
      else s.block e := by
    unfold localWrite
    rw [if_neg hw]
    simp only [beq_iff_eq]
    exact tget_tput ..
  rw [ScratchFrom, hb]
  split
  · next he => subst he; exact ⟨rfl, rfl⟩
  · exact ⟨rfl, rfl⟩

end

theorem accWrite_frame (o : Nat) : ∀ (bs : List Byte) (x : Block), accWrite x o bs = { x with acc := (accWrite x o bs).acc } := by
  intro bs
  induction bs generalizing o with
  | nil => intro x; rfl
  | cons a bs ih =>
    intro x
    rw [accWrite, ih]

/-- A write to a local window leaves what holds lanes' accesses back. -/
theorem LaneKept.localWrite {b' k : Nat} {x y : State} (h : LaneKept b' k x y) (b l n : Nat) (p : Dword) (bs : List Byte)
    (bad : Bool) : LaneKept b' k x (localWrite y b l n p bs bad) := by
  unfold Machine.localWrite
  dsimp only
  split
  · refine h.updBlock b (fun z => ?_)
    rw [accWrite_frame]
    exact ⟨rfl, rfl, rfl⟩
  · refine LaneKept.updBlock (y := y.tick) ?_ _ (fun z => ⟨rfl, rfl, rfl⟩)
    exact h.of_frame rfl rfl rfl rfl rfl rfl

/-! ## What an atomic does -/

/-- What an atomic that reads `old` leaves of the memory it names. -/
def atomWritten (s : State) (b l : Nat) (o : LocalOp) (old : Nat) : State :=
  match atomNew o.kind o.op o.t o.b old with
  | some v => localWrite s b l o.id o.ptr (leBytes (o.t.bits / 8) v) false
  | none => s

/-- The result that an atomic but RED gives. -/
def atomGiven (s : State) (b l : Nat) (o : LocalOp) (ws : List Word) : State :=
  if o.kind = .red then s else pushL s { id := 0, blk := b, lane := l, regs := regPairs o.d ws }

theorem localAtom_eq (s : State) (c b l : Nat) (o : LocalOp) :
    let r := localRead s b o.ptr (o.t.bits / 8)
    localAtom s c b l o = localAcquire (if r.2 then reportLane (atomGiven s b l o (allOnes o.t)) b l o.pc Code.poison 9 o.ptr
      else atomGiven (atomWritten s b l o (leNat r.1)) b l o (resT o.t (leNat r.1))) c b l o := rfl

/-- An atomic of one lane leaves what holds another lane's accesses back. -/
theorem LaneKept.localAtom {b' k : Nat} {x y : State} (h : LaneKept b' k x y) (c : Nat) {l : Nat} (hl : l ≠ k) (o : LocalOp) :
    LaneKept b' k x (localAtom y c b' l o) := by
  have hgiven : ∀ (z : State) (ws : List Word), LaneKept b' k x z → LaneKept b' k x (atomGiven z b' l o ws) := by
    intro z ws hz
    unfold atomGiven
    split
    · exact hz
    · exact hz.pushL rfl
  rw [localAtom_eq, localAcquire]
  have hv : ∀ v, LaneKept b' k x v → LaneKept b' k x (if o.acquire = true then Machine.acquireAt v c b' l o.id o.pc else v) := by
    intro v hv
    split
    · exact hv.acquireAt c o.id o.pc hl
    · exact hv
  refine hv _ ?_
  split
  · exact (hgiven _ _ h).reportLane ..
  · refine hgiven _ _ ?_
    unfold atomWritten
    split
    · exact h.localWrite ..
    · exact h

section
variable {s : State} {b l : Nat} {o : LocalOp} {old : Nat} (hw : windowOf o.ptr ≠ .acc)
include hw

theorem atomWritten_frame :
    ∃ bl n, atomWritten s b l o old = { s with blocks := bl, seq := n } := by
  unfold atomWritten
  split
  · exact ⟨_, _, localWrite_scratch_frame hw⟩
  · exact ⟨_, _, rfl⟩

theorem atomWritten_block (e : Nat) : ScratchFrom s (atomWritten s b l o old) e ∧
    (e ≠ scratchBlock s b o.ptr → ((atomWritten s b l o old).block e).scratch = (s.block e).scratch) := by
  unfold atomWritten
  split
  · obtain ⟨h1, h2⟩ := localWrite_scratch_block (s := s) (b := b) (l := l) (n := o.id) (bs := leBytes (o.t.bits / 8) _)
      (bad := false) hw e
    exact ⟨h1, fun he => by rw [h2, if_neg he]⟩
  · exact ⟨rfl, fun _ => rfl⟩

theorem atomWritten_byte (a : Nat) :
    rdByte ((atomWritten s b l o old).block (scratchBlock s b o.ptr)).scratch a =
      match atomNew o.kind o.op o.t o.b old with
      | some x => if ptrOff24 o.ptr ≤ a ∧ a < ptrOff24 o.ptr + o.t.bits / 8 then
          (leBytes (o.t.bits / 8) x).getD (a - ptrOff24 o.ptr) 0 else rdByte (s.block (scratchBlock s b o.ptr)).scratch a
      | none => rdByte (s.block (scratchBlock s b o.ptr)).scratch a := by
  unfold atomWritten
  cases atomNew o.kind o.op o.t o.b old with
  | none => rfl
  | some x =>
    dsimp only
    rw [(localWrite_scratch_block hw _).2, if_pos rfl, rdByte_wrBytes, leBytes_length]

end

theorem atomGiven_frame (s : State) (b l : Nat) (o : LocalOp) (ws : List Word) :
    ∃ rs n, atomGiven s b l o ws = { s with lres := rs, seq := n } := by
  unfold atomGiven
  split
  · exact ⟨_, _, rfl⟩
  · exact ⟨_, _, rfl⟩

/-! ## The atomics of an instruction -/

theorem freeOrder_perm {α : Type} : ∀ (n : Nat) (ls : List α) (s : State),
    ((freeOrder n ls s).1).Perm ls ∧ ∃ w, (freeOrder n ls s).2 = { s with free := w }
  | 0, ls, s => ⟨.refl _, s.free, rfl⟩
  | n + 1, [], s => ⟨.refl _, s.free, rfl⟩
  | n + 1, [x], s => ⟨.refl _, s.free, rfl⟩
  | n + 1, x :: y :: r, s => by
    have hi : (Config.freeValue s.free).toNat % (x :: y :: r).length < (x :: y :: r).length := Nat.mod_lt _ (by simp)
    obtain ⟨hp, w, hw⟩ := freeOrder_perm n ((x :: y :: r).eraseIdx ((Config.freeValue s.free).toNat % (x :: y :: r).length))
      s.drawFree.2
    refine ⟨?_, w, ?_⟩
    · have he : (freeOrder (n + 1) (x :: y :: r) s).1 =
          (x :: y :: r)[(Config.freeValue s.free).toNat % (x :: y :: r).length] ::
            (freeOrder n ((x :: y :: r).eraseIdx ((Config.freeValue s.free).toNat % (x :: y :: r).length)) s.drawFree.2).1 := by
        simp only [freeOrder, State.drawFree_value, List.getElem?_eq_getElem hi]
      rw [he]
      exact (hp.cons _).trans (List.getElem_cons_eraseIdx_perm hi)
    · exact hw

end Sys2Proof.Machine

/-! The statement about accesses that go out, but for the atomics of the local windows (R119, R120, R123, R124, R190, R196). -/
namespace Sys2Proof.Claim
open Sys2Proof Sys2Proof.Machine

theorem loadGoesOut : LoadGoesOut := by
  intro f s ptr t hw hp
  have hr := modeTouched_from f s
  obtain ⟨u, hu, hops, hadds, hcores⟩ := ldAt_record hp
  refine ⟨u, congrArg Host.Outcome.next ((withMode_reads hw _).trans ?_), hops.frame, ?_, hcores⟩
  · rw [hu, hr.accesses]
  · exact addsOps_mono hadds (fun m hm => by rwa [LoadSaid, hr.place] at hm)

theorem atomicGoesOut : AtomicGoesOut := by
  intro f s ptr mk kind op short hf t hw hp
  have hr := modeTouched_from f s
  have hwin : Reaches f t short .at_ (fun p => isRecordWin p = true ∧ Admitted f kind op p) ptr := by
    intro l hl
    obtain ⟨he, hg⟩ := hp l hl
    refine ⟨he, ?_⟩
    rcases hg with hg | hg | ⟨hg, ha⟩ <;> simp [isRecordWin, Admitted, hg]
    exact ha
  obtain ⟨u, hu, hops, hadds⟩ := atomicAt_record hwin
  refine ⟨u, (exec_atomForm hf s).trans (congrArg Host.Outcome.next ((withMode_reads hw _).trans ?_)), hops.frame, ?_⟩
  · rw [hu, hr.accesses]
  · exact addsOps_mono hadds (fun m hm => by rwa [AtomSaid, hr.place, hr.src] at hm)

theorem atomicRefused : AtomicRefused := by
  intro f s ptr mk kind op short hf t hw hp hh hg ho l0 hl0
  have hr := modeTouched_from f s
  have he : exec (mk f) s = .next (raiseFaults t (alike Code.spaceInvalid (accesses f t ptr)) t.cur.pc t.cur.pc) := by
    refine (exec_atomForm hf s).trans (congrArg Host.Outcome.next ((withMode_reads hw _).trans (atomicAt_refused ?_)))
    exact fun l hl => ⟨(hp l hl).1, not_not_intro (hp l hl).2⟩
  have hhead : (accesses f t ptr).head? = some (l0, ptr l0) := by rw [hr.accesses, accesses, List.head?_map, hl0]; rfl
  rw [raiseFaults_alike hhead, map_fst_accesses, hr.activeLanes] at he
  have hblk : t.curBlock = s.curBlock := by rw [State.curBlock, hr.block, hr.cur]; rfl
  have hrec : t.curRec = s.curRec := by rw [State.curRec, State.curLaunch, hr.launch, State.curTag, hblk]; rfl
  have hlane : ∀ l, t.lane t.cur.blk l = s.lane s.cur.blk l := fun l => by rw [State.lane_eq, hr.block, hr.cur]; rfl
  obtain ⟨htake, hops, -, -, hrest⟩ := raiseCause_standAt_takes (s := t) (ls := activeLanes f s) (pc := t.cur.pc)
    (at_ := t.cur.pc) (k := 0)
    (c := { code := Code.spaceInvalid, pc := t.cur.pc, val := ptr l0, mask := lanesMask (activeLanes f s) })
    (fun l hl => (mem_activeLanes.mp (hr.activeLanes f ▸ hl)).1) (List.ne_nil_of_mem (List.mem_of_mem_head? hl0)) rfl
    rfl (by rw [hrec]; exact hh) (fun l hl => by rw [hlane]; exact ho l hl) (by rw [hblk, hr.cur]; exact hg)
  refine ⟨_, he, ?_, hops.trans hr.memops, fun l hl => ?_⟩
  · rw [hr.cur] at htake ⊢
    exact htake
  · have h := hrest l hl
    rw [hlane, hr.cur] at h
    rw [hr.cur]
    exact h

theorem watchpointsFire : WatchpointsFire := by
  intro s acc n rd wr hin u hits
  have hu : u = raiseFaults s (alike Code.watchpoint (watched s acc n rd wr)) s.cur.next s.cur.pc := rfl
  have hnil : hits = [] → u = s := fun h => by rw [hu, List.map_eq_nil_iff.mp h]; rfl
  refine ⟨fun hno => hnil ?_, hnil, fun a ha hh ho => ?_⟩
  · obtain ⟨h4, h5⟩ := hno
    have h0 : ∀ p, watchHit (s.pier s.cur.pier) 0 p n rd wr = false := fun p => by
      simp only [watchHit, Nat.add_zero, h4, Bool.false_and]
    have h1 : ∀ p, watchHit (s.pier s.cur.pier) 1 p n rd wr = false := fun p => by
      simp only [watchHit, Nat.reduceAdd, h5, Bool.false_and]
    simp [hits, watched, h0, h1]
  · intro c
    have hls : ∀ l ∈ hits, l ∈ s.curLanes := by
      intro l hl
      obtain ⟨x, hx, rfl⟩ := List.mem_map.mp hl
      rcases List.mem_append.mp hx with hx | hx <;> exact hin x (List.mem_filter.mp hx).1
    have hne : hits ≠ [] := by
      intro h
      rw [List.map_eq_nil_iff.mp h] at ha
      cases ha
    rw [hu, raiseFaults_alike ha]
    exact ⟨raiseCause_standAt_takes (c := c) hls hne rfl rfl hh ho, raiseCause_standAt_waits (c := c) hls hne rfl rfl hh ho⟩

end Sys2Proof.Claim

/-! The atomics of the scratchpad and cluster-shared windows (R123, R124), and the whole statement about accesses that go out. -/
namespace Sys2Proof.Claim
open Sys2Proof Sys2Proof.Machine

/-- The access that an atomic of lane `l` makes at order number `q`. -/
def atomAccess (f : Fields) (s : State) (ptr : Nat → Dword) (kind : MemKind) (op q l : Nat) : LocalOp :=
  { id := q, kind := kind, ptr := ptr l, t := f.t, d := f.d.toNat, op := op,
    b := (s.src l).words f.sb.toNat (if kind = .cas then 2 * f.t.regs else f.t.regs),
    acquire := acquires f kind, pc := s.cur.pc }

theorem performLocal_atomic {s : State} {c b l : Nat} {o : LocalOp} (h : o.kind ∈ [MemKind.atom, .cas, .red]) :
    performLocal s c b l o = localAtom s c b l o := by
  simp only [List.mem_cons, List.not_mem_nil, or_false] at h
  unfold performLocal
  rcases h with h | h | h <;> rw [h]

theorem atomForm_kind {f : Fields} {mk : Fields → Instr} {kind : MemKind} {op : Nat} {short : Bool}
    (h : AtomForm f mk kind op short) : kind ∈ [MemKind.atom, .cas, .red] := by
  rcases h with ⟨-, rfl, -⟩ | ⟨-, rfl, -⟩ | ⟨-, rfl, -⟩ <;> decide

section
variable {f : Fields} {s : State} {ptr : Nat → Dword} {kind : MemKind} {op : Nat}

/-- The lanes' accesses, that nothing holds back, are performed one after the other, in whatever order. -/
theorem foldl_localAccess (hk : kind ∈ [MemKind.atom, .cas, .red]) (hn : NotHeld f s ptr true) {acc : List (Nat × Dword)} {w : Nat}
    (hacc : acc.Perm (accesses f s ptr)) :
    acc.foldl (fun x a => localAccess x a.1 (atomAccess f x (fun _ => a.2) kind op x.seq a.1)) { s with free := w } =
    acc.foldl (fun x a => localAtom x s.cur.pier s.cur.blk a.1 (atomAccess f s ptr kind op x.seq a.1)) { s with free := w } := by
  refine (foldl_congr_rest (I := fun rest y => (rest.map (·.1)).Nodup ∧
    ∀ a ∈ rest, a ∈ accesses f s ptr ∧ LaneKept s.cur.blk a.1 s y) (fun a r y hI => ?_) ⟨?_, fun a ha => ?_⟩).1
  · obtain ⟨hnd, hall⟩ := hI
    obtain ⟨ha, hkept⟩ := hall a List.mem_cons_self
    rw [List.map_cons, List.nodup_cons] at hnd
    obtain ⟨l, hl, rfl⟩ := List.mem_map.mp ha
    have hsrc : y.src l = s.src l := hkept.src
    have hcur := hkept.cur
    refine ⟨?_, hnd.2, fun a ha => ?_⟩
    · unfold localAccess atomAccess
      rw [hsrc, hcur]
      exact (if_neg (by rw [holdsLocal_of_notHeld hn hl hkept rfl (by simp)]; exact Bool.false_ne_true)).trans
        (performLocal_atomic hk)
    · obtain ⟨ha', hk'⟩ := hall a (List.mem_cons_of_mem _ ha)
      refine ⟨ha', hk'.localAtom _ (fun he => hnd.1 ?_) _⟩
      exact he ▸ List.mem_map_of_mem ha
  · exact ((hacc.map _).nodup_iff).mpr (map_fst_accesses f s ptr ▸ activeLanes_nodup f s)
  · exact ⟨hacc.mem_iff.mp ha, (LaneKept.refl _ _ s).of_frame rfl rfl rfl rfl rfl rfl⟩

theorem unreleased_nil {ls : List Nat} (h : ∀ l ∈ ls, releaseOk s s.cur.blk l s.seq = true) : unreleased s ls = [] :=
  List.filter_eq_nil_iff.mpr (fun l hl => by simp [h l hl])

theorem flatMap_absent (h : AllPresent f s ptr) :
    (accesses f s ptr).flatMap (fun a => absentLines s s.cur.blk a.1 a.2 (f.t.bits / 8)) = [] := by
  refine List.flatMap_eq_nil_iff.mpr (fun a ha => ?_)
  obtain ⟨l, hl, rfl⟩ := List.mem_map.mp ha
  exact h l hl

theorem atomicAt_local {short : Bool} (hk : kind ∈ [MemKind.atom, .cas, .red])
    (hp : Reaches f s short .at_ (fun p => windowOf p = .scratch ∨ windowOf p = .cluster) ptr) (hn : NotHeld f s ptr true)
    (hrel : releases f kind = true → Released f s) (hpres : AllPresent f s ptr) :
    ∃ (order : List Nat) (w : Nat), order.Perm (activeLanes f s) ∧ atomicAt kind op short f s =
      watch (order.foldl (fun x l => localAtom x s.cur.pier s.cur.blk l (atomAccess f s ptr kind op x.seq l)) { s with free := w })
        (accesses f s ptr) (f.t.bits / 8) true true := by
  have hwin : ∀ l ∈ activeLanes f s, isRecordWin (ptr l) = false ∧ Admitted f kind op (ptr l) := by
    intro l hl
    rcases (hp l hl).2 with h | h <;> simp [isRecordWin, Admitted, h]
  have hr : sortLanes (activeLanes f s) (atomCheck kind op short f s) = (accesses f s ptr, []) :=
    sortLanes_ok (fun l hl => atomCheck_ok (hp l hl).1 (hwin l hl).2)
  have hrec : (accesses f s ptr).filter (fun a => isRecordWin a.2) = [] := filter_accesses_none (fun l hl => (hwin l hl).1)
  have hloc : (accesses f s ptr).filter (fun a => !isRecordWin a.2) = accesses f s ptr :=
    filter_accesses_all (win := fun p => !isRecordWin p) (fun l hl => by rw [(hwin l hl).1]; rfl)
  have hun : (if (decide (f.ord = 2) || (decide (f.ord = 1) && decide (kind = .red))) = true then unreleased s (activeLanes f s)
      else []) = [] := by
    split
    · next h => exact unreleased_nil (hrel h)
    · rfl
  obtain ⟨hperm, w, hw⟩ := freeOrder_perm 32 (accesses f s ptr) s
  refine ⟨(freeOrder 32 (accesses f s ptr) s).1.map (·.1), w, map_fst_accesses f s ptr ▸ hperm.map _, ?_⟩
  unfold atomicAt
  dsimp only
  rw [hr]
  dsimp only
  rw [hloc, hrec, map_fst_accesses, hun, flatMap_absent hpres, List.isEmpty_nil, raiseHere_nil, List.foldl_nil, hw,
    List.foldl_map, ← foldl_localAccess hk hn hperm]
  rfl

end

theorem localAtomicsAct : LocalAtomicsAct := by
  refine ⟨?_, ?_⟩
  · intro f s ptr mk kind op short hf t hw hp hn hrel hpres
    have hr : TableReadFrom s t := modeTouched_from f s
    have hacc : ∀ q l, atomAccess f t ptr kind op q l = atomAccess f s ptr kind op q l := fun q l => by
      rw [atomAccess, hr.src, hr.cur]
      rfl
    obtain ⟨order, w, hperm, he⟩ := atomicAt_local (op := op) (atomForm_kind hf) hp hn hrel hpres
    refine ⟨order, w, hr.activeLanes f ▸ hperm, (exec_atomForm hf s).trans (congrArg Host.Outcome.next
      ((withMode_reads hw _).trans ?_))⟩
    rw [he, hr.accesses, hr.cur]
    simp only [hacc]
    rfl
  · intro s c b l o hk hwin n hpoison k old
    have hacc : windowOf o.ptr ≠ .acc := by rcases hwin with h | h <;> rw [h] <;> decide
    obtain ⟨bl, q, hf⟩ := atomWritten_frame (s := s) (b := b) (l := l) (old := old) hacc
    obtain ⟨rs, q', hg⟩ := atomGiven_frame (atomWritten s b l o old) b l o (resT o.t old)
    have hblk : ∀ e, (atomGiven (atomWritten s b l o old) b l o (resT o.t old)).block e = (atomWritten s b l o old).block e :=
      fun e => by rw [hg]; rfl
    refine ⟨atomGiven (atomWritten s b l o old) b l o (resT o.t old), ?_, ?_, fun hred => ?_, fun hred => ?_, fun a => ?_,
      fun e => ?_⟩
    · rw [localAtom_eq, hpoison, if_neg Bool.false_ne_true]
      rfl
    · rw [hg, hf]
    · rw [atomGiven, if_pos hred, hf]
    · rw [atomGiven, if_neg hred]
      exact ⟨_, by rw [hf]; rfl, rfl, rfl, rfl⟩
    · rw [hblk]
      exact atomWritten_byte hacc a
    · rw [hblk]
      exact atomWritten_block hacc e

/-- Settles O15: the accesses of the record's windows go out one for each lane, those of a scratchpad's port are performed in an
order of the lanes in which none holds another back, and a watchpoint is a fault of one code. -/
theorem accessesGoOut : Obligations.AccessesGoOut :=
  ⟨loadGoesOut, atomicGoesOut, atomicRefused, localAtomicsAct, watchpointsFire⟩

end Sys2Proof.Claim

/-! The bytes of the accumulator rows, and what writes to the local windows leave (R110, R122). -/
namespace Sys2Proof.Machine
open Sys2Proof Sys2Proof.Claim

/-! ## Bytes of the accumulator rows -/

/-- A word with byte `i` replaced holds the new byte there and its own elsewhere. -/
theorem wordByte_replace {w : Word} {i j : Nat} (b : Byte) (hi : i < 4) (hj : j < 4) :
    wordByte (BitVec.ofNat 32 (w.toNat - byteAt w.toNat i * 2 ^ (8 * i) + b.toNat * 2 ^ (8 * i))) j =
      if j = i then b else wordByte w j := by
  have hw := w.isLt
  have hb := b.isLt
  refine BitVec.eq_of_toNat_eq ?_
  rw [apply_ite BitVec.toNat]
  simp only [wordByte, byteAt, BitVec.toNat_ofNat, Nat.shiftRight_eq_div_pow]
  interval_cases i <;> interval_cases j <;> norm_num <;> omega

/-- A first byte, and those after it, are the bytes in their order. -/
theorem ite_getD_cons {o a : Nat} (b d : Byte) (bs : List Byte) :
    (if o + 1 ≤ a ∧ a < o + 1 + bs.length then bs.getD (a - (o + 1)) 0 else if a = o then b else d) =
      if o ≤ a ∧ a < o + (b :: bs).length then (b :: bs).getD (a - o) 0 else d := by
  rw [List.length_cons]
  by_cases ha : a = o
  · subst ha; simp
  · by_cases hr : o ≤ a ∧ a < o + (bs.length + 1)
    · obtain ⟨n, rfl⟩ : ∃ n, a = o + 1 + n := ⟨a - o - 1, by omega⟩
      rw [if_pos (by omega), if_pos hr, Nat.add_sub_cancel_left, show o + 1 + n - o = n + 1 from by omega, List.getD_cons_succ]
    · rw [if_neg (by omega), if_neg ha, if_neg hr]

theorem accByte_accWrite (bs : List Byte) : ∀ (x : Block) (o a : Nat),
    accByte (accWrite x o bs) a = if o ≤ a ∧ a < o + bs.length then bs.getD (a - o) 0 else accByte x a := by
  induction bs with
  | nil => intro x o a; rw [accWrite, if_neg (by simp)]
  | cons b bs ih =>
    intro x o a
    have hone : accByte { x with acc := tput 0 x.acc (o / 4) (BitVec.ofNat 32 ((tget 0 x.acc (o / 4)).toNat -
        byteAt (tget 0 x.acc (o / 4)).toNat (o % 4) * 2 ^ (8 * (o % 4)) + b.toNat * 2 ^ (8 * (o % 4)))) } a =
        if a = o then b else accByte x a := by
      unfold accByte
      rw [tget_tput]
      by_cases hw : a / 4 = o / 4
      · rw [if_pos hw, wordByte_replace b (Nat.mod_lt _ (by decide)) (Nat.mod_lt _ (by decide)), hw]
        exact if_congr (by omega) rfl rfl
      · rw [if_neg hw, if_neg (fun h : a = o => hw (by rw [h]))]
    rw [accWrite, ih, hone, ite_getD_cons]

/-! ## Writes to the local windows -/

/-- Of the state the blocks and the order number may differ, and of the blocks the bytes of the local windows alone. -/
def LocalFrom (s u : State) : Prop :=
  (∃ bl n, u = { s with blocks := bl, seq := n }) ∧ ∀ e, u.block e = { s.block e with
    scratch := (u.block e).scratch, scratchPoison := (u.block e).scratchPoison, older := (u.block e).older,
    acc := (u.block e).acc, accPoison := (u.block e).accPoison }

namespace LocalFrom
variable {s u v : State}

theorem refl (s : State) : LocalFrom s s := ⟨⟨_, _, rfl⟩, fun _ => rfl⟩

theorem trans (h : LocalFrom s u) (h' : LocalFrom u v) : LocalFrom s v := by
  obtain ⟨⟨_, _, rfl⟩, hb⟩ := h
  obtain ⟨⟨_, _, rfl⟩, hb'⟩ := h'
  exact ⟨⟨_, _, rfl⟩, fun e => by rw [hb' e, hb e]⟩

theorem laneKept (h : LocalFrom s u) (b l : Nat) : LaneKept b l s u := by
  obtain ⟨⟨_, _, rfl⟩, hb⟩ := h
  refine ⟨rfl, ?_, ?_, ⟨[], by simp⟩, ⟨[], by simp⟩, rfl, rfl⟩
  · rw [State.lane_eq, hb b]
    rfl
  · rw [hb b]
    exact ⟨rfl, rfl⟩

/-- A pointer reaches the same block. -/
theorem scratchBlock (h : LocalFrom s u) (b : Nat) (p : Dword) : scratchBlock u b p = scratchBlock s b p := by
  have hl : ∀ t, u.launch t = s.launch t := by
    obtain ⟨⟨_, _, rfl⟩, -⟩ := h
    exact fun _ => rfl
  have htag : (u.block b).tag = (s.block b).tag := (congrArg Block.tag (h.2 b) :)
  have hidx : (u.block b).idx = (s.block b).idx := (congrArg Block.idx (h.2 b) :)
  have hon : ∀ c, (u.block c).onPier = (s.block c).onPier := fun c => (congrArg Block.onPier (h.2 c) :)
  have hpos : ∀ c, (u.block c).spos = (s.block c).spos := fun c => (congrArg Block.spos (h.2 c) :)
  simp only [Machine.scratchBlock, spanBlock, htag, hidx, hl, hon, hpos]

end LocalFrom

section
variable (s : State) (b l n : Nat) (p : Dword) (bs : List Byte) (bad : Bool)

theorem localWrite_acc_block (hw : windowOf p = .acc) :
    LocalFrom s (localWrite s b l n p bs bad) ∧ (∀ e, ((localWrite s b l n p bs bad).block e).scratch = (s.block e).scratch) ∧
      (∀ e, e ≠ b → ((localWrite s b l n p bs bad).block e).acc = (s.block e).acc) ∧
      ((localWrite s b l n p bs bad).block b).acc = (accWrite (s.block b) (ptrOff24 p) bs).acc := by
  have hb : ∃ ap, ∀ e, (localWrite s b l n p bs bad).block e = if e = b then
      { accWrite (s.block b) (ptrOff24 p) bs with accPoison := ap } else s.block e := by
    unfold localWrite
    rw [if_pos hw]
    exact ⟨_, fun e => tget_tput ..⟩
  obtain ⟨ap, hb⟩ := hb
  refine ⟨⟨⟨(localWrite s b l n p bs bad).blocks, s.seq, ?_⟩, fun e => ?_⟩, fun e => ?_, fun e he => ?_, ?_⟩
  · unfold localWrite
    rw [if_pos hw]
    rfl
  · rw [hb e]
    split
    · next he => subst he; rw [accWrite_frame]
    · rfl
  · rw [hb e]
    split
    · next he => subst he; rw [accWrite_frame]
    · rfl
  · rw [hb e, if_neg he]
  · rw [hb b, if_pos rfl]

/-- A write to a local window leaves all else. -/
theorem localWrite_from : LocalFrom s (localWrite s b l n p bs bad) := by
  by_cases hw : windowOf p = .acc
  · exact (localWrite_acc_block s b l n p bs bad hw).1
  · refine ⟨⟨_, _, localWrite_scratch_frame hw⟩, fun e => ?_⟩
    have h := (localWrite_scratch_block (s := s) (b := b) (l := l) (n := n) (bs := bs) (bad := bad) hw e).1
    rw [h]

/-- It writes exactly its bytes: to the scratchpad that its pointer reaches, -/
theorem localWrite_scratch_byte (e a : Nat) : rdByte ((localWrite s b l n p bs bad).block e).scratch a =
    if (windowOf p != .acc && scratchBlock s b p == e) && decide (ptrOff24 p ≤ a ∧ a < ptrOff24 p + bs.length) then
      bs.getD (a - ptrOff24 p) 0 else rdByte (s.block e).scratch a := by
  by_cases hw : windowOf p = .acc
  · rw [(localWrite_acc_block s b l n p bs bad hw).2.1]
    simp [hw]
  · rw [(localWrite_scratch_block hw e).2]
    by_cases he : e = scratchBlock s b p
    · rw [if_pos he, rdByte_wrBytes]
      simp [hw, he]
    · rw [if_neg he]
      simp [hw, Ne.symm he]

/-- or to the block's accumulator rows. -/
theorem localWrite_acc_byte (a : Nat) : accByte ((localWrite s b l n p bs bad).block b) a =
    if (windowOf p == .acc) && decide (ptrOff24 p ≤ a ∧ a < ptrOff24 p + bs.length) then
      bs.getD (a - ptrOff24 p) 0 else accByte (s.block b) a := by
  by_cases hw : windowOf p = .acc
  · have hb : ∀ x y : Block, x.acc = y.acc → accByte x a = accByte y a := fun x y h => by simp only [accByte, h]
    rw [hb _ _ (localWrite_acc_block s b l n p bs bad hw).2.2.2, accByte_accWrite]
    simp [hw]
  · have h := (localWrite_scratch_block (s := s) (b := b) (l := l) (n := n) (bs := bs) (bad := bad) hw b).1
    rw [h]
    simp [hw, accByte]

theorem localWrite_acc_ne {e : Nat} (he : e ≠ b) : ((localWrite s b l n p bs bad).block e).acc = (s.block e).acc := by
  by_cases hw : windowOf p = .acc
  · exact (localWrite_acc_block s b l n p bs bad hw).2.2.1 e he
  · have h := (localWrite_scratch_block (s := s) (b := b) (l := l) (n := n) (bs := bs) (bad := bad) hw e).1
    rw [h]

end
end Sys2Proof.Machine

/-! The statement about loads and stores of the local windows (R120, R121, R122, R126). -/
namespace Sys2Proof.Claim
open Sys2Proof Sys2Proof.Machine

/-! ## The accesses of an instruction, all to local windows -/

/-- The access that a load of lane `l` makes of `p`, and that of a store. -/
def loadAccess (f : Fields) (s : State) (p : Dword) : LocalOp :=
  { id := s.seq, kind := .load, ptr := p, t := f.t, d := f.d.toNat, acquire := f.ord == 1, pc := s.cur.pc }
def storeAccess (f : Fields) (s : State) (l : Nat) (p : Dword) : LocalOp :=
  { id := s.seq, kind := .st, ptr := p, t := f.t, d := 0, bytes := srcBytes (s.src l) f.t f.sb.toNat,
    bad := regsPoisoned s.curBlock l f.sb.toNat f.t.regs, pc := s.cur.pc }

section
variable {f : Fields} {s : State} {ptr : Nat → Dword}

theorem local_of_accesses {short : Bool} {r : Right} (hp : Reaches f s short r LocalWin ptr) {a : Nat × Dword}
    (ha : a ∈ accesses f s ptr) : isRecordWin a.2 = false := by
  obtain ⟨l, hl, rfl⟩ := List.mem_map.mp ha
  exact (hp l hl).2

theorem ldAt_local (hp : Reaches f s false .rd LocalWin ptr) (hpres : AllPresent f s ptr) :
    ldAt f s = watch ((accesses f s ptr).foldl (fun x a => localAccess x a.1 (loadAccess f x a.2)) s) (accesses f s ptr)
      (f.t.bits / 8) true false := by
  have hr : sortLanes (activeLanes f s) (fun l => effective f s l false .rd (f.t.bits / 8) true) = (accesses f s ptr, []) :=
    sortLanes_ok (fun l hl => (hp l hl).1)
  have hloc : (accesses f s ptr).filter (fun a => !isRecordWin a.2) = accesses f s ptr :=
    List.filter_eq_self.mpr (fun a ha => by rw [local_of_accesses hp ha]; rfl)
  unfold ldAt
  dsimp only
  rw [hr]
  dsimp only
  rw [hloc, flatMap_absent hpres, List.isEmpty_nil, raiseHere_nil]
  refine congrArg (fun u => watch u _ _ _ _) (List.foldl_ext _ _ _ (fun x a ha => ?_))
  rw [if_neg (by rw [local_of_accesses hp ha]; exact Bool.false_ne_true)]
  rfl

theorem entriesNeeded_nil (c : Core) (ctx : Nat) (rel : Bool) : entriesNeeded c ctx rel [] = 0 := by
  unfold entriesNeeded
  cases rel <;> rfl

theorem stAt_local (hp : Reaches f s false .wr LocalWin ptr) (hrel : f.ord = 1 → Released f s)
    (hroom : (s.core s.cur.pier).record.length ≤ 512) :
    stAt f s = watch ((accesses f s ptr).foldl (fun x a => localAccess x a.1 (storeAccess f x a.1 a.2)) s) (accesses f s ptr)
      (f.t.bits / 8) false true := by
  have hr : sortLanes (activeLanes f s) (fun l => effective f s l false .wr (f.t.bits / 8) true) = (accesses f s ptr, []) :=
    sortLanes_ok (fun l hl => (hp l hl).1)
  have hloc : (accesses f s ptr).filter (fun a => !isRecordWin a.2) = accesses f s ptr :=
    List.filter_eq_self.mpr (fun a ha => by rw [local_of_accesses hp ha]; rfl)
  have hrec : (accesses f s ptr).filter (fun a => isRecordWin a.2) = [] :=
    List.filter_eq_nil_iff.mpr (fun a ha => by rw [local_of_accesses hp ha]; exact Bool.false_ne_true)
  have hun : (if f.ord = 1 then unreleased s (activeLanes f s) else []) = [] := by
    split
    · next h => exact unreleased_nil (hrel h)
    · rfl
  have hfits : ¬ (s.core s.cur.pier).record.length + 0 > recordSize := Nat.not_lt_of_le hroom
  unfold stAt
  dsimp only
  rw [hr]
  dsimp only
  rw [hloc, hrec, map_fst_accesses, hun, List.isEmpty_nil, List.map_nil, entriesNeeded_nil, if_neg hfits, raiseHere_nil]
  refine congrArg (fun u => watch u _ _ _ _) (List.foldl_ext _ _ _ (fun x a ha => ?_))
  rw [if_neg (by rw [local_of_accesses hp ha]; exact Bool.false_ne_true)]
  rfl

/-! ## Loads -/

/-- The result of a load of lane `l`. -/
def loaded (f : Fields) (s : State) (p : Dword) (l : Nat) : LRes :=
  { id := 0, blk := s.cur.blk, lane := l, regs := regPairs f.d.toNat (wordsOf f.t.regs
      (extT f.t (leNat (localRead s s.cur.blk p (f.t.bits / 8)).1))) }

/-- Of the state only results without an acquire may have come to stand, and the order number differs. -/
def ResultsFrom (s y : State) : Prop :=
  ∃ rs n, y = { s with lres := s.lres ++ rs, seq := n } ∧ ∀ r ∈ rs, r.acq = none

theorem ResultsFrom.laneKept {y : State} (h : ResultsFrom s y) (b l : Nat) : LaneKept b l s y := by
  obtain ⟨rs, n, rfl, hr⟩ := h
  exact ⟨rfl, rfl, ⟨rfl, rfl⟩, ⟨[], by simp⟩, ⟨rs, rfl, hr⟩, rfl, rfl⟩

theorem localLoad_clean {y : State} {c b l : Nat} {o : LocalOp} (h : (localRead y b o.ptr (o.t.bits / 8)).2 = false) :
    localLoad y c b l o = localAcquire (pushL y
      { id := 0, blk := b, lane := l, regs := regPairs o.d (resT o.t (leNat (localRead y b o.ptr (o.t.bits / 8)).1)) }) c b l o := by
  unfold localLoad
  dsimp only
  rw [h, if_neg Bool.false_ne_true, if_neg Bool.false_ne_true]

/-- A load of a lane that nothing holds back reads its bytes, whatever results have come to stand. -/
theorem localAccess_load (hn : NotHeld f s ptr false) {l : Nat} (hl : l ∈ activeLanes f s) {y : State} (hy : ResultsFrom s y)
    (hclean : (localRead s s.cur.blk (ptr l) (f.t.bits / 8)).2 = false) :
    localAccess y l (loadAccess f y (ptr l)) =
      localAcquire (pushL y (loaded f s (ptr l) l)) s.cur.pier s.cur.blk l (loadAccess f y (ptr l)) := by
  have hheld := holdsLocal_of_notHeld (o := loadAccess f y (ptr l)) hn hl (hy.laneKept s.cur.blk l) rfl (fun _ => rfl)
  obtain ⟨rs, n, rfl, -⟩ := hy
  refine (if_neg (by rw [hheld]; exact Bool.false_ne_true)).trans (localLoad_clean ?_)
  exact hclean

/-- The loads of the lanes leave their results. -/
theorem foldl_loads (h0 : f.ord = 0) (hn : NotHeld f s ptr false)
    (hclean : ∀ l ∈ activeLanes f s, (localRead s s.cur.blk (ptr l) (f.t.bits / 8)).2 = false) :
    (accesses f s ptr).foldl (fun x a => localAccess x a.1 (loadAccess f x a.2)) s =
      (activeLanes f s).foldl (fun x l => pushL x (loaded f s (ptr l) l)) s := by
  rw [accesses, List.foldl_map]
  refine (foldl_congr_rest (I := fun rest y => (∀ l ∈ rest, l ∈ activeLanes f s) ∧ ResultsFrom s y) (fun l r y hI => ?_)
    ⟨fun _ h => h, [], s.seq, by simp⟩).1
  obtain ⟨hin, hy⟩ := hI
  have hl := hin l List.mem_cons_self
  refine ⟨?_, fun k hk => hin k (List.mem_cons_of_mem l hk), ?_⟩
  · rw [localAccess_load hn hl hy (hclean l hl), localAcquire, if_neg]
    simp [loadAccess, h0]
  · obtain ⟨rs, n, rfl, hr⟩ := hy
    refine ⟨rs ++ [{ loaded f s (ptr l) l with id := n }], n + 1, by simp [pushL, State.tick], fun r hr' => ?_⟩
    rcases List.mem_append.mp hr' with h | h
    · exact hr r h
    · rw [List.mem_singleton.mp h]; rfl

/-! ## Stores -/

/-- A store of a lane that nothing holds back writes its bytes. -/
theorem localAccess_store (hn : NotHeld f s ptr true) {l : Nat} (hl : l ∈ activeLanes f s) {y : State}
    (hy : LocalFrom s y) : localAccess y l (storeAccess f y l (ptr l)) =
      localWrite y s.cur.blk l y.seq (ptr l) (storeBytes f s l) (regsPoisoned y.curBlock l f.sb.toNat f.t.regs) := by
  have hkept := hy.laneKept s.cur.blk l
  have hheld := holdsLocal_of_notHeld (o := storeAccess f y l (ptr l)) hn hl hkept rfl (by simp)
  have hbytes : srcBytes (y.src l) f.t f.sb.toNat = storeBytes f s l := by rw [hkept.src]; rfl
  unfold localAccess
  rw [hkept.cur, if_neg (by rw [hheld]; exact Bool.false_ne_true), ← hbytes]
  rfl

/-- What the store of lane `l` leaves at place `a` of what `reach` says that it reaches, after `r`: a step of `storedByte`. -/
def storedBy (f : Fields) (s : State) (ptr : Nat → Dword) (reach : Nat → Bool) (a : Nat) (r : Option Byte) (l : Nat) : Option Byte :=
  if reach l && decide (ptrOff24 (ptr l) ≤ a ∧ a < ptrOff24 (ptr l) + (storeBytes f s l).length) then
    some ((storeBytes f s l).getD (a - ptrOff24 (ptr l)) 0) else r

theorem storedBy_getD (reach : Nat → Bool) (a : Nat) (r : Option Byte) (l : Nat) (d : Byte) :
    (storedBy f s ptr reach a r l).getD d = (storedBy f s ptr reach a none l).getD (r.getD d) := by
  unfold storedBy
  split <;> rfl

/-- The byte that `byte` reads of a state after stores of lanes is that of the last lane that stores to it. -/
theorem foldl_stored {g : State → Nat → State} {byte : State → Byte} {reach : Nat → Bool} {a : Nat} {d : Byte} :
    ∀ {ls : List Nat} {y : State} {r : Option Byte}, LocalFrom s y → byte y = r.getD d →
    (∀ l ∈ ls, ∀ z, LocalFrom s z → LocalFrom s (g z l) ∧ byte (g z l) = (storedBy f s ptr reach a none l).getD (byte z)) →
    byte (ls.foldl g y) = (ls.foldl (storedBy f s ptr reach a) r).getD d
  | [], _, _, _, hb, _ => hb
  | l :: ls, y, r, hy, hb, hg => by
    obtain ⟨hy', hb'⟩ := hg l List.mem_cons_self y hy
    refine foldl_stored (y := g y l) (r := storedBy f s ptr reach a r l) hy' ?_ (fun k hk => hg k (List.mem_cons_of_mem l hk))
    rw [hb', hb, ← storedBy_getD]

/-- The lane's store writes exactly its bytes. -/
theorem localWrite_storedBy {y : State} (hy : LocalFrom s y) (l : Nat) (n : Nat) (bad : Bool) :
    let z := localWrite y s.cur.blk l n (ptr l) (storeBytes f s l) bad
    LocalFrom s z ∧
    (∀ e a, rdByte (z.block e).scratch a = (storedBy f s ptr (fun l => windowOf (ptr l) != .acc &&
      scratchBlock s s.cur.blk (ptr l) == e) a none l).getD (rdByte (y.block e).scratch a)) ∧
    (∀ a, accByte (z.block s.cur.blk) a =
      (storedBy f s ptr (fun l => windowOf (ptr l) == .acc) a none l).getD (accByte (y.block s.cur.blk) a)) ∧
    ∀ e, e ≠ s.cur.blk → (z.block e).acc = (y.block e).acc := by
  refine ⟨hy.trans (localWrite_from ..), fun e a => ?_, fun a => ?_, fun e he => localWrite_acc_ne _ _ _ _ _ _ _ he⟩
  · rw [localWrite_scratch_byte, hy.scratchBlock, storedBy]
    split <;> rfl
  · rw [localWrite_acc_byte, storedBy]
    split <;> rfl

/-- The stores of the lanes write their bytes, lane after lane. -/
theorem foldl_stores (hn : NotHeld f s ptr true) :
    let u := (accesses f s ptr).foldl (fun x a => localAccess x a.1 (storeAccess f x a.1 a.2)) s
    LocalFrom s u ∧
    (∀ e a, rdByte (u.block e).scratch a = (storedByte f s ptr (fun l => windowOf (ptr l) != .acc &&
      scratchBlock s s.cur.blk (ptr l) == e) a).getD (rdByte (s.block e).scratch a)) ∧
    (∀ a, accByte (u.block s.cur.blk) a =
      (storedByte f s ptr (fun l => windowOf (ptr l) == .acc) a).getD (accByte (s.block s.cur.blk) a)) ∧
    ∀ e, e ≠ s.cur.blk → (u.block e).acc = (s.block e).acc := by
  intro u
  have hu : u = (activeLanes f s).foldl (fun x l => localAccess x l (storeAccess f x l (ptr l))) s := by
    simp only [u, accesses, List.foldl_map]
  have hstep : ∀ l ∈ activeLanes f s, ∀ y, LocalFrom s y → ∃ n bad, localAccess y l (storeAccess f y l (ptr l)) =
      localWrite y s.cur.blk l n (ptr l) (storeBytes f s l) bad := fun l hl y hy => ⟨_, _, localAccess_store hn hl hy⟩
  rw [hu]
  refine ⟨?_, fun e a => ?_, fun a => ?_, ?_⟩
  · refine List.foldlRecOn _ _ (.refl s) (fun y hy l hl => ?_)
    obtain ⟨n, bad, he⟩ := hstep l hl y hy
    rw [he]
    exact (localWrite_storedBy hy l n bad).1
  · refine foldl_stored (byte := fun y => rdByte (y.block e).scratch a) (.refl s) rfl (fun l hl y hy => ?_)
    obtain ⟨n, bad, he⟩ := hstep l hl y hy
    rw [he]
    obtain ⟨h1, h2, -⟩ := localWrite_storedBy (f := f) (ptr := ptr) hy l n bad
    exact ⟨h1, h2 e a⟩
  · refine foldl_stored (byte := fun y => accByte (y.block s.cur.blk) a) (.refl s) rfl (fun l hl y hy => ?_)
    obtain ⟨n, bad, he⟩ := hstep l hl y hy
    rw [he]
    obtain ⟨h1, -, h3, -⟩ := localWrite_storedBy (f := f) (ptr := ptr) hy l n bad
    exact ⟨h1, h3 a⟩
  · refine (List.foldlRecOn (motive := fun y => LocalFrom s y ∧ ∀ e, e ≠ s.cur.blk → (y.block e).acc = (s.block e).acc) _ _
      ⟨.refl s, fun _ _ => rfl⟩ (fun y hy l hl => ?_)).2
    obtain ⟨n, bad, he⟩ := hstep l hl y hy.1
    rw [he]
    obtain ⟨h1, -, -, h4⟩ := localWrite_storedBy (f := f) (ptr := ptr) hy.1 l n bad
    exact ⟨h1, fun e hne => (h4 e hne).trans (hy.2 e hne)⟩

end

end Sys2Proof.Claim

/-! The statement about loads and stores of the local windows: what a read of the object table leaves of them, accesses that are
held back, and the whole. -/
namespace Sys2Proof.Claim
open Sys2Proof Sys2Proof.Machine

section
variable {s t : State} (hr : TableReadFrom s t)
include hr

theorem localRead_table (b : Nat) (p : Dword) (n : Nat) : localRead t b p n = localRead s b p n := by
  obtain ⟨⟨_, _, _, _, rfl⟩, _⟩ := hr; rfl

theorem scratchBlock_table (b : Nat) (p : Dword) : scratchBlock t b p = scratchBlock s b p := by
  obtain ⟨⟨_, _, _, _, rfl⟩, _⟩ := hr; rfl

theorem noAcquire_table (b l q : Nat) : noAcquire t b l q = noAcquire s b l q := by
  obtain ⟨⟨_, _, _, _, rfl⟩, _⟩ := hr; rfl

theorem readsDone_table (b l q : Nat) : readsDone t b l q = readsDone s b l q := by
  obtain ⟨⟨_, _, _, _, rfl⟩, _⟩ := hr; rfl

theorem storedByte_table (f : Fields) (ptr : Nat → Dword) (reach : Nat → Bool) (a : Nat) :
    storedByte f t ptr reach a = storedByte f s ptr reach a := by
  have hbytes : storeBytes f t = storeBytes f s := funext fun l => by rw [storeBytes, hr.src]; rfl
  unfold storedByte
  rw [hbytes, hr.activeLanes]

theorem loaded_table (f : Fields) (p : Dword) (l : Nat) : loaded f t p l = loaded f s p l := by
  rw [loaded, localRead_table hr, hr.cur]; rfl

end

theorem localLoadsAll (f : Fields) (s : State) (ptr : Nat → Dword) (hw : modeWaits f s = false) (h0 : f.ord = 0)
    (hp : Reaches f (modeTouched f s) false .rd LocalWin ptr) (hn : NotHeld f (modeTouched f s) ptr false)
    (hpres : AllPresent f (modeTouched f s) ptr)
    (hclean : ∀ l ∈ activeLanes f s, (localRead s s.cur.blk (ptr l) (f.t.bits / 8)).2 = false) :
    ∃ u, exec (.ld f) s = .next (watch u (accesses f s ptr) (f.t.bits / 8) true false) ∧
      u = { modeTouched f s with lres := u.lres, seq := u.seq } ∧
      ∃ new : List LRes, u.lres = s.lres ++ new ∧ new.map (·.lane) = activeLanes f s ∧ ∀ r ∈ new, r.blk = s.cur.blk ∧
        r.regs = regPairs f.d.toNat (wordsOf f.t.regs
          (extT f.t (leNat (localRead s s.cur.blk (ptr r.lane) (f.t.bits / 8)).1))) := by
  have hr := modeTouched_from f s
  obtain ⟨hu, new, hnew, hlanes, hall⟩ := foldl_pushL_lanes (r := fun l => loaded f s (ptr l) l) (fun _ => rfl) (activeLanes f s)
    (modeTouched f s)
  refine ⟨_, congrArg Host.Outcome.next ((withMode_reads hw _).trans ?_), hu, new, hnew.trans (by rw [hr.lres]), hlanes,
    fun r hrm => ?_⟩
  · rw [ldAt_local hp hpres, foldl_loads h0 hn (fun l hl => by rw [localRead_table hr, hr.cur]; exact hclean l (hr.activeLanes f ▸ hl)),
      hr.accesses, hr.activeLanes]
    simp only [loaded_table hr]
  · obtain ⟨-, hre⟩ := hall r hrm
    rw [hre]
    exact ⟨rfl, rfl⟩

theorem localLoadAcquires (f : Fields) (s : State) (l : Nat) (p : Dword) (hact : activeLanes f s = [l])
    (hw : modeWaits f s = false) (h1 : f.ord = 1)
    (he : effective f (modeTouched f s) l false .rd (f.t.bits / 8) true = .ok p) (hloc : LocalWin p)
    (hn : NotHeld f (modeTouched f s) (fun _ => p) false) (hpres : AllPresent f (modeTouched f s) (fun _ => p))
    (hclean : (localRead s s.cur.blk p (f.t.bits / 8)).2 = false) :
    ∃ v r, exec (.ld f) s = .next (watch (acquireAt v s.cur.pier s.cur.blk l s.seq s.cur.pc) [(l, p)] (f.t.bits / 8) true
        false) ∧ v = { modeTouched f s with lres := s.lres ++ [r], seq := v.seq } ∧ r.blk = s.cur.blk ∧ r.lane = l ∧
      r.regs = regPairs f.d.toNat (wordsOf f.t.regs (extT f.t (leNat (localRead s s.cur.blk p (f.t.bits / 8)).1))) := by
  have hr := modeTouched_from f s
  have hact' : activeLanes f (modeTouched f s) = [l] := (hr.activeLanes f).trans hact
  have hacc : accesses f (modeTouched f s) (fun _ => p) = [(l, p)] := by rw [accesses, hact']; rfl
  have hp : Reaches f (modeTouched f s) false .rd LocalWin (fun _ => p) := by
    intro k hk
    rw [hact', List.mem_singleton] at hk
    exact hk ▸ ⟨he, hloc⟩
  refine ⟨pushL (modeTouched f s) (loaded f s p l), { loaded f s p l with id := (modeTouched f s).seq },
    congrArg Host.Outcome.next ((withMode_reads hw _).trans ?_), ?_, rfl, rfl, rfl⟩
  · have hlane : l ∈ activeLanes f (modeTouched f s) := hact' ▸ List.mem_singleton_self l
    rw [ldAt_local hp hpres, hacc, List.foldl_cons, List.foldl_nil,
      localAccess_load hn hlane ⟨[], (modeTouched f s).seq, by simp⟩ (by rw [localRead_table hr, hr.cur]; exact hclean),
      localAcquire, if_pos (by simp [loadAccess, h1]), loaded_table hr, hr.cur]
    simp only [loadAccess, hr.seq, hr.cur]
  · rw [← hr.lres]
    rfl

/-! ## Accesses that are held back -/

/-- An access that is held back stands in its lane's queue, and nothing else changes. -/
theorem localAccess_held {s t : State} (hr : TableReadFrom s t) {l : Nat} {o : LocalOp} (hh : holdsLocal t t.cur.blk l o = true) :
    let u := localAccess t l o
    u = { t with blocks := u.blocks, seq := u.seq } ∧ ∀ b n, u.lane b n = if b = s.cur.blk ∧ n = l then
      { s.lane b n with localOps := (s.lane b n).localOps ++ [o] } else s.lane b n := by
  have hu : localAccess t l o = t.tick.updCurLane l (fun y => { y with localOps := y.localOps ++ [o] }) := if_pos hh
  intro u
  have hu : u = _ := hu
  rw [hu]
  refine ⟨rfl, fun b n => ?_⟩
  have hb : (t.tick.updCurLane l (fun y => { y with localOps := y.localOps ++ [o] })).block b = if b = t.cur.blk then
      (t.block t.cur.blk).updLane l (fun y => { y with localOps := y.localOps ++ [o] }) else t.block b := tget_tput ..
  rw [State.lane_eq, hb, hr.cur]
  by_cases hbl : b = s.cur.blk
  · subst hbl
    rw [if_pos rfl, hr.block, Block.updLane_eq]
    by_cases hnl : n = l
    · subst hnl
      rw [if_pos ⟨rfl, rfl⟩, Block.lane_setLane]
      rfl
    · rw [if_neg (fun h => hnl h.2), Block.lane_setLane_ne _ _ hnl]
      rfl
  · rw [if_neg hbl, if_neg (fun h => hbl h.1), hr.block]
    rfl

theorem localAccessHeld (f : Fields) (s : State) (l : Nat) (p : Dword) (mk : Fields → Instr) (kind : MemKind) (r : Right)
    (hmk : (mk, kind, r) ∈ [(Instr.ld, MemKind.load, Right.rd), (.st, .st, .wr)]) (hact : activeLanes f s = [l])
    (hw : modeWaits f s = false) (he : effective f (modeTouched f s) l false r (f.t.bits / 8) true = .ok p) (hloc : LocalWin p)
    (hld : kind = .load → AllPresent f (modeTouched f s) (fun _ => p))
    (hst : kind = .st → (f.ord = 1 → Released f (modeTouched f s)) ∧ (s.core s.cur.pier).record.length ≤ 512)
    (hheld : (s.lane s.cur.blk l).localOps ≠ [] ∨ noAcquire s s.cur.blk l s.seq = false ∨
      (kind = .st ∧ readsDone s s.cur.blk l s.seq = false) ∨ (windowOf p = .acc ∧ s.curBlock.mq ≠ [])) :
    ∃ u o, exec (mk f) s = .next (watch u [(l, p)] (f.t.bits / 8) (kind == .load) (kind == .st)) ∧
      u = { modeTouched f s with blocks := u.blocks, seq := u.seq } ∧
      (∀ b n, u.lane b n = if b = s.cur.blk ∧ n = l then
        { s.lane b n with localOps := (s.lane b n).localOps ++ [o] } else s.lane b n) ∧
      o.id = s.seq ∧ o.kind = kind ∧ o.ptr = p ∧ o.t = f.t ∧ (kind = .load → o.d = f.d.toNat ∧ o.acquire = (f.ord == 1)) ∧
      (kind = .st → o.bytes = storeBytes f s l) := by
  have hr := modeTouched_from f s
  have hact' : activeLanes f (modeTouched f s) = [l] := (hr.activeLanes f).trans hact
  have hacc : accesses f (modeTouched f s) (fun _ => p) = [(l, p)] := by rw [accesses, hact']; rfl
  have hp : ∀ r, effective f (modeTouched f s) l false r (f.t.bits / 8) true = .ok p →
      Reaches f (modeTouched f s) false r LocalWin (fun _ => p) := by
    intro r he k hk
    rw [hact', List.mem_singleton] at hk
    exact hk ▸ ⟨he, hloc⟩
  have hholds : ∀ o : LocalOp, o.id = s.seq → o.kind = kind → o.ptr = p → holdsLocal (modeTouched f s) s.cur.blk l o = true := by
    intro o hid hkind hptr
    unfold holdsLocal
    rw [noAcquire_table hr, readsDone_table hr, State.lane_eq, hr.block, hid, hkind, hptr]
    rcases hheld with h | h | ⟨hk, h⟩ | ⟨hk, h⟩
    · have : ((s.block s.cur.blk).lane l).localOps ≠ [] := h
      simp [this]
    · simp [h]
    · simp [hk, h]
    · have : (s.block s.cur.blk).mq ≠ [] := h
      simp [hk, this]
  simp only [List.mem_cons, Prod.mk.injEq, List.not_mem_nil, or_false] at hmk
  rcases hmk with ⟨rfl, rfl, rfl⟩ | ⟨rfl, rfl, rfl⟩
  · have hh := hholds (loadAccess f (modeTouched f s) p) hr.seq rfl rfl
    obtain ⟨hu, hlanes⟩ := localAccess_held hr (o := loadAccess f (modeTouched f s) p) (hr.cur ▸ hh)
    refine ⟨_, _, congrArg Host.Outcome.next ((withMode_reads hw _).trans ?_), hu, hlanes, hr.seq, rfl, rfl, rfl, fun _ => ⟨rfl, rfl⟩,
      fun h => by cases h⟩
    rw [ldAt_local (hp _ he) (hld rfl), hacc, List.foldl_cons, List.foldl_nil]
    rfl
  · have hh := hholds (storeAccess f (modeTouched f s) l p) hr.seq rfl rfl
    obtain ⟨hu, hlanes⟩ := localAccess_held hr (o := storeAccess f (modeTouched f s) l p) (hr.cur ▸ hh)
    obtain ⟨hrel, hroom⟩ := hst rfl
    refine ⟨_, _, congrArg Host.Outcome.next ((withMode_reads hw _).trans ?_), hu, hlanes, hr.seq, rfl, rfl, rfl,
      fun h => (by cases h), fun _ => ?_⟩
    · rw [stAt_local (hp _ he) hrel (by rw [hr.core, hr.cur]; exact hroom), hacc, List.foldl_cons, List.foldl_nil]
      rfl
    · rw [storeAccess, hr.src]
      rfl

theorem localLoadReads : LocalLoadReads := ⟨localLoadsAll, localLoadAcquires, localAccessHeld⟩

theorem localStoreWrites : LocalStoreWrites := by
  intro f s ptr t hw hp hn hrel hroom
  have hr : TableReadFrom s t := modeTouched_from f s
  obtain ⟨hfrom, hscratch, hacc, hne⟩ := foldl_stores hn
  have he := stAt_local hp hrel (by rw [hr.core, hr.cur]; exact hroom)
  generalize (accesses f t ptr).foldl (fun x a => localAccess x a.1 (storeAccess f x a.1 a.2)) t = u at *
  obtain ⟨⟨bl, n, hu⟩, hblk⟩ := hfrom
  rw [hr.accesses] at he
  rw [hr.cur] at hscratch hacc hne
  refine ⟨u, congrArg Host.Outcome.next ((withMode_reads hw _).trans he), by rw [hu], fun b => ?_, fun b a => ?_, fun a => ?_,
    fun b hb => ?_⟩
  · rw [hblk, hr.block]
  · rw [hscratch, storedByte_table hr, hr.block]
    simp only [scratchBlock_table hr]
  · rw [hacc, storedByte_table hr, hr.block]
    rfl
  · rw [hne b hb, hr.block]

/-- Settles O16: an access of a local window that nothing holds back is performed in its lane's turn, whatever the lanes before it
left, and else it stands in its lane's queue. -/
theorem localAccesses : Obligations.LocalAccesses := ⟨localLoadReads, localStoreWrites⟩

end Sys2Proof.Claim

/-! A store enters the store record (R121, R228). -/
namespace Sys2Proof.Machine
open Sys2Proof Sys2Proof.Claim

/-- Entry `e'` is what `e` has become: it holds the stores that `e` held, and no fewer. -/
def Grown (e e' : Entry) : Prop :=
  e'.id = e.id ∧ e'.ctx = e.ctx ∧ e'.chunk = e.chunk ∧ (e.rel = true → e'.rel = true) ∧ e.stores <+: e'.stores

theorem Grown.refl (e : Entry) : Grown e e := ⟨rfl, rfl, rfl, id, List.prefix_refl _⟩

theorem Grown.trans {e e' e'' : Entry} (h : Grown e e') (h' : Grown e' e'') : Grown e e'' := by
  obtain ⟨h1, h2, h3, h4, h5⟩ := h
  obtain ⟨k1, k2, k3, k4, k5⟩ := h'
  exact ⟨k1.trans h1, k2.trans h2, k3.trans h3, k4 ∘ h4, h5.trans k5⟩

/-- A record holds all that another held. -/
def RecordGrown (r r' : List Entry) : Prop := ∀ e ∈ r, ∃ e' ∈ r', Grown e e'

theorem RecordGrown.refl (r : List Entry) : RecordGrown r r := fun e he => ⟨e, he, .refl e⟩

theorem RecordGrown.trans {r r' r'' : List Entry} (h : RecordGrown r r') (h' : RecordGrown r' r'') : RecordGrown r r'' := by
  intro e he
  obtain ⟨e', he', hg⟩ := h e he
  obtain ⟨e'', he'', hg'⟩ := h' e' he'
  exact ⟨e'', he'', hg.trans hg'⟩

theorem RecordGrown.map {r : List Entry} {g : Entry → Entry} (hg : ∀ e, Grown e (g e)) (tail : List Entry) :
    RecordGrown r (r.map g ++ tail) :=
  fun e he => ⟨g e, List.mem_append_left _ (List.mem_map_of_mem he), hg e⟩

/-- A record holds contribution `ct` to a chunk of a context, in a release entry where `rel` says so. -/
def HoldsStore (r : List Entry) (ctx : Nat) (chunk : Dword) (rel : Bool) (ct : Contribution → Prop) : Prop :=
  ∃ e ∈ r, e.ctx = ctx ∧ e.chunk = chunk ∧ (rel = true → e.rel = true) ∧ ∃ x ∈ e.stores, ct x

theorem HoldsStore.grown {r r' : List Entry} {ctx : Nat} {chunk : Dword} {rel : Bool} {ct : Contribution → Prop}
    (h : HoldsStore r ctx chunk rel ct) (hg : RecordGrown r r') : HoldsStore r' ctx chunk rel ct := by
  obtain ⟨e, he, hctx, hchunk, hrel, x, hx, hct⟩ := h
  obtain ⟨e', he', -, hctx', hchunk', hrel', hpre⟩ := hg e he
  exact ⟨e', he', hctx'.trans hctx, hchunk'.trans hchunk, fun hr => hrel' (hrel hr), x, hpre.subset hx, hct⟩

theorem mergeEntry_some {c : Core} {ctx lane fib : Nat} {chunk : Dword} {rel : Bool} {e : Entry}
    (h : mergeEntry c ctx lane fib chunk rel = some e) : e ∈ c.record ∧ e.ctx = ctx ∧ e.chunk = chunk := by
  obtain ⟨hf, -⟩ := Option.filter_eq_some_iff.mp h
  have hp := List.find?_some hf
  simp only [Bool.and_eq_true, beq_iff_eq] at hp
  exact ⟨List.mem_of_find?_eq_some hf, hp.1.1, hp.1.2⟩

/-- Of the state the blocks, the cores and the order number may differ; of the blocks the counters that number the entries of
their contexts alone, and of the cores but for `core` nothing. -/
def AgesFrom (core : Nat) (s u : State) : Prop :=
  (∃ bl cs n, u = { s with blocks := bl, cores := cs, seq := n }) ∧
  (∀ b, u.block b = { s.block b with age := (u.block b).age }) ∧ ∀ c, c ≠ core → u.core c = s.core c

theorem AgesFrom.refl (core : Nat) (s : State) : AgesFrom core s s := ⟨⟨_, _, _, rfl⟩, fun _ => rfl, fun _ _ => rfl⟩

theorem AgesFrom.trans {core : Nat} {s u v : State} (h : AgesFrom core s u) (h' : AgesFrom core u v) : AgesFrom core s v := by
  obtain ⟨⟨_, _, _, rfl⟩, hb, hc⟩ := h
  obtain ⟨⟨_, _, _, rfl⟩, hb', hc'⟩ := h'
  exact ⟨⟨_, _, _, rfl⟩, fun b => by rw [hb' b, hb b], fun c hne => (hc' c hne).trans (hc c hne)⟩

theorem AgesFrom.updCore (s : State) (core : Nat) (g : Core → Core) : AgesFrom core s (s.updCore core g) :=
  ⟨⟨_, _, _, rfl⟩, fun _ => rfl, fun _ hc => by rw [core_updCore, if_neg hc]⟩

/-- A counter of entries moves on: the record and the words of every core stand. -/
theorem ageOn_from (s : State) (core ctx : Nat) : AgesFrom core s (ageOn s core ctx) ∧
    ((ageOn s core ctx).core core).record = (s.core core).record ∧ ((ageOn s core ctx).core core).l1 = (s.core core).l1 ∧
      (ageOn s core ctx).seq = s.seq := by
  unfold ageOn
  split
  · refine ⟨.updCore .., ?_, ?_, rfl⟩
    · rw [core_updCore, if_pos rfl]
    · rw [core_updCore, if_pos rfl]
  · refine ⟨⟨⟨_, s.cores, s.seq, rfl⟩, fun b => ?_, fun _ _ => rfl⟩, rfl, rfl, rfl⟩
    have hb : (s.updBlock ctx (fun x => { x with age := x.age + 1 })).block b = if b = ctx then
        { s.block ctx with age := (s.block ctx).age + 1 } else s.block b := tget_tput ..
    rw [hb]
    split
    · next h => subst h; rfl
    · rfl

/-- What a store puts into its entry. -/
def IsStore (s : State) (lane : Nat) (p : Dword) (bs : List Byte) (pol : Option Nat) (x : Contribution) : Prop :=
  x.lane = lane ∧ x.seq = s.seq ∧ x.be = beMask (p.toNat % 64) bs.length ∧ x.pol = pol ∧
    x.data = BitVec.ofNat 512 (leNat bs * 2 ^ (8 * (p.toNat % 64)))

def storeOf (s : State) (ctx lane : Nat) (p : Dword) (bs : List Byte) (poison : Bool) (pol : Option Nat) : Contribution :=
  { lane := lane, fib := fibreOf s ctx lane, seq := s.seq, be := beMask (p.toNat % 64) bs.length,
    data := BitVec.ofNat 512 (leNat bs * 2 ^ (8 * (p.toNat % 64))), poison := poison, pol := pol }

theorem isStore_storeOf (s : State) (ctx lane : Nat) (p : Dword) (bs : List Byte) (poison : Bool) (pol : Option Nat) :
    IsStore s lane p bs pol (storeOf s ctx lane p bs poison pol) := ⟨rfl, rfl, rfl, rfl, rfl⟩

/-- A core's record after a store: its entry, that it merges into or that is new, holds it, and all else that stood stands. -/
def StoreTaken (c c' : Core) (ctx : Nat) (p : Dword) (rel : Bool) (ct : Contribution → Prop) : Prop :=
  c'.l1 = c.l1 ∧ RecordGrown c.record c'.record ∧ HoldsStore c'.record ctx (chunkOf p) rel ct

theorem storeTaken_merged {c : Core} {ctx : Nat} {p : Dword} {rel : Bool} {ct : Contribution → Prop} {e : Entry}
    (he : e ∈ c.record) (hctx : e.ctx = ctx) (hchunk : e.chunk = chunkOf p) {g : Entry → Entry} (hg : ∀ x, Grown x (g x))
    (hrel : rel = true → (g e).rel = true) (hct : ∃ x ∈ (g e).stores, ct x) :
    StoreTaken c { c with record := c.record.map g } ctx p rel ct := by
  have hgr : RecordGrown c.record (c.record.map g) := by simpa using RecordGrown.map hg []
  obtain ⟨-, hctx', hchunk', -⟩ := hg e
  exact ⟨rfl, hgr, g e, List.mem_map_of_mem he, hctx'.trans hctx, hchunk'.trans hchunk, hrel, hct⟩

theorem storeTaken_new {c : Core} {ctx : Nat} {p : Dword} {rel : Bool} {ct : Contribution → Prop} {e : Entry}
    {g : Entry → Entry} (hg : ∀ x, Grown x (g x)) (hctx : e.ctx = ctx) (hchunk : e.chunk = chunkOf p)
    (hrel : rel = true → e.rel = true) (hct : ∃ x ∈ e.stores, ct x) :
    StoreTaken c { c with record := c.record.map g ++ [e] } ctx p rel ct :=
  ⟨rfl, .map hg _, e, List.mem_append_right _ (List.mem_singleton_self e), hctx, hchunk, hrel, hct⟩

theorem storeRecord_enters (s : State) (core ctx tag lane : Nat) (p : Dword) (bs : List Byte) (rel poison : Bool)
    (pol : Option Nat) :
    let u := storeRecord s core ctx tag lane p bs rel poison pol
    AgesFrom core s u ∧ s.seq < u.seq ∧ (u.core core).l1 = (s.core core).l1 ∧
      RecordGrown (s.core core).record (u.core core).record ∧
      HoldsStore (u.core core).record ctx (chunkOf p) rel (IsStore s lane p bs pol) := by
  intro u
  obtain ⟨v, g, hu, hv, hrec, hl1, hseq, hg⟩ : ∃ (v : State) (g : Core → Core), u = v.updCore core g ∧ AgesFrom core s v ∧
      (v.core core).record = (s.core core).record ∧ (v.core core).l1 = (s.core core).l1 ∧ s.seq < v.seq ∧
      ∀ c, StoreTaken c (g c) ctx p rel (IsStore s lane p bs pol) := by
    have htick : AgesFrom core s s.tick := ⟨⟨_, _, _, rfl⟩, fun _ => rfl, fun _ _ => rfl⟩
    obtain ⟨hage, hrec, hl1, hseq⟩ := ageOn_from s.tick core ctx
    have hbase : ∀ new : Bool, let v := if new = true then ageOn s.tick core ctx else s.tick
        AgesFrom core s v ∧ (v.core core).record = (s.core core).record ∧ (v.core core).l1 = (s.core core).l1 ∧ s.seq < v.seq := by
      intro new
      cases new with
      | true => exact ⟨htick.trans hage, hrec, hl1, hseq ▸ Nat.lt_succ_self _⟩
      | false => exact ⟨htick, rfl, rfl, Nat.lt_succ_self _⟩
    obtain ⟨h1, h2, h3, h4⟩ := hbase (mergeEntry (s.core core) ctx lane (fibreOf s ctx lane) (chunkOf p) rel).isNone
    refine ⟨_, _, by unfold u storeRecord; rfl, h1, h2, h3, h4, fun c => ?_⟩
    · dsimp only
      split
      · next e hm =>
        obtain ⟨he, hctx, hchunk⟩ := mergeEntry_some hm
        refine storeTaken_merged he hctx hchunk (fun x => ?_) (fun hr => ?_) ?_
        · split
          · split
            · exact ⟨rfl, rfl, rfl, fun _ => rfl, List.prefix_append _ _⟩
            · exact ⟨rfl, rfl, rfl, id, List.prefix_append _ _⟩
          · exact .refl x
        · rw [if_pos (beq_self_eq_true _), if_pos hr]
        · rw [if_pos (beq_self_eq_true _)]
          refine ⟨storeOf s ctx lane p bs poison pol, ?_, isStore_storeOf ..⟩
          split <;> exact List.mem_append_right _ (List.mem_singleton_self _)
      · refine storeTaken_new (fun x => ?_) ?_ ?_ (fun hr => ?_) ?_
        · split
          · exact ⟨rfl, rfl, rfl, id, List.prefix_refl _⟩
          · exact .refl x
        · split <;> rfl
        · split <;> rfl
        · rw [if_pos hr]
        · refine ⟨storeOf s ctx lane p bs poison pol, ?_, isStore_storeOf ..⟩
          split <;> exact List.mem_singleton_self _
  have hcore : u.core core = g (v.core core) := by rw [hu, core_updCore, if_pos rfl]
  obtain ⟨h1, h2, h3⟩ := hg (v.core core)
  rw [hcore]
  refine ⟨hu ▸ hv.trans (.updCore ..), ?_, h1.trans hl1, hrec ▸ h2, h3⟩
  rw [hu]
  exact hseq
end Sys2Proof.Machine

/-! The statement about stores that enter the store record (R121, R228). -/
namespace Sys2Proof.Claim
open Sys2Proof Sys2Proof.Machine

/-- After a fold each element of the list has left what it leaves, where no later step undoes it. -/
theorem foldl_each {α σ : Type} {I : σ → Prop} {P : α → σ → Prop} {g : σ → α → σ} : ∀ {as : List α} {x : σ}, I x →
    (∀ a ∈ as, ∀ y, I y → I (g y a) ∧ P a (g y a) ∧ ∀ b, P b y → P b (g y a)) →
    I (as.foldl g x) ∧ (∀ a ∈ as, P a (as.foldl g x)) ∧ ∀ b, P b x → P b (as.foldl g x)
  | [], x, hx, _ => ⟨hx, fun _ h => (by cases h), fun _ h => h⟩
  | a :: as, x, hx, hg => by
    obtain ⟨hI, hP, hkeep⟩ := hg a List.mem_cons_self x hx
    obtain ⟨hI', hP', hkeep'⟩ := foldl_each hI (fun b hb => hg b (List.mem_cons_of_mem a hb))
    refine ⟨hI', fun b hb => ?_, fun b hb => hkeep' b (hkeep b hb)⟩
    rcases List.mem_cons.mp hb with rfl | hb
    · exact hkeep' b hP
    · exact hP' b hb

section
variable {f : Fields} {s : State} {ptr : Nat → Dword}

theorem stAt_record (hp : Reaches f s false .wr RecordWin ptr)
    (hroom : (s.core s.cur.pier).record.length + entriesNeeded (s.core s.cur.pier) s.cur.blk (f.ord == 1)
      ((activeLanes f s).map (fun l => (l, fibreOf s s.cur.blk l, chunkOf (place s l (ptr l))))) ≤ 512) :
    stAt f s = watch ((activeLanes f s).foldl (fun x l => storeRecord x x.cur.pier x.cur.blk x.curTag l
        (recordPtr x x.cur.blk l (ptr l)) (srcBytes (x.src l) f.t f.sb.toNat) (f.ord == 1)
        (regsPoisoned x.curBlock l f.sb.toNat f.t.regs) (accessPol f s true l)) s) (accesses f s ptr)
      (f.t.bits / 8) false true := by
  have hr : sortLanes (activeLanes f s) (fun l => effective f s l false .wr (f.t.bits / 8) true) = (accesses f s ptr, []) :=
    sortLanes_ok (fun l hl => (hp l hl).1)
  have hwin : ∀ a ∈ accesses f s ptr, isRecordWin a.2 = true := by
    intro a ha
    obtain ⟨l, hl, rfl⟩ := List.mem_map.mp ha
    exact (hp l hl).2
  have hloc : (accesses f s ptr).filter (fun a => !isRecordWin a.2) = [] :=
    List.filter_eq_nil_iff.mpr (fun a ha => by simp [hwin a ha])
  have hrec : (accesses f s ptr).filter (fun a => isRecordWin a.2) = accesses f s ptr := List.filter_eq_self.mpr hwin
  have hun : (if f.ord = 1 then unreleased s [] else []) = [] := ite_self _
  have hneed : (accesses f s ptr).map (fun a => (a.1, fibreOf s s.cur.blk a.1, chunkOf (recordPtr s s.cur.blk a.1 a.2))) =
      (activeLanes f s).map (fun l => (l, fibreOf s s.cur.blk l, chunkOf (place s l (ptr l)))) := by
    rw [accesses, List.map_map]
    rfl
  have hfits := Nat.not_lt_of_le hroom
  unfold stAt
  dsimp only
  rw [hr]
  dsimp only
  rw [hloc, hrec, List.map_nil, hun, List.isEmpty_nil, hneed, if_neg (by decide), if_neg (show ¬ _ > recordSize from hfits),
    raiseHere_nil]
  refine congrArg (fun u => watch u _ _ _ _) ((List.foldl_ext _ _ _ (fun x a ha => if_pos (hwin a ha))).trans ?_)
  rw [accesses, List.foldl_map]

/-- What stores to the record leave of a state: see `AgesFrom`; the core's words stand, and its record is no less. -/
def StoredFrom (s y : State) : Prop :=
  AgesFrom s.cur.pier s y ∧ s.seq ≤ y.seq ∧ (y.core s.cur.pier).l1 = (s.core s.cur.pier).l1 ∧
    RecordGrown (s.core s.cur.pier).record (y.core s.cur.pier).record

theorem laneKept_ages {core : Nat} {y : State} (h : AgesFrom core s y) (b l : Nat) : LaneKept b l s y := by
  obtain ⟨⟨_, _, _, rfl⟩, hb, -⟩ := h
  refine ⟨rfl, ?_, ?_, ⟨[], by simp⟩, ⟨[], by simp⟩, rfl, rfl⟩
  · rw [State.lane_eq, hb b]
    rfl
  · rw [hb b]
    exact ⟨rfl, rfl⟩

theorem recordPtr_ages {core : Nat} {y : State} (h : AgesFrom core s y) (b l : Nat) (p : Dword) :
    recordPtr y b l p = recordPtr s b l p := by
  obtain ⟨⟨_, _, _, rfl⟩, hb, -⟩ := h
  unfold recordPtr
  rw [hb b]
  rfl

/-- The store of lane `l` stands in the record. -/
def LaneStored (f : Fields) (s : State) (ptr : Nat → Dword) (l : Nat) (y : State) : Prop :=
  HoldsStore (y.core s.cur.pier).record s.cur.blk (chunkOf (place s l (ptr l))) (f.ord == 1) (fun x => x.lane = l ∧ s.seq ≤ x.seq ∧
    x.be = beMask ((place s l (ptr l)).toNat % 64) (f.t.bits / 8) ∧ x.pol = accessPol f s true l ∧
    x.data = BitVec.ofNat 512 (leNat (storeBytes f s l) * 2 ^ (8 * ((place s l (ptr l)).toNat % 64))))

theorem storeRecord_lane {y : State} (hy : StoredFrom s y) (l : Nat) (bad : Bool) :
    let u := storeRecord y y.cur.pier y.cur.blk y.curTag l (recordPtr y y.cur.blk l (ptr l)) (srcBytes (y.src l) f.t f.sb.toNat)
      (f.ord == 1) bad (accessPol f s true l)
    StoredFrom s u ∧ LaneStored f s ptr l u ∧ ∀ k, LaneStored f s ptr k y → LaneStored f s ptr k u := by
  obtain ⟨hages, hseq, hl1, hgrown⟩ := hy
  have hkept := laneKept_ages hages s.cur.blk l
  have hbytes : srcBytes (y.src l) f.t f.sb.toNat = storeBytes f s l := by rw [hkept.src]; rfl
  rw [hkept.cur, recordPtr_ages hages, hbytes]
  obtain ⟨h1, h2, h3, h4, e, he, hctx, hchunk, hrel, x, hx, hlane, hxseq, hbe, hpol, hdata⟩ := storeRecord_enters y s.cur.pier
    s.cur.blk y.curTag l (recordPtr s s.cur.blk l (ptr l)) (storeBytes f s l) (f.ord == 1) bad (accessPol f s true l)
  refine ⟨⟨hages.trans h1, hseq.trans h2.le, h3.trans hl1, hgrown.trans h4⟩,
    ⟨e, he, hctx, hchunk, hrel, x, hx, hlane, by omega, ?_, hpol, hdata⟩, fun k hk => hk.grown h4⟩
  rw [hbe, storeBytes, leBytes_length]
  rfl

end

/-- Settles O17: each lane's store grows the record by one contribution to an entry of its chunk, and a record that grows keeps
every contribution. -/
theorem storeEntersRecord : Obligations.StoreEntersRecord := by
  intro f s ptr t hw hp hroom
  have hr : TableReadFrom s t := modeTouched_from f s
  have hplace : ∀ l p, place t l p = place s l p := fun l p => hr.place l p
  have hfib : ∀ l, fibreOf t s.cur.blk l = fibreOf s s.cur.blk l := fun l => by rw [fibreOf, State.lane_eq, hr.block]; rfl
  have he := stAt_record hp (by
    rw [hr.core, hr.cur, hr.activeLanes]
    simp only [hplace, hfib]
    exact hroom)
  obtain ⟨⟨⟨⟨bl, cs, n, hu⟩, hblk, hcore⟩, -, hl1, hgrown⟩, hall, -⟩ := foldl_each (as := activeLanes f t) (x := t)
    (I := StoredFrom t) (P := LaneStored f t ptr)
    (g := fun x l => storeRecord x x.cur.pier x.cur.blk x.curTag l (recordPtr x x.cur.blk l (ptr l))
      (srcBytes (x.src l) f.t f.sb.toNat) (f.ord == 1) (regsPoisoned x.curBlock l f.sb.toNat f.t.regs) (accessPol f t true l))
    ⟨.refl _ t, Nat.le_refl _, rfl, .refl _⟩ (fun l _ y hy => storeRecord_lane hy l _)
  generalize (activeLanes f t).foldl _ t = u at *
  rw [hr.accesses] at he
  rw [hr.cur] at hcore hl1 hgrown
  refine ⟨u, congrArg Host.Outcome.next ((withMode_reads hw _).trans he), by rw [hu], fun b => ?_, hcore, hl1, fun l hl => ?_,
    fun e hem => ?_⟩
  · rw [hblk, hr.block]
  · obtain ⟨e, hem, hctx, hchunk, hrel, x, hx, hlane, hseq, hbe, hpol, hdata⟩ := hall l ((hr.activeLanes f).symm ▸ hl)
    rw [hr.cur] at hem hctx
    rw [hplace] at hchunk hbe hdata
    have hbytes : storeBytes f t l = storeBytes f s l := by rw [storeBytes, hr.src]; rfl
    rw [hbytes] at hdata
    exact ⟨e, hem, hctx, hchunk, fun h1 => hrel (by simp [h1]), x, hx, hlane, hr.seq ▸ hseq, hbe, hpol, hdata⟩
  · obtain ⟨e', he', hid, -, hchunk, -, hpre⟩ := hgrown e ((hr.core _).symm ▸ hem)
    exact ⟨e', he', hid, hchunk, hpre⟩

end Sys2Proof.Claim

/-! The statement about REL, ACQ, SYNCF, RECDRN, PFCH and CDROP (R125, R126, R131, R132). -/
namespace Sys2Proof.Claim
open Sys2Proof Sys2Proof.Machine

/-! ## A group that waits (R57) -/

/-- The batch goes back to its slot, each lane as R57 says, and its group waits. -/
theorem retryGroup_waits (s : State) (p : GPark) : GroupWaits s (retryGroup s p) p := by
  obtain ⟨b, c, hf⟩ := retryLanes_frame s s.curLanes .run
  have hu : retryGroup s p = ((retryLanes s s.curLanes .run).updGrp s.cur.blk s.cur.grp (fun g => { g with park := p })).endRun := rfl
  rw [hu]
  refine ⟨?_, ?_, rfl, fun l hl => ?_⟩
  · rw [hf]
    rfl
  · rw [State.grp_eq, State.endRun_block, State.updGrp_eq, State.block_setBlock, Block.updGrp_eq, Block.grp_setGrp]
  · have hlane : ((retryLanes s s.curLanes .run).updGrp s.cur.blk s.cur.grp (fun g => { g with park := p })).endRun.lane s.cur.blk l =
        { (s.lane s.cur.blk l).back s l with park := .run } := by
      rw [State.lane_eq, State.endRun_block, State.updGrp_eq, State.block_setBlock, Block.updGrp_eq, Block.lane_setGrp]
      exact (retryLanes_lane s (curLanes_nodup s) .run l).trans (if_pos hl)
    rw [hlane]
    exact goesBack_back ..

/-! ## ACQ (R126) -/

/-- An acquire that may not complete stays so while more is outstanding and the order goes on. -/
theorem acquireOk_later {s : State} {c b l q q' n : Nat} {ms : List MemOp} (h : acquireOk s c b l q = false) (hq : q ≤ q') :
    acquireOk { s with memops := s.memops ++ ms, seq := n } c b l q' = false := by
  unfold acquireOk at h ⊢
  rw [Bool.and_eq_false_iff] at h ⊢
  refine h.imp (fun hr => ?_) id
  unfold readsDone at hr ⊢
  rw [Bool.and_eq_false_iff, Bool.not_eq_false', Bool.not_eq_false', List.any_eq_true, List.any_eq_true] at hr ⊢
  refine hr.imp ?_ ?_
  · rintro ⟨m, hm, hp⟩
    simp only [olderOp, Bool.and_eq_true, decide_eq_true_eq] at hp
    refine ⟨m, List.mem_append_left _ hm, ?_⟩
    simp only [olderOp, Bool.and_eq_true, decide_eq_true_eq]
    exact ⟨⟨⟨hp.1.1.1, Nat.lt_of_lt_of_le hp.1.1.2 hq⟩, hp.1.2⟩, hp.2⟩
  · rintro ⟨o, ho, hp⟩
    simp only [Bool.and_eq_true, decide_eq_true_eq] at hp
    refine ⟨o, ho, ?_⟩
    simp only [Bool.and_eq_true, decide_eq_true_eq]
    exact ⟨⟨Nat.lt_of_lt_of_le hp.1.1 hq, hp.1.2⟩, hp.2⟩

/-- The acquire of order number `q` of lane `l` of block `b`, at core `c`, that does not complete at once. -/
def acqOp (s : State) (c b l q : Nat) (pc : Dword) : MemOp :=
  { id := s.seq, core := c, blk := b, lane := l, kind := .acq, seq := q, ptr := 0, pc := pc }

theorem acquireAt_outstanding {s : State} {c b l q : Nat} (h : acquireOk s c b l q = false) (pc : Dword) :
    acquireAt s c b l q pc = { s with memops := s.memops ++ [acqOp s c b l q pc], seq := s.seq + 1 } :=
  if_neg (by rw [h]; exact Bool.false_ne_true)

/-- Acquires that none may complete at once stand outstanding, one for each lane. -/
theorem acquireLanes_outstanding {f : Fields} {s : State}
    (h : ∀ l ∈ activeLanes f s, acquireOk s s.cur.pier s.cur.blk l s.seq = false) :
    let u := acquireLanes s (activeLanes f s)
    u = { s with memops := u.memops, seq := u.seq } ∧ AddsOps f s u (fun m => m.kind = .acq) := by
  intro u
  obtain ⟨hadds, ms, n, hu, -⟩ := addsOps_foldl (f := f) (s := s) (ptr := fun _ => 0) (P := fun m => m.kind = .acq)
    (I := fun y => ∃ ms n, y = { s with memops := s.memops ++ ms, seq := n } ∧ s.seq ≤ n)
    (g := fun x a => acquire x x.cur.pier x.cur.blk a.1 x.cur.pc) ⟨[], s.seq, by simp, Nat.le_refl _⟩ (by
      rintro l hl y ⟨ms, n, rfl, hn⟩
      have hno : acquireOk { s with memops := s.memops ++ ms, seq := n } s.cur.pier s.cur.blk l n = false :=
        acquireOk_later (h l hl) hn
      unfold acquire
      dsimp only
      rw [acquireAt_outstanding hno]
      refine ⟨⟨⟨_, rfl, rfl, rfl, rfl, rfl, rfl, rfl⟩, Nat.lt_succ_self n⟩,
        ms ++ [acqOp { s with memops := s.memops ++ ms, seq := n } s.cur.pier s.cur.blk l n s.cur.pc], n + 1, ?_, by omega⟩
      rw [← List.append_assoc])
  rw [accesses, List.foldl_map] at hadds hu
  exact ⟨by
    have hu' : u = _ := hu
    rw [hu'], hadds⟩

theorem acquireLanes_mem (s : State) (ls : List Nat) :
    (acquireLanes s ls).mem = s.mem ∧ (acquireLanes s ls).hostMem = s.hostMem := by
  refine List.foldlRecOn (motive := fun y : State => y.mem = s.mem ∧ y.hostMem = s.hostMem) ls _ ⟨rfl, rfl⟩ (fun y hy l _ => ?_)
  unfold acquire acquireAt
  dsimp only
  split
  · exact hy
  · exact hy

/-- An acquire that may complete does: the fibre tracks nothing, and of the core's words those that it owns stay. -/
theorem acquire_done {s : State} {l : Nat} (h : acquireOk s s.cur.pier s.cur.blk l s.seq = true) :
    let u := acquireLanes s [l]
    u.memops = s.memops ∧ (u.lane s.cur.blk l).tracked = [] ∧
      (u.core s.cur.pier).l1 = (s.core s.cur.pier).l1.filter (fun w => (s.core s.cur.pier).l1Owned.contains w.1) := by
  have hu : acquireLanes s [l] = acquireNow s.tick s.cur.pier s.cur.blk l := by
    unfold acquireLanes
    rw [List.foldl_cons, List.foldl_nil, acquire, acquireAt]
    exact if_pos h
  intro u
  have hu : u = _ := hu
  rw [hu, acquireNow]
  refine ⟨rfl, ?_, ?_⟩
  · rw [State.updLane_eq, State.lane_eq, State.block_setBlock, Block.updLane_eq, Block.lane_setLane]
  · rw [State.updLane_eq, State.core_setBlock, core_updCore, if_pos rfl]
    rfl

/-! ## The fences -/

theorem unreleased_ne_nil {f : Fields} {s : State} (h : ¬ Released f s) : (unreleased s (activeLanes f s)).isEmpty = false := by
  simp only [Released, not_forall] at h
  obtain ⟨l, hl, hno⟩ := h
  rw [List.isEmpty_eq_false_iff_exists_mem]
  exact ⟨l, List.mem_filter.mpr ⟨hl, by simp [hno]⟩⟩

theorem fences : Fences := by
  refine ⟨fun f s h => ?_, fun f s h => ?_, fun f s => ?_⟩
  · have hw : unreleased s (activeLanes f s) = [] := unreleased_nil h
    refine ⟨?_, acquireLanes s (activeLanes f s), rfl, ?_⟩
    · show execRel f s = _
      rw [execRel, hw]
      rfl
    · show execSyncf f s = _
      rw [execSyncf, hw]
      rfl
  · have hw := unreleased_ne_nil h
    refine ⟨retryGroup s (.release (lanesMask (unreleased s (activeLanes f s)))), ?_, ?_, retryGroup_waits ..⟩
    · show execRel f s = _
      rw [execRel, hw]
      rfl
    · show execSyncf f s = _
      rw [execSyncf, hw]
      rfl
  · obtain ⟨hmem, hhost⟩ := acquireLanes_mem s (activeLanes f s)
    refine ⟨acquireLanes s (activeLanes f s), rfl, hmem, hhost, acquireLanes_outstanding, fun l hl hok => ?_⟩
    rw [hl]
    exact acquire_done hok

theorem recordDrainRequest : RecordDrainRequest := fun _ _ => rfl

/-! ## PFCH and CDROP (R131, R132) -/

/-- Of the state only the cores, the piers and the order number may differ; the cores keep their records and owned words. -/
def CachesFrom (s u : State) : Prop :=
  (∃ cs ps n, u = { s with cores := cs, piers := ps, seq := n }) ∧
  ∀ c, (u.core c).record = (s.core c).record ∧ (u.core c).owned = (s.core c).owned

theorem CachesFrom.refl (s : State) : CachesFrom s s := ⟨⟨_, _, _, rfl⟩, fun _ => ⟨rfl, rfl⟩⟩

theorem CachesFrom.tick {s u : State} (h : CachesFrom s u) : CachesFrom s u.tick := by
  obtain ⟨⟨_, _, _, rfl⟩, hc⟩ := h
  exact ⟨⟨_, _, _, rfl⟩, hc⟩

theorem CachesFrom.updCore {s u : State} (h : CachesFrom s u) (c : Nat) {g : Core → Core}
    (hg : ∀ x, (g x).record = x.record ∧ (g x).owned = x.owned) : CachesFrom s (u.updCore c g) := by
  obtain ⟨⟨_, _, _, rfl⟩, hc⟩ := h
  refine ⟨⟨_, _, _, rfl⟩, fun k => ?_⟩
  rw [core_updCore]
  split
  · next hk => subst hk; rw [(hg _).1, (hg _).2]; exact hc k
  · exact hc k

theorem CachesFrom.updPier {s u : State} (h : CachesFrom s u) (p : Nat) (g : Pier → Pier) : CachesFrom s (u.updPier p g) := by
  obtain ⟨⟨_, _, _, rfl⟩, hc⟩ := h
  exact ⟨⟨_, _, _, rfl⟩, hc⟩

section
variable {f : Fields} {s : State} {ptr : Nat → Dword}

/-- What PFCH and CDROP do for a lane: nothing where the line's data may not be read. -/
def prefetchLane (f : Fields) (x : State) (l : Nat) (p : Dword) : State :=
  if !isRecordWin p then x
  else if (physLine x x.curTag (recordPtr x x.cur.blk l p)).isNone then x
  else requestFill x x.cur.pier x.curTag (lineKey x l p) (some 0) (f.hint != 2 && l1On x x.cur.pier)
def dropLane (f : Fields) (x : State) (l : Nat) (p : Dword) : State :=
  if !isRecordWin p then x
  else match physLine x x.curTag (recordPtr x x.cur.blk l p) with
    | none => x
    | some ln =>
      let y := cacheDrop x x.cur.pier (lineKey x l p)
      if f.hint = 2 then y.updPier (homeSlice (128 * ln)) (fun z => { z with slice := z.slice.filter (fun e => e.1 != ln) }) else y

theorem lineLanes_ok (hp : ∀ l ∈ activeLanes f s, effective f s l false .rd 1 false = .ok (ptr l)) :
    lineLanes f s = (accesses f s ptr, []) := sortLanes_ok hp

theorem pfchAt_eq (hp : ∀ l ∈ activeLanes f s, effective f s l false .rd 1 false = .ok (ptr l)) :
    pfchAt f s = (activeLanes f s).foldl (fun x l => prefetchLane f x l (ptr l)) s := by
  unfold pfchAt
  dsimp only
  rw [lineLanes_ok hp, raiseHere_nil, accesses, List.foldl_map]
  rfl

theorem cdropAt_eq (hp : ∀ l ∈ activeLanes f s, effective f s l false .rd 1 false = .ok (ptr l)) :
    cdropAt f s = (activeLanes f s).foldl (fun x l => dropLane f x l (ptr l)) s := by
  unfold cdropAt
  dsimp only
  rw [lineLanes_ok hp, raiseHere_nil, accesses, List.foldl_map]
  rfl

theorem prefetchLane_from {x : State} (hx : CachesFrom s x ∧ ∀ c, (x.core c).l1 = (s.core c).l1) (l : Nat) (p : Dword) :
    CachesFrom s (prefetchLane f x l p) ∧ ∀ c, ((prefetchLane f x l p).core c).l1 = (s.core c).l1 := by
  unfold prefetchLane
  split
  · exact hx
  · split
    · exact hx
    · refine ⟨hx.1.tick.updCore _ (fun _ => ⟨rfl, rfl⟩), fun c => ?_⟩
      rw [requestFill, core_updCore]
      split
      · next hk => subst hk; exact hx.2 _
      · exact hx.2 c

/-! ### What CDROP leaves -/

theorem cacheDrop_l1 (x : State) (core line : Nat) : ∀ w ∈ ((cacheDrop x core line).core core).l1,
    w ∈ (x.core core).l1 ∧ w.1 / 32 ≠ line := by
  intro w hw
  rw [cacheDrop, core_updCore, if_pos rfl] at hw
  simpa using hw

/-- CDROP of a lane leaves no word of its line in the core's L1, and brings none. -/
theorem dropLane_l1 (x : State) (l : Nat) (p : Dword) : ∀ w ∈ ((dropLane f x l p).core x.cur.pier).l1,
    w ∈ (x.core x.cur.pier).l1 ∧ (isRecordWin p = true → physLine x x.curTag (recordPtr x x.cur.blk l p) ≠ none →
      w.1 / 32 ≠ lineKey x l p) := by
  intro w hw
  unfold dropLane at hw
  split at hw
  · next h => exact ⟨hw, fun hr => by simp [hr] at h⟩
  · split at hw
    · next h => exact ⟨hw, fun _ hn => absurd h hn⟩
    · have hw' : w ∈ ((cacheDrop x x.cur.pier (lineKey x l p)).core x.cur.pier).l1 := by
        dsimp only at hw
        split at hw
        · exact hw
        · exact hw
      obtain ⟨h1, h2⟩ := cacheDrop_l1 _ _ _ w hw'
      exact ⟨h1, fun _ _ => h2⟩

theorem dropLane_from {x : State} (hx : CachesFrom s x) (hs : x.seq = s.seq) (l : Nat) (p : Dword) :
    CachesFrom s (dropLane f x l p) ∧ (dropLane f x l p).seq = s.seq := by
  have hc : ∀ k, CachesFrom s (cacheDrop x x.cur.pier k) := fun k => hx.updCore _ (fun _ => ⟨rfl, rfl⟩)
  unfold dropLane
  split
  · exact ⟨hx, hs⟩
  · split
    · exact ⟨hx, hs⟩
    · dsimp only
      split
      · exact ⟨(hc _).updPier _ _, hs⟩
      · exact ⟨hc _, hs⟩

/-- Nothing that PFCH or CDROP changes says where a line stands. -/
theorem CachesFrom.line {x : State} (hx : CachesFrom s x) (l : Nat) (p : Dword) :
    x.cur = s.cur ∧ recordPtr x x.cur.blk l p = place s l p ∧ lineKey x l p = lineKey s l p ∧
      physLine x x.curTag (recordPtr x x.cur.blk l p) = physLine s s.curTag (place s l p) := by
  obtain ⟨⟨_, _, _, rfl⟩, -⟩ := hx
  exact ⟨rfl, rfl, rfl, rfl⟩

end

theorem cacheManagement : CacheManagement := by
  intro f s ptr t hw hp
  have hr : TableReadFrom s t := modeTouched_from f s
  have hp' : ∀ l ∈ activeLanes f t, effective f t l false .rd 1 false = .ok (ptr l) :=
    fun l hl => hp l (hr.activeLanes f ▸ hl)
  obtain ⟨hu, hl1⟩ := List.foldlRecOn (motive := fun x => CachesFrom t x ∧ ∀ c, (x.core c).l1 = (t.core c).l1) (activeLanes f t)
    (fun x l => prefetchLane f x l (ptr l)) ⟨.refl t, fun _ => rfl⟩ (fun x hx l _ => prefetchLane_from hx l (ptr l))
  obtain ⟨⟨hv, hseq⟩, hdrop, -⟩ := foldl_each (as := activeLanes f t) (x := t) (I := fun x => CachesFrom t x ∧ x.seq = t.seq)
    (P := fun l x => isRecordWin (ptr l) = true → physLine t t.curTag (place t l (ptr l)) ≠ none →
      ∀ w ∈ (x.core t.cur.pier).l1, w.1 / 32 ≠ lineKey t l (ptr l))
    (g := fun x l => dropLane f x l (ptr l)) ⟨.refl t, rfl⟩ (fun l _ x hx => by
      obtain ⟨hcur, -, hkey, hphys⟩ := hx.1.line l (ptr l)
      have hl1 := dropLane_l1 (f := f) x l (ptr l)
      rw [hphys, hkey, hcur] at hl1
      exact ⟨dropLane_from hx.1 hx.2 l (ptr l), fun hrec hn w hm => (hl1 w hm).2 hrec hn,
        fun b hb hrec hn w hm => hb hrec hn w (hl1 w hm).1⟩)
  refine ⟨_, _, congrArg Host.Outcome.next ((withMode_reads hw _).trans (pfchAt_eq hp')),
    congrArg Host.Outcome.next ((withMode_reads hw _).trans (cdropAt_eq hp')), ?_, hl1, hseq.trans hr.seq, fun l hl hrec => ?_⟩
  · have hframe : ∀ w, CachesFrom t w → w = { t with cores := w.cores, piers := w.piers, seq := w.seq } ∧
        ∀ c, (w.core c).record = (t.core c).record ∧ (w.core c).owned = (t.core c).owned := by
      rintro _ ⟨⟨_, _, _, rfl⟩, hc⟩
      exact ⟨rfl, hc⟩
    intro w hm
    simp only [List.mem_cons, List.not_mem_nil, or_false] at hm
    rcases hm with rfl | rfl
    · exact hframe _ hu
    · exact hframe _ hv
  · have htag : t.curTag = s.curTag := by rw [State.curTag, State.curBlock, hr.block, hr.cur]; rfl
    have hkey : lineKey t l (ptr l) = wordKey (place s l (ptr l)) (tagPasid s s.curTag) / 32 := by
      have hpas : tagPasid t s.curTag = tagPasid s s.curTag := by
        obtain ⟨⟨_, _, _, _, hf⟩, -⟩ := hr
        rw [hf]
        rfl
      have hpl : place t l (ptr l) = place s l (ptr l) := hr.place l (ptr l)
      rw [← hpas, ← hpl, ← htag]
      rfl
    have := hdrop l ((hr.activeLanes f).symm ▸ hl) hrec
    rw [hr.place, hr.cur, hkey, htag] at this
    exact this

/-- Settles O18: a fence whose lanes wait takes the batch back to its slot; PFCH and CDROP, lane after lane, change caches alone,
and no later lane brings a line back. -/
theorem fencesAndCaches : Obligations.FencesAndCaches := ⟨fences, recordDrainRequest, cacheManagement⟩

end Sys2Proof.Claim

/-! What is written at a home, and its budget (R124, R229, R234, R342, R343). -/
namespace Sys2Proof.Machine
open Sys2Proof Sys2Proof.Claim

/-! ## The bytes of a number -/

theorem getD_leBytes : ∀ {n i : Nat} (v : Nat), i < n → (leBytes n v).getD i 0 = BitVec.ofNat 8 (v / 256 ^ i)
  | n + 1, 0, v, _ => by rw [leBytes, List.getD_cons_zero, Nat.pow_zero, Nat.div_one]
  | n + 1, i + 1, v, h => by
    rw [leBytes, List.getD_cons_succ, getD_leBytes (v / 256) (Nat.lt_of_succ_lt_succ h), Nat.div_div_eq_div_mul, Nat.pow_succ']

theorem getD_of_leNat : ∀ {bs : List Byte} {i : Nat}, i < bs.length → bs.getD i 0 = BitVec.ofNat 8 (leNat bs / 256 ^ i)
  | b :: bs, 0, _ => by
    rw [List.getD_cons_zero, Nat.pow_zero, Nat.div_one, leNat]
    refine BitVec.eq_of_toNat_eq ?_
    rw [BitVec.toNat_ofNat]
    have := b.isLt
    omega
  | b :: bs, i + 1, h => by
    have hb : (b.toNat + 256 * leNat bs) / 256 = leNat bs := by
      have := b.isLt
      omega
    rw [List.getD_cons_succ, getD_of_leNat (Nat.lt_of_succ_lt_succ h), leNat, Nat.pow_succ', ← Nat.div_div_eq_div_mul, hb]

theorem stored_leBytes (m : List Host.Cell) (pa n v : Nat) : Stored (wrBytes m pa (leBytes n v)) m pa n v := by
  intro a
  rw [rdByte_wrBytes, leBytes_length]
  split
  · next h => exact getD_leBytes v (by omega)
  · rfl

theorem stored_bytes (m : List Host.Cell) (pa : Nat) (bs : List Byte) : Stored (wrBytes m pa bs) m pa bs.length (leNat bs) := by
  intro a
  rw [rdByte_wrBytes]
  split
  · next h => exact getD_of_leNat (by omega)
  · rfl

/-! ## Words without an owner -/

/-- Words that no core owns have only their places in the directory to lose. -/
theorem clearOwners_unowned : ∀ {ws : List Nat} {s : State}, Unowned s ws → ∃ d, clearOwners s ws = { s with dir := d }
  | [], s, _ => ⟨s.dir, rfl⟩
  | w :: ws, s, h => by
    have hw : clearOwner s w = _ := clearOwner_unowned (fun c hc o ho he => h c hc o ho (he ▸ List.mem_cons_self))
    have hrest : Unowned { s with dir := tdel w s.dir } ws := fun c hc o ho hm => h c hc o ho (List.mem_cons_of_mem w hm)
    obtain ⟨d, hd⟩ := clearOwners_unowned hrest
    refine ⟨d, ?_⟩
    rw [clearOwners, List.foldl_cons, hw]
    exact hd

theorem unowned_of_cores {s t : State} {ws : List Nat} (h : Unowned s ws) (hc : t.cores = s.cores) : Unowned t ws := by
  unfold Unowned
  rw [hc]
  exact h

/-! ## Budgets -/

theorem newPeriods_congr {s t : State} (h : ∀ q, stillWaits t q = stillWaits s q) (n : Nat) :
    ∀ x, newPeriods t n x = newPeriods s n x := by
  induction n with
  | zero => exact fun _ => rfl
  | succ n ih =>
    intro x
    rw [newPeriods, newPeriods, ih, newPeriod, newPeriod]
    simp only [h]

/-- A budget admits the same where the same operations wait. -/
theorem budgetOk_congr {s t : State} (h : ∀ q, stillWaits t q = stillWaits s q) (hn : t.now = s.now) {p : Nat}
    (hp : t.part p = s.part p) (k q : Nat) : budgetOk t p k q = budgetOk s p k q := by
  have hx : settledPart t p = settledPart s p := by rw [settledPart, settledPart, newPeriods_congr h, hn, hp]
  simp only [budgetOk, hx, h]

/-- What a charge leaves: the accounts alone. -/
theorem charges_from {s : State} (p q : Nat) (acts : List (Nat × Nat)) :
    TableReadFrom s (acts.foldl (fun t a => if a.2 = 0 then t else charge t p a.1 q a.2) s) := by
  refine List.foldlRecOn acts _ (.refl s) (fun t ht a _ => ?_)
  split
  · exact ht
  · exact ht.charge ..

/-- An operation that every one of its activities admits may act. -/
theorem budgetAll_admits {s : State} {p q : Nat} {acts : List (Nat × Nat)} (act : State → State)
    (h : ∀ a ∈ acts, a.2 = 0 ∨ budgetOk s p a.1 q = true) : ∃ t, budgetAll s p q acts act = act t ∧ TableReadFrom s t := by
  have hf : acts.find? (fun a => a.2 != 0 && !budgetOk s p a.1 q) = none := by
    refine List.find?_eq_none.mpr (fun a ha => ?_)
    rcases h a ha with h | h <;> simp [h]
  refine ⟨_, ?_, charges_from p q acts⟩
  unfold budgetAll
  rw [hf]

/-- A line that is read at its home: touched, or brought to the slice. -/
theorem readLine_from {s t : State} (h : TableReadFrom s t) (hit al : Bool) (p pa : Nat) :
    TableReadFrom s (if hit = true then sliceTouch t pa else if al = true then sliceFill t p (pa / 128) else t) := by
  split
  · exact h.slice _ _
  · split
    · exact h.sliceFill ..
    · exact h

end Sys2Proof.Machine

/-! The statement about atomics, reductions and accesses of the host that are performed (R123, R124, R234, R287). -/
namespace Sys2Proof.Claim
open Sys2Proof Sys2Proof.Machine

/-! ## Atomics -/

/-- The end of an atomic that is plain: its core loses its words, its result comes to stand, and it leaves the list. -/
def atomicEnd (s : State) (m : MemOp) (ks : List Nat) (ws : List Word) : State :=
  acquireOf (returnWords (dropWords s m.core ks) m ws) m

theorem atomicEnd_returns (s : State) {m : MemOp} (hm : Plain m) (ks : List Nat) (ws : List Word) :
    let u := atomicEnd s m ks ws
    u.mem = s.mem ∧ u.hostMem = s.hostMem ∧ u.hostLines = s.hostLines ∧ Returns s u m ws := by
  obtain ⟨hacq, hdead⟩ := hm
  have hu : atomicEnd s m ks ws = dropOp (returnWords (dropWords s m.core ks) m ws) m.id := if_pos (by rw [hacq]; rfl)
  intro u
  have hu : u = _ := hu
  rw [hu, returnWords, hdead]
  by_cases hk : m.kind = .red
  · rw [if_pos (by simp [hk])]
    exact ⟨rfl, rfl, rfl, rfl, (if_pos hk).symm⟩
  · rw [if_neg (by simp [hk])]
    exact ⟨rfl, rfl, rfl, rfl, (if_neg hk).symm⟩

theorem returns_of_eq {s t u : State} {m : MemOp} {ws : List Word} (h : Returns t u m ws) (hops : t.memops = s.memops)
    (hres : t.lres = s.lres) (hseq : t.seq = s.seq) : Returns s u m ws := by
  rwa [Returns, hops, hres, hseq] at h

/-- What an atomic leaves where it is performed at its home, after the read of its line. -/
def atomicAtHome (s : State) (m : MemOp) (p k pa : Nat) (lf : Leaf) (st1 : State) : State :=
  let st := hostBack (setU (clearOwners st1 (physWords pa (m.t.bits / 8))) lf) pa
  let old := rdNat st.mem pa (m.t.bits / 8)
  let s2 := match atomNew m.kind m.op m.t m.b old with
    | some v => homeWrite (charge st p 1 k 64) pa (leBytes (m.t.bits / 8) v)
    | none => st
  atomicEnd s2 m (m.keys s) (resT m.t old)

section
variable {s : State} {k pa : Nat} {m : MemOp} {lf : Leaf}

theorem atomicAtHome_stored (hm : Plain m) (ho : Unowned s (physWords pa (opBytes m))) {t : State} (ht : TableReadFrom s t)
    (p : Nat) : let u := atomicAtHome s m p k pa lf t
    AtomicStored m u.mem s.mem pa ∧ u.hostMem = s.hostMem ∧ pa / 64 ∉ u.hostLines ∧
      Returns s u m (resT m.t (rdNat s.mem pa (opBytes m))) := by
  have hcores : t.cores = s.cores := by
    obtain ⟨⟨_, _, _, _, rfl⟩, -⟩ := ht
    rfl
  obtain ⟨d, hd⟩ := clearOwners_unowned (unowned_of_cores ho hcores)
  have hst : ∃ us, hostBack (setU (clearOwners t (physWords pa (m.t.bits / 8))) lf) pa =
      { t with dir := d, uses := us, hostLines := t.hostLines.filter (· != pa / 64) } := by
    have hd' : clearOwners t (physWords pa (m.t.bits / 8)) = _ := hd
    rw [hd', setU_frame]
    exact ⟨_, rfl⟩
  obtain ⟨us, hst⟩ := hst
  have hgone : pa / 64 ∉ t.hostLines.filter (· != pa / 64) := by simp
  intro u
  have hu : u = atomicAtHome s m p k pa lf t := rfl
  rw [atomicAtHome, hst] at hu
  obtain ⟨⟨_, _, _, _, rfl⟩, -⟩ := ht
  dsimp only at hu
  unfold AtomicStored opBytes
  cases hn : atomNew m.kind m.op m.t m.b (rdNat s.mem pa (m.t.bits / 8)) with
  | some v =>
    rw [hn] at hu
    obtain ⟨h1, h2, h3, h4⟩ := atomicEnd_returns _ hm (m.keys s) (resT m.t (rdNat s.mem pa (m.t.bits / 8)))
    rw [hu]
    refine ⟨?_, h2, ?_, returns_of_eq h4 rfl rfl rfl⟩
    · rw [h1]
      exact stored_leBytes s.mem pa _ v
    · rw [h3]
      exact fun hm => hgone (List.mem_filter.mp hm).1
  | none =>
    rw [hn] at hu
    obtain ⟨h1, h2, h3, h4⟩ := atomicEnd_returns _ hm (m.keys s) (resT m.t (rdNat s.mem pa (m.t.bits / 8)))
    rw [hu]
    refine ⟨fun a => ?_, h2, ?_, returns_of_eq h4 rfl rfl rfl⟩
    · rw [h1]
    · rw [h3]
      exact hgone

theorem execAtomicPerform_home (hop : opAt s k = some m) (hld : m.kind ≠ .load) (hac : m.kind ≠ .acq)
    (hw : windowOf m.ptr ≠ .host) (hready : atomicReady s m = true)
    (hspot : spotOf s (opTag s m) m.ptr (opBytes m) .atomic = .home pa lf) (hclean : chunkPoisoned s pa = false)
    (hbud : ∀ a ∈ [1, 3], budgetOk s (s.launch (opTag s m)).part a k = true)
    (hread : inSlice s pa = true ∨ budgetOk s (s.launch (opTag s m)).part 0 k = true) :
    ∃ t, exec (.atomicPerform k) s = .next (atomicAtHome s m (s.launch (opTag s m)).part k pa lf t) ∧ TableReadFrom s t := by
  have hfind : s.memops.find? (fun m => m.id == k) = some m := hop
  have hgo : (m.kind == .load || m.kind == .acq || decide (windowOf m.ptr = .host) || !atomicReady s m) = false := by
    simp [hld, hac, hw, hready]
  have hspot' : spotOf s (s.block m.blk).tag m.ptr (m.t.bits / 8) .atomic = .home pa lf := hspot
  have hb1 : budgetOk s (s.launch (s.block m.blk).tag).part 1 k = true := hbud 1 (by simp)
  have hb3 : budgetOk s (s.launch (s.block m.blk).tag).part 3 k = true := hbud 3 (by simp)
  have hacts : ∀ n : Nat, ∀ a ∈ [(0, if inSlice s pa = true then 0 else n), (3, 1)],
      a.2 = 0 ∨ budgetOk s (s.launch (s.block m.blk).tag).part a.1 k = true := by
    intro n a ha
    simp only [List.mem_cons, List.not_mem_nil, or_false] at ha
    rcases ha with rfl | rfl
    · rcases hread with h | h
      · exact .inl (if_pos h)
      · exact .inr h
    · exact .inr hb3
  have he : exec (.atomicPerform k) s = execAtomicPerform k s := rfl
  rw [he]
  unfold execAtomicPerform
  rw [hfind]
  dsimp only
  rw [if_neg (by rw [hgo]; exact Bool.false_ne_true), hspot']
  dsimp only
  rw [if_neg (by rw [hclean]; exact Bool.false_ne_true), if_pos hb1]
  obtain ⟨t, ht, hfrom⟩ := budgetAll_admits _ (hacts (if allocates s (s.launch (s.block m.blk).tag).part pa (m.pol.getD lf.pol) = true
    then 128 else 64))
  rw [ht]
  exact ⟨_, rfl, readLine_from hfrom ..⟩

theorem execHostAtomicComplete_host {key : Nat} (hop : opAt s k = some m) (hld : m.kind ≠ .load) (hac : m.kind ≠ .acq)
    (hw : windowOf m.ptr = .host) (hready : atomicReady s m = true)
    (hspot : spotOf s (opTag s m) m.ptr (opBytes m) .atomic = .host key)
    (hbud : budgetOk s (s.launch (opTag s m)).part 5 k = true) :
    exec (.hostAtomicComplete k false) s = .next (
      let st := charge s (s.launch (opTag s m)).part 5 k (2 * opBytes m)
      let old := rdNat s.hostMem key (opBytes m)
      atomicEnd (match atomNew m.kind m.op m.t m.b old with
        | some v => { st with hostMem := wrNat st.hostMem key (opBytes m) v }
        | none => st) m (m.keys s) (resT m.t old)) := by
  have hfind : s.memops.find? (fun m => m.id == k) = some m := hop
  have hgo : (m.kind == .load || m.kind == .acq || windowOf m.ptr != .host || !atomicReady s m) = false := by
    simp [hld, hac, hw, hready]
  have hspot' : spotOf s (s.block m.blk).tag m.ptr (m.t.bits / 8) .atomic = .host key := hspot
  have he : exec (.hostAtomicComplete k false) s = execHostAtomicComplete k false s := rfl
  rw [he]
  unfold execHostAtomicComplete
  rw [hfind]
  dsimp only
  rw [if_neg (by rw [hgo]; exact Bool.false_ne_true), hspot']
  dsimp only
  rw [if_neg Bool.false_ne_true, budgeted, if_pos (show budgetOk s (s.launch (s.block m.blk).tag).part 5 k = true from hbud)]
  rfl

end

theorem atomicsArePerformed : AtomicsArePerformed := by
  refine ⟨?_, ?_⟩
  · intro s k m pa lf hop hld hac hm hw hready hspot hclean ho hbud hread
    obtain ⟨t, he, ht⟩ := execAtomicPerform_home hop hld hac hw hready hspot hclean hbud hread
    exact ⟨_, he, atomicAtHome_stored hm ho ht _⟩
  · intro s k m key hop hld hac hm hw hready hspot hbud
    refine ⟨_, execHostAtomicComplete_host hop hld hac hw hready hspot hbud, ?_⟩
    dsimp only
    unfold AtomicStored
    cases hn : atomNew m.kind m.op m.t m.b (rdNat s.hostMem key (opBytes m)) with
    | some v =>
      obtain ⟨h1, h2, -, h4⟩ := atomicEnd_returns
        { charge s (s.launch (opTag s m)).part 5 k (2 * opBytes m) with hostMem := wrNat s.hostMem key (opBytes m) v } hm (m.keys s)
        (resT m.t (rdNat s.hostMem key (opBytes m)))
      refine ⟨?_, h1, returns_of_eq h4 rfl rfl rfl⟩
      dsimp only
      exact (congrArg (Stored · s.hostMem key (opBytes m) v) h2).mpr (stored_leBytes s.hostMem key _ v)
    | none =>
      obtain ⟨h1, h2, -, h4⟩ := atomicEnd_returns (charge s (s.launch (opTag s m)).part 5 k (2 * opBytes m)) hm (m.keys s)
        (resT m.t (rdNat s.hostMem key (opBytes m)))
      exact ⟨fun a => congrArg (rdByte · a) h2, h1, returns_of_eq h4 rfl rfl rfl⟩

end Sys2Proof.Claim

/-! The statement about accesses of the host to device memory (R234, R287, R342, R357, R359). -/
namespace Sys2Proof.Claim
open Sys2Proof Sys2Proof.Machine

/-- An earlier write of the host to one of `n` bytes at `r`'s address waits. -/
def cxlBehind (s : State) (r : CxlReq) (n : Nat) : Bool :=
  s.cxlReqs.any (fun o => o.id < r.id && o.bytes.isSome && o.addr < r.addr + n && r.addr < o.addr + (o.bytes.map (·.length)).getD 0)

/-- No access is behind an earlier write that waits where these are free of its bytes. -/
theorem not_cxlBehind {s : State} {a n : Nat} (h : HostFree s a n) {r : CxlReq} (hr : r.addr = a) : cxlBehind s r n = false := by
  refine List.any_eq_false.mpr (fun o ho => ?_)
  cases hb : o.bytes with
  | none => simp
  | some bs =>
    have := h o ho bs hb
    simp only [Option.isSome_some, Option.map_some, Option.getD_some, Bool.and_true, Bool.and_eq_true, decide_eq_true_eq, hr]
    omega

/-- A new access that is done. -/
theorem cxlArrives_done {s u : State} {r : CxlReq} (h : cxlAccess s.tick r = (u, true)) : cxlArrives s r = u := by
  rw [cxlArrives, h]

/-- A new access that waits stands after those that wait already. -/
theorem cxlArrives_waits {s : State} {r : CxlReq} (h : cxlAccess s.tick r = (s.tick, false)) :
    cxlArrives s r = { s with seq := s.seq + 1, cxlReqs := s.cxlReqs ++ [r] } := by
  rw [cxlArrives, h]
  rfl

theorem cxlAccess_linkWaits {s : State} {r : CxlReq} (h : linkWaits s r.addr = true) : cxlAccess s r = (s, false) := by
  unfold cxlAccess
  dsimp only
  rw [h]
  rfl

/-- A read that waits for nothing. -/
theorem cxlAccess_read {s : State} {r : CxlReq} (hr : r.bytes = none) (hl : linkWaits s r.addr = false)
    (hb : cxlBehind s r r.size = false) : cxlAccess s r = ({ s with
      sent := s.sent ++ [if (chunksOf r.addr r.size).any (fun c => chunkPoisoned s (64 * c)) then Response.poison
        else .bytes 0 (rdBytes s.mem r.addr r.size)],
      hostLines := if r.cache then addTo (r.addr / 64) s.hostLines else s.hostLines }, true) := by
  unfold cxlAccess
  rw [hr]
  exact if_neg (by rw [hl, Bool.false_or]; rw [cxlBehind] at hb; simp only [hb]; exact Bool.false_ne_true)

/-- What a write of the host leaves where it is performed. -/
def cxlWritten (s : State) (a : Nat) (bs : List Byte) : State :=
  if frameLost s a then s else homeWrite (clearOwners s (physWords a bs.length)) a bs

/-- A write that waits for no link and behind no other. -/
theorem cxlAccess_write {s : State} {r : CxlReq} {bs : List Byte} (hr : r.bytes = some bs) (hl : linkWaits s r.addr = false)
    (hb : cxlBehind s r bs.length = false) : cxlAccess s r = match frameLeaf s r.addr with
    | some (p, lf) =>
      if lf.m then (s, false)
      else if budgetOk s p 1 r.id then
        (cxlWritten (charge s p 1 r.id (64 * (chunksOf r.addr bs.length).length)) r.addr bs, true)
      else (stall s p 1 r.id, false)
    | none => (cxlWritten s r.addr bs, true) := by
  unfold cxlAccess
  rw [hr]
  exact if_neg (by rw [hl, Bool.false_or]; rw [cxlBehind] at hb; simp only [hb]; exact Bool.false_ne_true)

/-- A write to a page that migrates waits. -/
theorem cxlAccess_migrating {s : State} {r : CxlReq} {bs : List Byte} (hr : r.bytes = some bs) {p : Nat} {lf : Leaf}
    (hf : frameLeaf s r.addr = some (p, lf)) (hm : lf.m = true) : cxlAccess s r = (s, false) := by
  cases hl : linkWaits s r.addr with
  | true => exact cxlAccess_linkWaits hl
  | false =>
    cases hb : cxlBehind s r bs.length with
    | true =>
      unfold cxlAccess
      rw [hr]
      exact if_pos (by rw [hl, Bool.false_or]; exact hb)
    | false =>
      rw [cxlAccess_write hr hl hb, hf]
      exact if_pos hm

/-- A write to words that no core owns writes exactly its bytes, and the host keeps no copy of their lines. -/
theorem cxlWritten_stored {s t : State} (ht : TableReadFrom s t) {a : Nat} {bs : List Byte}
    (ho : Unowned s (physWords a bs.length)) (hlost : frameLost s a = false) :
    let u := cxlWritten t a bs
    Stored u.mem s.mem a bs.length (leNat bs) ∧ u.hostMem = s.hostMem ∧ ∀ c ∈ chunksOf a bs.length, c ∉ u.hostLines := by
  obtain ⟨hcores, hmem, hhost, hlost'⟩ : t.cores = s.cores ∧ t.mem = s.mem ∧ t.hostMem = s.hostMem ∧
      frameLost t a = frameLost s a := by
    obtain ⟨⟨_, _, _, _, rfl⟩, -⟩ := ht
    exact ⟨rfl, rfl, rfl, rfl⟩
  obtain ⟨d, hd⟩ := clearOwners_unowned (unowned_of_cores ho hcores)
  have hu : cxlWritten t a bs = homeWrite { t with dir := d } a bs := by
    rw [cxlWritten, hlost', hlost, if_neg Bool.false_ne_true, hd]
  rw [hu]
  refine ⟨?_, hhost, fun c hc hm => ?_⟩
  · rw [homeWrite_mem, ← hmem]
    exact stored_bytes t.mem a bs
  · have hm' : c ∈ t.hostLines.filter (fun l => !(chunksOf a bs.length).contains l) := hm
    simp [hc] at hm'

theorem hostAccesses : HostAccesses := by
  refine ⟨?_, ?_, ?_, ?_⟩
  · intro s a n keep hl hfree
    have hb := not_cxlBehind (s := s.tick) (n := n) hfree (r := { id := s.seq, addr := a, bytes := none, size := n, cache := keep }) rfl
    refine ⟨_, congrArg Host.Outcome.next (cxlArrives_done (cxlAccess_read rfl hl hb)), rfl, fun hk => ?_, fun hp => ?_, fun hp => ?_⟩
    · rw [hk]
      exact mem_addTo.mpr (.inl rfl)
    · have hany : (chunksOf a n).any (fun c => chunkPoisoned s (64 * c)) = true := List.any_eq_true.mpr hp
      exact congrArg (fun x => s.sent ++ [x]) (if_pos hany)
    · have hany : (chunksOf a n).any (fun c => chunkPoisoned s (64 * c)) = false :=
        List.any_eq_false.mpr (fun c hc => by rw [hp c hc]; exact Bool.false_ne_true)
      exact congrArg (fun x => s.sent ++ [x]) (if_neg (Bool.eq_false_iff.mp hany))
  · intro s a bs ho hl hfree hlost hleaf
    have hb := not_cxlBehind (s := s.tick) hfree (r := { id := s.seq, addr := a, bytes := some bs, size := 0 }) rfl
    have hacc := cxlAccess_write (s := s.tick) (r := { id := s.seq, addr := a, bytes := some bs, size := 0 }) rfl hl hb
    obtain ⟨t, ht, hdone⟩ : ∃ t, TableReadFrom s.tick t ∧ cxlAccess s.tick { id := s.seq, addr := a, bytes := some bs, size := 0 } =
        (cxlWritten t a bs, true) := by
      rcases hleaf with hnone | ⟨p, lf, hsome, hm, hbud⟩
      · have hf : frameLeaf s.tick a = none := hnone
        rw [hf] at hacc
        exact ⟨s.tick, .refl _, hacc⟩
      · have hf : frameLeaf s.tick a = some (p, lf) := hsome
        have hbt : budgetOk s.tick p 1 s.seq = true :=
          (budgetOk_congr (s := s) (t := s.tick) (fun _ => rfl) rfl rfl 1 s.seq).trans hbud
        rw [hf] at hacc
        dsimp only at hacc
        rw [hm, if_neg Bool.false_ne_true, if_pos hbt] at hacc
        exact ⟨_, (TableReadFrom.refl _).charge .., hacc⟩
    exact ⟨_, congrArg Host.Outcome.next (cxlArrives_done hdone), cxlWritten_stored ht ho hlost⟩
  · intro s a n keep hl
    exact congrArg Host.Outcome.next (cxlArrives_waits (cxlAccess_linkWaits hl))
  · intro s a bs h
    refine congrArg Host.Outcome.next (cxlArrives_waits ?_)
    rcases h with hl | ⟨p, lf, hf, hm⟩
    · exact cxlAccess_linkWaits hl
    · exact cxlAccess_migrating rfl hf hm

/-- Settles O28: an atomic within its budgets has nothing between its read and its write but what leaves memory as it is; the
accesses of the host are those of the home, or wait in their order. -/
theorem memoryOperationsArePerformed : Obligations.MemoryOperationsArePerformed := ⟨atomicsArePerformed, hostAccesses⟩

end Sys2Proof.Claim

/-! An application core begins an operation, or goes on with the one that stands (R334, R343). -/
namespace Sys2Proof.Machine
open Sys2Proof Sys2Proof.Claim

/-! ## What the cores' own fields leave -/

theorem leavesAt_harts (s : State) (hs : Tbl Hart) (n die : Nat) : ∀ (lvl tbl base : Nat) (res off_ bad : Bool),
    leavesAt { s with harts := hs, seq := n } die lvl tbl base res off_ bad = leavesAt s die lvl tbl base res off_ bad
  | 0, _, _, _, _, _ => rfl
  | lvl + 1, _, _, _, _, _ => by
    simp only [leavesAt, leavesAt_harts s hs n die lvl]
    rfl

theorem partLeaves_harts (s : State) (hs : Tbl Hart) (n p : Nat) : partLeaves { s with harts := hs, seq := n } p = partLeaves s p := by
  simp only [partLeaves, leavesAt_harts]
  rfl

theorem hartPlace_harts (s : State) (hs : Tbl Hart) (n h a : Nat) : hartPlace { s with harts := hs, seq := n } h a = hartPlace s h a := by
  simp only [hartPlace, hartLeaf, frameOf, partLeaves_harts]
  rfl

/-! ## Members of a table -/

theorem mem_of_mem_tins {α : Type} {k : Nat} {v : α} {e : Nat × α} : ∀ {t : Tbl α}, e ∈ tins k v t → e = (k, v) ∨ e ∈ t
  | [], h => .inl (List.mem_singleton.mp h)
  | (j, u) :: r, h => by
    unfold tins at h
    split at h
    · rcases List.mem_cons.mp h with h | h
      · exact .inr (h ▸ List.mem_cons_self)
      · exact (mem_of_mem_tins h).imp_right (List.mem_cons_of_mem _)
    · split at h
      · exact (List.mem_cons.mp h).imp_right (List.mem_cons_of_mem _)
      · exact List.mem_cons.mp h

theorem mem_of_mem_tdel {α : Type} {k : Nat} {e : Nat × α} : ∀ {t : Tbl α}, e ∈ tdel k t → e ∈ t
  | (j, u) :: r, h => by
    unfold tdel at h
    split at h
    · exact List.mem_cons_of_mem _ (mem_of_mem_tdel h)
    · rcases List.mem_cons.mp h with h | h
      · exact h ▸ List.mem_cons_self
      · exact List.mem_cons_of_mem _ (mem_of_mem_tdel h)

theorem mem_of_mem_tput {α : Type} [DecidableEq α] {d v : α} {k : Nat} {e : Nat × α} {t : Tbl α} (h : e ∈ tput d t k v) :
    e = (k, v) ∨ e ∈ t := by
  unfold tput at h
  split at h
  · exact .inr (mem_of_mem_tdel h)
  · exact mem_of_mem_tins h

theorem mem_of_tfind {α : Type} {k : Nat} {v : α} : ∀ {t : Tbl α}, tfind k t = some v → (k, v) ∈ t
  | (j, u) :: r, h => by
    unfold tfind at h
    split at h
    · next hj =>
      cases h
      exact hj ▸ List.mem_cons_self
    · exact List.mem_cons_of_mem _ (mem_of_tfind h)

/-- What a table gives is its default or one of its values. -/
theorem tget_default_or_mem {α : Type} (d : α) (t : Tbl α) (k : Nat) : tget d t k = d ∨ (k, tget d t k) ∈ t := by
  unfold tget
  cases h : tfind k t with
  | none => exact .inl rfl
  | some v => exact .inr (mem_of_tfind h)

/-! ## Budgets where fewer operations wait -/

/-- A partition's account in which no more wait. -/
def FewerWait (x y : Part) : Prop := x.use = y.use ∧ x.inForce = y.inForce ∧ ∀ w ∈ x.waited, w ∈ y.waited

theorem newPeriods_fewer {s t : State} (h : ∀ q, stillWaits t q = true → stillWaits s q = true) (n : Nat) :
    ∀ {x y : Part}, FewerWait x y → FewerWait (newPeriods t n x) (newPeriods s n y) := by
  induction n with
  | zero => exact fun hxy => hxy
  | succ n ih =>
    rintro x y ⟨hu, hf, hw⟩
    refine ih ⟨?_, hf, fun w hm => ?_⟩
    · simp only [newPeriod, hu, hf]
    · obtain ⟨hm, hs⟩ := List.mem_filter.mp hm
      exact List.mem_filter.mpr ⟨hw w hm, h _ hs⟩

/-- Where an activity admits every operation, nothing waits for it: it does so too where no more wait. -/
theorem admits_of_fewer {s t : State} (h : ∀ q, stillWaits t q = true → stillWaits s q = true) (hn : t.now = s.now) {p : Nat}
    (hp : t.part p = s.part p) {k : Nat} (ha : Admits s p k) : Admits t p k := by
  obtain ⟨hu, hf, hw⟩ : FewerWait (settledPart t p) (settledPart s p) := by
    unfold settledPart
    rw [hn, hp]
    exact newPeriods_fewer h _ ⟨rfl, rfl, fun _ hw => hw⟩
  obtain ⟨q0, hq0⟩ : ∃ q0, ∀ w ∈ (settledPart s p).waited, w ≠ (k, q0) := by
    obtain ⟨q0, hq0⟩ := Infinite.exists_notMem_finset ((settledPart s p).waited.map (·.2)).toFinset
    exact ⟨q0, fun w hw he => hq0 (List.mem_toFinset.mpr (List.mem_map.mpr ⟨w, hw, by rw [he]⟩))⟩
  have hall : (settledPart s p).waited.takeWhile (fun w => w != (k, q0)) = (settledPart s p).waited :=
    List.takeWhile_eq_self_iff.mpr (fun w hw => by simpa using hq0 w hw)
  intro q
  have h0 := ha q0
  simp only [budgetOk, hall, Bool.or_eq_true, Bool.and_eq_true, Bool.not_eq_true', List.any_eq_false] at h0
  simp only [budgetOk, hu, hf, Bool.or_eq_true, Bool.and_eq_true, Bool.not_eq_true', List.any_eq_false]
  refine h0.imp id (fun h1 => ⟨h1.1, fun w hm hk => h1.2 w (hw w (List.takeWhile_subset _ hm)) ?_⟩)
  exact ⟨hk.1, h _ hk.2⟩

end Sys2Proof.Machine

/-! The operations of an application core that may act: atomics, fences and cache-block operations (R124, R333, R334). -/
namespace Sys2Proof.Claim
open Sys2Proof Sys2Proof.Machine

/-! ## An operation begins and ends -/

/-- The state in which an operation of a core acts: that in which it stands, or it begins with an order number. -/
def hartActing (s : State) (h : Nat) : State :=
  if (s.hart h).held.isNone then s.tick.setHart h { s.hart h with heldAt := s.seq } else s

/-- The operation ends, or stands from now on. -/
def hartEnds (i : HartOp) (h : Nat) (r : Bool × State) : State :=
  r.2.setHart h { r.2.hart h with held := if r.1 then none else some i }

section
variable {s : State} {h p : Nat} {i : HartOp}

theorem hartActing_frame (s : State) (h : Nat) : ∃ hs n, hartActing s h = { s with harts := hs, seq := n } := by
  unfold hartActing
  split
  · exact ⟨_, _, rfl⟩
  · exact ⟨_, _, rfl⟩

theorem hartActing_reg (s : State) (h r : Nat) : hartReg (hartActing s h) h r = hartReg s h r := by
  unfold hartActing
  split
  · unfold hartReg
    rw [State.hart_setHart]
  · rfl

theorem hartActing_place (s : State) (h a : Nat) : hartPlace (hartActing s h) h a = hartPlace s h a := by
  obtain ⟨hs, n, hf⟩ := hartActing_frame s h
  rw [hf, hartPlace_harts]

theorem hartActing_part (s : State) (h : Nat) : hartPart (hartActing s h) h = hartPart s h := by
  obtain ⟨hs, n, hf⟩ := hartActing_frame s h
  rw [hf]
  rfl

theorem hartActing_core (s : State) (h c : Nat) : (hartActing s h).core c = s.core c := by
  obtain ⟨hs, n, hf⟩ := hartActing_frame s h
  rw [hf]
  rfl

theorem hartActing_released (s : State) (h : Nat) : hartReleased (hartActing s h) h = hartReleased (hartBegin s h) h := by
  unfold hartActing hartBegin
  split <;> rfl

/-- A core has an operation or a fetch under an order number. -/
def hartWaitsAt (q : Nat) (x : Hart) : Bool := (x.held.isSome && x.heldAt == q) || x.fetching.any (fun f => f.2 == q)

/-- A core's own change, in which it has no more under an order number, brings no more among the cores. -/
theorem any_hartWaitsAt {hs : Tbl Hart} {y : Hart} {q : Nat} (hy : hartWaitsAt q y = true → hartWaitsAt q (tget {} hs h) = true)
    (hq : (tput {} hs h y).any (fun e => hartWaitsAt q e.2) = true) : hs.any (fun e => hartWaitsAt q e.2) = true := by
  rw [List.any_eq_true] at hq ⊢
  obtain ⟨e, he, hw⟩ := hq
  rcases mem_of_mem_tput he with rfl | he
  · rcases tget_default_or_mem ({} : Hart) hs h with hd | hm
    · have := hy hw
      rw [hd] at this
      cases this
    · exact ⟨_, hm, hy hw⟩
  · exact ⟨e, he, hw⟩

/-- No more operations wait in the state in which one begins. -/
theorem hartActing_stillWaits (s : State) (h q : Nat) (hq : stillWaits (hartActing s h) q = true) : stillWaits s q = true := by
  unfold hartActing at hq
  split at hq
  · next hn =>
    have hnone : (s.hart h).held = none := by simpa using hn
    simp only [stillWaits, Bool.or_eq_true] at hq ⊢
    refine Or.imp_left (Or.imp_left (Or.imp_left (Or.imp_left (Or.imp_right (fun hh => ?_))))) hq
    refine any_hartWaitsAt (h := h) (fun hy => ?_) hh
    simp only [hartWaitsAt, hnone, Option.isSome_none, Bool.false_and, Bool.false_or] at hy
    rw [hartWaitsAt, Bool.or_eq_true]
    exact .inr hy
  · exact hq

theorem hartActing_admits {k : Nat} (ha : Admits s p k) : Admits (hartActing s h) p k := by
  refine admits_of_fewer (hartActing_stillWaits s h) ?_ ?_ ha
  · obtain ⟨_, _, hf⟩ := hartActing_frame s h
    rw [hf]
  · obtain ⟨_, _, hf⟩ := hartActing_frame s h
    rw [hf]
    rfl

theorem hartAwake_of_can (hc : HartCan s h p i) : hartAwake s h = some p := by
  obtain ⟨hp, hz, hf, -⟩ := hc
  unfold hartAwake
  rw [hp]
  dsimp only
  rw [hz, hf]
  rfl

/-- An operation that may act does, and ends or stands. -/
theorem hartRun_of_can (hc : HartCan s h p i) (act : State → Bool × State) :
    hartRun i h s act = hartEnds i h (act (hartActing s h)) := by
  have haw := hartAwake_of_can hc
  unfold hartRun hartActing
  dsimp only
  rw [haw]
  rcases hc.2.2.2 with hh | hh
  · rw [hh]
    rfl
  · rw [hh]
    exact if_neg (by simp)

theorem hartEnds_reg (i : HartOp) (h : Nat) (r : Bool × State) (k : Nat) : hartReg (hartEnds i h r) h k = hartReg r.2 h k := by
  unfold hartEnds hartReg
  rw [State.hart_setHart]

theorem hartEnds_held (i : HartOp) (h : Nat) (r : Bool × State) :
    ((hartEnds i h r).hart h).held = if r.1 = true then none else some i := by
  unfold hartEnds
  rw [State.hart_setHart]

theorem hartEnds_kept (s : State) (b : Bool) : OnlyHarts s (hartEnds i h (b, hartActing s h)) ∧
    HartRegsKept s (hartEnds i h (b, hartActing s h)) h := by
  refine ⟨?_, fun r => ?_⟩
  · obtain ⟨hs, n, hf⟩ := hartActing_frame s h
    rw [hf]
    rfl
  · rw [hartEnds_reg, hartActing_reg]

/-- A change of the core's record and caches by the operation leaves its registers and all else. -/
theorem hartEnds_updCore (s : State) (b : Bool) (g : Core → Core) :
    let u := hartEnds i h (b, (hartActing s h).updCore (hartCore h) g)
    u = { s with cores := u.cores, harts := u.harts, seq := u.seq } ∧ HartRegsKept s u h ∧
      u.core (2048 + h) = g (s.core (2048 + h)) := by
  refine ⟨?_, fun r => ?_, ?_⟩
  · obtain ⟨hs, n, hf⟩ := hartActing_frame s h
    rw [hf]
    rfl
  · exact (hartEnds_reg ..).trans (hartActing_reg s h r)
  · unfold hartEnds
    rw [State.core_setHart, ← hartActing_core s h]
    exact (core_updCore ..).trans (if_pos rfl)

/-! ## Fences and cache-block operations -/

theorem hartFences (aq rl : Bool) (hc : HartCan s h p (.fence aq rl)) :
    ∃ u, exec (.hartFence h aq rl) s = .next u ∧ OnlyHarts s u ∧ HartRegsKept s u h ∧
      (u.hart h).held = (if rl = true ∧ hartReleased (hartBegin s h) h = false then some (.fence aq rl) else none) := by
  obtain ⟨h1, h2⟩ := hartEnds_kept (i := .fence aq rl) (h := h) s (!rl || hartReleased (hartActing s h) h)
  refine ⟨_, congrArg Host.Outcome.next (hartRun_of_can hc _), h1, h2, ?_⟩
  rw [hartEnds_held, hartActing_released]
  cases rl <;> cases hartReleased (hartBegin s h) h <;> rfl

theorem hartFencesI (hc : HartCan s h p .fenceI) (hrec : (s.core (2048 + h)).record = []) :
    ∃ u, exec (.hartFenceI h) s = .next u ∧ u = { s with cores := u.cores, harts := u.harts, seq := u.seq } ∧
      (u.core (2048 + h)).l1i = [] ∧ (u.hart h).held = none ∧ HartRegsKept s u h := by
  obtain ⟨h1, h2, h3⟩ := hartEnds_updCore (i := .fenceI) (h := h) s true (fun c => { c with l1i := [] })
  refine ⟨_, congrArg Host.Outcome.next ((hartRun_of_can hc _).trans (congrArg (hartEnds _ h) (if_pos ?_))), h1, ?_,
    (hartEnds_held ..).trans (if_pos rfl), h2⟩
  · rw [hartActing_core, hartCore, hrec]
    rfl
  · rw [h3]

/-- A cache-block operation that no entry of the record holds back acts. -/
theorem cboRun_acts {addr : Nat} {lf : Leaf} (hc : HartCan s h p i) (hpl : hartPlace s h addr = .memory lf)
    (hrec : ∀ e ∈ (s.core (2048 + h)).record, e.chunk.toNat / 64 ≠ addr / 64) (after_ : State → State) :
    cboRun i h addr s after_ = hartEnds i h (true, after_ (hartActing s h)) := by
  have hno : ((hartActing s h).core (hartCore h)).record.any (fun e => e.chunk.toNat / 64 == addr / 64) = false := by
    rw [hartActing_core]
    exact List.any_eq_false.mpr (fun e he => by simpa using hrec e he)
  unfold cboRun
  rw [hartRun_of_can hc, hartActing_place, hpl]
  dsimp only
  rw [hno]
  rfl

/-- The caches have lost the block. -/
theorem hartDrop_lost {addr : Nat} (s : State) :
    let u := hartEnds i h (true, hartDrop (hartActing s h) h addr)
    u = { s with cores := u.cores, harts := u.harts, seq := u.seq } ∧ HartRegsKept s u h ∧
      (∀ w ∈ (u.core (2048 + h)).l1, w.1 / 16 ≠ addr / 64) ∧ ∀ w ∈ (u.core (2048 + h)).l2, w.1 / 16 ≠ addr / 64 := by
  obtain ⟨h1, h2, h3⟩ := hartEnds_updCore (i := i) (h := h) s true
    (fun c => { c.loseLines (· == addr / 64) with l1Owned := c.l1Owned.filter (fun w => w / 16 != addr / 64) })
  refine ⟨h1, h2, fun w hw => ?_, fun w hw => ?_⟩
  · have hw' : w ∈ (Core.loseLines (· == addr / 64) (s.core (2048 + h))).l1 := by
      rw [hartDrop, h3] at hw
      exact hw
    simpa using (List.mem_filter.mp hw').2
  · have hw' : w ∈ (Core.loseLines (· == addr / 64) (s.core (2048 + h))).l2 := by
      rw [hartDrop, h3] at hw
      exact hw
    simpa using (List.mem_filter.mp hw').2

theorem hartCacheBlocks {addr : Nat} {lf : Leaf} (hpl : hartPlace s h addr = .memory lf)
    (hrec : ∀ e ∈ (s.core (2048 + h)).record, e.chunk.toNat / 64 ≠ addr / 64) :
    (HartCan s h p (.clean addr) → ∃ u, exec (.cboClean h addr) s = .next u ∧ OnlyHarts s u ∧
      HartRegsKept s u h) ∧
    (HartCan s h p (.flush addr) → ∃ u, exec (.cboFlush h addr) s = .next u ∧
      u = { s with cores := u.cores, harts := u.harts, seq := u.seq } ∧
      HartRegsKept s u h ∧ (∀ w ∈ (u.core (2048 + h)).l1, w.1 / 16 ≠ addr / 64) ∧
        ∀ w ∈ (u.core (2048 + h)).l2, w.1 / 16 ≠ addr / 64) ∧
    (HartCan s h p (.inval addr) → ∃ u, exec (.cboInval h addr) s = .next u ∧
      u = { s with cores := u.cores, harts := u.harts, seq := u.seq } ∧
      HartRegsKept s u h ∧ (∀ w ∈ (u.core (2048 + h)).l1, w.1 / 16 ≠ addr / 64) ∧
        ∀ w ∈ (u.core (2048 + h)).l2, w.1 / 16 ≠ addr / 64) :=
  ⟨fun hc => ⟨_, congrArg Host.Outcome.next (cboRun_acts hc hpl hrec id), hartEnds_kept s true⟩,
   fun hc => ⟨_, congrArg Host.Outcome.next (cboRun_acts hc hpl hrec (hartDrop · h addr)), hartDrop_lost s⟩,
   fun hc => ⟨_, congrArg Host.Outcome.next (cboRun_acts hc hpl hrec (hartDrop · h addr)), hartDrop_lost s⟩⟩

end
end Sys2Proof.Claim

/-! An application core's atomics, performed at the home of their words (R124, R229, R333, R342). -/
namespace Sys2Proof.Claim
open Sys2Proof Sys2Proof.Machine

/-! ## The home records an owner (R229) -/

/-- What the home's record of an owner leaves: memory and the application cores, and the words that the core owned. -/
def OwnsMore (core : Nat) (s u : State) : Prop :=
  u.mem = s.mem ∧ u.harts = s.harts ∧
    ∀ w, (tfind w (s.core core).owned).isSome = true → (tfind w (u.core core).owned).isSome = true

theorem OwnsMore.refl (core : Nat) (s : State) : OwnsMore core s s := ⟨rfl, rfl, fun _ h => h⟩

theorem OwnsMore.trans {core : Nat} {s u v : State} (h : OwnsMore core s u) (h' : OwnsMore core u v) : OwnsMore core s v := by
  obtain ⟨hm, hh, ho⟩ := h
  obtain ⟨hm', hh', ho'⟩ := h'
  exact ⟨hm'.trans hm, hh'.trans hh, fun w hw => ho' w (ho w hw)⟩

/-- The core with a word more that it owns. -/
def owning (c : Core) (w : Nat) : Core := { c with owned := tins w w c.owned }

theorem hartOwn_new {core w : Nat} {s : State} (h : (tfind w (s.core core).owned).isSome = false)
    (ho : ∀ c ∈ s.cores, ∀ o ∈ c.2.owned, o.2 ≠ w) :
    ∃ d, hartOwn core s w = { s with cores := tput {} s.cores core (owning (s.core core) w), dir := d } := by
  unfold hartOwn
  rw [h, if_neg Bool.false_ne_true, clearOwner_unowned ho]
  exact ⟨_, rfl⟩

/-- The home records the core as the owner of a word that no core owns: the other words stay without an owner. -/
theorem hartOwn_owns {core w : Nat} {ws : List Nat} {s : State} (hw : w ∉ ws) (ho : Unowned s (w :: ws)) :
    let u := hartOwn core s w
    OwnsMore core s u ∧ (tfind w (u.core core).owned).isSome = true ∧ Unowned u ws := by
  have hrest : Unowned s ws := fun c hc o hoo hm => ho c hc o hoo (List.mem_cons_of_mem w hm)
  cases h : (tfind w (s.core core).owned).isSome with
  | true =>
    have hu : hartOwn core s w = s := if_pos h
    rw [hu]
    exact ⟨.refl core s, h, hrest⟩
  | false =>
    obtain ⟨d, hu⟩ := hartOwn_new h (fun c hc o hoo he => ho c hc o hoo (he ▸ List.mem_cons_self))
    have hcore : (hartOwn core s w).core core = owning (s.core core) w := by
      rw [hu]
      exact tget_tput_same ..
    have hfind : ∀ k, tfind k (owning (s.core core) w).owned = if k = w then some w else tfind k (s.core core).owned :=
      fun k => tfind_tins ..
    intro u
    refine ⟨⟨by rw [show u = _ from hu], by rw [show u = _ from hu], fun k hk => ?_⟩, ?_, fun c hc o hoo => ?_⟩
    · rw [show u.core core = _ from hcore, hfind]
      split
      · rfl
      · exact hk
    · rw [show u.core core = _ from hcore, hfind, if_pos rfl]
      rfl
    · rw [show u = _ from hu] at hc
      rcases mem_of_mem_tput hc with rfl | hc
      · rcases mem_of_mem_tins hoo with rfl | hoo
        · exact hw
        · rcases tget_default_or_mem ({} : Core) s.cores core with hd | hm
          · rw [show s.core core = {} from hd] at hoo
            cases hoo
          · exact hrest _ hm o hoo
      · exact hrest c hc o hoo

/-- The home records the core as the owner of words that no core owns. -/
theorem foldl_hartOwn {core : Nat} : ∀ {ws : List Nat} {s : State}, ws.Nodup → Unowned s ws →
    OwnsMore core s (ws.foldl (hartOwn core) s) ∧
      ∀ w ∈ ws, (tfind w ((ws.foldl (hartOwn core) s).core core).owned).isSome = true
  | [], s, _, _ => ⟨.refl core s, fun _ h => (by cases h)⟩
  | w :: ws, s, hn, ho => by
    obtain ⟨hw, hn⟩ := List.nodup_cons.mp hn
    obtain ⟨hmore, hown, hrest⟩ := hartOwn_owns (core := core) hw ho
    obtain ⟨hmore', hall⟩ := foldl_hartOwn hn hrest
    refine ⟨hmore.trans hmore', fun k hk => ?_⟩
    rcases List.mem_cons.mp hk with rfl | hk
    · exact hmore'.2.2 _ hown
    · exact hall k hk

theorem physWords_nodup (pa n : Nat) : (physWords pa n).Nodup :=
  List.Nodup.map (fun _ _ h => Nat.add_left_cancel h) List.nodup_range

/-- A write at a home leaves the words that cores own. -/
theorem homeWrite_unowned {s : State} {ws : List Nat} (h : Unowned s ws) (pa : Nat) (bs : List Byte) :
    Unowned (homeWrite s pa bs) ws := by
  intro c hc o ho
  have hc' : c ∈ s.cores.map (fun c =>
      if 2048 ≤ c.1 then (c.1, c.2.loseLines (fun l => (chunksOf pa bs.length).contains l)) else c) := hc
  obtain ⟨c0, hc0, rfl⟩ := List.mem_map.mp hc'
  refine h c0 hc0 o ?_
  split at ho
  · exact ho
  · exact ho

/-! ## The read at the home (R342, R343) -/

/-- A read that the home's copy or the budget admits reaches its home. -/
theorem hartHome_admits {s : State} {h p q addr : Nat} {lf : Leaf} (hp : hartPart s h = some p)
    (hread : inSlice s addr = true ∨ budgetOk s p 0 q = true) : ∃ t, hartHome s h q addr lf = some t ∧ TableReadFrom s t := by
  unfold hartHome
  rw [hp]
  dsimp only [Option.getD_some]
  cases hs : inSlice s addr with
  | true => exact ⟨_, rfl, (TableReadFrom.refl s).slice _ _⟩
  | false =>
    rw [hs] at hread
    have hb : budgetOk s p 0 q = true := hread.resolve_left Bool.false_ne_true
    rw [hb]
    refine ⟨_, rfl, ?_⟩
    split
    · exact ((TableReadFrom.refl s).charge ..).sliceFill ..
    · exact (TableReadFrom.refl s).charge ..

/-! ## AMO -/

/-- What an AMO leaves at its home after the read of its line. -/
def amoAtHome (s : State) (h p q rd rs addr size : Nat) (op : AmoOp) (t : State) : State :=
  let s1 := charge (charge (hostBack (clearOwners t (physWords addr size)) addr) p 3 q 1) p 1 q 64
  let old := rdNat s1.mem addr size
  let s2 := homeWrite s1 addr (leBytes size (amoNew op (8 * size) old (hartReg s h rs).toNat))
  setHartReg ((physWords addr size).foldl (hartOwn (hartCore h)) s2) h rd (hartExtend size true old)

theorem setHartReg_reg (s : State) (h rd k : Nat) (v : Dword) :
    hartReg (setHartReg s h rd v) h k = if k = rd ∧ rd ≠ 0 then v else hartReg s h k := by
  unfold setHartReg
  by_cases hz : rd = 0
  · rw [if_pos hz, if_neg (fun hh => hh.2 hz)]
  · rw [if_neg hz]
    unfold hartReg
    rw [State.hart_setHart]
    by_cases hk : k = 0
    · rw [if_pos hk, if_pos hk, if_neg (fun hh : k = rd ∧ rd ≠ 0 => hz (hh.1 ▸ hk))]
    · rw [if_neg hk, if_neg hk, tget_tput]
      exact if_congr ⟨fun hh => ⟨hh, hz⟩, And.left⟩ rfl rfl

theorem amoAtHome_performed {s t : State} (ht : TableReadFrom s t) {h p q rd rs addr size : Nat} {op : AmoOp}
    (ho : Unowned s (physWords addr size)) :
    let u := amoAtHome s h p q rd rs addr size op t
    let old := rdNat s.mem addr size
    (∀ k, hartReg u h k = if k = rd ∧ rd ≠ 0 then hartExtend size true old else hartReg s h k) ∧
      Stored u.mem s.mem addr size (amoNew op (8 * size) old (hartReg s h rs).toNat) ∧
      ∀ w ∈ physWords addr size, (tfind w (u.core (2048 + h)).owned).isSome = true := by
  obtain ⟨hcores, hmem, hharts⟩ : t.cores = s.cores ∧ t.mem = s.mem ∧ t.harts = s.harts := by
    obtain ⟨⟨_, _, _, _, rfl⟩, -⟩ := ht
    exact ⟨rfl, rfl, rfl⟩
  obtain ⟨d, hd⟩ := clearOwners_unowned (unowned_of_cores ho hcores)
  obtain ⟨s1, hs1, hm1, hh1, hc1⟩ : ∃ s1,
      s1 = charge (charge (hostBack (clearOwners t (physWords addr size)) addr) p 3 q 1) p 1 q 64 ∧
      s1.mem = s.mem ∧ s1.harts = s.harts ∧ s1.cores = s.cores := by
    rw [hd]
    exact ⟨_, rfl, hmem, hharts, hcores⟩
  obtain ⟨⟨hm2, hh2, -⟩, hown⟩ := foldl_hartOwn (core := hartCore h) (physWords_nodup addr size)
    (homeWrite_unowned (unowned_of_cores ho hc1) addr
      (leBytes size (amoNew op (8 * size) (rdNat s1.mem addr size) (hartReg s h rs).toNat)))
  unfold amoAtHome
  dsimp only
  rw [← hs1]
  rw [hm1] at hm2 hh2 hown ⊢
  generalize (physWords addr size).foldl (hartOwn (hartCore h)) _ = z at *
  have hset : ∀ v, (setHartReg z h rd v).mem = z.mem ∧ (setHartReg z h rd v).core (hartCore h) = z.core (hartCore h) := by
    intro v
    unfold setHartReg
    split
    · exact ⟨rfl, rfl⟩
    · exact ⟨rfl, rfl⟩
  obtain ⟨hsm, hsc⟩ := hset (hartExtend size true (rdNat s.mem addr size))
  refine ⟨fun k => ?_, ?_, fun w hw => ?_⟩
  · have hz : hartReg z h k = hartReg s h k := by
      unfold hartReg State.hart
      rw [hh2]
      exact congrArg (fun hs => if k = 0 then 0 else tget 0 (tget ({} : Hart) hs h).regs k) hh1
    rw [setHartReg_reg, hz]
  · rw [hsm, hm2, homeWrite_mem, hm1]
    exact stored_leBytes s.mem addr size _
  · rw [← hartCore, hsc]
    exact hown w hw

theorem hartAmos (s : State) (h p rd rs addr size : Nat) (op : AmoOp) (aq rl : Bool) (lf : Leaf)
    (hc : HartCan s h p (.amo rd rs addr size op aq rl)) (hpl : hartPlace s h addr = .memory lf) (hm : lf.m = false)
    (hw : lf.w = true) (ha : lf.a = true) (hl : linkWaits s addr = false) (hh : hartHolds s h (physWords addr size) = false)
    (hrl : rl = true → hartReleased (hartBegin s h) h = true) (hpo : hartPoison s lf addr = false)
    (h3 : Admits s p 3) (h1 : Admits s p 1) (h0 : inSlice s addr = true ∨ Admits s p 0) (ho : Unowned s (physWords addr size)) :
    let old := rdNat s.mem addr size
    ∃ u, exec (.hartAmo h rd rs addr size op aq rl) s = .next u ∧ HartReg s u h rd (hartExtend size true old) ∧
      Stored u.mem s.mem addr size (amoNew op (8 * size) old (hartReg s h rs).toNat) ∧
      ∀ w ∈ physWords addr size, (tfind w (u.core (2048 + h)).owned).isSome = true := by
  intro old
  have hpart : hartPart (hartActing s h) h = some p := (hartActing_part s h).trans hc.1
  obtain ⟨hl', hh', hpo', hs', hmem, hcores⟩ : linkWaits (hartActing s h) addr = false ∧
      hartHolds (hartActing s h) h (physWords addr size) = false ∧ hartPoison (hartActing s h) lf addr = false ∧
      inSlice (hartActing s h) addr = inSlice s addr ∧ (hartActing s h).mem = s.mem ∧ (hartActing s h).cores = s.cores := by
    obtain ⟨hs, n, hf⟩ := hartActing_frame s h
    rw [hf]
    exact ⟨hl, hh, hpo, rfl, rfl, rfl⟩
  have hrel : (rl && !hartReleased (hartActing s h) h) = false := by
    rw [hartActing_released]
    cases rl with
    | true => rw [hrl rfl]; rfl
    | false => rfl
  obtain ⟨t, ht, hfrom⟩ := hartHome_admits (q := ((hartActing s h).hart h).heldAt) (addr := addr) (lf := lf) hpart
    (h0.imp (fun h => hs'.trans h) (fun h => hartActing_admits h _))
  have hact : ∀ q, q = ((hartActing s h).hart h).heldAt → execHartAmo h rd rs addr size op aq rl s = .next (hartEnds
      (.amo rd rs addr size op aq rl) h (true, amoAtHome (hartActing s h) h p q rd rs addr size op t)) := by
    rintro q rfl
    unfold execHartAmo
    rw [hartRun_of_can hc, hartActing_place, hpl]
    dsimp only
    rw [hw, ha, hm, hl', hh', hrel, hpo', hpart, Option.getD_some, hartActing_admits h3, hartActing_admits h1, ht]
    rfl
  obtain ⟨hreg, hst, hown⟩ := amoAtHome_performed hfrom (h := h) (p := p) (q := ((hartActing s h).hart h).heldAt) (rd := rd)
    (rs := rs) (op := op) (unowned_of_cores ho hcores)
  rw [hmem, hartActing_reg] at hst
  refine ⟨_, hact _ rfl, fun k => ?_, hst, hown⟩
  rw [hartEnds_reg, hreg, hmem, hartActing_reg]

theorem hartAtomicsAndFences : HartAtomicsAndFences :=
  ⟨hartAmos, fun _ _ _ aq rl hc => hartFences aq rl hc, fun _ _ _ hc hrec => hartFencesI hc hrec,
   fun _ _ _ _ _ hpl hrec => hartCacheBlocks hpl hrec⟩

end Sys2Proof.Claim

/-! Traps, interrupts and returns of an application core (R331, R334, R336). -/
namespace Sys2Proof.Claim
open Sys2Proof Sys2Proof.Machine

/-! ## Control and status registers -/

theorem csr_setCsr (x : Hart) (n k : Nat) (v : Dword) : (x.setCsr n v).csr k = if k = n then v else x.csr k := tget_tput ..

theorem getLsbD_putBit (v : Dword) {i : Nat} (hi : i < 64) (b : Bool) (j : Nat) :
    (putBit v i b).getLsbD j = if j = i then b else v.getLsbD j := by
  have hbit : (BitVec.ofNat 64 (2 ^ i)).getLsbD j = decide (j = i) := by
    rw [BitVec.getLsbD_ofNat, Nat.testBit_two_pow]
    by_cases h : j = i
    · subst h
      simp [hi]
    · simp [h, Ne.symm h]
  unfold putBit
  generalize BitVec.ofNat 64 (2 ^ i) = m at hbit ⊢
  cases b with
  | true =>
    rw [if_pos rfl, BitVec.getLsbD_or, hbit]
    by_cases h : j = i <;> simp [h]
  | false =>
    rw [if_neg Bool.false_ne_true, BitVec.getLsbD_and, BitVec.getLsbD_not, hbit]
    by_cases h : j = i
    · simp [h]
    · rw [if_neg h, decide_eq_false h, Bool.not_false, Bool.and_true]
      by_cases hj : j < 64
      · rw [decide_eq_true hj, Bool.and_true]
      · rw [BitVec.getLsbD_of_ge v j (Nat.le_of_not_lt hj), Bool.false_and]


/-! ## Traps -/

/-- The core goes on in a mode at a place. -/
def goesOn (z : Hart) (md : HartMode) (p : Dword) : Hart := { z with mode := md, pc := p }

theorem csr_goesOn (z : Hart) (md : HartMode) (p : Dword) (k : Nat) : (goesOn z md p).csr k = z.csr k := rfl

theorem csr_goesOn_ends (z : Hart) (md : HartMode) (p : Dword) (k : Nat) : (goesOn z md p).ends.csr k = z.csr k := rfl

theorem goesOn_ends (z : Hart) (md : HartMode) (p : Dword) :
    (goesOn z md p).ends.resv = none ∧ (goesOn z md p).ends.held = none ∧ (goesOn z md p).ends.regs = z.regs := ⟨rfl, rfl, rfl⟩

/-- The cause of a trap, as its register holds it. -/
def trapCause (irq : Bool) (code : Nat) : Dword := BitVec.ofNat 64 (code + if irq then 2 ^ 63 else 0)

/-- A trap to machine mode. -/
theorem trapEntry_machine (x : Hart) (irq : Bool) (code : Nat) (value gpa : Dword) : ∃ st,
    trapEntry x .m irq code value gpa =
      goesOn (((((x.setCsr Csr.mstatus st).setCsr Csr.mepc x.pc).setCsr Csr.mcause (trapCause irq code)).setCsr
        Csr.mtval value).setCsr Csr.mtval2 (gpa >>> 2)) .m (vectorOf (x.csr Csr.mtvec) irq code) ∧
    st.getLsbD 3 = false ∧ st.getLsbD 7 = (x.csr Csr.mstatus).getLsbD 3 := by
  unfold trapEntry
  simp only [show (HartMode.m == HartMode.vs) = false from rfl, Bool.and_false, Bool.false_eq_true, if_false]
  refine ⟨_, rfl, ?_, ?_⟩ <;> simp only [getLsbD_putBit, Nat.reduceLT, Nat.reduceEqDiff, if_false, if_true]

/-- A trap to the supervisor of a guest. -/
theorem trapEntry_guest (x : Hart) (irq : Bool) (code : Nat) (value gpa : Dword) : ∃ st,
    trapEntry x .vs irq code value gpa =
      goesOn ((((x.setCsr Csr.vsstatus st).setCsr Csr.vsepc x.pc).setCsr Csr.vscause
        (trapCause irq (if irq then code - 1 else code))).setCsr Csr.vstval value) .vs
        (vectorOf (x.csr Csr.vstvec) irq (if irq then code - 1 else code)) ∧
    st.getLsbD 1 = false ∧ st.getLsbD 5 = (x.csr Csr.vsstatus).getLsbD 1 := by
  unfold trapEntry
  simp only [show (HartMode.vs == HartMode.vs) = true from rfl, Bool.and_true]
  refine ⟨_, rfl, ?_, ?_⟩ <;> simp only [getLsbD_putBit, Nat.reduceLT, Nat.reduceEqDiff, if_false, if_true]

theorem otherMode {dst : HartMode} (hm : dst ≠ .m) (hv : dst ≠ .vs) : dst = .s ∨ dst = .u ∨ dst = .vu := by
  cases dst <;> simp_all

/-- A trap to any other mode is one to the supervisor. -/
theorem trapEntry_supervisor (x : Hart) {dst : HartMode} (hm : dst ≠ .m) (hv : dst ≠ .vs) (irq : Bool) (code : Nat)
    (value gpa : Dword) : ∃ st hs, trapEntry x dst irq code value gpa =
      goesOn ((((((x.setCsr Csr.mstatus st).setCsr Csr.hstatus hs).setCsr Csr.sepc x.pc).setCsr Csr.scause
        (trapCause irq code)).setCsr Csr.stval value).setCsr Csr.htval (gpa >>> 2)) .s (vectorOf (x.csr Csr.stvec) irq code) ∧
    st.getLsbD 1 = false ∧ st.getLsbD 5 = (x.csr Csr.mstatus).getLsbD 1 := by
  unfold trapEntry
  simp only [show (dst == HartMode.vs) = false from beq_false_of_ne hv, Bool.and_false, Bool.false_eq_true, if_false]
  obtain rfl | rfl | rfl := otherMode hm hv <;> refine ⟨_, _, rfl, ?_, ?_⟩ <;>
    simp only [getLsbD_putBit, Nat.reduceLT, Nat.reduceEqDiff, if_false, if_true]

theorem trapEntry_ends (x : Hart) (dst : HartMode) (irq : Bool) (code : Nat) (value gpa : Dword) :
    let y := (trapEntry x dst irq code value gpa).ends
    y.resv = none ∧ y.held = none ∧ y.regs = x.regs := by
  dsimp only
  by_cases hm : dst = .m
  · subst hm
    obtain ⟨st, he, -⟩ := trapEntry_machine x irq code value gpa
    rw [he]
    exact goesOn_ends ..
  · by_cases hv : dst = .vs
    · subst hv
      obtain ⟨st, he, -⟩ := trapEntry_guest x irq code value gpa
      rw [he]
      exact goesOn_ends ..
    · obtain ⟨st, hs, he, -⟩ := trapEntry_supervisor x hm hv irq code value gpa
      rw [he]
      exact goesOn_ends ..

theorem vectorOf_eq (v : Dword) (irq : Bool) (code : Nat) : vectorOf v irq code =
    (v &&& ~~~3#64) + (if irq ∧ v.getLsbD 0 = true then BitVec.ofNat 64 (4 * code) else 0) := by
  simp only [vectorOf, Bool.and_eq_true]

/-- A trap that is entered in machine mode. -/
theorem hartEntered_machine (x : Hart) (irq : Bool) (code : Nat) (value gpa : Dword) :
    HartEntered x (trapEntry x .m irq code value gpa).ends .m irq code value := by
  obtain ⟨st, he, hoff, hkept⟩ := trapEntry_machine x irq code value gpa
  rw [he]
  unfold HartEntered
  simp only [csr_goesOn_ends, csr_setCsr, ← vectorOf_eq]
  exact ⟨rfl, rfl, rfl, rfl, hoff, hkept, rfl⟩

theorem hartEntered_guest (x : Hart) (irq : Bool) (code : Nat) (value gpa : Dword) :
    HartEntered x (trapEntry x .vs irq code value gpa).ends .vs irq code value := by
  obtain ⟨st, he, hoff, hkept⟩ := trapEntry_guest x irq code value gpa
  rw [he]
  unfold HartEntered
  simp only [csr_goesOn_ends, csr_setCsr, ← vectorOf_eq]
  exact ⟨rfl, rfl, rfl, rfl, hoff, hkept, rfl⟩

theorem hartEntered_supervisor (x : Hart) {dst : HartMode} (hm : dst ≠ .m) (hv : dst ≠ .vs) (irq : Bool) (code : Nat)
    (value gpa : Dword) : HartEntered x (trapEntry x dst irq code value gpa).ends dst irq code value := by
  obtain ⟨st, hs, he, hoff, hkept⟩ := trapEntry_supervisor x hm hv irq code value gpa
  rw [he]
  unfold HartEntered
  simp only [csr_goesOn_ends, csr_setCsr, ← vectorOf_eq]
  obtain rfl | rfl | rfl := otherMode hm hv <;> exact ⟨rfl, rfl, rfl, rfl, hoff, hkept, rfl⟩

/-- A trap that is entered saves what it must in the registers of its mode. -/
theorem hartEntered_trapEntry (x : Hart) (dst : HartMode) (irq : Bool) (code : Nat) (value gpa : Dword) :
    HartEntered x (trapEntry x dst irq code value gpa).ends dst irq code value := by
  by_cases hm : dst = .m
  · subst hm
    exact hartEntered_machine ..
  · by_cases hv : dst = .vs
    · subst hv
      exact hartEntered_guest ..
    · exact hartEntered_supervisor x hm hv ..

/-- An exception is a trap that ends the reservation. -/
theorem hartTrap_traps (s : State) (h code : Nat) (value gpa : Dword) :
    let u := hartTrap s h code value gpa
    u = { s with harts := u.harts } ∧ HartTraps s u h code value := by
  have hu : (hartTrap s h code value gpa).hart h = (trapEntry (s.hart h) (exceptionTo (s.hart h) code) false code value gpa).ends :=
    State.hart_setHart ..
  refine ⟨rfl, ?_⟩
  rw [HartTraps, hu]
  exact ⟨hartEntered_trapEntry .., trapEntry_ends ..⟩

/-- The first interrupt that is pending and enabled is taken. -/
theorem hartInterrupt_takes {s : State} {h c : Nat}
    (hc : interruptOrder.find? (fun k => interruptPending (s.hart h) k && interruptEnabled (s.hart h) k) = some c) :
    let u := hartInterrupt h s
    u = { s with harts := u.harts } ∧ HartEntered (s.hart h) (u.hart h) (interruptTo (s.hart h) c) true c 0 ∧
      (u.hart h).resv = none ∧ (u.hart h).regs = (s.hart h).regs := by
  have hu : hartInterrupt h s = s.setHart h (trapEntry (s.hart h) (interruptTo (s.hart h) c) true c 0 0).ends := by
    unfold hartInterrupt
    dsimp only
    rw [hc]
  intro u
  have hu : u = _ := hu
  obtain ⟨hres, -, hregs⟩ := trapEntry_ends (s.hart h) (interruptTo (s.hart h) c) true c 0 0
  rw [hu]
  refine ⟨rfl, ?_⟩
  rw [State.hart_setHart]
  exact ⟨hartEntered_trapEntry .., hres, hregs⟩

/-! ## Returns -/

theorem hartReturn_goesOn {s : State} {h : Nat} (hm : (s.hart h).mode = .m) : ∃ st,
    hartReturn h true s = s.setHart h (goesOn ((s.hart h).setCsr Csr.mstatus st)
      (HartMode.of ((if ((s.hart h).csr Csr.mstatus).getLsbD 11 then 1 else 0) +
        if ((s.hart h).csr Csr.mstatus).getLsbD 12 then 2 else 0) (((s.hart h).csr Csr.mstatus).getLsbD 39))
      ((s.hart h).csr Csr.mepc)) ∧
    st.getLsbD 3 = ((s.hart h).csr Csr.mstatus).getLsbD 7 := by
  unfold hartReturn
  simp only [if_true, hm, bne_self_eq_false, Bool.false_eq_true, if_false]
  refine ⟨_, rfl, ?_⟩
  rw [apply_ite (fun v : Dword => v.getLsbD 3)]
  simp only [getLsbD_putBit, Nat.reduceLT, Nat.reduceEqDiff, if_false, if_true, ite_self]

/-- MRET goes back to the mode and the place that the trap kept. -/
theorem hartReturn_machine {s : State} {h : Nat} (hm : (s.hart h).mode = .m) :
    let x := s.hart h
    let u := hartReturn h true s
    u = { s with harts := u.harts } ∧ (u.hart h).pc = x.csr Csr.mepc ∧ (u.hart h).regs = x.regs ∧
      ((u.hart h).csr Csr.mstatus).getLsbD 3 = (x.csr Csr.mstatus).getLsbD 7 ∧
      (u.hart h).mode = HartMode.of ((if (x.csr Csr.mstatus).getLsbD 11 then 1 else 0) +
        if (x.csr Csr.mstatus).getLsbD 12 then 2 else 0) ((x.csr Csr.mstatus).getLsbD 39) := by
  dsimp only
  obtain ⟨st, hu, hst⟩ := hartReturn_goesOn hm
  rw [hu]
  refine ⟨rfl, ?_⟩
  rw [State.hart_setHart]
  refine ⟨rfl, rfl, ?_, rfl⟩
  rw [csr_goesOn, csr_setCsr]
  exact hst

theorem hartReturn_elsewhere {s : State} {h : Nat} (hm : (s.hart h).mode ≠ .m) : hartReturn h true s = hartTrap s h 2 0 0 := by
  unfold hartReturn
  dsimp only
  rw [if_pos rfl]
  exact if_pos (by simpa using hm)

theorem awake_not_none {s : State} {h : Nat} (ha : (hartAwake s h).isSome = true) : (hartAwake s h).isNone = false := by
  rw [← Option.not_isSome, ha]
  rfl

theorem whenAwake_goes {s : State} {h : Nat} (ha : (hartAwake s h).isSome = true) (hh : (s.hart h).held = none) (g : State → State) :
    whenAwake h s g = g s := by
  refine if_neg ?_
  rw [hh, awake_not_none ha]
  simp

theorem hartPrivilege : HartPrivilege := by
  refine ⟨?_, ?_, ?_⟩
  · intro s h c haw hlt ha x hc
    refine ⟨_, ?_, hartInterrupt_takes hc⟩
    have hok : turnOk (.hartInterrupt h) = true := decide_eq_true hlt
    simp only [takeTurn, hok, haw, ha, Bool.not_true, Bool.false_eq_true, if_false, Bool.and_self, if_true]
  · intro s h va size rd code gpa sg haw hlt ha hrd hsize hal hheld htr
    refine ⟨_, ?_, hartTrap_traps s h code (BitVec.ofNat 64 va) (BitVec.ofNat 64 gpa)⟩
    have hop : hartOpOk (.load rd va size sg) = true := by
      simp only [hartOpOk, Bool.and_eq_true, decide_eq_true_eq, List.contains_iff_mem, beq_iff_eq]
      exact ⟨⟨hrd, hsize⟩, hal⟩
    have hok : turnOk (.hartVirtual h (.load rd va size sg)) = true := by
      simp only [turnOk, hop, Bool.and_true]
      exact decide_eq_true hlt
    have hgo : hartVirtual h (.load rd va size sg) s = hartTrap s h code (BitVec.ofNat 64 va) (BitVec.ofNat 64 gpa) := by
      unfold hartVirtual
      rw [hheld, awake_not_none ha]
      simp only [HartOp.at_, htr]
      rfl
    simp only [takeTurn, hok, haw, Bool.not_true, Bool.false_eq_true, if_false, if_true, hgo]
  · intro s h haw hlt ha hheld x
    have hok : turnOk (.hartReturn h true) = true := decide_eq_true hlt
    have hturn : takeTurn (.hartReturn h true) s = .next (hartReturn h true s) := by
      simp only [takeTurn, hok, haw, Bool.not_true, Bool.false_eq_true, if_false, if_true, whenAwake_goes ha hheld]
    refine ⟨fun hm => ⟨_, hturn, hartReturn_machine hm⟩, fun hm => ⟨_, hturn, ?_⟩⟩
    rw [hartReturn_elsewhere hm]
    exact hartTrap_traps ..

/-- Settles O52: an operation of a core that may act does what its step says and ends or stands; a trap writes each register of its
mode once. -/
theorem hartAtomicsAndTraps : Obligations.HartAtomicsAndTraps := ⟨hartAtomicsAndFences, hartPrivilege⟩

end Sys2Proof.Claim

/-! Changes of the lanes of one block that leave the rest of it (R5). -/
namespace Sys2Proof.Machine
open Sys2Proof Sys2Proof.Claim

theorem block_of_blocks {s u : State} (h : u.blocks = s.blocks) (c : Nat) : u.block c = s.block c := by
  unfold State.block
  rw [h]

theorem block_setBlock_ite (s : State) (b c : Nat) (x : Block) :
    (s.setBlock b x).block c = if c = b then x else s.block c := tget_tput ..

theorem block_updBlock (s : State) (b c : Nat) (g : Block → Block) :
    (s.updBlock b g).block c = if c = b then g (s.block b) else s.block c := tget_tput ..

/-- Of the blocks only lanes of block `b` differ, each changed by `g` of its number. -/
structure LanesOf (b : Nat) (g : Nat → Lane → Lane) (s u : State) : Prop where
  others : ∀ c, c ≠ b → u.block c = s.block c
  block : u.block b = { s.block b with lanes := (u.block b).lanes }
  lane : ∀ l, u.lane b l = g l (s.lane b l)

namespace LanesOf
variable {b : Nat} {g g' : Nat → Lane → Lane} {s t u : State}

theorem refl (b : Nat) (s : State) : LanesOf b (fun _ x => x) s s := ⟨fun _ _ => rfl, rfl, fun _ => rfl⟩

theorem trans (h : LanesOf b g s t) (h' : LanesOf b g' t u) : LanesOf b (fun l x => g' l (g l x)) s u :=
  ⟨fun c hc => (h'.others c hc).trans (h.others c hc), by rw [h'.block, h.block], fun l => by rw [h'.lane, h.lane]⟩

theorem congr (h : LanesOf b g s u) (hg : ∀ l, g l (s.lane b l) = g' l (s.lane b l)) : LanesOf b g' s u :=
  ⟨h.others, h.block, fun l => (h.lane l).trans (hg l)⟩

/-- What the blocks do not hold may change. -/
theorem of_blocks (h : LanesOf b g s t) (hb : u.blocks = t.blocks) : LanesOf b g s u := by
  have hu := block_of_blocks hb
  exact ⟨fun c hc => (hu c).trans (h.others c hc), by rw [hu]; exact h.block,
    fun l => (congrArg (Block.lane · l) (hu b)).trans (h.lane l)⟩

theorem updBlock_overLanes {ls : List Nat} (hn : ls.Nodup) (f : Nat → Lane → Lane) (b : Nat) (s : State) :
    LanesOf b (fun l x => if l ∈ ls then f l x else x) s (s.updBlock b (fun x => overLanes x ls f)) := by
  have hb : (s.updBlock b (fun x => overLanes x ls f)).block b = overLanes (s.block b) ls f := by
    rw [block_updBlock, if_pos rfl]
  refine ⟨fun c hc => (block_updBlock ..).trans (if_neg hc), by rw [hb]; exact overLanes_eq .., fun l => ?_⟩
  rw [State.lane_eq, hb]
  exact overLanes_lane _ hn ..

theorem updLane (b l : Nat) (f : Lane → Lane) (s : State) :
    LanesOf b (fun k x => if k = l then f x else x) s (s.updLane b l f) :=
  (updBlock_overLanes (List.nodup_singleton l) (fun _ => f) b s).congr (fun k => by simp only [List.mem_singleton])

/-- The lanes of the list, each in its turn; each step starts where those before it left the state. -/
theorem foldl {f : Nat → Lane → Lane} {h : State → Nat → State} {I : List Nat → State → Prop}
    (hh : ∀ l r t, I (l :: r) t → LanesOf b (fun k x => if k = l then f l x else x) t (h t l) ∧ I r (h t l)) :
    ∀ {ls : List Nat} {s : State}, ls.Nodup → I ls s →
      LanesOf b (fun l x => if l ∈ ls then f l x else x) s (ls.foldl h s)
  | [], s, _, _ => (refl b s).congr (fun _ => rfl)
  | a :: r, s, hn, hI => by
    obtain ⟨ha, hr⟩ := List.nodup_cons.mp hn
    obtain ⟨hs, hI⟩ := hh a r s hI
    refine (hs.trans (foldl hh hr hI)).congr (fun l => ?_)
    by_cases hl : l = a
    · subst hl; simp [ha]
    · simp [hl]

end LanesOf

end Sys2Proof.Machine

/-! Signatures on a convergence register (R141, R143, R155). -/
namespace Sys2Proof.Machine
open Sys2Proof Sys2Proof.Claim

/-! ## The register that the issuing slot finds -/

theorem cv_setCv (x : Block) (n k : Nat) (c : Cv) : (x.setCv n c).cv k = if k = n then c else x.cv k := tget_tput ..

theorem curCv_of_fresh {s : State} (h : s.cur.cvs = none) (cv : Nat) : s.curCv cv = s.curBlock.cv cv := by
  rw [State.curCv, h]

/-! ## One signature -/

section
variable (op cv : Nat) (f : Fields) (l : Nat) (vs : List Dword) (park : Option Park) (mrda : Bool) (s : State)

/-- The signature of lane `l`. -/
def signatureOf : Signature :=
  { op := op, bits := joinWord op (sigFields f), vals := vs, fields := f, lane := l, pc := s.cur.pc }

/-- The register once lane `l` has signed it. -/
def signedCv : Cv :=
  let c := s.curCv cv
  { c with first := some (c.first.getD (signatureOf op f l vs s)), signed := c.signed + 1,
           signers := c.signers ++ [(l, f.d.toNat)], since := if c.first.isSome then c.since else s.seq,
           signed_ := c.signed_ ++ [(l, s.seq)] }

/-- A lane that has signed round `r`. -/
def signedLane (r : Word) (z : Lane) : Lane :=
  match park with
  | some p => { z.setSign cv { round := r, st := .pending } with park := p }
  | none => z.setSign cv { round := r, st := .pending }

/-- The state in which lane `l` has signed, its MRDA not counted and its round not looked at yet. -/
def signs : State :=
  (s.setCurCv cv (s.curCv cv)).updBlock s.cur.blk (fun x =>
    (x.setCv cv (signedCv op cv f l vs s)).updLane l (signedLane cv park (s.curCv cv).round))

/-- The state in which lane `l` has signed, its round not looked at yet. -/
def signedBy : State :=
  let t := signs op cv f l vs park s
  if mrda then { t with mrdas := t.mrdas ++ [{ blk := s.cur.blk, lane := l, cv := cv, round := (s.curCv cv).round }] } else t

/-- The signatures of a register that counts agree with one of opcode `op` and values `vs`. -/
def Agrees : Prop :=
  (s.curCv cv).count ≠ 0 ∧ ∀ g, (s.curCv cv).first = some g → g.bits = joinWord op (sigFields f) ∧ g.vals = vs

theorem signLane_agrees (h : Agrees op cv f vs s) : signLane op cv f l vs park mrda s =
    if (s.curCv cv).signed + 1 = (s.curCv cv).count then
      (issueRound (signedBy op cv f l vs park mrda s) s.cur.blk cv l, none)
    else (signedBy op cv f l vs park mrda s, none) := by
  obtain ⟨h0, hf⟩ := h
  unfold signLane
  refine (if_neg h0).trans ((if_neg ?_).trans rfl)
  dsimp only
  split
  · next g hg => obtain ⟨hb, hv⟩ := hf g hg; simp [hb, hv]
  · exact Bool.false_ne_true

theorem signedLane_eq (r : Word) (z : Lane) : signedLane cv park r z =
    { z with signed := (signedLane cv park r z).signed, park := park.getD z.park } ∧
    (signedLane cv park r z).sign cv = { round := r, st := .pending } := by
  cases park <;> exact ⟨rfl, tget_tput_same ..⟩

theorem signs_frame : signs op cv f l vs park s =
    { s with blocks := (signs op cv f l vs park s).blocks, cur := { s.cur with cvs := none } } := rfl

theorem signedBy_blocks : (signedBy op cv f l vs park mrda s).blocks = (signs op cv f l vs park s).blocks := by
  cases mrda <;> rfl

theorem signedBy_frame : signedBy op cv f l vs park mrda s = { s with
    blocks := (signs op cv f l vs park s).blocks, mrdas := (signedBy op cv f l vs park mrda s).mrdas,
    cur := { s.cur with cvs := none } } := by
  have ht : signedBy op cv f l vs park true s = { signs op cv f l vs park s with
      mrdas := (signedBy op cv f l vs park true s).mrdas } := rfl
  cases mrda
  · exact signs_frame ..
  · rw [ht, signs_frame]

theorem signedBy_cur : (signedBy op cv f l vs park mrda s).cur = { s.cur with cvs := none } := by
  rw [signedBy_frame]

theorem signedBy_mrdas : (signedBy op cv f l vs park mrda s).mrdas = s.mrdas ++
    if mrda then [{ blk := s.cur.blk, lane := l, cv := cv, round := (s.curCv cv).round }] else [] := by
  cases mrda
  · exact (List.append_nil _).symm
  · rfl

theorem signedBy_block (b : Nat) : (signedBy op cv f l vs park mrda s).block b = if b = s.cur.blk then
    ((s.curBlock.setCv cv (s.curCv cv)).setCv cv (signedCv op cv f l vs s)).updLane l (signedLane cv park (s.curCv cv).round)
    else s.block b := by
  have hb := block_of_blocks (signedBy_blocks op cv f l vs park mrda s) b
  have ho : ∀ c, (s.setCurCv cv (s.curCv cv)).block c = if c = s.cur.blk then s.curBlock.setCv cv (s.curCv cv) else s.block c :=
    fun c => tget_tput ..
  rw [hb, signs, block_updBlock, ho, if_pos rfl, ho]
  split <;> rfl

/-- Of the issuing block the register and lanes differ. -/
theorem signedBy_eq : (signedBy op cv f l vs park mrda s).block s.cur.blk = { s.curBlock with
    cvs := ((signedBy op cv f l vs park mrda s).block s.cur.blk).cvs,
    lanes := ((signedBy op cv f l vs park mrda s).block s.cur.blk).lanes } := by
  rw [signedBy_block, if_pos rfl, Block.updLane_eq, Block.setLane, Block.setCv, Block.setCv]

theorem signedBy_cv : ((signedBy op cv f l vs park mrda s).block s.cur.blk).cv cv = signedCv op cv f l vs s := by
  rw [signedBy_block, if_pos rfl, Block.updLane_eq, Block.cv_setLane, cv_setCv, if_pos rfl]

theorem signedBy_curCv : (signedBy op cv f l vs park mrda s).curCv cv = signedCv op cv f l vs s := by
  rw [curCv_of_fresh (by rw [signedBy_cur]), State.curBlock, signedBy_cur]
  exact signedBy_cv ..

theorem signedBy_lane (k : Nat) : (signedBy op cv f l vs park mrda s).lane s.cur.blk k =
    if k = l then signedLane cv park (s.curCv cv).round (s.lane s.cur.blk k) else s.lane s.cur.blk k := by
  rw [State.lane_eq, signedBy_block, if_pos rfl, Block.updLane_eq]
  by_cases hk : k = l
  · subst hk; rw [if_pos rfl, Block.lane_setLane]; rfl
  · rw [if_neg hk, Block.lane_setLane_ne _ _ hk]; rfl

theorem Agrees.signedBy (h : Agrees op cv f vs s) : Agrees op cv f vs (signedBy op cv f l vs park mrda s) := by
  obtain ⟨h0, hf⟩ := h
  unfold Agrees
  rw [signedBy_curCv]
  refine ⟨h0, fun g hg => ?_⟩
  obtain rfl : (s.curCv cv).first.getD (signatureOf op f l vs s) = g := Option.some.inj hg
  cases hc : (s.curCv cv).first with
  | none => exact ⟨rfl, rfl⟩
  | some g => exact hf g hc

end

/-! ## Signatures that leave their round open -/

/-- From `s` the lanes `ls` have signed the open round of register `cv`, and it is still open. -/
structure HaveSigned (cv : Nat) (park : Option Park) (mrda : Bool) (ls : List Nat) (s u : State) : Prop where
  frame : u = { s with blocks := u.blocks, mrdas := u.mrdas, cur := { s.cur with cvs := u.cur.cvs } }
  cvs : u.cur.cvs = if ls = [] then s.cur.cvs else none
  others : ∀ b, b ≠ s.cur.blk → u.block b = s.block b
  round : (u.curCv cv).round = (s.curCv cv).round
  signed : (u.curCv cv).signed = (s.curCv cv).signed + ls.length
  mrdas : u.mrdas = s.mrdas ++ if mrda then
    ls.map (fun l => { blk := s.cur.blk, lane := l, cv := cv, round := (s.curCv cv).round }) else []
  lane : ∀ k, u.lane s.cur.blk k =
    if k ∈ ls then signedLane cv park (s.curCv cv).round (s.lane s.cur.blk k) else s.lane s.cur.blk k

theorem HaveSigned.nil (cv : Nat) (park : Option Park) (mrda : Bool) (s : State) : HaveSigned cv park mrda [] s s :=
  ⟨rfl, rfl, fun _ _ => rfl, rfl, rfl, by cases mrda <;> exact (List.append_nil _).symm, fun _ => rfl⟩

theorem HaveSigned.cons {op cv : Nat} {f : Fields} {vs : List Dword} {park : Option Park} {mrda : Bool} {l : Nat}
    {ls : List Nat} {s u : State} (hl : l ∉ ls)
    (h : HaveSigned cv park mrda ls (signedBy op cv f l vs park mrda s) u) : HaveSigned cv park mrda (l :: ls) s u := by
  have hcur := signedBy_cur op cv f l vs park mrda s
  have hcv := signedBy_curCv op cv f l vs park mrda s
  have hblk : (signedBy op cv f l vs park mrda s).cur.blk = s.cur.blk := by rw [hcur]
  have hround : (signedCv op cv f l vs s).round = (s.curCv cv).round := rfl
  obtain ⟨hframe, hcvs, hothers, hr, hsigned, hmrdas, hlane⟩ := h
  rw [hcv, hround] at hr
  rw [hcv] at hsigned
  rw [hblk, hcv, hround, signedBy_mrdas] at hmrdas
  simp only [hblk, hcv, hround] at hothers hlane
  refine ⟨?_, ?_, fun b hb => ?_, hr, ?_, ?_, fun k => ?_⟩
  · rw [hframe, signedBy_frame]
  · rw [hcvs, hcur, if_neg (List.cons_ne_nil _ _)]
    exact ite_self _
  · rw [hothers b hb, signedBy_block, if_neg hb]
  · rw [hsigned, List.length_cons]
    exact Nat.add_right_comm ..
  · rw [hmrdas]
    cases mrda <;> simp
  · rw [hlane, signedBy_lane]
    by_cases hk : k = l
    · subst hk; simp [hl]
    · simp [hk]

/-! ## The lanes of a signing instruction -/

/-- What a lane of a signing instruction adds to the state and to the faults. -/
def signStep (op cv : Nat) (f : Fields) (vals : Nat → List Dword) (check : Nat → Option LaneFault) (park : Option Park)
    (acc : State × List LaneFault) (l : Nat) : State × List LaneFault :=
  match check l with
  | some e => (acc.1, acc.2 ++ [e])
  | none =>
    let q := signLane op cv f l (vals l) park (op == 0xC4) acc.1
    (q.1, acc.2 ++ q.2.toList)

theorem signLanes_eq {op cv : Nat} {f : Fields} {s : State} (h : s.curBlock.accRows ≠ 0) (vals : Nat → List Dword)
    (check : Nat → Option LaneFault) (park : Option Park) : signLanes op cv f s vals check park =
      let r := (activeLanes f s).foldl (signStep op cv f vals check park) (s, [])
      raiseHere r.1 r.2 := by
  have hr : (s.curBlock.accRows == 0) = false := beq_false_of_ne h
  unfold signLanes
  dsimp only
  rw [hr]
  rfl

/-- A lane that signs: the round is looked at where its signature completes it. -/
theorem signStep_signs {op cv : Nat} {f : Fields} {vals : Nat → List Dword} {check : Nat → Option LaneFault}
    {park : Option Park} {s : State} {l : Nat} (hc : check l = none) (ha : Agrees op cv f (vals l) s) :
    let t := signedBy op cv f l (vals l) park (op == 0xC4) s
    signStep op cv f vals check park (s, []) l =
      (if (s.curCv cv).signed + 1 = (s.curCv cv).count then issueRound t s.cur.blk cv l else t, []) := by
  intro t
  unfold signStep
  rw [hc]
  dsimp only
  rw [signLane_agrees _ _ _ _ _ _ _ _ ha]
  split <;> rfl

theorem foldl_signStep_open {op cv : Nat} {f : Fields} {vals : Nat → List Dword} {check : Nat → Option LaneFault}
    {park : Option Park} {vs : List Dword} : ∀ {ls : List Nat} {s : State}, ls.Nodup → Agrees op cv f vs s →
    (∀ l ∈ ls, check l = none ∧ vals l = vs) → (s.curCv cv).signed + ls.length < (s.curCv cv).count →
    ∃ u, ls.foldl (signStep op cv f vals check park) (s, []) = (u, []) ∧ HaveSigned cv park (op == 0xC4) ls s u
  | [], s, _, _, _, _ => ⟨s, rfl, .nil ..⟩
  | l :: ls, s, hn, ha, hl, hc => by
    obtain ⟨hnot, hn⟩ := List.nodup_cons.mp hn
    obtain ⟨hchk, hv⟩ := hl l List.mem_cons_self
    rw [List.length_cons] at hc
    have hstep : signStep op cv f vals check park (s, []) l = (signedBy op cv f l vs park (op == 0xC4) s, []) := by
      rw [signStep_signs hchk (hv ▸ ha), if_neg (by omega), hv]
    have hcv := signedBy_curCv op cv f l vs park (op == 0xC4) s
    obtain ⟨u, hu, hs⟩ := foldl_signStep_open hn (ha.signedBy op cv f l vs park (op == 0xC4) s)
      (fun k hk => hl k (List.mem_cons_of_mem l hk)) (by
        rw [hcv]
        show (s.curCv cv).signed + 1 + ls.length < (s.curCv cv).count
        omega)
    exact ⟨u, by rw [List.foldl_cons, hstep, hu], .cons hnot hs⟩

end Sys2Proof.Machine

namespace Sys2Proof.Claim
open Sys2Proof Sys2Proof.Machine

/-- A signing instruction signs its register, each lane with its values, once it has passed its check; and waits as it says. -/
theorem exec_signing {x : Signing} (hx : x ∈ signings) {f : Fields} {s : State}
    (hc : ∀ l ∈ activeLanes f s, x.check f s l) : ∃ check park,
      exec (x.ctor f) s = .next (signLanes x.op (x.cv f) f s (x.vals f s) check park) ∧
      (∀ l ∈ activeLanes f s, check l = none) ∧ ∀ p, park.getD p = x.park f p := by
  simp only [signings, List.mem_cons, List.not_mem_nil, or_false] at hx
  rcases hx with rfl | rfl | rfl | rfl | rfl | rfl | rfl | rfl | rfl | rfl | rfl
  · exact ⟨_, _, rfl, fun _ _ => rfl, fun _ => rfl⟩
  · exact ⟨_, _, rfl, fun _ _ => rfl, fun _ => rfl⟩
  · refine ⟨_, _, rfl, fun l hl => if_pos ?_, fun _ => rfl⟩
    simpa [alignedOffs] using hc l hl
  · exact ⟨_, _, rfl, fun _ _ => rfl, fun _ => rfl⟩
  · refine ⟨_, _, rfl, fun l hl => ?_, fun _ => rfl⟩
    obtain ⟨hrow, hoffs⟩ := hc l hl
    have hrow : rowWordOk s.curBlock.accRows ((s.src l).reg f.sb.toNat) = true := hrow
    have hoffs : alignedOffs (mstrOffs f (s.src l)) = true := by simpa [alignedOffs] using hoffs
    simp [hrow, hoffs]
  · exact ⟨_, _, rfl, fun l hl => if_pos (hc l hl), fun _ => rfl⟩
  · exact ⟨_, _, rfl, fun l hl => if_pos (hc l hl), fun _ => rfl⟩
  · exact ⟨_, _, rfl, fun l hl => if_pos (hc l hl), fun _ => rfl⟩
  · exact ⟨_, _, rfl, fun l hl => if_pos (hc l hl), fun _ => rfl⟩
  · exact ⟨_, _, rfl, fun _ _ => rfl, fun _ => rfl⟩
  · exact ⟨_, _, rfl, fun _ _ => rfl, fun _ => rfl⟩

/-- Lanes that may sign agree with the round's first signature. -/
theorem MaySign.agrees {x : Signing} {f : Fields} {s : State} {vs : List Dword} (h : MaySign x f s vs) :
    Agrees x.op (x.cv f) f vs s := by
  obtain ⟨-, hcount, -, hfirst⟩ := h
  refine ⟨hcount, fun g hg => ?_⟩
  obtain ⟨-, hbits, hvals⟩ := hfirst g hg
  exact ⟨hbits, hvals⟩

theorem signaturesCount : SignaturesCount := by
  intro x hx f s vs hm c hne hopen
  obtain ⟨hrows, -, hlanes, -⟩ := id hm
  obtain ⟨check, park, he, hcheck, hpark⟩ := exec_signing hx (fun l hl => (hlanes l hl).1)
  obtain ⟨u, hu, hs⟩ := foldl_signStep_open (park := park) (activeLanes_nodup f s) hm.agrees
    (fun l hl => ⟨hcheck l hl, (hlanes l hl).2⟩) hopen
  rw [signLanes_eq hrows, hu, raiseHere_nil] at he
  obtain ⟨hframe, hcvs, hothers, hround, hsigned, hmrdas, hlane⟩ := hs
  rw [if_neg hne] at hcvs
  have hblk : u.cur.blk = s.cur.blk := by rw [hframe]
  have hcv : u.curCv (x.cv f) = (u.block s.cur.blk).cv (x.cv f) := by rw [curCv_of_fresh hcvs, State.curBlock, hblk]
  rw [hcvs] at hframe
  rw [hcv] at hround hsigned
  refine ⟨u, he, hframe, hothers, hround, hsigned, ?_, fun l => ⟨fun hl => ?_, fun hl => ?_⟩⟩
  · rw [hmrdas]
    simp only [beq_iff_eq]
    rfl
  · rw [hlane, if_pos hl]
    obtain ⟨hz, hsign⟩ := signedLane_eq (x.cv f) park (s.curCv (x.cv f)).round (s.lane s.cur.blk l)
    exact ⟨hsign, by rw [← hpark]; exact hz⟩
  · rw [hlane, if_neg hl]

end Sys2Proof.Claim

/-! A round that issues: its operation goes to the quadrant, and its signers know it (R144, R155). -/
namespace Sys2Proof.Machine
open Sys2Proof Sys2Proof.Claim

/-! ## A round that resolves -/

theorem blockLanes_nodup (x : Block) : (blockLanes x).Nodup := List.nodup_range

theorem mem_blockLanes {x : Block} {l : Nat} : l ∈ blockLanes x ↔ l < 32 * x.groups := List.mem_range

theorem wakeMsync_eq (x : Block) : wakeMsync x = { x with lanes := (wakeMsync x).lanes } := overLanes_eq ..

/-- A lane that MSYNC lets go on differs in how it waits alone. -/
theorem wakeMsync_lane (x : Block) (l : Nat) :
    (wakeMsync x).lane l = { x.lane l with park := ((wakeMsync x).lane l).park } := by
  unfold wakeMsync
  rw [overLanes_lane _ (blockLanes_nodup x)]
  split
  · split
    · split <;> rfl
    · rfl
  · rfl

theorem wakeMsync_sign (x : Block) (l c : Nat) : ((wakeMsync x).lane l).sign c = (x.lane l).sign c := by
  rw [wakeMsync_lane]
  rfl

theorem resolveHeld_sign (cv : Nat) (r : Word) (issued : Bool) (l : Lane) (c : Nat) :
    (l.resolveHeld cv r issued).sign c = l.sign c := rfl

/-- A lane whose pending round resolves knows what became of it. -/
theorem resolveLane_sign {cv : Nat} {r : Word} {l : Lane} (h : l.sign cv = { round := r, st := .pending }) (issued : Bool)
    (upto : Nat) (qv : Nat → Word) : (resolveLane cv r issued upto qv l).sign cv =
      { round := r, st := if issued then .issued else .discarded } := by
  have hset : ∀ z : Lane, z.signed = (l.setSign cv { round := r, st := if issued then .issued else .discarded }).signed →
      z.sign cv = { round := r, st := if issued then .issued else .discarded } := by
    intro z hz
    unfold Lane.sign
    rw [hz]
    exact tget_tput_same ..
  have hp : (r == r && RoundState.pending == RoundState.pending) = true := by simp
  unfold resolveLane
  rw [h]
  dsimp only
  rw [if_pos hp]
  refine hset _ ?_
  split
  · split
    · exact Lane.setPred_signed ..
    · rfl
  · split <;> rfl
  · split <;> rfl
  · rfl

section
variable (s : State) (b cv : Nat) (r : Word) (issued : Bool) (upto : Nat)

/-- The lanes of block `b` where the round resolves. -/
def resolvedBlock : Block :=
  wakeMsync (overLanes (s.block b) (blockLanes (s.block b)) (fun _ l =>
    (resolveLane cv r issued upto (mqueryVal s b) l).resolveHeld cv r issued))

theorem resolveRound_blocks : (resolveRound s b cv r issued upto).blocks =
    (s.setBlock b (resolvedBlock s b cv r issued upto)).blocks := by
  unfold resolveRound
  dsimp only
  split <;> rfl

theorem resolveRound_block (c : Nat) : (resolveRound s b cv r issued upto).block c =
    if c = b then resolvedBlock s b cv r issued upto else s.block c :=
  (block_of_blocks (resolveRound_blocks s b cv r issued upto) c).trans (block_setBlock_ite ..)

theorem resolveRound_mem : (resolveRound s b cv r issued upto).mem = s.mem := by
  unfold resolveRound
  dsimp only
  split <;> rfl

theorem resolveRound_eq : (resolveRound s b cv r issued upto).block b =
    { s.block b with lanes := ((resolveRound s b cv r issued upto).block b).lanes } := by
  rw [resolveRound_block, if_pos rfl, resolvedBlock, wakeMsync_eq, overLanes_eq]

theorem resolveRound_sign {l : Nat} (hl : l < 32 * (s.block b).groups)
    (h : (s.lane b l).sign cv = { round := r, st := .pending }) :
    ((resolveRound s b cv r issued upto).lane b l).sign cv = { round := r, st := if issued then .issued else .discarded } := by
  rw [State.lane_eq, resolveRound_block, if_pos rfl, resolvedBlock, wakeMsync_sign, overLanes_lane _ (blockLanes_nodup _),
    if_pos (mem_blockLanes.mpr hl), resolveHeld_sign]
  exact resolveLane_sign h ..

end

/-! ## An operation that the engine accepts -/

section
variable (s : State) (b : Nat) (o : MOp)

/-- The operations of block `b` once the engine has accepted `o`: MQUERY is complete at that moment. -/
def queueWith : List MOp :=
  if o.sig.op = 0xC8 then (s.block b).mq else (s.block b).mq ++ [{ o with arrival := s.seq }]

/-- The state in which operation `o` stands in its queue, its round not resolved yet. -/
def queued : State :=
  if o.sig.op == 0xC8 then s.tick
  else s.tick.updBlock b (fun x => { x with mq := x.mq ++ [{ o with arrival := s.seq }] })

theorem queued_mem : (queued s b o).mem = s.mem := by
  unfold queued
  split <;> rfl

theorem queued_block : (queued s b o).block b = { s.block b with mq := queueWith s b o } := by
  unfold queued queueWith
  simp only [beq_iff_eq]
  split
  · rfl
  · exact (block_updBlock ..).trans (if_pos rfl)

/-- The lane of the last signer, where it waits for room in the queue, goes on. -/
def roomMade (l : Lane) : Lane := if l.park == .mqFull then { l with park := .run } else l

theorem acceptOp_unfold : acceptOp s b o = (resolveRound (queued s b o) b o.cv o.round true o.id).updBlock b
    (fun x => wakeMsync (x.updLane o.last roomMade)) := rfl

theorem acceptOp_mem : (acceptOp s b o).mem = s.mem :=
  (resolveRound_mem (queued s b o) b o.cv o.round true o.id).trans (queued_mem s b o)

theorem acceptOp_block : (acceptOp s b o).block b =
    wakeMsync (((resolveRound (queued s b o) b o.cv o.round true o.id).block b).updLane o.last roomMade) := by
  rw [acceptOp_unfold, block_updBlock, if_pos rfl]

/-- Of its block the queue and lanes differ. -/
theorem acceptOp_eq : (acceptOp s b o).block b =
    { s.block b with mq := queueWith s b o, lanes := ((acceptOp s b o).block b).lanes } := by
  rw [acceptOp_block, wakeMsync_eq, Block.updLane_eq, Block.setLane, resolveRound_eq, queued_block]

theorem acceptOp_sign {l : Nat} (hl : l < 32 * (s.block b).groups)
    (h : (s.lane b l).sign o.cv = { round := o.round, st := .pending }) :
    ((acceptOp s b o).lane b l).sign o.cv = { round := o.round, st := .issued } := by
  have hq := queued_block s b o
  have hr := resolveRound_sign (queued s b o) b o.cv o.round true o.id (l := l) (by rw [hq]; exact hl)
    (by rw [State.lane_eq, hq]; exact h)
  have hgo : ∀ z : Lane, (roomMade z).sign o.cv = z.sign o.cv := fun z => by unfold roomMade; split <;> rfl
  rw [State.lane_eq, acceptOp_block, wakeMsync_sign, Block.updLane_eq]
  refine Eq.trans ?_ hr
  by_cases hk : l = o.last
  · rw [← hk, Block.lane_setLane]
    exact hgo _
  · rw [Block.lane_setLane_ne _ _ hk]
    rfl

end

/-! ## The round issues -/

/-- The register once its round has ended. -/
def nextRound (c : Cv) : Cv := { c with signed := 0, first := none, round := c.round + 1, signers := [], signed_ := [] }

/-- The operation of the round that is open on a register. -/
def roundOp (s : State) (b cv last : Nat) (sig : Signature) : MOp :=
  let c := (s.block b).cv cv
  { id := s.seq, sig := sig, cv := cv, round := c.round, signers := c.signers, last := last, since := c.since,
    signed_ := c.signed_ }

/-- The state in which the register has opened its next round. -/
def reopened (s : State) (b cv : Nat) : State := s.updBlock b (fun y => y.setCv cv (nextRound ((s.block b).cv cv)))

theorem reopened_block (s : State) (b cv : Nat) :
    (reopened s b cv).block b = (s.block b).setCv cv (nextRound ((s.block b).cv cv)) :=
  (block_updBlock ..).trans (if_pos rfl)

/-- A block whose register has opened its next round, and that has another queue and other lanes. -/
theorem cv_reopened {s : State} {b cv : Nat} {q : List MOp} {ls : Tbl Lane} :
    ({ (reopened s b cv).block b with mq := q, lanes := ls } : Block).cv cv = nextRound ((s.block b).cv cv) := by
  rw [reopened_block]
  exact (cv_setCv (s.block b) cv cv _).trans (if_pos rfl)

section
variable {s : State} {b cv last : Nat} {sig : Signature} (hf : ((s.block b).cv cv).first = some sig)
include hf

theorem issueRound_cvsign (hop : sig.op = 0xA5) : issueRound s b cv last =
    resolveRound (reopened s b cv) b cv ((s.block b).cv cv).round true s.seq := by
  unfold issueRound
  dsimp only
  rw [hf]
  exact if_pos (by simp [hop])

theorem issueRound_accepts (hq : (s.block b).mq.length < 32) (hfull : (s.block b).mqFull = [])
    (hsave : savingNow (s.block b) = false) (hop : sig.op ≠ 0xA5) : issueRound s b cv last =
    acceptOp (reopened s b cv).tick b (roundOp s b cv last sig) := by
  have hroom : (decide ((s.block b).mq.length < mqSize) && (s.block b).mqFull.isEmpty && !savingNow (s.block b)) = true := by
    simp [mqSize, hq, hfull, hsave]
  unfold issueRound
  dsimp only
  rw [hf]
  exact (if_neg (by simp [hop])).trans (if_pos hroom)

end

/-- What a round on register `cv` leaves where it issues: the register is in the next one, lane `l` knows that its round has
issued, and the queue is `q`. -/
def Issued (s u : State) (b cv l : Nat) (q : List MOp) : Prop :=
  u.mem = s.mem ∧ (u.block b).cv cv = nextRound ((s.block b).cv cv) ∧
    (u.lane b l).sign cv = { round := ((s.block b).cv cv).round, st := .issued } ∧ (u.block b).mq = q

section
variable (s : State) (b cv l : Nat) (hl : l < 32 * (s.block b).groups)
  (hsign : (s.lane b l).sign cv = { round := ((s.block b).cv cv).round, st := .pending })
include hl hsign

theorem resolveRound_issues (n : Nat) :
    Issued s (resolveRound (reopened s b cv) b cv ((s.block b).cv cv).round true n) b cv l (s.block b).mq := by
  refine ⟨(resolveRound_mem ..).trans rfl, ?_, resolveRound_sign _ b cv _ true n ?_ ?_, ?_⟩
  · rw [resolveRound_eq]
    exact cv_reopened
  · rw [reopened_block]; exact hl
  · rw [State.lane_eq, reopened_block]; exact hsign
  · rw [resolveRound_eq, reopened_block]
    rfl

theorem acceptOp_issues {o : MOp} (hcv : o.cv = cv) (hr : o.round = ((s.block b).cv cv).round) :
    Issued s (acceptOp (reopened s b cv).tick b o) b cv l (queueWith (reopened s b cv).tick b o) := by
  subst hcv
  refine ⟨(acceptOp_mem ..).trans rfl, ?_, ?_, ?_⟩
  · rw [acceptOp_eq, State.tick_block]
    exact cv_reopened
  · rw [← hr]
    refine acceptOp_sign _ b o ?_ ?_
    · rw [State.tick_block, reopened_block]; exact hl
    · rw [State.lane_eq, State.tick_block, reopened_block, hr]; exact hsign
  · rw [acceptOp_eq]

end
end Sys2Proof.Machine

namespace Sys2Proof.Claim
open Sys2Proof Sys2Proof.Machine

theorem roundIssues : RoundIssues := by
  intro x hx f s vs l hm hls c hcount hq hfull hl hplace
  obtain ⟨hrows, -, hlanes, hfirst⟩ := id hm
  obtain ⟨check, park, he, hcheck, -⟩ := exec_signing hx (fun l hl => (hlanes l hl).1)
  have hmem : l ∈ activeLanes f s := by rw [hls]; exact List.mem_singleton_self l
  have hv : x.vals f s l = vs := (hlanes l hmem).2
  rw [signLanes_eq hrows, hls, List.foldl_cons, List.foldl_nil, signStep_signs (hcheck l hmem) (hv ▸ hm.agrees), if_pos hcount,
    raiseHere_nil, hv] at he
  have hb := signedBy_eq x.op (x.cv f) f l vs park (x.op == 0xC4) s
  have hcv := signedBy_cv x.op (x.cv f) f l vs park (x.op == 0xC4) s
  have hlane := signedBy_lane x.op (x.cv f) f l vs park (x.op == 0xC4) s l
  have hsmem : (signedBy x.op (x.cv f) f l vs park (x.op == 0xC4) s).mem = s.mem := by rw [signedBy_frame]
  rw [if_pos rfl] at hlane
  generalize signedBy x.op (x.cv f) f l vs park (x.op == 0xC4) s = t at he hb hcv hlane hsmem
  have hmq : (t.block s.cur.blk).mq = s.curBlock.mq := by rw [hb]
  have hmqFull : (t.block s.cur.blk).mqFull = [] := by rw [hb, ← hfull]
  have hsig : ((t.block s.cur.blk).cv (x.cv f)).first = some (c.first.getD (signatureOf x.op f l vs s)) := by rw [hcv]; rfl
  obtain ⟨hop, hvals⟩ : (c.first.getD (signatureOf x.op f l vs s)).op = x.op ∧ (c.first.getD (signatureOf x.op f l vs s)).vals = vs := by
    cases hc : c.first with
    | none => exact ⟨rfl, rfl⟩
    | some g => obtain ⟨hgo, -, hgv⟩ := hfirst g hc; exact ⟨hgo, hgv⟩
  have hsave : savingNow (t.block s.cur.blk) = false := by
    obtain ⟨p, hp⟩ := hplace
    have hpl : (t.block s.cur.blk).place = .resident p := by rw [hb, ← hp]
    rw [savingNow, hpl]
  have hgroups : (t.block s.cur.blk).groups = s.curBlock.groups := by rw [hb]
  have hlt : l < 32 * (t.block s.cur.blk).groups := hgroups.symm ▸ hl
  have hpend : (t.lane s.cur.blk l).sign (x.cv f) = { round := ((t.block s.cur.blk).cv (x.cv f)).round, st := .pending } := by
    rw [hlane, hcv]; exact (signedLane_eq ..).2
  have hend : ∀ {u q}, Issued t u s.cur.blk (x.cv f) l q → u.mem = s.mem ∧ ((u.block s.cur.blk).cv (x.cv f)).round = c.round + 1 ∧
      ((u.block s.cur.blk).cv (x.cv f)).signed = 0 ∧ (u.lane s.cur.blk l).sign (x.cv f) = { round := c.round, st := .issued } ∧
      (u.block s.cur.blk).mq = q := by
    rintro u q ⟨h1, h2, h3, h4⟩
    rw [hcv] at h2 h3
    exact ⟨h1.trans hsmem, by rw [h2]; rfl, by rw [h2]; rfl, h3, h4⟩
  by_cases h5 : x.op = 0xA5
  · rw [issueRound_cvsign hsig (hop.trans h5)] at he
    obtain ⟨h1, h2, h3, h4, hq'⟩ := hend (resolveRound_issues t _ _ l hlt hpend _)
    exact ⟨_, he, h1, h2, h3, h4, fun _ => hq'.trans hmq, fun h => absurd h5 h⟩
  · rw [issueRound_accepts hsig (hmq.symm ▸ hq) hmqFull hsave (fun h => h5 (hop.symm.trans h))] at he
    obtain ⟨h1, h2, h3, h4, hq'⟩ := hend (acceptOp_issues t s.cur.blk (x.cv f) l hlt hpend
      (o := roundOp t s.cur.blk (x.cv f) l (c.first.getD (signatureOf x.op f l vs s))) rfl rfl)
    have hmq' : ((reopened t s.cur.blk (x.cv f)).tick.block s.cur.blk).mq = s.curBlock.mq := by
      rw [State.tick_block, reopened_block]; exact hmq
    rw [queueWith, hmq'] at hq'
    have hop' : (roundOp t s.cur.blk (x.cv f) l (c.first.getD (signatureOf x.op f l vs s))).sig.op = x.op := hop
    refine ⟨_, he, h1, h2, h3, h4, fun h => hq'.trans (if_pos (hop'.trans (h.resolve_left h5))), fun _ h8 =>
      ⟨_, hq'.trans (if_neg (fun h => h8 (hop'.symm.trans h))), hop, hvals, ?_, rfl, ?_⟩⟩
    · show ((t.block s.cur.blk).cv (x.cv f)).round = c.round
      rw [hcv]; rfl
    · show (((t.block s.cur.blk).cv (x.cv f)).signers).map (·.1) = _
      rw [hcv]
      exact List.map_append

/-! ## CVSET and CVWAIT -/

theorem exec_cvset {f : Fields} {s : State} {n : Nat} (hne : activeLanes f s ≠ []) (hrows : s.curBlock.accRows ≠ 0) (hn : n ≤ 1024)
    (hv : ∀ l ∈ activeLanes f s, (rdB32 f (s.src l)).toNat = n) (hidle : (s.curCv f.d.toNat).signed = 0) :
    exec (.cvset f) s = .next (s.setCurCv f.d.toNat { s.curCv f.d.toNat with count := n }) := by
  obtain ⟨a, r, hls⟩ := List.exists_cons_of_ne_nil hne
  have ha : (rdB32 f (s.src a)).toNat = n := hv a (by rw [hls]; exact List.mem_cons_self)
  have hall : ((activeLanes f s).any (fun l => (rdB32 f (s.src l)).toNat != (rdB32 f (s.src a)).toNat) ||
      decide ((rdB32 f (s.src a)).toNat > 1024) || (s.curCv f.d.toNat).signed != 0) = false := by
    have : (activeLanes f s).any (fun l => (rdB32 f (s.src l)).toNat != (rdB32 f (s.src a)).toNat) = false :=
      List.any_eq_false.mpr (fun l hl => by simp [hv l hl, ha])
    rw [this, ha, hidle]
    simp [hn]
  show execCvset f s = _
  unfold execCvset
  dsimp only
  rw [hls] at hall ⊢
  dsimp only
  rw [if_neg hrows, hall, ha]
  rfl

theorem convergenceRegisters : ConvergenceRegisters := by
  refine ⟨fun f s n hne hrows hn hv hidle => ?_, fun f s hrows => ?_⟩
  · have hb : ∀ b, (s.setCurCv f.d.toNat { s.curCv f.d.toNat with count := n }).block b = if b = s.cur.blk then
        s.curBlock.setCv f.d.toNat { s.curCv f.d.toNat with count := n } else s.block b := fun b => tget_tput ..
    have hblk := (hb s.cur.blk).trans (if_pos rfl)
    refine ⟨_, exec_cvset hne hrows hn hv hidle, rfl, fun b h => (hb b).trans (if_neg h), by rw [hblk]; rfl, ?_, fun c h => ?_⟩
    · rw [hblk, cv_setCv, if_pos rfl]
    · rw [hblk, cv_setCv, if_neg h]
  · refine ⟨_, rfl, ?_⟩
    rw [perLaneF_of_ok (fun l _ => if_neg hrows)]
    refine perLane_overLanes (fun l _ y => ?_)
    cases ((s.src l).sign f.sa.toNat).st
    · exact predSet_setPred ..
    · rfl
    · exact predSet_setPred ..
    · exact predSet_setPred ..

/-- Settles O22: the lanes sign one after the other, each from what the lanes before it left of the register; what a round that
issues changes in a signer is what it knows of the round, and how it waits. -/
theorem convergenceRounds : Obligations.ConvergenceRounds := ⟨signaturesCount, roundIssues, convergenceRegisters⟩

end Sys2Proof.Claim

/-! FSPAWN of one lane (R135). -/
namespace Sys2Proof.Claim
open Sys2Proof Sys2Proof.Machine

section
variable (f : Fields) (s : State) (l e : Nat)

/-- The fibre that lane `l` starts in lane `e`. -/
def spawned : Lane :=
  newFibre (s.lane s.cur.blk e) (immTarget f s.cur.pc) (spawnRegs f (s.src l)) (s.seq - 1)
    (if e / 32 = l / 32 then (s.lane s.cur.blk l).due else none)

/-- The lanes once lane `l` has started a fibre in the empty lane `e`. -/
def spawnedLanes : State :=
  (s.updCurLane e (fun y => newFibre y (immTarget f s.cur.pc) (spawnRegs f (s.src l)) (s.seq - 1)
    (if e / 32 = l / 32 then (s.lane s.cur.blk l).due else none))).updCurLane l (fun y => y.setPred f.d.toNat true)

/-- The registers of the new fibre are written: they hold no poison (R359). -/
def cleanRegs (b : Block) : Block :=
  { b with regPoison := b.regPoison.filter (fun r => r < 512 * e || 512 * e + (spawnRegs f (s.src l)).length ≤ r) }

theorem spawnedLanes_lanes (hne : e ≠ l) : LanesOf s.cur.blk (fun k x => if k = l then x.setPred f.d.toNat true
    else if k = e then spawned f s l e else x) s (spawnedLanes f s l e) := by
  refine ((LanesOf.updLane s.cur.blk e _ s).trans (LanesOf.updLane s.cur.blk l _ _)).congr (fun k => ?_)
  by_cases hk : k = l
  · subst hk; rw [if_pos rfl, if_pos rfl, if_neg hne.symm]
  · rw [if_neg hk, if_neg hk]
    by_cases hke : k = e
    · subst hke; rw [if_pos rfl, if_pos rfl]; rfl
    · rw [if_neg hke, if_neg hke]

/-- The state in which lane `l` has started a fibre in the empty lane `e`. -/
def spawning : State := (spawnedLanes f s l e).updCurBlock (cleanRegs f s l e)

theorem blocksOnly_trans {s t u : State} (h : t = { s with blocks := t.blocks }) (h' : u = { t with blocks := u.blocks }) :
    u = { s with blocks := u.blocks } := by rw [h', h]

theorem spawning_frame : spawning f s l e = { s with blocks := (spawning f s l e).blocks } := by
  have hupd : ∀ (t : State) (b : Nat) (g : Block → Block), t.updBlock b g = { t with blocks := (t.updBlock b g).blocks } :=
    fun _ _ _ => rfl
  exact blocksOnly_trans (blocksOnly_trans (hupd s s.cur.blk _) (hupd _ s.cur.blk _)) (hupd (spawnedLanes f s l e) s.cur.blk _)

theorem spawning_lane (k : Nat) : (spawning f s l e).lane s.cur.blk k = (spawnedLanes f s l e).lane s.cur.blk k := by
  have hb : (spawning f s l e).block s.cur.blk = cleanRegs f s l e ((spawnedLanes f s l e).block s.cur.blk) :=
    block_updCurBlock (spawnedLanes f s l e) (cleanRegs f s l e)
  rw [State.lane_eq, hb]
  rfl

/-- The registers that N names are three at most. -/
theorem spawnRegs_length (x : Src) : (spawnRegs f x).length = f.subBits 33 32 := by
  have h : f.subBits 33 32 < 4 := Nat.mod_lt _ (by decide)
  simp only [spawnRegs, List.length_map, List.length_take, List.length_cons, List.length_nil]
  omega

theorem spawnRegs_getD (x : Src) {k : Nat} (hk : k < f.subBits 33 32) :
    (spawnRegs f x).getD k 0 = x.reg (([f.sa, f.sb, f.sc] : List (BitVec 9)).getD k 0).toNat := by
  have h : f.subBits 33 32 < 4 := Nat.mod_lt _ (by decide)
  have hk3 : k < ([f.sa, f.sb, f.sc] : List (BitVec 9)).length := by
    simp only [List.length_cons, List.length_nil]
    omega
  simp only [spawnRegs, List.getD_eq_getElem?_getD, List.getElem?_map, List.getElem?_take, if_pos hk,
    List.getElem?_eq_getElem hk3, Option.map_some, Option.getD_some]

theorem spawned_reg (k : Nat) : (spawned f s l e).reg k = if k < f.subBits 33 32 then
    (s.src l).reg (([f.sa, f.sb, f.sc] : List (BitVec 9)).getD k 0).toNat else (s.lane s.cur.blk e).reg k := by
  unfold spawned newFibre
  rw [Lane.reg_setRegs, spawnRegs_length, Nat.zero_add, Nat.sub_zero]
  by_cases hk : k < f.subBits 33 32
  · rw [if_pos ⟨Nat.zero_le k, hk⟩, if_pos hk, spawnRegs_getD f _ hk]
  · rw [if_neg (fun h => hk h.2), if_neg hk]
    rfl

end

/-- FSPAWN of one lane whose target passes its checks. -/
theorem exec_fspawn {f : Fields} {s : State} {l : Nat} (hl : activeLanes f s = [l])
    (ht : TargetsOk f s (fun _ => immTarget f s.cur.pc)) : exec (.fspawn f) s = .next (match emptyLane s.curBlock l with
      | none => s.updCurLane l (fun y => y.setPred f.d.toNat false)
      | some e => spawning f s l e) := by
  obtain ⟨hok, hwait⟩ := ht l (by rw [hl]; exact List.mem_singleton_self l)
  show execFspawn f s = _
  unfold execFspawn
  dsimp only
  rw [hl, hok, hwait, Bool.and_false, if_neg Bool.false_ne_true, Bool.not_true, if_neg Bool.false_ne_true, List.foldl_cons,
    List.foldl_nil]
  cases emptyLane s.curBlock l <;> rfl

theorem spawnFibre : SpawnFibre := by
  intro f s l hl ht
  have he := exec_fspawn hl ht
  cases hempty : emptyLane s.curBlock l with
  | none =>
    rw [hempty] at he
    have hlanes := LanesOf.updLane s.cur.blk l (fun y => y.setPred f.d.toNat false) s
    refine ⟨s.updCurLane l (fun y => y.setPred f.d.toNat false), he, rfl, hlanes.others,
      fun _ => ⟨?_, fun k hk => (hlanes.lane k).trans (if_neg hk)⟩, fun _ h => by cases h⟩
    have hown := (hlanes.lane l).trans (if_pos rfl)
    exact hown.symm ▸ predSet_setPred ..
  | some e =>
    rw [hempty] at he
    have hothers : ∀ b, b ≠ s.cur.blk → (spawning f s l e).block b = s.block b := fun b hb =>
      ((State.block_setBlock_ne _ _ hb).trans (State.block_setBlock_ne _ _ hb)).trans (State.block_setBlock_ne _ _ hb)
    refine ⟨spawning f s l e, he, spawning_frame f s l e, hothers, fun h => (by cases h), fun e' h hne => ?_⟩
    obtain rfl := Option.some.inj h
    have hlane := fun k => (spawning_lane f s l e k).trans ((spawnedLanes_lanes f s l e hne).lane k)
    have hown := (hlane l).trans (if_pos rfl)
    have hnew := (hlane e).trans ((if_neg hne).trans (if_pos rfl))
    rw [hnew, hown]
    refine ⟨predSet_setPred .., Lane.setRegs_live .., Lane.setRegs_pc .., Lane.setRegs_hmode .., Lane.setRegs_preds ..,
      Lane.setRegs_fpstat .., fun k hk => ?_, fun k hk => ?_, fun k h1 h2 => ?_⟩
    · rw [spawned_reg, if_pos hk]
    · rw [spawned_reg, if_neg (by omega)]
    · exact (hlane k).trans ((if_neg h1).trans (if_neg h2))

end Sys2Proof.Claim

/-! What leaves the fibres of the lanes and their handles as they are (R137, R190). -/
namespace Sys2Proof.Machine
open Sys2Proof Sys2Proof.Claim

/-! ## Changes of a block -/

/-- The lanes hold the fibres and the handles that they held. -/
structure FibresSame (x y : Block) : Prop where
  lane : ∀ l, (y.lane l).live = (x.lane l).live ∧ (y.lane l).handles = (x.lane l).handles

namespace FibresSame
variable {x y z : Block}

theorem refl (x : Block) : FibresSame x x := ⟨fun _ => ⟨rfl, rfl⟩⟩

theorem trans (h : FibresSame x y) (h' : FibresSame y z) : FibresSame x z :=
  ⟨fun l => ⟨(h'.lane l).1.trans (h.lane l).1, (h'.lane l).2.trans (h.lane l).2⟩⟩

/-- A change of lanes that leaves in each whether it lives, and its handles. -/
theorem overLanes {g : Nat → Lane → Lane} (hg : ∀ l z, (g l z).live = z.live ∧ (g l z).handles = z.handles) (ls : List Nat)
    (x : Block) : FibresSame x (overLanes x ls g) := by
  refine List.foldlRecOn (motive := FibresSame x) ls _ (refl x) (fun y hy a _ => hy.trans ⟨fun l => ?_⟩)
  rw [Block.updLane_eq]
  by_cases hl : l = a
  · rw [hl, Block.lane_setLane]; exact hg a _
  · rw [Block.lane_setLane_ne _ _ hl]; exact ⟨rfl, rfl⟩

theorem updGrp (x : Block) (g : Nat) (f : Group → Group) : FibresSame x (x.updGrp g f) :=
  ⟨fun _ => ⟨rfl, rfl⟩⟩

theorem updLane (x : Block) (l : Nat) {f : Lane → Lane} (hf : ∀ z, (f z).live = z.live ∧ (f z).handles = z.handles) :
    FibresSame x (x.updLane l f) := overLanes (g := fun _ => f) (fun _ => hf) [l] x

theorem stopLanes (x : Block) (g : Nat) (m : Word) : FibresSame x (stopLanes x g m) :=
  overLanes (g := fun _ l => { l with park := .stopped }) (fun _ _ => ⟨rfl, rfl⟩) _ x

theorem joinDue (x : Block) (ls : List Nat) : FibresSame x (joinDue x ls) :=
  overLanes (fun l z => by split <;> exact ⟨rfl, rfl⟩) ls x

theorem settleBarrier (x : Block) : FibresSame x (settleBarrier x) := by
  unfold Machine.settleBarrier
  split
  · exact List.foldlRecOn (motive := FibresSame x) _ _
      (overLanes (g := fun _ l => { l with park := .run }) (fun _ _ => ⟨rfl, rfl⟩) _ x) (fun y hy g _ => hy.trans (joinDue y _))
  · exact refl x

theorem wakeMsync (x : Block) : FibresSame x (wakeMsync x) := by
  refine ⟨fun l => ?_⟩
  rw [wakeMsync_lane]
  exact ⟨rfl, rfl⟩

end FibresSame

/-- What a lane learns of a round leaves its fibre and its handles. -/
theorem resolveLane_fibre (cv : Nat) (r : Word) (issued : Bool) (upto : Nat) (qv : Nat → Word) (l : Lane) :
    (resolveLane cv r issued upto qv l).live = l.live ∧ (resolveLane cv r issued upto qv l).handles = l.handles := by
  unfold resolveLane
  dsimp only
  by_cases hr : ((l.sign cv).round == r && (l.sign cv).st == .pending) = true
  · rw [if_pos hr, Lane.setSign_park]
    cases l.park with
    | cvwait c d =>
      dsimp only
      by_cases hc : c = cv
      · rw [if_pos hc]; exact ⟨Lane.setPred_live .., Lane.setPred_handles ..⟩
      · rw [if_neg hc]; exact ⟨rfl, rfl⟩
    | msync c =>
      dsimp only
      by_cases hc : c = cv
      · rw [if_pos hc]; exact ⟨rfl, rfl⟩
      · rw [if_neg hc]; exact ⟨rfl, rfl⟩
    | mquery c f d =>
      dsimp only
      by_cases hc : (decide (c = cv) && issued) = true
      · rw [if_pos hc]; exact ⟨rfl, rfl⟩
      · rw [if_neg hc]; exact ⟨rfl, rfl⟩
    | _ => exact ⟨rfl, rfl⟩
  · rw [if_neg hr]
    exact ⟨rfl, rfl⟩

theorem resolvedBlock_fibres (s : State) (b cv : Nat) (r : Word) (issued : Bool) (upto : Nat) :
    FibresSame (s.block b) (resolvedBlock s b cv r issued upto) := by
  have hheld : ∀ z : Lane, (z.resolveHeld cv r issued).live = z.live ∧ (z.resolveHeld cv r issued).handles = z.handles :=
    fun _ => ⟨rfl, rfl⟩
  unfold resolvedBlock
  refine (FibresSame.overLanes (fun _ z => ?_) _ _).trans (.wakeMsync _)
  obtain ⟨h1, h2⟩ := resolveLane_fibre cv r issued upto (mqueryVal s b) z
  exact ⟨(hheld _).1.trans h1, (hheld _).2.trans h2⟩

/-! ## Changes of the state -/

/-- The lanes of every block hold the fibres and the handles that they held, and the outstanding results are the same. -/
structure FibresKept (s u : State) : Prop where
  lanes : ∀ b, FibresSame (s.block b) (u.block b)
  lres : u.lres = s.lres

namespace FibresKept
variable {s t u : State}

theorem refl (s : State) : FibresKept s s := ⟨fun _ => .refl _, rfl⟩

theorem trans (h : FibresKept s t) (h' : FibresKept t u) : FibresKept s u :=
  ⟨fun b => (h.lanes b).trans (h'.lanes b), h'.lres.trans h.lres⟩

/-- What the blocks and the outstanding results do not hold may change. -/
theorem of_frame (hb : u.blocks = s.blocks) (hr : u.lres = s.lres) : FibresKept s u :=
  ⟨fun b => by rw [block_of_blocks hb]; exact .refl _, hr⟩

theorem updBlock (s : State) (b : Nat) {g : Block → Block} (hg : FibresSame (s.block b) (g (s.block b))) :
    FibresKept s (s.updBlock b g) := by
  refine ⟨fun c => ?_, rfl⟩
  rw [block_updBlock]
  split
  · next hc => rw [hc]; exact hg
  · exact .refl _

theorem updGrp (s : State) (b g : Nat) (f : Group → Group) : FibresKept s (s.updGrp b g f) :=
  updBlock s b (.updGrp _ g f)

theorem updLaunch (s : State) (tag : Nat) (f : Launch → Launch) : FibresKept s (s.updLaunch tag f) := of_frame rfl rfl

theorem foldl {α : Type} {g : State → α → State} (hg : ∀ t a, FibresKept t (g t a)) (as : List α) (s : State) :
    FibresKept s (as.foldl g s) :=
  List.foldlRecOn (motive := FibresKept s) as g (refl s) (fun t ht a _ => ht.trans (hg t a))

theorem report (s : State) (tag : Nat) (r : Report) : FibresKept s (report s tag r) := by
  obtain ⟨_, _, _, _, h⟩ := report_from s tag r
  rw [h]
  exact of_frame rfl rfl

theorem reportLane (s : State) (b l : Nat) (pc : Dword) (code : BitVec 8) (cause : Nat) (addr : Dword) :
    FibresKept s (reportLane s b l pc code cause addr) := report ..

theorem endRun (s : State) : FibresKept s s.endRun := of_frame rfl rfl

theorem enterHandler (s : State) (b g : Nat) (c : Cause) : FibresKept s (enterHandler s b g c) := by
  refine ⟨fun e => ?_, rfl⟩
  by_cases he : e = b
  · rw [he, enterHandler_block]
    refine (FibresSame.overLanes ?_ _ _).trans (.updGrp ..)
    exact fun _ _ => ⟨rfl, rfl⟩
  · have hne : (Machine.enterHandler s b g c).block e = s.block e := State.block_setBlock_ne _ _ he
    rw [hne]
    exact .refl _

theorem raiseCause (s : State) (b g : Nat) (c : Cause) (at_ : Dword) (k : Nat) : FibresKept s (raiseCause s b g c at_ k) := by
  have hfatal := fun r => (updBlock s b (g := fun x => stopLanes x g c.mask) (.stopLanes _ g c.mask)).trans
    (report _ (s.block b).tag r)
  unfold Machine.raiseCause
  dsimp only
  split
  · exact refl s
  · refine FibresKept.trans ?_ (endRun _)
    split
    · exact hfatal _
    · split
      · exact hfatal _
      · split
        · refine updBlock s b ((FibresSame.overLanes ?_ _ _).trans (.updGrp ..))
          exact fun _ _ => ⟨rfl, rfl⟩
        · exact enterHandler ..

theorem failInstance (s : State) (b g : Nat) (i : Instance) : FibresKept s (failInstance s b g i) := by
  refine foldl (fun t _ => (updBlock t b (.overLanes ?_ _ _)).trans (raiseCause ..)) _ s
  exact fun _ _ => ⟨rfl, rfl⟩

theorem sweepInstances (s : State) (b g : Nat) : FibresKept s (sweepInstances s b g) := by
  unfold Machine.sweepInstances
  dsimp only
  split
  · exact refl s
  · exact (updGrp s b g _).trans (foldl (fun t i => failInstance t b g i) _ _)

theorem deliverPending (s : State) (b g : Nat) : FibresKept s (deliverPending s b g) := by
  unfold Machine.deliverPending
  dsimp only
  split
  · exact refl s
  · split
    · exact refl s
    · split
      · exact updGrp ..
      · exact (updGrp ..).trans (enterHandler ..)

theorem resolveRound (s : State) (b cv : Nat) (r : Word) (issued : Bool) (upto : Nat) :
    FibresKept s (resolveRound s b cv r issued upto) := by
  refine ⟨fun c => ?_, by unfold Machine.resolveRound; dsimp only; split <;> rfl⟩
  rw [resolveRound_block]
  split
  · next hc =>
    rw [hc]
    exact resolvedBlock_fibres ..
  · exact .refl _

theorem drawFree (s : State) : FibresKept s s.drawFree.2 := of_frame rfl rfl

theorem discardRound (s : State) (b cv : Nat) : FibresKept s (discardRound s b cv) := by
  unfold Machine.discardRound
  refine FibresKept.trans (updBlock s b ?_) (resolveRound ..)
  exact ⟨fun _ => ⟨rfl, rfl⟩⟩

theorem dropRounds (s : State) (b : Nat) : FibresKept s (dropRounds s b) := by
  refine foldl (fun t c => FibresKept.trans (t := (Machine.discardRound t b c).drawFree.2) ?_ (report ..)) _ s
  exact (discardRound t b c).trans (drawFree _)

theorem vacate (s : State) (b : Nat) : FibresKept s (vacate s b) := by
  unfold Machine.vacate
  refine FibresKept.trans ?_ (updBlock _ b ⟨fun _ => ⟨rfl, rfl⟩⟩)
  exact of_frame rfl rfl

theorem retireBlock (s : State) (b : Nat) : FibresKept s (retireBlock s b) := by
  unfold Machine.retireBlock
  dsimp only
  split
  · exact refl s
  · refine FibresKept.trans ?_ (updLaunch ..)
    refine FibresKept.trans ?_ (updBlock _ b ⟨fun _ => ⟨rfl, rfl⟩⟩)
    exact (dropRounds s b).trans (vacate _ b)

end FibresKept
end Sys2Proof.Machine

/-! The end of a fibre (R137, R249). -/
namespace Sys2Proof.Machine
open Sys2Proof Sys2Proof.Claim

/-! ## What a core still performs for the fibre -/

/-- The lanes hold the fibres and the handles that they held; further results are of lane `l` of block `b`. -/
structure FibreActs (b l : Nat) (s u : State) : Prop where
  lanes : ∀ c, FibresSame (s.block c) (u.block c)
  lres : ∀ r ∈ u.lres, r ∈ s.lres ∨ r.blk = b ∧ r.lane = l

namespace FibreActs
variable {b l : Nat} {s t u : State}

theorem of_kept (h : FibresKept s u) : FibreActs b l s u := ⟨h.lanes, fun _ hr => .inl (h.lres ▸ hr)⟩

theorem trans (h : FibreActs b l s t) (h' : FibreActs b l t u) : FibreActs b l s u :=
  ⟨fun c => (h.lanes c).trans (h'.lanes c), fun r hr => (h'.lres r hr).elim (h.lres r) .inr⟩

theorem refl (b l : Nat) (s : State) : FibreActs b l s s := of_kept (.refl s)

theorem pushL (s : State) {r : LRes} (hb : r.blk = b) (hl : r.lane = l) : FibreActs b l s (pushL s r) := by
  refine ⟨fun _ => .refl _, fun q hq => ?_⟩
  rcases List.mem_append.mp hq with hq | hq
  · exact .inl hq
  · rw [List.mem_singleton.mp hq]
    exact .inr ⟨hb, hl⟩

theorem localWrite (s : State) (c k n : Nat) (p : Dword) (bs : List Byte) (bad : Bool) :
    FibreActs b l s (localWrite s c k n p bs bad) := by
  obtain ⟨⟨bl, q, hf⟩, hb⟩ := localWrite_from s c k n p bs bad
  refine of_kept ⟨fun e => ?_, by rw [hf]⟩
  rw [hb e]
  exact ⟨fun _ => ⟨rfl, rfl⟩⟩

theorem localAcquire (s : State) (core c k : Nat) (o : LocalOp) : FibreActs b l s (localAcquire s core c k o) := by
  refine of_kept ?_
  unfold Machine.localAcquire acquireAt
  dsimp only
  split
  · split
    · refine FibresKept.trans (t := s.tick.updCore core acquireCore) (.of_frame rfl rfl) ?_
      exact .updBlock _ c (g := fun x => x.updLane k (fun y => { y with tracked := [] })) (.updLane _ k (fun _ => ⟨rfl, rfl⟩))
    · exact .of_frame rfl rfl
  · exact .refl s

theorem localLoad (s : State) (core : Nat) (o : LocalOp) : FibreActs b l s (localLoad s core b l o) := by
  unfold Machine.localLoad
  dsimp only
  refine FibreActs.trans ?_ (localAcquire ..)
  split
  · refine FibreActs.trans ?_ (of_kept (.reportLane ..))
    exact pushL s rfl rfl
  · exact pushL s rfl rfl

theorem localStore (s : State) (o : LocalOp) : FibreActs b l s (localStore s b l o) := by
  unfold Machine.localStore
  split
  · exact localWrite ..
  · refine List.foldlRecOn (motive := FibreActs b l s) _ _ (refl b l s) (fun t ht i _ => ?_)
    split
    · exact ht
    · exact ht.trans (localWrite ..)

theorem atomGiven (s : State) (o : LocalOp) (ws : List Word) : FibreActs b l s (atomGiven s b l o ws) := by
  unfold Machine.atomGiven
  split
  · exact refl b l s
  · exact pushL s rfl rfl

theorem atomWritten (s : State) (o : LocalOp) (old : Nat) : FibreActs b l s (atomWritten s b l o old) := by
  unfold Machine.atomWritten
  split
  · exact localWrite ..
  · exact refl b l s

theorem localAtom (s : State) (core : Nat) (o : LocalOp) : FibreActs b l s (localAtom s core b l o) := by
  rw [localAtom_eq]
  refine FibreActs.trans ?_ (localAcquire ..)
  split
  · exact (atomGiven s o _).trans (of_kept (.reportLane ..))
  · exact (atomWritten s o _).trans (atomGiven ..)

theorem performLocal (s : State) (core : Nat) (o : LocalOp) : FibreActs b l s (performLocal s core b l o) := by
  unfold Machine.performLocal
  split
  · exact localLoad ..
  · exact localStore ..
  all_goals exact localAtom ..

theorem flushLocal (s : State) (b l : Nat) : FibreActs b l s (flushLocal s b l) := by
  unfold Machine.flushLocal
  refine List.foldlRecOn (motive := FibreActs b l s) _ _ (of_kept ?_) (fun t ht o _ => ht.trans (performLocal ..))
  exact .updBlock s b (g := fun x => x.updLane l (fun y => { y with localOps := [] })) (.updLane _ l (fun _ => ⟨rfl, rfl⟩))

end FibreActs

/-! ## The lane is empty -/

/-- The notices of a lane's handles go out, and the lane has no handle any more. -/
theorem loseHandles_eq (s : State) (b l : Nat) : ∃ q n, loseHandles s b l =
    ({ s with sgreqs := q, seq := n }).updLane b l (fun y => { y with handles := [] }) := by
  unfold loseHandles
  dsimp only
  refine Exists.imp (fun q h => Exists.imp (fun n h => congrArg (State.updLane · b l _) h) h)
    (List.foldlRecOn (motive := fun t => ∃ q n, t = { s with sgreqs := q, seq := n }) _ _ ⟨_, s.seq, rfl⟩ ?_)
  rintro t ⟨q, n, rfl⟩ h _
  split
  · exact ⟨_, _, rfl⟩
  · exact ⟨q, n, rfl⟩

theorem loseHandles_lanes (s : State) (b l : Nat) : LanesOf b (fun k x => if k = l then { x with handles := [] } else x) s
    (loseHandles s b l) ∧ (loseHandles s b l).lres = s.lres := by
  obtain ⟨q, n, h⟩ := loseHandles_eq s b l
  rw [h]
  exact ⟨(LanesOf.updLane b l (fun y => { y with handles := [] }) s).of_blocks rfl, rfl⟩

/-- The lane in which a fibre has ended. -/
def endedLane (x : Lane) : Lane :=
  { x with live := false, hmode := false, park := .run, skip := false, entering := false, held := none, due := none, stale := [] }

/-- Where the fibre ends, its lane is empty and without handles, no result of it is outstanding, and the other lanes hold the
fibres and the handles that they held. -/
structure FibreGone (b l : Nat) (s u : State) : Prop where
  gone : (u.lane b l).live = false ∧ (u.lane b l).handles = []
  others : ∀ c k, ¬ (c = b ∧ k = l) → (u.lane c k).live = (s.lane c k).live ∧ (u.lane c k).handles = (s.lane c k).handles
  lres : ∀ r ∈ u.lres, r ∈ s.lres ∧ ¬ (r.blk = b ∧ r.lane = l)

theorem endFibre_eq (s : State) (b l : Nat) : ∃ t : State, t.blocks = (loseHandles (flushLocal s b l) b l).blocks ∧
    t.lres = (flushLocal s b l).lres.filter (fun r => !(r.blk == b && r.lane == l)) ∧
    endFibre s b l = t.updLane b l endedLane := by
  have hlost := (loseHandles_lanes (flushLocal s b l) b l).2
  unfold endFibre
  dsimp only
  generalize loseHandles (flushLocal s b l) b l = t at hlost ⊢
  rw [← hlost]
  refine ⟨_, ?_, ?_, rfl⟩ <;> rfl

theorem endFibre_gone (s : State) (b l : Nat) : FibreGone b l s (endFibre s b l) := by
  obtain ⟨hlanes, hlres⟩ := FibreActs.flushLocal s b l
  obtain ⟨hlose, -⟩ := loseHandles_lanes (flushLocal s b l) b l
  obtain ⟨t, hblocks, hres, heq⟩ := endFibre_eq s b l
  have hof := (hlose.of_blocks hblocks).trans (LanesOf.updLane b l endedLane t)
  rw [heq]
  refine ⟨?_, fun c k hck => ?_, fun r hr => ?_⟩
  · rw [hof.lane, if_pos rfl, if_pos rfl]
    exact ⟨rfl, rfl⟩
  · by_cases hc : c = b
    · have hk : k ≠ l := fun h => hck ⟨hc, h⟩
      rw [hc, hof.lane, if_neg hk, if_neg hk]
      exact (hlanes b).lane k
    · have hb := hof.others c hc
      rw [State.lane_eq, hb]
      exact (hlanes c).lane k
  · obtain ⟨hr, hne⟩ := List.mem_filter.mp (hres ▸ hr : r ∈ (flushLocal s b l).lres.filter _)
    have hne : ¬ (r.blk = b ∧ r.lane = l) := fun h => by simp [h] at hne
    exact ⟨(hlres r hr).resolve_right hne, hne⟩

/-- The fibres of a list of lanes end, one after the other. -/
structure FibresGone (b : Nat) (ls : List Nat) (s u : State) : Prop where
  gone : ∀ l ∈ ls, (u.lane b l).live = false ∧ (u.lane b l).handles = []
  others : ∀ c k, ¬ (c = b ∧ k ∈ ls) → (u.lane c k).live = (s.lane c k).live ∧ (u.lane c k).handles = (s.lane c k).handles
  lres : ∀ r ∈ u.lres, r ∈ s.lres ∧ (r.blk = b → r.lane ∉ ls)

theorem FibresGone.cons {b a : Nat} {ls : List Nat} {s t u : State} (h : FibreGone b a s t) (h' : FibresGone b ls t u) :
    FibresGone b (a :: ls) s u := by
  refine ⟨fun l hl => ?_, fun c k hck => ?_, fun r hr => ?_⟩
  · by_cases hls : l ∈ ls
    · exact h'.gone l hls
    · obtain rfl := (List.mem_cons.mp hl).resolve_right hls
      obtain ⟨hlive, hhnd⟩ := h'.others b l (fun hm => hls hm.2)
      exact ⟨hlive.trans h.gone.1, hhnd.trans h.gone.2⟩
  · obtain ⟨h1, h2⟩ := h'.others c k (fun hm => hck ⟨hm.1, List.mem_cons_of_mem a hm.2⟩)
    obtain ⟨h3, h4⟩ := h.others c k (fun hm => hck ⟨hm.1, hm.2 ▸ List.mem_cons_self⟩)
    exact ⟨h1.trans h3, h2.trans h4⟩
  · obtain ⟨hin, hls⟩ := h'.lres r hr
    obtain ⟨hin, ha⟩ := h.lres r hin
    exact ⟨hin, fun hb hl => (List.mem_cons.mp hl).elim (fun hla => ha ⟨hb, hla⟩) (hls hb)⟩

theorem foldl_endFibre (b : Nat) : ∀ (ls : List Nat) (s : State), FibresGone b ls s (ls.foldl (fun t l => endFibre t b l) s)
  | [], _ => ⟨fun _ h => absurd h List.not_mem_nil, fun _ _ _ => ⟨rfl, rfl⟩, fun _ h => ⟨h, fun _ => List.not_mem_nil⟩⟩
  | a :: ls, s => .cons (endFibre_gone s b a) (foldl_endFibre b ls (endFibre s b a))

/-- What FEND does once the fibres of its lanes have ended leaves every fibre. -/
theorem fendRest_fibres (s : State) (b g : Nat) :
    FibresKept s (retireBlock (deliverPending ((sweepInstances s b g).updBlock b settleBarrier) b g) b).endRun := by
  refine FibresKept.trans ?_ (.endRun _)
  refine FibresKept.trans ?_ (.retireBlock ..)
  refine FibresKept.trans ?_ (.deliverPending ..)
  exact (FibresKept.sweepInstances s b g).trans (.updBlock _ b (.settleBarrier _))

end Sys2Proof.Machine

namespace Sys2Proof.Claim
open Sys2Proof Sys2Proof.Machine

theorem fibreEnds : FibreEnds := by
  intro f s
  obtain ⟨hgone, hothers, hlres⟩ := foldl_endFibre s.cur.blk (activeLanes f s) s
  obtain ⟨hkept, hres⟩ := fendRest_fibres ((activeLanes f s).foldl (fun t l => endFibre t s.cur.blk l) s) s.cur.blk s.cur.grp
  refine ⟨_, rfl, rfl, fun l hl => ?_, fun r hr hb => ?_, fun b l hl => ?_⟩
  · obtain ⟨hlive, hhnd⟩ := (hkept s.cur.blk).lane l
    exact ⟨hlive.trans (hgone l hl).1, hhnd.trans (hgone l hl).2⟩
  · rw [hres] at hr
    exact (hlres r hr).2 hb
  · have hl' := ((hkept b).lane l).1.symm.trans hl
    by_cases hbl : b = s.cur.blk ∧ l ∈ activeLanes f s
    · rw [hbl.1, ← State.lane_eq, (hgone l hbl.2).1] at hl'
      cases hl'
    · exact (hothers b l hbl).1.symm.trans hl'

/-- Settles O23: FSPAWN by cases on the lane it takes, FEND by what each step of the end of a fibre leaves of the lanes. -/
theorem fibres : Obligations.Fibres := ⟨spawnFibre, fibreEnds⟩

end Sys2Proof.Claim

/-! Requests to the orrery leave the core (R146, R148, R149, R152, R153). -/
namespace Sys2Proof.Machine
open Sys2Proof Sys2Proof.Claim

theorem LanesOf.from_blocks {b : Nat} {g : Nat → Lane → Lane} {s t u : State} (h : LanesOf b g t u) (hb : t.blocks = s.blocks) :
    LanesOf b g s u := ((LanesOf.refl b s).of_blocks hb).trans h

/-! ## States that read alike -/

/-- Every block reads as it did, whatever its table looks like; the rest of the state is the same. -/
structure ReadsAs (w u : State) : Prop where
  frame : u = { w with blocks := u.blocks }
  block : ∀ b, u.block b = w.block b

theorem ReadsAs.trans {w v u : State} (h : ReadsAs w v) (h' : ReadsAs v u) : ReadsAs w u :=
  ⟨by rw [h'.frame, h.frame], fun b => (h'.block b).trans (h.block b)⟩

theorem readsAs_updCurBlock_nil (w : State) (g : Nat → Lane → Lane) :
    ReadsAs w (w.updCurBlock (fun b => overLanes b [] g)) := by
  refine ⟨rfl, fun b => ?_⟩
  rw [State.updCurBlock, block_updBlock]
  split
  · next hb => rw [hb]; rfl
  · rfl

theorem readsAs_retryLanes_nil (w : State) (p : Park) : ReadsAs w (retryLanes w [] p) := by
  refine ⟨?_, (readsAs_updCurBlock_nil w _).block⟩
  have hcur : (retryLanes w [] p).cur = w.cur := by
    change { w.cur with again := w.cur.again ||| laneMask [] } = w.cur
    rw [show w.cur.again ||| laneMask [] = w.cur.again from BitVec.or_zero]
  obtain ⟨bl, c, hf⟩ := retryLanes_frame w [] p
  rw [hf] at hcur ⊢
  rw [show c = w.cur from hcur]

/-! ## One request -/

/-- The lane stands as the instruction found it: requests have left, and other lanes may have changed (R5). -/
structure StandsAs (s : State) (l : Nat) (t : State) : Prop where
  frame : t = { s with sgreqs := t.sgreqs, blocks := t.blocks, seq := t.seq }
  block : t.block s.cur.blk = { s.block s.cur.blk with lanes := (t.block s.cur.blk).lanes }
  lane : t.lane s.cur.blk l = s.lane s.cur.blk l
  seq : s.seq ≤ t.seq

namespace StandsAs
variable {s t : State} {l : Nat}

theorem refl (s : State) (l : Nat) : StandsAs s l s := ⟨rfl, rfl, rfl, Nat.le_refl _⟩

theorem cur (h : StandsAs s l t) : t.cur = s.cur := by rw [h.frame]

/-- Its operands are the ones it issued with. -/
theorem src (h : StandsAs s l t) : t.src l = s.src l := by
  have hl : (t.block s.cur.blk).lane l = (s.block s.cur.blk).lane l := h.lane
  have hshapes : (t.block s.cur.blk).shapes = (s.block s.cur.blk).shapes := by rw [h.block]
  have hlive : State.liveSrc (t.block s.cur.blk) l = State.liveSrc (s.block s.cur.blk) l := by
    simp only [State.liveSrc, hl, hshapes]
  have hheld : t.heldSrc l = s.heldSrc l := by simp only [State.heldSrc, h.cur, h.lane]
  simp only [State.src, hheld, h.cur, hlive]

theorem part (h : StandsAs s l t) : t.curLaunch.part = s.curLaunch.part := by
  have hlaunch : ∀ k, t.launch k = s.launch k := fun k => by rw [h.frame]; rfl
  have htag : (t.block s.cur.blk).tag = (s.block s.cur.blk).tag := by rw [h.block]
  have hcur : t.curTag = s.curTag := by rw [State.curTag, State.curBlock, h.cur, htag]; rfl
  rw [State.curLaunch, hlaunch, hcur]; rfl

end StandsAs

/-- The request is what its lane asks, as `kind` says. -/
def AskedBy (f : Fields) (s : State) (kind : Nat → SgKind) (r : SgReq) : Prop :=
  r.blk = s.cur.blk ∧ r.h = f.sc.toNat ∧ r.kind = kind r.lane ∧ s.seq ≤ r.seq ∧ r.part = s.curLaunch.part ∧
  r.pc = s.cur.pc ∧ r.dead = false

/-- One request of each lane of the list leaves the core, and `P` holds of it; these lanes change as `g` says. -/
structure Asked (f : Fields) (s : State) (kind : Nat → SgKind) (P : SgReq → Prop) (ls : List Nat) (g : Nat → Lane → Lane)
    (t u : State) : Prop where
  reqs : ∃ new : List SgReq, u = { t with sgreqs := t.sgreqs ++ new, blocks := u.blocks, seq := u.seq } ∧
    new.map (·.lane) = ls ∧ ∀ r ∈ new, AskedBy f s kind r ∧ P r
  lanes : LanesOf s.cur.blk (fun k x => if k ∈ ls then g k x else x) t u
  seq : t.seq ≤ u.seq

section
variable {f : Fields} {s t u w : State} {kind : Nat → SgKind} {P : SgReq → Prop} {ls : List Nat} {g : Nat → Lane → Lane} {l : Nat}

/-- A request of a lane that stands as the instruction found it. -/
theorem asked_sgRequest (h : StandsAs s l t) (inst d ps : Nat) (hd : Handle) (phase : Word)
    (hP : ∀ r : SgReq, r.lane = l → r.hnd = hd → r.phase = phase → P r) :
    Asked f s kind P [l] (fun _ x => x) t (sgRequest t l inst f.sc.toNat hd (kind l) d ps phase) := by
  refine ⟨⟨_, rfl, rfl, fun r hr => ?_⟩, ((LanesOf.refl _ t).congr (fun k => ?_)).of_blocks rfl, Nat.le_succ _⟩
  · rw [List.mem_singleton.mp hr]
    exact ⟨⟨congrArg Cur.blk h.cur, rfl, rfl, h.seq, h.part, congrArg Cur.pc h.cur, rfl⟩, hP _ rfl rfl rfl⟩
  · exact (ite_self _).symm

/-- The lane that has asked changes. -/
theorem Asked.updCurLane (h : Asked f s kind P [l] (fun _ x => x) t u) (hc : t.cur = s.cur) (g : Nat → Lane → Lane) :
    Asked f s kind P [l] g t (u.updCurLane l (g l)) := by
  obtain ⟨⟨new, hu, hnew, hr⟩, hlanes, hseq⟩ := h
  have hcur : u.cur = s.cur := by rw [hu]; exact hc
  have hupd : u.updCurLane l (g l) = u.updLane s.cur.blk l (g l) := by rw [State.updCurLane, hcur]
  rw [hupd]
  refine ⟨⟨new, ?_, hnew, hr⟩, (hlanes.trans (LanesOf.updLane _ l (g l) u)).congr (fun k => ?_), hseq⟩
  · have hset : u.updLane s.cur.blk l (g l) = { u with blocks := (u.updLane s.cur.blk l (g l)).blocks } := rfl
    rw [hset, hu]
  · simp only [ite_self, List.mem_singleton]
    split
    · next hk => rw [hk]
    · rfl

theorem Asked.cons {a : Nat} (ha : a ∉ ls) (h : Asked f s kind P [a] g t u) (h' : Asked f s kind P ls g u w) :
    Asked f s kind P (a :: ls) g t w := by
  obtain ⟨⟨new, hu, hnew, hr⟩, hlanes, hseq⟩ := h
  obtain ⟨⟨new', hw, hnew', hr'⟩, hlanes', hseq'⟩ := h'
  refine ⟨⟨new ++ new', ?_, ?_, fun r hm => ?_⟩, (hlanes.trans hlanes').congr (fun k => ?_), Nat.le_trans hseq hseq'⟩
  · rw [hw, hu, List.append_assoc]
  · rw [List.map_append, hnew, hnew']; rfl
  · exact (List.mem_append.mp hm).elim (hr r) (hr' r)
  · by_cases hk : k = a
    · subst hk; simp [ha]
    · simp [hk]

/-- A lane that has not asked yet still stands as the instruction found it. -/
theorem Asked.standsAs {k : Nat} (h : Asked f s kind P [l] g t u) (hk : k ≠ l) (hs : StandsAs s k t) : StandsAs s k u := by
  obtain ⟨⟨new, hu, -⟩, hlanes, hseq⟩ := h
  refine ⟨?_, ?_, ?_, Nat.le_trans hs.seq hseq⟩
  · rw [hu, hs.frame]
  · rw [hlanes.block, hs.block]
  · rw [hlanes.lane, if_neg (fun h => hk (List.mem_singleton.mp h)), hs.lane]

/-- The lanes ask one after the other. -/
theorem asked_foldl {act : Nat → State → State}
    (hact : ∀ l t, StandsAs s l t → Asked f s kind P [l] g t (act l t)) :
    ∀ (ls : List Nat) (t : State), ls.Nodup → (∀ l ∈ ls, StandsAs s l t) → Asked f s kind P ls g t (ls.foldl (fun st l => act l st) t)
  | [], t, _, _ => ⟨⟨[], by simp, rfl, fun _ h => absurd h List.not_mem_nil⟩, (LanesOf.refl _ t).congr (fun _ => rfl), Nat.le_refl _⟩
  | a :: ls, t, hn, hs => by
    obtain ⟨ha, hn⟩ := List.nodup_cons.mp hn
    have hone := hact a t (hs a List.mem_cons_self)
    refine hone.cons ha (asked_foldl hact ls (act a t) hn (fun l hl => ?_))
    exact hone.standsAs (fun h => ha (h ▸ hl)) (hs l (List.mem_cons_of_mem a hl))

theorem Asked.readsAs (h : Asked f s kind P ls g t w) (hr : ReadsAs w u) : Asked f s kind P ls g t u := by
  obtain ⟨⟨new, hw, hnew, hP⟩, hlanes, hseq⟩ := h
  refine ⟨⟨new, ?_, hnew, hP⟩, ⟨fun c hc => (hr.block c).trans (hlanes.others c hc), ?_, fun k => ?_⟩, ?_⟩
  · rw [hr.frame, hw]
  · rw [hr.block]; exact hlanes.block
  · rw [State.lane_eq, hr.block]; exact hlanes.lane k
  · rw [hr.frame]; exact hseq

/-! ## The requests of an instruction -/

theorem Asked.requests (h : Asked f s kind P (activeLanes f s) g s u) : Requests f s u kind := by
  obtain ⟨⟨new, hu, hnew, hr⟩, -, -⟩ := h
  refine ⟨?_, new, ?_, hnew, fun r hm => (hr r hm).1⟩
  · rw [hu]
  · rw [hu]

theorem Asked.lanesChange {Q : Nat → Lane → Lane → Prop} (h : Asked f s kind P (activeLanes f s) g s u)
    (hQ : ∀ l x, Q l x (g l x)) : LanesChange f s u Q := by
  refine ⟨⟨h.lanes.others, h.lanes.block⟩, fun l => ⟨fun hl => ?_, fun hl => ?_⟩⟩
  · rw [h.lanes.lane, if_pos hl]; exact hQ l _
  · rw [h.lanes.lane, if_neg hl]

theorem Asked.new (h : Asked f s kind P ls g s u) : ∀ r ∈ u.sgreqs, r ∉ s.sgreqs → P r := by
  obtain ⟨⟨new, hu, -, hr⟩, -, -⟩ := h
  intro r hm hold
  rw [hu] at hm
  exact (hr r ((List.mem_append.mp hm).resolve_left hold)).2

/-- What an instruction does by its lanes' handles. -/
theorem sgLanes_eq (f : Fields) (s : State) (act : Nat → Handle → State → State) :
    let ls := activeLanes f s
    let mine := ls.filter (fun l => (hnd f s l).live && !(hnd f s l).joining)
    let stale := mine.filter (fun l => !sgCurrent s (hnd f s l))
    let acted := (mine.filter (fun l => sgCurrent s (hnd f s l))).foldl (fun st l => act l (hnd f s l) st) s
    sgLanes f s act = raiseHere (retryLanes (acted.updCurBlock (fun b => overLanes b stale (fun _ y => y.setHandle f.sc.toNat {})))
      (ls.filter (fun l => (hnd f s l).joining)) (.joinHeld f.sc.toNat))
      ((ls.filter (fun l => !(hnd f s l).live) ++ stale).map (fun l => sgFault l f.sc.toNat)) := rfl

/-- Where every lane's handle is good, the instruction does what its lanes do, and nothing is raised. -/
theorem sgLanes_good (h : ∀ l ∈ activeLanes f s, HandleGood f s l) (act : Nat → Handle → State → State) :
    ReadsAs ((activeLanes f s).foldl (fun st l => act l (hnd f s l) st) s) (sgLanes f s act) := by
  have hheld : (activeLanes f s).filter (fun l => (hnd f s l).joining) = [] :=
    List.filter_eq_nil_iff.mpr (fun l hl => by simp [(h l hl).2.1])
  have hbad : (activeLanes f s).filter (fun l => !(hnd f s l).live) = [] :=
    List.filter_eq_nil_iff.mpr (fun l hl => by simp [(h l hl).1])
  have hmine : (activeLanes f s).filter (fun l => (hnd f s l).live && !(hnd f s l).joining) = activeLanes f s :=
    List.filter_eq_self.mpr (fun l hl => by simp [(h l hl).1, (h l hl).2.1])
  have hcur : (activeLanes f s).filter (fun l => sgCurrent s (hnd f s l)) = activeLanes f s :=
    List.filter_eq_self.mpr (fun l hl => (h l hl).2.2)
  have hstale : (activeLanes f s).filter (fun l => !sgCurrent s (hnd f s l)) = [] :=
    List.filter_eq_nil_iff.mpr (fun l hl => by simp [(h l hl).2.2])
  rw [sgLanes_eq]
  rw [hheld, hbad, hmine, hcur, hstale]
  exact (readsAs_updCurBlock_nil _ _).trans (readsAs_retryLanes_nil _ _)

/-- What the lanes of an instruction ask, each with a good handle. -/
theorem asked_sgLanes (h : ∀ l ∈ activeLanes f s, HandleGood f s l) {act : Nat → Handle → State → State}
    (hact : ∀ l t, StandsAs s l t → Asked f s kind P [l] g t (act l (hnd f s l) t)) :
    Asked f s kind P (activeLanes f s) g s (sgLanes f s act) :=
  (asked_foldl (act := fun l t => act l (hnd f s l) t) hact _ s (activeLanes_nodup f s) (fun l _ => .refl s l)).readsAs
    (sgLanes_good h act)

/-- The request carries the handle as its lane holds it, and asks at its NEXT. -/
def AtNext (f : Fields) (s : State) (r : SgReq) : Prop := r.phase = (hnd f s r.lane).next ∧ r.hnd = hnd f s r.lane

theorem asked_atNext (h : StandsAs s l t) (inst d ps : Nat) :
    Asked f s kind (AtNext f s) [l] (fun _ x => x) t
      (sgRequest t l inst f.sc.toNat (hnd f s l) (kind l) d ps (hnd f s l).next) :=
  asked_sgRequest h inst d ps _ _ (fun r hl hh hp => by rw [AtNext, hl]; exact ⟨hp, hh⟩)

end

/-- A lane whose handle register is set. -/
theorem handleSet_setHandle (h : Nat) (v : Handle) (p : Park) (x : Lane) :
    HandleSet h v p x { x.setHandle h v with park := p } :=
  ⟨rfl, tget_tput_same .., fun _ hk => tget_tput_ne _ _ _ hk⟩

/-! ## Arrivals -/

section
variable {f : Fields} {s : State}

/-- The lane that has arrived. -/
def arrivedLane (f : Fields) (s : State) (park : Option (Word → Park)) (l : Nat) (x : Lane) : Lane :=
  let z := x.setHandle f.sc.toNat { hnd f s l with next := (hnd f s l).next + 1 }
  match park with
  | some p => { z with park := p (hnd f s l).next }
  | none => z

theorem asked_sgArrive {inst : Nat} {kind : Src → SgKind} {park : Option (Word → Park)} {l : Nat} {t : State}
    (h : StandsAs s l t) :
    Asked f s (fun l => kind (s.src l)) (AtNext f s) [l] (arrivedLane f s park) t (sgArrive f inst kind park l (hnd f s l) t) := by
  unfold sgArrive
  dsimp only
  rw [h.src]
  exact (asked_atNext (kind := fun l => kind (s.src l)) h inst f.d.toNat (f.immBits 3 0)).updCurLane h.cur (arrivedLane f s park)

theorem handleSet_arrivedLane (park : Option (Word → Park)) (l : Nat) (x : Lane) :
    HandleSet f.sc.toNat { hnd f s l with next := (hnd f s l).next + 1 }
      ((park.map (fun p => p (hnd f s l).next)).getD x.park) x (arrivedLane f s park l x) := by
  cases park with
  | some p => exact handleSet_setHandle ..
  | none => exact handleSet_setHandle ..

/-- What an arrival asks, and how its lanes wait. -/
theorem arrival_asks (hg : ∀ l ∈ activeLanes f s, HandleGood f s l) (kind : Src → SgKind) (park : Option (Word → Park)) :
    let u := sgLanes f s (sgArrive f s.seq kind park)
    Requests f s u (fun l => kind (s.src l)) ∧
    LanesChange f s u (fun l x y => HandleSet f.sc.toNat { hnd f s l with next := (hnd f s l).next + 1 }
      ((park.map (fun p => p (hnd f s l).next)).getD x.park) x y) ∧
    ∀ r ∈ u.sgreqs, r ∉ s.sgreqs → AtNext f s r := by
  have h := asked_sgLanes (kind := fun l => kind (s.src l)) (P := AtNext f s) (g := arrivedLane f s park) hg
    (act := sgArrive f s.seq kind park) (fun l t ht => asked_sgArrive ht)
  exact ⟨h.requests, h.lanesChange (handleSet_arrivedLane park), h.new⟩

end

end Sys2Proof.Machine

/-! A handle whose group is gone (R248, R290). -/
namespace Sys2Proof.Machine
open Sys2Proof Sys2Proof.Claim

/-- What a fault of a lane at its slot leaves that no handler may take. -/
structure StopsHere (l : Nat) (code : BitVec 8) (t u : State) : Prop where
  sgreqs : u.sgreqs = t.sgreqs
  lane : u.lane t.cur.blk l = { t.lane t.cur.blk l with pc := t.cur.pc, park := .stopped }
  ended : u.cur.ended = true
  launch : terminates code 0 = true → t.curLaunch.used = true → t.curLaunch.complete = false →
    (u.launch t.curTag).terminating = true

theorem raiseHere_stops {t : State} {l : Nat} {code : BitVec 8} (v : Dword) (hl : l ∈ t.curLanes) (hr : routed code = false) :
    StopsHere l code t (raiseHere t (alike code [(l, v)])) := by
  have hls : ∀ k ∈ [l], k ∈ t.curLanes := fun k hk => by rw [List.mem_singleton.mp hk]; exact hl
  have hmask : lanesMask [l] ≠ 0 := lanesMask_ne_zero hls (List.mem_singleton.mpr rfl)
  have hmem : l ∈ (maskLanes (lanesMask [l])).map (32 * t.cur.grp + ·) := (mem_lanesMask hls).mpr (List.mem_singleton.mpr rfl)
  rw [raiseHere, raiseFaults_alike (a := (l, v)) rfl, raiseCause_fatal _ _ hmask (.inl hr)]
  have hlane := standAt_lane t [l] t.cur.pc l
  have htag := standAt_tag t [l] t.cur.pc
  have hlaunch := standAt_launch t [l] t.cur.pc
  obtain ⟨c, hstand⟩ := standAt_frame t [l] t.cur.pc
  have hreqs : (standAt t [l] t.cur.pc).sgreqs = t.sgreqs := by rw [hstand]; rfl
  simp only [List.map_cons, List.map_nil]
  generalize standAt t [l] t.cur.pc = y at hlane htag hlaunch hreqs ⊢
  rw [htag]
  have hrep : ∀ r, (report (y.updBlock t.cur.blk (fun x => stopLanes x t.cur.grp (lanesMask [l]))) t.curTag r).blocks =
        (y.updBlock t.cur.blk (fun x => stopLanes x t.cur.grp (lanesMask [l]))).blocks ∧
      (report (y.updBlock t.cur.blk (fun x => stopLanes x t.cur.grp (lanesMask [l]))) t.curTag r).sgreqs = y.sgreqs := by
    intro r
    rw [report_frame]
    exact ⟨rfl, rfl⟩
  refine ⟨?_, ?_, rfl, fun ht hused hcomp => ?_⟩
  · rw [State.endRun_sgreqs, (hrep _).2, hreqs]
  · have hblk : (State.updBlock y t.cur.blk (fun x => stopLanes x t.cur.grp (lanesMask [l]))).block t.cur.blk =
        stopLanes (y.block t.cur.blk) t.cur.grp (lanesMask [l]) := by rw [block_updBlock, if_pos rfl]
    rw [State.lane_eq, State.endRun_block, block_of_blocks (hrep _).1, hblk, stopLanes_lane, if_pos hmem,
      hlane, if_pos (List.mem_singleton.mpr rfl)]
  · have hl0 : (y.updBlock t.cur.blk (fun x => stopLanes x t.cur.grp (lanesMask [l]))).launch t.curTag = t.curLaunch :=
      hlaunch t.curTag
    rw [State.endRun_launch, report_launch (by rw [hl0]; exact hused), hl0]
    simp [ht, hcomp]

section
variable {f : Fields} {s : State} {l : Nat} (hls : activeLanes f s = [l]) (hlive : (hnd f s l).live = true)
  (hj : (hnd f s l).joining = false) (hc : sgCurrent s (hnd f s l) = false)
include hls hlive hj hc

/-- A lane with a stale handle does nothing but lose it, and stops. -/
theorem sgLanes_stale (act : Nat → Handle → State → State) : ∃ t, ReadsAs (s.updCurLane l (fun y => y.setHandle f.sc.toNat {})) t ∧
    sgLanes f s act = raiseHere t (alike Code.sgHandle [(l, BitVec.ofNat 64 f.sc.toNat)]) := by
  have hheld : [l].filter (fun l => (hnd f s l).joining) = [] := by simp [hj]
  have hbad : [l].filter (fun l => !(hnd f s l).live) = [] := by simp [hlive]
  have hmine : [l].filter (fun l => (hnd f s l).live && !(hnd f s l).joining) = [l] := by simp [hlive, hj]
  have hcur : [l].filter (fun l => sgCurrent s (hnd f s l)) = [] := by simp [hc]
  have hstale : [l].filter (fun l => !sgCurrent s (hnd f s l)) = [l] := by simp [hc]
  refine ⟨_, readsAs_retryLanes_nil _ (.joinHeld f.sc.toNat), ?_⟩
  rw [sgLanes_eq, hls, hheld, hbad, hmine, hcur, hstale]
  rfl

theorem sgLanes_stale_stops (act : Nat → Handle → State → State) :
    let u := sgLanes f s act
    u.sgreqs = s.sgreqs ∧ (u.lane s.cur.blk l).handle f.sc.toNat = {} ∧
    (u.lane s.cur.blk l).park = .stopped ∧ (u.lane s.cur.blk l).pc = s.cur.pc ∧ u.cur.ended = true ∧
    (s.curLaunch.used = true → s.curLaunch.complete = false → (u.launch s.curTag).terminating = true) := by
  obtain ⟨t, hr, hu⟩ := sgLanes_stale hls hlive hj hc act
  have hof : LanesOf s.cur.blk _ s (s.updCurLane l (fun y => y.setHandle f.sc.toNat {})) :=
    LanesOf.updLane s.cur.blk l (fun y => y.setHandle f.sc.toNat {}) s
  have hcur : t.cur = s.cur := by rw [hr.frame]; rfl
  have hblock := hr.block s.cur.blk
  have hlane : t.lane s.cur.blk l = (s.lane s.cur.blk l).setHandle f.sc.toNat {} := by
    rw [State.lane_eq, hblock, ← State.lane_eq, hof.lane, if_pos rfl]
  have htag : t.curTag = s.curTag := by
    rw [State.curTag, State.curBlock, hcur, hblock, hof.block]; rfl
  have hlaunch : t.curLaunch = s.curLaunch := by
    rw [State.curLaunch, htag]
    rw [hr.frame]; rfl
  have hl : l ∈ t.curLanes := by
    have hm : l ∈ s.curLanes := List.mem_of_mem_filter (hls ▸ List.mem_singleton.mpr rfl : l ∈ activeLanes f s)
    rw [State.curLanes, hcur]
    exact hm
  obtain ⟨hreqs, hstop, hend, hterm⟩ := raiseHere_stops (BitVec.ofNat 64 f.sc.toNat) hl (code := Code.sgHandle) rfl
  rw [hcur] at hstop
  rw [hlaunch, htag] at hterm
  intro u
  simp only [u, hu]
  refine ⟨?_, ?_, ?_, ?_, hend, hterm rfl⟩
  · rw [hreqs, hr.frame]; rfl
  · rw [hstop, hlane]
    exact (handleSet_setHandle f.sc.toNat {} .stopped (s.lane s.cur.blk l)).2.1
  · rw [hstop]
  · rw [hstop]

end

end Sys2Proof.Machine

namespace Sys2Proof.Claim
open Sys2Proof Sys2Proof.Machine

/-! ## The instructions -/

section
variable {f : Fields} {s : State}

/-- What SGJOIN does in a lane with an empty handle. -/
def joinActs (f : Fields) (s : State) (l : Nat) (st : State) : State :=
  (sgRequest st l s.seq f.sc.toNat {} (.join (rdB32 f (s.src l))) f.d.toNat 15 0).updCurLane l
    (fun y => y.setHandle f.sc.toNat { live := true, joining := true })

theorem exec_sgjoin (f : Fields) (s : State) : exec (.sgjoin f) s = .next (raiseHere
    (((activeLanes f s).filter (fun l => !(hnd f s l).live)).foldl (fun st l => joinActs f s l st) s)
    (((activeLanes f s).filter (fun l => (hnd f s l).live)).map (fun l => sgFault l f.sc.toNat))) := rfl

theorem sgjoin_asks (h : ∀ l ∈ activeLanes f s, (hnd f s l).live = false) :
    ∃ u, exec (.sgjoin f) s = .next u ∧ Requests f s u (fun l => .join (rdB32 f (s.src l))) ∧
      LanesChange f s u (fun _ x y => HandleSet f.sc.toNat { live := true, joining := true } x.park x y) := by
  have hbad : (activeLanes f s).filter (fun l => (hnd f s l).live) = [] :=
    List.filter_eq_nil_iff.mpr (fun l hl => by simp [h l hl])
  have hgood : (activeLanes f s).filter (fun l => !(hnd f s l).live) = activeLanes f s :=
    List.filter_eq_self.mpr (fun l hl => by simp [h l hl])
  have hexec := exec_sgjoin f s
  rw [hbad, hgood, List.map_nil, raiseHere_nil] at hexec
  have hasked : Asked f s (fun l => .join (rdB32 f (s.src l))) (fun _ => True) (activeLanes f s)
      (fun _ y => y.setHandle f.sc.toNat { live := true, joining := true }) s
      ((activeLanes f s).foldl (fun st l => joinActs f s l st) s) :=
    asked_foldl (fun l t ht => (asked_sgRequest (kind := fun l => .join (rdB32 f (s.src l))) ht _ _ _ _ _
      (fun _ _ _ _ => trivial)).updCurLane ht.cur _) _ s (activeLanes_nodup f s) (fun l _ => .refl s l)
  exact ⟨_, hexec, hasked.requests, hasked.lanesChange (fun _ x => handleSet_setHandle ..)⟩

variable (hg : ∀ l ∈ activeLanes f s, HandleGood f s l)
include hg

theorem arrivals_ask : ∀ a ∈ arrivals f s, ∃ u, exec (a.1 f) s = .next u ∧ Requests f s u a.2.1 ∧
    LanesChange f s u (fun l x y => HandleSet f.sc.toNat { hnd f s l with next := (hnd f s l).next + 1 } (a.2.2 l x.park) x y) ∧
    ∀ r ∈ u.sgreqs, r ∉ s.sgreqs → AtNext f s r := by
  simp only [arrivals, List.forall_mem_cons]
  refine ⟨?_, ?_, ?_, ?_, ?_, fun _ h => absurd h List.not_mem_nil⟩
  · exact ⟨_, rfl, arrival_asks hg (fun _ => .arrive) none⟩
  · exact ⟨_, rfl, arrival_asks hg (fun _ => .bar) (some (fun t => .sgbar f.sc.toNat t f.d.toNat s.cur.pc))⟩
  · exact ⟨_, rfl, arrival_asks hg (fun x => .vote (f.subBits 33 32) (x.pred f.sa.toNat)) none⟩
  · exact ⟨_, rfl, arrival_asks hg (fun x => .red (f.subBits 35 32) f.t (BitVec.ofNat 64 (rdT x f.t f.sa.toNat))) none⟩
  · exact ⟨_, rfl, arrival_asks hg (fun x =>
      .bcast (f.t == .b64) (x.pred f.sb.toNat) (BitVec.ofNat 64 (rdT x f.t f.sa.toNat))) none⟩

theorem sgleave_asks : ∃ u, exec (.sgleave f) s = .next u ∧ Requests f s u (fun _ => .leave) ∧
    LanesChange f s u (fun _ x y => HandleSet f.sc.toNat {} x.park x y) := by
  have h := asked_sgLanes (kind := fun _ => .leave) hg (act := fun l hd st =>
    (sgRequest st l s.seq f.sc.toNat hd .leave 0 15 hd.next).updCurLane l (fun y => y.setHandle f.sc.toNat {}))
    (fun l t ht => (asked_atNext ht _ _ _).updCurLane ht.cur (fun _ y => y.setHandle f.sc.toNat {}))
  exact ⟨_, rfl, h.requests, h.lanesChange (fun _ x => handleSet_setHandle ..)⟩

/-- A request that leaves its lane as it is. -/
theorem quiet_asks (kind : SgKind) (d : Nat) :
    let u := sgLanes f s (fun l hd st => sgRequest st l s.seq f.sc.toNat hd kind d 15 hd.next)
    Requests f s u (fun _ => kind) ∧ LanesChange f s u (fun _ x y => y = x) := by
  have h := asked_sgLanes (kind := fun _ => kind) hg (act := fun l hd st =>
    sgRequest st l s.seq f.sc.toNat hd kind d 15 hd.next) (fun l t ht => asked_atNext ht _ _ _)
  exact ⟨h.requests, h.lanesChange (fun _ _ => rfl)⟩

end

theorem namedGroupRequests : NamedGroupRequests := by
  intro f s
  refine ⟨sgjoin_asks, fun hg => ⟨arrivals_ask hg, sgleave_asks hg, ?_, ?_⟩, fun mk l hmk hls hlive hj hc => ?_⟩
  · exact ⟨_, rfl, quiet_asks hg (.query (f.subBits 33 32)) f.d.toNat⟩
  · exact ⟨_, rfl, quiet_asks hg .close 0⟩
  · have hexec : ∃ act, exec (mk f) s = .next (sgLanes f s act) := by
      simp only [List.mem_cons, List.not_mem_nil, or_false] at hmk
      rcases hmk with rfl | rfl | rfl | rfl | rfl | rfl | rfl | rfl | rfl
      all_goals exact ⟨_, rfl⟩
    obtain ⟨act, hexec⟩ := hexec
    exact ⟨_, hexec, sgLanes_stale_stops hls hlive hj hc act⟩

end Sys2Proof.Claim

/-! SGWAIT of good handles (R150). -/
namespace Sys2Proof.Claim
open Sys2Proof Sys2Proof.Machine

/-- What SGWAIT does in a lane. -/
def waitActs (f : Fields) (s : State) (l : Nat) (hd : Handle) (st : State) : State :=
  let t := (s.src l).reg f.sa.toNat
  let e := sgEntry st hd
  if phaseDone e.phase t then
    acquire (st.updCurLane l (fun y => y.setPred f.d.toNat (phaseKept e t))) st.cur.pier st.cur.blk l st.cur.pc
  else st.updCurLane l (fun y => { y with park := .sgwait f.sc.toNat t f.d.toNat s.cur.pc })

theorem exec_sgwait (f : Fields) (s : State) : exec (.sgwait f) s = .next (sgLanes f s (waitActs f s)) := rfl

section
variable {f : Fields} {s : State}

/-- The lane that waits for its phase. -/
def waitingLane (f : Fields) (s : State) (l : Nat) (y : Lane) : Lane :=
  { y with park := .sgwait f.sc.toNat ((s.src l).reg f.sa.toNat) f.d.toNat s.cur.pc }

/-- Where no lane's phase has completed, each parks. -/
theorem foldl_waitActs (h : ∀ l ∈ activeLanes f s, phaseDone (sgEntry s (hnd f s l)).phase ((s.src l).reg f.sa.toNat) = false) :
    let w := (activeLanes f s).foldl (fun st l => waitActs f s l (hnd f s l) st) s
    w = { s with blocks := w.blocks } ∧
      LanesOf s.cur.blk (fun l x => if l ∈ activeLanes f s then waitingLane f s l x else x) s w := by
  obtain ⟨hw, hframe, -⟩ := foldl_congr_rest (g := fun st l => waitActs f s l (hnd f s l) st)
    (h := fun st l => st.updLane s.cur.blk l (waitingLane f s l))
    (I := fun r t => t = { s with blocks := t.blocks } ∧ ∀ l ∈ r, l ∈ activeLanes f s) (x := s)
    (as := activeLanes f s) (fun l r t ht => by
      obtain ⟨hf, hin⟩ := ht
      have hpark : phaseDone (sgEntry t (hnd f s l)).phase ((s.src l).reg f.sa.toNat) = false := by
        rw [hf]; exact h l (hin l List.mem_cons_self)
      refine ⟨?_, ?_, fun k hk => hin k (List.mem_cons_of_mem l hk)⟩
      · dsimp only [waitActs]
        rw [hpark, if_neg Bool.false_ne_true, State.updCurLane, show t.cur = s.cur by rw [hf]]
        rfl
      · have hupd : t.updLane s.cur.blk l (waitingLane f s l) =
            { t with blocks := (t.updLane s.cur.blk l (waitingLane f s l)).blocks } := rfl
        exact blocksOnly_trans hf hupd) ⟨rfl, fun _ h => h⟩
  intro w
  have hw : w = _ := hw
  rw [hw]
  exact ⟨hframe, LanesOf.foldl (I := fun _ _ => True) (fun l _ t _ => ⟨.updLane .., trivial⟩) (activeLanes_nodup f s) trivial⟩

theorem sgwait_parks (h : ∀ l ∈ activeLanes f s, HandleGood f s l ∧
      phaseDone (sgEntry s (hnd f s l)).phase ((s.src l).reg f.sa.toNat) = false) :
    PerLane f s (sgLanes f s (waitActs f s)) (fun _ x l l' =>
      l' = { l with park := .sgwait f.sc.toNat (x.reg f.sa.toNat) f.d.toNat s.cur.pc }) := by
  obtain ⟨hframe, hlanes⟩ := foldl_waitActs (fun l hl => (h l hl).2)
  have hr := sgLanes_good (fun l hl => (h l hl).1) (waitActs f s)
  generalize (activeLanes f s).foldl (fun st l => waitActs f s l (hnd f s l) st) s = w at hframe hlanes hr
  generalize sgLanes f s (waitActs f s) = u at hr ⊢
  have hlane : ∀ l, u.lane s.cur.blk l = if l ∈ activeLanes f s then waitingLane f s l (s.lane s.cur.blk l)
      else s.lane s.cur.blk l := fun l => by rw [State.lane_eq, hr.block]; exact hlanes.lane l
  refine ⟨⟨blocksOnly_trans hframe hr.frame, fun b hb => (hr.block b).trans (hlanes.others b hb), ?_⟩,
    fun l => ⟨fun hl => ?_, fun hl => ?_⟩⟩
  · rw [hr.block]; exact hlanes.block
  · rw [hlane, if_pos hl]; rfl
  · rw [hlane, if_neg hl]

/-- A lane that sets a predicate may acquire when it might before. -/
theorem acquireOk_setPred (s : State) (c b l q d : Nat) (v : Bool) :
    acquireOk (s.updLane b l (fun y => y.setPred d v)) c b l q = acquireOk s c b l q := by
  have hlane := ((LanesOf.updLane b l (fun y => y.setPred d v) s).lane l).trans (if_pos rfl)
  unfold acquireOk readsDone trackedDone
  rw [hlane, Lane.setPred_localOps, Lane.setPred_tracked]
  rfl

/-- The state in which lane `l` has the predicate of its phase and its acquire is complete. -/
def wokenHere (f : Fields) (l : Nat) (v : Bool) (s : State) : State :=
  acquireNow (s.updLane s.cur.blk l (fun y => y.setPred f.d.toNat v)).tick s.cur.pier s.cur.blk l

theorem waitActs_done {l : Nat} {hd : Handle} (hp : phaseDone (sgEntry s hd).phase ((s.src l).reg f.sa.toNat) = true)
    (ha : acquireOk s s.cur.pier s.cur.blk l s.seq = true) :
    waitActs f s l hd s = wokenHere f l (phaseKept (sgEntry s hd) ((s.src l).reg f.sa.toNat)) s := by
  dsimp only [waitActs]
  rw [if_pos hp, acquire, acquireAt]
  exact if_pos ((acquireOk_setPred ..).trans ha)

theorem wokenHere_lanes (f : Fields) (l : Nat) (v : Bool) (s : State) : LanesOf s.cur.blk
    (fun k x => if k = l then { x.setPred f.d.toNat v with tracked := [] } else x) s (wokenHere f l v s) := by
  let t := (s.updLane s.cur.blk l (fun y => y.setPred f.d.toNat v)).tick
  have hset : LanesOf s.cur.blk _ s t := (LanesOf.updLane s.cur.blk l (fun y => y.setPred f.d.toNat v) s).of_blocks rfl
  have hacq : LanesOf s.cur.blk _ t (wokenHere f l v s) :=
    (LanesOf.updLane s.cur.blk l (fun y => { y with tracked := [] }) (t.updCore s.cur.pier acquireCore)).from_blocks rfl
  refine (hset.trans hacq).congr (fun k => ?_)
  by_cases hk : k = l
  · simp only [if_pos hk]
  · simp only [if_neg hk]

theorem wokenHere_frame (f : Fields) (l : Nat) (v : Bool) (s : State) : wokenHere f l v s = { s with
    blocks := (wokenHere f l v s).blocks, cores := (wokenHere f l v s).cores, seq := (wokenHere f l v s).seq } := rfl

theorem wokenHere_core (f : Fields) (l : Nat) (v : Bool) (s : State) :
    (wokenHere f l v s).core s.cur.pier = acquireCore (s.core s.cur.pier) := by
  rw [wokenHere, acquireNow, State.updLane_eq, State.core_setBlock, core_updCore, if_pos rfl]
  rfl

/-- The lane of a completed phase has its predicate, and tracks nothing. -/
theorem predSet_woken (d : Nat) (v : Bool) (x : Lane) :
    PredSet d v (fun z => { z with tracked := [] }) x { x.setPred d v with tracked := [] } := by
  obtain ⟨hx, hp⟩ := predSet_setPred d v x
  exact ⟨congrArg (fun z : Lane => { z with tracked := [] }) hx, hp⟩

end

theorem sgwait_goes_on {f : Fields} {s : State} {l : Nat} (hls : activeLanes f s = [l]) (hg : HandleGood f s l)
    (hp : phaseDone (sgEntry s (hnd f s l)).phase ((s.src l).reg f.sa.toNat) = true)
    (ha : acquireOk s s.cur.pier s.cur.blk l s.seq = true) :
    let u := sgLanes f s (waitActs f s)
    u = { s with blocks := u.blocks, cores := u.cores, seq := u.seq } ∧
      LanesChange f s u (fun k x y => PredSet f.d.toNat
        (tget 0 (sgEntry s (hnd f s k)).lost ((s.src k).reg f.sa.toNat).toNat == 0) (fun z => { z with tracked := [] }) x y) ∧
      (u.core s.cur.pier).l1 = (s.core s.cur.pier).l1.filter (fun w => (s.core s.cur.pier).l1Owned.contains w.1) := by
  have hr := sgLanes_good (fun k hk => by rw [hls, List.mem_singleton] at hk; rw [hk]; exact hg) (waitActs f s)
  rw [hls, List.foldl_cons, List.foldl_nil, waitActs_done hp ha] at hr
  have hlanes := wokenHere_lanes f l (phaseKept (sgEntry s (hnd f s l)) ((s.src l).reg f.sa.toNat)) s
  have hframe := wokenHere_frame f l (phaseKept (sgEntry s (hnd f s l)) ((s.src l).reg f.sa.toNat)) s
  have hcore := wokenHere_core f l (phaseKept (sgEntry s (hnd f s l)) ((s.src l).reg f.sa.toNat)) s
  dsimp only
  generalize wokenHere f l _ s = w at hr hlanes hframe hcore
  generalize sgLanes f s (waitActs f s) = u at hr ⊢
  have hlane : ∀ k, u.lane s.cur.blk k = w.lane s.cur.blk k := fun k => by
    rw [State.lane_eq, hr.block]
    rfl
  refine ⟨?_, ⟨⟨fun b hb => (hr.block b).trans (hlanes.others b hb), ?_⟩, fun k => ⟨fun hk => ?_, fun hk => ?_⟩⟩, ?_⟩
  · rw [hr.frame, hframe]
  · rw [hr.block]; exact hlanes.block
  · obtain rfl : k = l := by rwa [hls, List.mem_singleton] at hk
    rw [hlane, hlanes.lane, if_pos rfl]
    exact predSet_woken ..
  · rw [hlane, hlanes.lane, if_neg (fun h => hk (by rw [hls, h]; exact List.mem_singleton.mpr rfl))]
  · rw [show u.core s.cur.pier = w.core s.cur.pier by rw [hr.frame]; rfl, hcore]
    rfl

theorem namedGroupWait : NamedGroupWait :=
  ⟨fun f s h => ⟨_, exec_sgwait f s, sgwait_parks h⟩, fun f s _ hls hg hp ha => ⟨_, exec_sgwait f s, sgwait_goes_on hls hg hp ha⟩⟩

end Sys2Proof.Claim

/-! What the orrery does with a request (R148 to R152). -/
namespace Sys2Proof.Machine
open Sys2Proof Sys2Proof.Claim

/-! ## Group entries -/

theorem getSg_of_dies {s u : State} (h : u.dies = s.dies) (d i : Nat) : getSg u d i = getSg s d i := by
  unfold getSg State.die
  rw [h]

theorem getSg_setSg (s : State) (d i : Nat) (e : SgEntry) : getSg (setSg s d i e) d i = e := by
  rw [getSg, setSg, State.updDie_eq, State.die_setDie]
  exact tget_tput_same ..

/-! ## A budget's charge leaves what a partition is -/

theorem newPeriods_inForce (s : State) : ∀ (n : Nat) (x : Part), (newPeriods s n x).inForce = x.inForce
  | 0, _ => rfl
  | n + 1, x => newPeriods_inForce s n (newPeriod s x)

theorem charge_inForce (s : State) (p k q n j : Nat) : ((charge s p k q n).part j).inForce = (s.part j).inForce := by
  rw [charge, updSettled]
  by_cases hj : j = p
  · rw [hj, State.part_setPart]
    exact newPeriods_inForce ..
  · rw [State.part_setPart_ne _ _ hj]

/-- The state in which the orrery serves request `k`: it is paid for, and has left the list. -/
def serving (s : State) (k : Nat) (r : SgReq) : State := dropReq (charge s r.part 6 k 1) k

section
variable (s : State) (k : Nat) (r : SgReq)

theorem serving_dies : (serving s k r).dies = s.dies := rfl
theorem serving_lres : (serving s k r).lres = s.lres := rfl
theorem serving_entry (d i : Nat) : getSg (serving s k r) d i = getSg s d i := rfl
theorem serving_inForce : ((serving s k r).part r.part).inForce = (s.part r.part).inForce := charge_inForce ..
theorem serving_homeDie (n : BitVec 16) (name : Word) : homeDie (serving s k r) n name = homeDie s n name := rfl

end

/-! ## Joins -/

section
variable {s : State} {k : Nat} {r : SgReq} {name : Word} (hr : reqOf s k = some r) (hk : r.kind = .join name)
  (hd : r.dead = false) (hf : reqFirst s r = true) (hb : budgetOk s r.part 6 k = true)
include hr hk hd hf hb

/-- A join that is served has a result, and leaves the groups as its service does. -/
theorem exec_sgJoinHandled {j : Joined} {y : State} (hj : joinGroup (serving s k r) r name = (j, y)) :
    ∃ u, exec (.sgJoinHandled k) s = .next u ∧ u.dies = y.dies ∧ u.lres = y.lres ++ [
      { id := y.seq, blk := r.blk, lane := r.lane, regs := [(r.d, BitVec.ofNat 32 j.status), (r.d + 1, j.phase)],
        handle := some (r.h, j.handle) }] := by
  refine ⟨pushL y { id := 0, blk := r.blk, lane := r.lane, regs := [(r.d, BitVec.ofNat 32 j.status), (r.d + 1, j.phase)],
                    handle := some (r.h, j.handle) }, ?_, rfl, rfl⟩
  have hj : joinGroup (dropReq (charge s r.part 6 k 1) k) r name = (j, y) := hj
  have hr : s.sgreqs.find? (fun r => r.id == k) = some r := hr
  change execSgJoinHandled k s = _
  unfold execSgJoinHandled
  rw [hr]
  dsimp only
  rw [hk]
  dsimp only
  rw [hf, hd, budgeted, if_pos hb, hj]
  rfl

end

section
variable {t : State} {r : SgReq} {name : Word}

/-- A join of a name that a group has. -/
theorem joinGroup_existing {i mem : Nat} {e : SgEntry}
    (he : (t.die (homeDie t (t.part r.part).inForce.nsid name)).orrery.find? (fun e => e.2.used && e.2.name == name &&
      e.2.nsid == (t.part r.part).inForce.nsid) = some (i, e))
    (hc : e.closing = false) (hm : lowestFree 65535 (fun m => (tfind m e.members).isSome) = some mem) :
    let d := homeDie t (t.part r.part).inForce.nsid name
    let hd : Handle := { live := true, die := d, idx := i, gen := e.gen, member := mem, next := e.phase + 1 }
    joinGroup t r name = ({ status := 0, phase := e.phase + 1, handle := hd },
      setSg t d i { e with members := tins mem (newMember r (e.phase + 1)) e.members }) := by
  unfold joinGroup
  dsimp only
  rw [he]
  dsimp only
  rw [hc, if_neg Bool.false_ne_true, show memberLimit = 65535 from rfl, hm]
  rfl

/-- A join of a name that no group has, with a free entry within the quota. -/
theorem joinGroup_new {i : Nat}
    (he : (t.die (homeDie t (t.part r.part).inForce.nsid name)).orrery.find? (fun e => e.2.used && e.2.name == name &&
      e.2.nsid == (t.part r.part).inForce.nsid) = none)
    (hi : lowestFree 4096 (fun i => (getSg t (homeDie t (t.part r.part).inForce.nsid name) i).used) = some i)
    (hq : nsEntries t (t.part r.part).inForce.nsid < (t.part r.part).inForce.quota) :
    let d := homeDie t (t.part r.part).inForce.nsid name
    let hd : Handle := { live := true, die := d, idx := i, gen := (getSg t d i).gen, member := 0, next := 0 }
    joinGroup t r name = ({ status := 1, handle := hd },
      setSg t d i { used := true, name := name, nsid := (t.part r.part).inForce.nsid, gen := (getSg t d i).gen,
                    members := [(0, newMember r 0)] }) := by
  have hi : lowestFree orreryEntries (fun i =>
    (tget {} (t.die (homeDie t (t.part r.part).inForce.nsid name)).orrery i : SgEntry).used) = some i := hi
  unfold joinGroup
  dsimp only
  rw [he]
  dsimp only
  rw [hi]
  dsimp only
  rw [if_neg (Nat.not_le.mpr hq)]
  rfl

end

/-! ## What leaves every group entry -/

theorem acquireAt_dies (s : State) (c b l q : Nat) (pc : Dword) : (acquireAt s c b l q pc).dies = s.dies := by
  unfold acquireAt
  dsimp only
  split <;> rfl

theorem acquireSg_dies (s : State) (b l q : Nat) (pc : Dword) : (acquireSg s b l q pc).dies = s.dies := by
  unfold acquireSg
  split
  · exact acquireAt_dies ..
  · rfl

theorem freeOrder_dies {α : Type} : ∀ (n : Nat) (l : List α) (s : State), (freeOrder n l s).2.dies = s.dies
  | 0, _, _ => rfl
  | _ + 1, [], _ => rfl
  | _ + 1, [_], _ => rfl
  | n + 1, _ :: _ :: _, s => freeOrder_dies n _ s.drawFree.2

theorem redResult_dies (s : State) (as_ : List SgArr) : (redResult s as_).2.dies = s.dies := by
  unfold redResult
  split
  · rfl
  · dsimp only
    split
    · exact freeOrder_dies ..
    · rfl

theorem giveArrival_dies (as_ : List SgArr) (red : Nat) (kept : Bool) (s : State) (a : SgArr) :
    (giveArrival as_ red kept s a).dies = s.dies := by
  unfold giveArrival
  dsimp only
  split
  · rfl
  · split
    · split
      · exact acquireSg_dies ..
      · rfl
    all_goals rfl

theorem foldl_dies {α : Type} {g : State → α → State} (hg : ∀ t a, (g t a).dies = t.dies) (as : List α) (s : State) :
    (as.foldl g s).dies = s.dies :=
  List.foldlRecOn (motive := fun t => t.dies = s.dies) as g rfl (fun t ht a _ => (hg t a).trans ht)

theorem wakeWaits_dies (s : State) (d i : Nat) (e : SgEntry) : (wakeWaits s d i e).dies = s.dies := by
  refine foldl_dies (fun t kb => foldl_dies (fun y n => ?_) _ t) _ s
  dsimp only
  split
  · split
    · exact acquireSg_dies ..
    · rfl
  · rfl

theorem askRestores_dies (s : State) (d i : Nat) : (askRestores s d i).dies = s.dies := by
  unfold askRestores
  dsimp only
  split
  · refine foldl_dies (fun t b => ?_) _ s
    split <;> rfl
  · rfl

/-! ## Phases -/

section
variable {s : State} {d i : Nat}

/-- A member of PHASE that has not arrived holds it. -/
theorem completePhases_holds {o : Nat × Member} (ho : o ∈ (getSg s d i).members) (hin : o.2.inPhase (getSg s d i).phase = true)
    (hna : o.2.arrived (getSg s d i).phase = false) : ∀ n, completePhases n s d i = s
  | 0 => rfl
  | n + 1 => by
    have hmiss : (getSg s d i).members.any (fun m => m.2.inPhase (getSg s d i).phase && !m.2.arrived (getSg s d i).phase) = true :=
      List.any_eq_true.mpr ⟨o, ho, by simp only [hin, hna, Bool.not_false, Bool.and_self]⟩
    rw [completePhases]
    dsimp only
    rw [hmiss, Bool.or_true, if_pos rfl]

/-- A phase at which nobody is missing completes. -/
theorem completePhases_completes (hu : (getSg s d i).used = true)
    (hc : (getSg s d i).members.any (fun m => m.2.current (getSg s d i).phase) = true)
    (hm : (getSg s d i).members.any (fun m => m.2.inPhase (getSg s d i).phase && !m.2.arrived (getSg s d i).phase) = false)
    (n : Nat) : ∃ t as_ lost, completePhases (n + 1) s d i = completePhases n t d i ∧
      getSg t d i = { getSg s d i with phase := (getSg s d i).phase + 1, done := true, arrivals := as_, lost := lost } := by
  rw [completePhases]
  dsimp only
  rw [hm, hc, hu, if_neg (by decide)]
  exact ⟨_, _, _, rfl, (getSg_of_dies (wakeWaits_dies ..) d i).trans (getSg_setSg ..)⟩

/-- An entry with a member in a phase at or after PHASE stays, with the members that are. -/
theorem getSg_freeEmpty {o : Nat × Member} (ho : o ∈ (getSg s d i).members) (hc : o.2.current (getSg s d i).phase = true) :
    getSg (freeEmpty s d i) d i =
      { getSg s d i with members := (getSg s d i).members.filter (fun m => m.2.current (getSg s d i).phase) } := by
  have hne : ((getSg s d i).members.filter (fun m => m.2.current (getSg s d i).phase)).isEmpty = false :=
    List.isEmpty_eq_false_iff_exists_mem.mpr ⟨o, List.mem_filter.mpr ⟨ho, hc⟩⟩
  unfold freeEmpty
  dsimp only
  rw [hne]
  exact getSg_setSg ..

theorem getSg_settleGroup (s : State) (d i : Nat) :
    getSg (settleGroup s d i) d i = getSg (freeEmpty (completePhases 4 s d i) d i) d i :=
  getSg_of_dies (askRestores_dies ..) d i

end

theorem mem_tins_of_mem {α : Type} {k : Nat} {v : α} {e : Nat × α} (hk : e.1 ≠ k) : ∀ {t : Tbl α}, e ∈ t → e ∈ tins k v t
  | (j, u) :: r, he => by
    unfold tins
    by_cases hj : j < k
    · rw [if_pos hj]
      exact (List.mem_cons.mp he).elim (fun h => h ▸ List.mem_cons_self)
        (fun h => List.mem_cons_of_mem _ (mem_tins_of_mem hk h))
    · rw [if_neg hj]
      by_cases hjk : j = k
      · rw [if_pos hjk]
        exact (List.mem_cons.mp he).elim (fun h => absurd (h ▸ hjk) hk) (List.mem_cons_of_mem _)
      · rw [if_neg hjk]
        exact List.mem_cons_of_mem _ he

/-- The first value under a number stays the first where a filter lets it pass. -/
theorem tfind_filter {α : Type} {k : Nat} {v : α} {p : Nat × α → Bool} (hp : p (k, v) = true) :
    ∀ {t : Tbl α}, tfind k t = some v → tfind k (t.filter p) = some v
  | (j, u) :: r, h => by
    unfold tfind at h
    by_cases hj : j = k
    · rw [if_pos hj] at h
      have hu : u = v := Option.some.inj h
      rw [hj, hu, List.filter_cons, if_pos hp]
      exact if_pos rfl
    · rw [if_neg hj] at h
      rw [List.filter_cons]
      split
      · exact (if_neg hj).trans (tfind_filter hp h)
      · exact tfind_filter hp h

/-! ## Phase numbers -/

theorem phaseLe_self (p : Word) : phaseLe p p = true := by
  rw [phaseLe, BitVec.sub_self]; rfl

theorem phaseLe_succ (p : Word) : phaseLe p (p + 1) = true := by
  have h : p + 1 - p = 1 := by bv_omega
  rw [phaseLe, h]; rfl

theorem succ_phaseLe (p : Word) : phaseLe (p + 1) p = false := by
  have h : p - (p + 1) = -1 := sub_add_cancel_left p 1
  rw [phaseLe, h]; rfl

end Sys2Proof.Machine

/-! The orrery's steps, and the named groups (R148 to R153). -/
namespace Sys2Proof.Claim
open Sys2Proof Sys2Proof.Machine

/-! ## Joins -/

theorem join_existing (s : State) (k i mem : Nat) (r : SgReq) (name : Word) (e : SgEntry) (hr : reqOf s k = some r)
    (hk : r.kind = .join name) (hd : r.dead = false) (hf : reqFirst s r = true) (hb : budgetOk s r.part 6 k = true)
    (he : (s.die (homeDie s (s.part r.part).inForce.nsid name)).orrery.find?
      (fun e => e.2.used && e.2.name == name && e.2.nsid == (s.part r.part).inForce.nsid) = some (i, e))
    (hc : e.closing = false) (hm : lowestFree 65535 (fun m => (tfind m e.members).isSome) = some mem) :
    let d := homeDie s (s.part r.part).inForce.nsid name
    ∃ u, exec (.sgJoinHandled k) s = .next u ∧ (getSg u d i).phase = e.phase ∧
      tfind mem (getSg u d i).members = some (newMember r (e.phase + 1)) ∧
      ∃ id, u.lres = s.lres ++ [
        { id := id, blk := r.blk, lane := r.lane, regs := [(r.d, 0), (r.d + 1, e.phase + 1)],
          handle := some (r.h, { live := true, die := d, idx := i, gen := e.gen, member := mem, next := e.phase + 1 }) }] := by
  intro d
  have hjoin := joinGroup_existing (t := serving s k r) (r := r) (name := name) (by rw [serving_inForce]; exact he) hc hm
  rw [serving_inForce, serving_homeDie] at hjoin
  obtain ⟨u, hexec, hdies, hres⟩ := exec_sgJoinHandled hr hk hd hf hb hjoin
  have hentry := (getSg_of_dies hdies d i).trans (getSg_setSg ..)
  refine ⟨u, hexec, ?_, ?_, _, hres⟩
  · rw [hentry]
  · rw [hentry, tfind_tins, if_pos rfl]

theorem join_new (s : State) (k i : Nat) (r : SgReq) (name : Word) (hr : reqOf s k = some r)
    (hk : r.kind = .join name) (hd : r.dead = false) (hf : reqFirst s r = true) (hb : budgetOk s r.part 6 k = true)
    (he : (s.die (homeDie s (s.part r.part).inForce.nsid name)).orrery.find?
      (fun e => e.2.used && e.2.name == name && e.2.nsid == (s.part r.part).inForce.nsid) = none)
    (hi : lowestFree 4096 (fun i => (getSg s (homeDie s (s.part r.part).inForce.nsid name) i).used) = some i)
    (hq : nsEntries s (s.part r.part).inForce.nsid < (s.part r.part).inForce.quota) :
    let d := homeDie s (s.part r.part).inForce.nsid name
    ∃ u, exec (.sgJoinHandled k) s = .next u ∧
      getSg u d i = { used := true, name := name, nsid := (s.part r.part).inForce.nsid, gen := (getSg s d i).gen,
                      members := [(0, newMember r 0)] } ∧
      ∃ x ∈ u.lres, x.blk = r.blk ∧ x.lane = r.lane ∧ x.regs = [(r.d, 1), (r.d + 1, 0)] := by
  intro d
  have hjoin := joinGroup_new (t := serving s k r) (r := r) (name := name) (i := i)
    (by rw [serving_inForce]; exact he) (by rw [serving_inForce]; exact hi) (by rw [serving_inForce]; exact hq)
  dsimp only at hjoin
  rw [serving_inForce, serving_homeDie, serving_entry] at hjoin
  obtain ⟨u, hexec, hdies, hres⟩ := exec_sgJoinHandled hr hk hd hf hb hjoin
  refine ⟨u, hexec, (getSg_of_dies hdies d i).trans (getSg_setSg ..), ?_⟩
  rw [hres]
  exact ⟨_, List.mem_append_right _ (List.mem_singleton.mpr rfl), rfl, rfl, rfl⟩

/-! ## Arrivals -/

/-- An entry in which an arrival of `r` is recorded, by member `m`. -/
def arrivedEntry (r : SgReq) (m : Member) (e : SgEntry) : SgEntry :=
  { e with members := tins r.hnd.member { m with next := r.phase + 1 } e.members,
           arrivals := e.arrivals ++ [{ member := r.hnd.member, phase := r.phase, req := r }] }

section
variable {t : State} {r : SgReq} {m : Member}

theorem reqEntry_recordArrival (hk : r.kind = .arrive) (hm : tfind r.hnd.member (reqEntry t r).members = some m) :
    reqEntry (recordArrival t r false) r = arrivedEntry r m (reqEntry t r) := by
  have hdies : (recordArrival t r false).dies =
      (setSg t r.hnd.die r.hnd.idx (arrivedEntry r m (reqEntry t r))).dies := by
    have hm : tfind r.hnd.member (getSg t r.hnd.die r.hnd.idx).members = some m := hm
    unfold recordArrival
    dsimp only
    rw [hm, hk]
    dsimp only
    rw [Bool.or_false]
    split <;> rfl
  exact (getSg_of_dies hdies ..).trans (getSg_setSg ..)

/-- The members that are in a phase at or after PHASE. -/
def currentMembers (e : SgEntry) : SgEntry := { e with members := e.members.filter (fun m => m.2.current e.phase) }

/-- An entry that another member holds in its phase settles with its members. -/
theorem reqEntry_settle_holds {o : Nat × Member} (ho : o ∈ (reqEntry t r).members)
    (hin : o.2.inPhase (reqEntry t r).phase = true) (hna : o.2.arrived (reqEntry t r).phase = false) :
    reqEntry (settleGroup t r.hnd.die r.hnd.idx) r = currentMembers (reqEntry t r) := by
  have hcur : o.2.current (reqEntry t r).phase = true := (Bool.and_eq_true_iff.mp hin).2
  rw [reqEntry, getSg_settleGroup, completePhases_holds ho hin hna]
  exact getSg_freeEmpty ho hcur

/-- A member that has not left is in every phase from its first on. -/
theorem current_of_not_left (h : m.left = false) (p : Word) : m.current p = true := by
  rw [Member.current, h]; rfl

theorem inPhase_of_not_left (h : m.left = false) (p : Word) : m.inPhase p = phaseLe m.first p := by
  rw [Member.inPhase, h]; exact Bool.and_true _

/-- The last missing member of a group of one completes the phase; the next waits for it. -/
theorem phase_settle_completes {n : Nat} (hu : (reqEntry t r).used = true) (hms : (reqEntry t r).members = [(n, m)])
    (hl : m.left = false) (hfirst : m.first = (reqEntry t r).phase) (hnext : m.next = (reqEntry t r).phase + 1) :
    (reqEntry (settleGroup t r.hnd.die r.hnd.idx) r).phase = (reqEntry t r).phase + 1 := by
  have hc := current_of_not_left hl
  have harr : (!m.arrived (reqEntry t r).phase) = false := by rw [Member.arrived, hnext, succ_phaseLe]; rfl
  obtain ⟨y, as_, lost, hstep, hy⟩ := completePhases_completes (s := t) (d := r.hnd.die) (i := r.hnd.idx) hu
    (List.any_eq_true.mpr ⟨(n, m), hms ▸ List.mem_singleton.mpr rfl, hc _⟩)
    (by rw [show (getSg t r.hnd.die r.hnd.idx).members = [(n, m)] from hms]
        exact Bool.or_eq_false_iff.mpr ⟨Bool.and_eq_false_iff.mpr (.inr harr), rfl⟩) 3
  have hym : (getSg y r.hnd.die r.hnd.idx).members = [(n, m)] := by rw [hy]; exact hms
  have hyp : (getSg y r.hnd.die r.hnd.idx).phase = (reqEntry t r).phase + 1 := by rw [hy]; rfl
  have ho : (n, m) ∈ (getSg y r.hnd.die r.hnd.idx).members := hym ▸ List.mem_singleton.mpr rfl
  have hin : m.inPhase (getSg y r.hnd.die r.hnd.idx).phase = true := by
    rw [inPhase_of_not_left hl, hyp, hfirst, phaseLe_succ]
  have hna : m.arrived (getSg y r.hnd.die r.hnd.idx).phase = false := by
    rw [Member.arrived, hyp, hnext, phaseLe_self]; rfl
  rw [reqEntry, getSg_settleGroup, hstep, completePhases_holds ho hin hna, getSg_freeEmpty ho (hc _)]
  exact hyp

end

/-! ## Requests other than joins -/

theorem live_of_blocks {s u : State} (h : u.blocks = s.blocks) (r : SgReq) : r.live u = r.live s := by
  rw [SgReq.live, SgReq.live, State.lane_eq, block_of_blocks h]
  rfl

section
variable {s : State} {k : Nat} {r : SgReq} (hr : reqOf s k = some r) (hf : reqFirst s r = true)
  (hb : budgetOk s r.part 6 k = true) (hc : sgCurrent s r.hnd = true)
include hr hf hb hc

theorem exec_sgArrivalHandled (hj : ∀ name, r.kind ≠ .join name) :
    exec (.sgArrivalHandled k) s = .next (serveRequest (serving s k r) r) := by
  have hr : s.sgreqs.find? (fun r => r.id == k) = some r := hr
  have hc : sgCurrent (dropReq (charge s r.part 6 k 1) k) r.hnd = true := hc
  have hserve : (if (!reqFirst s r) = true then s else budgeted s r.part 6 k 1 (fun st =>
      if sgCurrent (dropReq st k) r.hnd then serveRequest (dropReq st k) r
      else if r.live (dropReq st k) then staleHandle (dropReq st k) r.blk r.lane r.h r.pc else dropReq st k)) =
      serveRequest (serving s k r) r := by
    rw [hf, if_neg (by decide), budgeted, if_pos hb, if_pos hc]
    rfl
  change execSgArrivalHandled k s = _
  unfold execSgArrivalHandled
  rw [hr]
  dsimp only
  cases hkind : r.kind with
  | join name => exact absurd hkind (hj name)
  | _ => exact congrArg Host.Outcome.next hserve

/-- An arrival is recorded, and its group settles. -/
theorem exec_arrive {m : Member} (hk : r.kind = .arrive) (hm : tfind r.hnd.member (reqEntry s r).members = some m) :
    ∃ y, exec (.sgArrivalHandled k) s = .next (settleGroup y r.hnd.die r.hnd.idx) ∧
      reqEntry y r = arrivedEntry r m (reqEntry s r) := by
  refine ⟨recordArrival (serving s k r) r false, ?_, ?_⟩
  · rw [exec_sgArrivalHandled hr hf hb hc (fun name h => by rw [hk] at h; cases h), serveRequest, hk]
  · exact reqEntry_recordArrival (t := serving s k r) hk hm

/-- An arrival while another member is missing. -/
theorem arrival_counts (m : Member) (hk : r.kind = .arrive) (hm : tfind r.hnd.member (reqEntry s r).members = some m)
    (hl : m.left = false) (ho : ∃ o ∈ (reqEntry s r).members, o.1 ≠ r.hnd.member ∧ o.2.inPhase (reqEntry s r).phase = true ∧
      o.2.arrived (reqEntry s r).phase = false) :
    ∃ u, exec (.sgArrivalHandled k) s = .next u ∧ (reqEntry u r).phase = (reqEntry s r).phase ∧
      tfind r.hnd.member (reqEntry u r).members = some { m with next := r.phase + 1 } := by
  obtain ⟨o, ho, hne, hin, hna⟩ := ho
  obtain ⟨y, hexec, hrec⟩ := exec_arrive hr hf hb hc hk hm
  have hset := reqEntry_settle_holds (t := y) (r := r) (o := o)
    (by rw [hrec]; exact mem_tins_of_mem hne ho) (by rw [hrec]; exact hin) (by rw [hrec]; exact hna)
  refine ⟨_, hexec, ?_, ?_⟩
  · rw [hset, hrec]; rfl
  · rw [hset, hrec]
    refine tfind_filter (current_of_not_left ?_ _) ?_
    · exact hl
    · exact (tfind_tins ..).trans (if_pos rfl)

/-- The arrival of the only member. -/
theorem arrival_completes (m : Member) (hk : r.kind = .arrive) (hms : (reqEntry s r).members = [(r.hnd.member, m)])
    (hl : m.left = false) (hfirst : m.first = (reqEntry s r).phase) (hp : r.phase = (reqEntry s r).phase) :
    ∃ u, exec (.sgArrivalHandled k) s = .next u ∧ (reqEntry u r).phase = (reqEntry s r).phase + 1 := by
  have hm : tfind r.hnd.member (reqEntry s r).members = some m := by rw [hms]; exact if_pos rfl
  have hu : (reqEntry s r).used = true := (Bool.and_eq_true_iff.mp hc).1
  obtain ⟨y, hexec, hrec⟩ := exec_arrive hr hf hb hc hk hm
  have hone : (arrivedEntry r m (reqEntry s r)).members = [(r.hnd.member, { m with next := r.phase + 1 })] := by
    rw [arrivedEntry, hms]
    simp only [tins, lt_irrefl, if_false, if_true]
  have hset := phase_settle_completes (t := y) (r := r) (m := { m with next := r.phase + 1 }) (by rw [hrec]; exact hu)
    (by rw [hrec]; exact hone) hl (by rw [hrec]; exact hfirst) (by rw [hrec]; exact congrArg (· + 1) hp)
  refine ⟨_, hexec, ?_⟩
  rw [hset, hrec]
  rfl

/-- A query is answered. -/
theorem query_answers (n : Nat) (hk : r.kind = .query n) (hl : r.live s = true) :
    ∃ u v, exec (.sgArrivalHandled k) s = .next u ∧ reqEntry u r = reqEntry s r ∧ (n = 1 → v = (reqEntry s r).phase) ∧
      (n = 3 → v = r.phase) ∧
      ∃ id, u.lres = s.lres ++ [{ id := id, blk := r.blk, lane := r.lane, regs := [(r.d, v)] }] := by
  have hexec := exec_sgArrivalHandled hr hf hb hc (fun name h => by rw [hk] at h; cases h)
  have hl : r.live (serving s k r) = true := (live_of_blocks rfl r).trans hl
  unfold serveRequest at hexec
  rw [hk] at hexec
  dsimp only at hexec
  generalize hx : serving s k r = x at hexec hl
  have hdies : x.dies = s.dies := by rw [← hx]; rfl
  have hres : x.lres = s.lres := by rw [← hx]; rfl
  generalize hy : (if (decide (n = 2) && !(getSg x r.hnd.die r.hnd.idx).done) = true then x.drawFree.2 else x) = y at hexec
  have hdraw : y.dies = x.dies ∧ y.lres = x.lres ∧ y.blocks = x.blocks := by
    rw [← hy]
    split <;> exact ⟨rfl, rfl, rfl⟩
  obtain ⟨hydies, hyres, hyblocks⟩ := hdraw
  rw [if_pos ((live_of_blocks hyblocks r).trans hl)] at hexec
  have hpush : ∀ x : LRes, (pushL y x).lres = s.lres ++ [{ x with id := y.seq }] := fun q => by rw [← hres, ← hyres]; rfl
  have hword : ∀ w : Word, BitVec.ofNat 32 w.toNat = w := fun w => by rw [BitVec.ofNat_toNat, BitVec.setWidth_eq]
  exact ⟨_, _, hexec, getSg_of_dies (hydies.trans hdies) .., fun hn => by rw [hn, getSg_of_dies hdies]; exact hword _,
    fun hn => by rw [hn]; exact hword _, y.seq, hpush _⟩

/-- A closing closes. -/
theorem close_closes (hk : r.kind = .close) : ∃ u, exec (.sgArrivalHandled k) s = .next u ∧
    reqEntry u r = { reqEntry s r with closing := true } := by
  have hexec := exec_sgArrivalHandled hr hf hb hc (fun name h => by rw [hk] at h; cases h)
  rw [serveRequest, hk] at hexec
  exact ⟨_, hexec, getSg_setSg ..⟩

end

theorem orrerySteps : OrrerySteps := by
  refine ⟨join_existing, join_new, fun s k r hr hf hb hc => ⟨?_, ?_, ?_, ?_⟩⟩
  · exact arrival_counts hr hf hb hc
  · exact arrival_completes hr hf hb hc
  · exact query_answers hr hf hb hc
  · exact close_closes hr hf hb hc

/-- Settles O24: the requests by one step of each lane in its turn, SGWAIT likewise, and the orrery's steps by what settles a
group. -/
theorem namedGroups : Obligations.NamedGroups := ⟨namedGroupRequests, namedGroupWait, orrerySteps⟩

end Sys2Proof.Claim

/-! SHDEF (R176), and the instructions over batches of copy jobs (R183, R184). -/
namespace Sys2Proof.Claim
open Sys2Proof Sys2Proof.Machine

/-! ## SHDEF -/

/-- A slot that was given a shape with elements has it; every other slot has what it had. -/
theorem shapeAt_tput (t : Tbl Shape) (k n : Nat) {h : Shape} (he : h.esz ≠ 0) :
    shapeAt (tput {} t k h) n = if n = k then some h else shapeAt t n := by
  unfold shapeAt
  dsimp only
  rw [tget_tput]
  by_cases hn : n = k
  · rw [if_pos hn, if_pos hn, if_neg he]
  · rw [if_neg hn, if_neg hn]

/-- A well-formed header names a size of elements that is not 0. -/
theorem imageHead_esz {a b : Word} {nd esz : Nat} (h : imageHead a b = some (nd, esz)) : esz ≠ 0 := by
  unfold imageHead at h
  dsimp only at h
  split at h
  · next hc =>
    cases h
    intro h0
    rw [h0] at hc
    simp [eszOk] at hc
  · cases h

theorem shapeDefinition : ShapeDefinition := by
  intro f s l nd esz hl a h hhead htop hlim
  obtain ⟨r, hr⟩ : ∃ r, activeLanes f s = l :: r := List.head?_eq_some_iff.mp hl
  have hexec : exec (.shdef f) s = .next (s.updCurBlock (fun b => { b with shapes := tput {} b.shapes f.d.toNat h })) := by
    show execShdef f s = _
    unfold execShdef
    rw [hr]
    dsimp only
    rw [show imageHead ((s.src l).reg f.sa.toNat) ((s.src l).reg (f.sa.toNat + 1)) = some (nd, esz) from hhead]
    dsimp only
    rw [if_neg (Nat.not_le.mpr htop), if_pos hlim]
  have hslot := fun k => shapeAt_tput s.curBlock.shapes f.d.toNat k (h := h) (imageHead_esz hhead)
  refine ⟨_, hexec, rfl, fun b hb => State.block_setBlock_ne _ _ hb, ?_, ?_, fun k hk => ?_⟩
  · rw [block_updCurBlock]; rfl
  · rw [block_updCurBlock]
    exact (hslot _).trans (if_pos rfl)
  · rw [block_updCurBlock]
    exact (hslot k).trans (if_neg hk)

/-! ## CPSEAL and CPQUERY -/

/-- A fibre that seals its jobs has the number of the batch in its register. -/
theorem regsSet_sealJobs (d : Nat) (x : Lane) :
    RegsSet d 1 (nextBatch x.sealed).toNat Lane.sealJobs x (x.sealJobs.setReg d x.sealJobs.sealed) := by
  have h := regsSet_setReg d (nextBatch x.sealed).toNat x.sealJobs
  rw [BitVec.ofNat_toNat, BitVec.setWidth_eq] at h
  exact h

theorem cpseal_seals {f : Fields} {s : State} (h : ∀ l ∈ activeLanes f s, (s.lane s.cur.blk l).unfinished < 16) :
    ∃ u, exec (.cpseal f) s = .next u ∧ PerLane f s u (fun _ _ l l' =>
      RegsSet f.d.toNat 1 (nextBatch l.sealed).toNat Lane.sealJobs l l' ∧ l'.unsealed = 0 ∧ l'.sealed = nextBatch l.sealed) := by
  have hnone : (activeLanes f s).filter (fun l => (s.lane s.cur.blk l).unfinished ≥ sealLimitN) = [] :=
    List.filter_eq_nil_iff.mpr (fun l hl => by rw [decide_eq_true_eq]; exact Nat.not_le.mpr (h l hl))
  refine ⟨perLane f s (fun _ l => l.sealJobs.setReg f.d.toNat l.sealJobs.sealed), ?_,
    perLane_overLanes (fun l _ x => ⟨regsSet_sealJobs _ x, rfl, rfl⟩)⟩
  show execCpseal f s = _
  unfold execCpseal
  rw [hnone]
  rfl

theorem cpseal_waits {f : Fields} {s : State} (h : ∃ l ∈ activeLanes f s, 16 ≤ (s.lane s.cur.blk l).unfinished) :
    exec (.cpseal f) s = .next (retryGroup s (.sealLimit (lanesMask ((activeLanes f s).filter (fun l =>
      (s.lane s.cur.blk l).unfinished ≥ 16))))) := by
  obtain ⟨l, hl, hfull⟩ := h
  have hsome : ((activeLanes f s).filter (fun l => (s.lane s.cur.blk l).unfinished ≥ sealLimitN)).isEmpty = false :=
    List.isEmpty_eq_false_iff_exists_mem.mpr ⟨l, List.mem_filter.mpr ⟨hl, decide_eq_true hfull⟩⟩
  show execCpseal f s = _
  unfold execCpseal
  dsimp only
  rw [hsome]
  rfl

/-! ## CPWAIT -/

/-- The lane waits until at most `n` of its batches are unfinished. -/
def waitsBatches (n : Nat) (y : Lane) : Lane := { y with park := .cpwait n }

/-- Lanes with more unfinished batches all wait, each as it comes. -/
theorem execCpwait_parks {f : Fields} {s : State}
    (h : ∀ l ∈ activeLanes f s, f.immBits 4 0 < (s.lane s.cur.blk l).unfinished) :
    execCpwait f s = .next ((activeLanes f s).foldl (fun t l => t.updLane s.cur.blk l (waitsBatches (f.immBits 4 0))) s) := by
  refine congrArg Host.Outcome.next (foldl_congr_rest
    (I := fun r t => t.cur = s.cur ∧ ∀ l ∈ r, f.immBits 4 0 < (t.lane s.cur.blk l).unfinished)
    (fun l r t ht => ?_) ⟨rfl, h⟩).1
  obtain ⟨hcur, hmore⟩ := ht
  refine ⟨?_, hcur, fun k hk => ?_⟩
  · rw [hcur, if_neg (Nat.not_le.mpr (hmore l List.mem_cons_self)), State.updCurLane, hcur]
    rfl
  · rw [(LanesOf.updLane s.cur.blk l (waitsBatches (f.immBits 4 0)) t).lane k]
    split <;> exact hmore k (List.mem_cons_of_mem l hk)

theorem cpwait_parks {f : Fields} {s : State}
    (h : ∀ l ∈ activeLanes f s, f.immBits 4 0 < (s.lane s.cur.blk l).unfinished) :
    ∃ u, exec (.cpwait f) s = .next u ∧ PerLane f s u (fun _ _ l l' => l' = { l with park := .cpwait (f.immBits 4 0) }) := by
  have hlanes := LanesOf.foldl (b := s.cur.blk) (f := fun _ => waitsBatches (f.immBits 4 0)) (I := fun _ _ => True)
    (fun l _ t _ => ⟨.updLane s.cur.blk l (waitsBatches (f.immBits 4 0)) t, trivial⟩) (activeLanes_nodup f s) (s := s) trivial
  have hframe : ∀ (ls : List Nat) (t : State), t = { s with blocks := t.blocks } →
      let u := ls.foldl (fun t l => t.updLane s.cur.blk l (waitsBatches (f.immBits 4 0))) t
      u = { s with blocks := u.blocks } := fun ls t ht =>
    List.foldlRecOn (motive := fun u : State => u = { s with blocks := u.blocks }) ls _ ht
      (fun u hu l _ => blocksOnly_trans (u := u.updLane s.cur.blk l (waitsBatches (f.immBits 4 0))) hu rfl)
  refine ⟨_, execCpwait_parks h, ⟨hframe _ s rfl, hlanes.others, hlanes.block⟩, fun l => ⟨fun hl => ?_, fun hl => ?_⟩⟩
  · rw [hlanes.lane, if_pos hl]; rfl
  · rw [hlanes.lane, if_neg hl]

/-- With few enough unfinished batches CPWAIT is an acquire. -/
theorem cpwait_goes_on {f : Fields} {s : State} {l : Nat} (hls : activeLanes f s = [l])
    (hfew : (s.lane s.cur.blk l).unfinished ≤ f.immBits 4 0) (hok : acquireOk s s.cur.pier s.cur.blk l s.seq = true) :
    ∃ u, exec (.cpwait f) s = .next u ∧ u = { s with blocks := u.blocks, cores := u.cores, seq := u.seq } ∧
      LanesChange f s u (fun _ x y => y = { x with tracked := [] }) ∧
      (u.core s.cur.pier).l1 = (s.core s.cur.pier).l1.filter (fun w => (s.core s.cur.pier).l1Owned.contains w.1) := by
  have hexec : exec (.cpwait f) s = .next (acquireNow s.tick s.cur.pier s.cur.blk l) := by
    show execCpwait f s = _
    unfold execCpwait
    dsimp only
    rw [hls, List.foldl_cons, List.foldl_nil, if_pos hfew, acquire, acquireAt, if_pos hok]
  have hlanes : LanesOf s.cur.blk _ s (acquireNow s.tick s.cur.pier s.cur.blk l) :=
    (LanesOf.updLane s.cur.blk l (fun y => { y with tracked := [] }) (s.tick.updCore s.cur.pier acquireCore)).from_blocks rfl
  refine ⟨_, hexec, rfl, ⟨⟨hlanes.others, hlanes.block⟩, fun k => ⟨fun hk => ?_, fun hk => ?_⟩⟩, ?_⟩
  · rw [hls, List.mem_singleton] at hk
    rw [hlanes.lane, if_pos hk]
  · rw [hls, List.mem_singleton] at hk
    rw [hlanes.lane, if_neg hk]
  · rw [acquireNow, State.updLane_eq, State.core_setBlock, core_updCore, if_pos rfl]
    rfl

theorem cpquery_answers (f : Fields) (s : State) : ∃ u, exec (.cpquery f) s = .next u ∧ PerLane f s u (fun _ x l l' =>
    RegsSet f.d.toNat 1 (cpquery l (x.reg f.sa.toNat)).toNat id l l') := by
  refine ⟨_, rfl, perLane_overLanes (fun l _ x => ?_)⟩
  have h := regsSet_setReg f.d.toNat (cpquery x ((s.src l).reg f.sa.toNat)).toNat x
  rw [BitVec.ofNat_toNat, BitVec.setWidth_eq] at h
  exact h

theorem copyBatches : CopyBatches :=
  ⟨fun _ _ h => cpseal_seals h, fun _ _ h => ⟨_, cpseal_waits h, retryGroup_waits ..⟩, fun _ _ h => cpwait_parks h,
    fun _ _ _ hls hfew hok => cpwait_goes_on hls hfew hok, cpquery_answers⟩

end Sys2Proof.Claim

/-! Jobs that the copy engine accepts (R175, R179, R183). -/
namespace Sys2Proof.Machine
open Sys2Proof Sys2Proof.Claim

/-! ## What a job's acceptance leaves -/

/-- Jobs have been accepted between `s` and `t`: of the blocks only absent lines and the lanes' counts of unsealed jobs may
differ, and of the rest of the state the jobs and the order number. -/
structure JobsOut (s t : State) : Prop where
  frame : t = { s with jobs := t.jobs, blocks := t.blocks, seq := t.seq }
  block : ∀ b, t.block b = { s.block b with absent := (t.block b).absent, lanes := (t.block b).lanes }
  lane : ∀ b l, t.lane b l = { s.lane b l with unsealed := (t.lane b l).unsealed }

namespace JobsOut
variable {s t u : State}

theorem refl (s : State) : JobsOut s s := ⟨rfl, fun _ => rfl, fun _ _ => rfl⟩

theorem trans (h : JobsOut s t) (h' : JobsOut t u) : JobsOut s u :=
  ⟨by rw [h'.frame, h.frame], fun b => by rw [h'.block, h.block], fun b l => by rw [h'.lane, h.lane]⟩

theorem cur (h : JobsOut s t) : t.cur = s.cur := by rw [h.frame]

theorem launch (h : JobsOut s t) (k : Nat) : t.launch k = s.launch k := by rw [h.frame]; rfl

theorem package (h : JobsOut s t) : t.package = s.package := by rw [h.frame]

theorem tag (h : JobsOut s t) (b : Nat) : (t.block b).tag = (s.block b).tag := (congrArg Block.tag (h.block b) :)

theorem curTag (h : JobsOut s t) : t.curTag = s.curTag := by
  rw [State.curTag, State.curBlock, h.cur, h.tag]; rfl

theorem curLaunch (h : JobsOut s t) : t.curLaunch = s.curLaunch := by
  rw [State.curLaunch, h.launch, h.curTag]; rfl

theorem place (h : JobsOut s t) (b : Nat) : (t.block b).place = (s.block b).place := (congrArg Block.place (h.block b) :)

theorem spanBlock (h : JobsOut s t) (b k : Nat) : spanBlock t b k = spanBlock s b k := by
  have hidx : (t.block b).idx = (s.block b).idx := (congrArg Block.idx (h.block b) :)
  have hon : ∀ c, (t.block c).onPier = (s.block c).onPier := fun c => (congrArg Block.onPier (h.block c) :)
  have hpos : ∀ c, (t.block c).spos = (s.block c).spos := fun c => (congrArg Block.spos (h.block c) :)
  simp only [Machine.spanBlock, h.tag, hidx, h.launch, hon, hpos]

theorem windowLimit (h : JobsOut s t) (b : Nat) (w : Window) : windowLimit t b w = windowLimit s b w := by
  have hsize : (t.block b).scratchSize = (s.block b).scratchSize := (congrArg Block.scratchSize (h.block b) :)
  have hrows : (t.block b).accRows = (s.block b).accRows := (congrArg Block.accRows (h.block b) :)
  simp only [Machine.windowLimit, h.tag, h.launch, hsize, hrows]

theorem dieExists (h : JobsOut s t) (d : Nat) : dieExists t d = dieExists s d := by
  simp only [Machine.dieExists, nodeMembers, h.package]

theorem spaceCheck (h : JobsOut s t) (b : Nat) (p : Dword) (n : Nat) : spaceCheck t b p n = spaceCheck s b p n := by
  have horg : (t.block b).origin = (s.block b).origin := (congrArg Block.origin (h.block b) :)
  simp only [Machine.spaceCheck, h.windowLimit, h.dieExists, h.spanBlock, horg]

/-- The checks of R177 find the same. -/
theorem sidesFault (h : JobsOut s t) (b l : Nat) (xs : List Side) (idx : Option (Dword × Nat × Nat)) :
    sidesFault t b l xs idx = sidesFault s b l xs idx := by
  have hside : ∀ x, sideSpace t b x = sideSpace s b x := fun x => by simp only [sideSpace, h.spaceCheck]
  simp only [Machine.sidesFault, hside]

theorem recordPtr (h : JobsOut s t) (b l : Nat) (p : Dword) : recordPtr t b l p = recordPtr s b l p := by
  have hslot : (t.block b).privSlot = (s.block b).privSlot := (congrArg Block.privSlot (h.block b) :)
  simp only [Machine.recordPtr, h.tag, h.launch, hslot]

theorem destLines (h : JobsOut s t) (b : Nat) (p : Dword) (n : Nat) : destLines t b p n = destLines s b p n := by
  simp only [Machine.destLines, scratchBlock, h.spanBlock]

/-- A pier's places are taken by the same jobs. -/
theorem pierJobs (h : JobsOut s t) (p : Nat) : pierJobs t p = pierJobs { s with jobs := t.jobs } p := by
  have hpl : ∀ b, (t.block b).place = (({ s with jobs := t.jobs } : State).block b).place := h.place
  simp only [Machine.pierJobs, hpl]

end JobsOut

/-! ## Lines that a job clears -/

/-- A job's number stands at the lines that it clears. -/
theorem mem_absent_clearLines (k : Nat) : ∀ (ls : List (Nat × Nat)) (s : State) (b ln i : Nat),
    i ∈ tget [] ((clearLines s k ls).block b).absent ln ↔ i ∈ tget [] (s.block b).absent ln ∨ (i = k ∧ (b, ln) ∈ ls)
  | [], s, b, ln, i => by simp [clearLines]
  | x :: ls, s, b, ln, i => by
    let t := s.updBlock x.1 (fun y => { y with absent := tput [] y.absent x.2 (addTo k (tget [] y.absent x.2)) })
    have hone : i ∈ tget [] (t.block b).absent ln ↔ i ∈ tget [] (s.block b).absent ln ∨ (i = k ∧ (b, ln) = x) := by
      rw [block_updBlock]
      by_cases hb : b = x.1
      · rw [if_pos hb, tget_tput]
        by_cases hl : ln = x.2
        · rw [if_pos hl, mem_addTo, hb, hl]
          exact ⟨fun h => h.elim (fun h => .inr ⟨h, rfl⟩) .inl, fun h => h.elim .inr (fun h => .inl h.1)⟩
        · rw [if_neg hl, hb]
          exact ⟨.inl, fun h => h.resolve_right (fun h => hl (congrArg Prod.snd h.2))⟩
      · rw [if_neg hb]
        exact ⟨.inl, fun h => h.resolve_right (fun h => hb (congrArg Prod.fst h.2))⟩
    rw [show clearLines s k (x :: ls) = clearLines t k ls from rfl, mem_absent_clearLines k ls t, hone, or_assoc, List.mem_cons,
      ← and_or_left]

theorem clearLines_out (k : Nat) (ls : List (Nat × Nat)) (s : State) : JobsOut s (clearLines s k ls) ∧
    (clearLines s k ls).jobs = s.jobs ∧ ∀ b l, (clearLines s k ls).lane b l = s.lane b l := by
  refine List.foldlRecOn (motive := fun t : State => JobsOut s t ∧ t.jobs = s.jobs ∧ ∀ b l, t.lane b l = s.lane b l) ls _
    ⟨.refl s, rfl, fun _ _ => rfl⟩ (fun t ht x _ => ?_)
  obtain ⟨hout, hjobs, hlane⟩ := ht
  have hb : ∀ b, (t.updBlock x.1 (fun y => { y with absent := tput [] y.absent x.2 (addTo k (tget [] y.absent x.2)) })).block b =
      { t.block b with absent := if b = x.1 then tput [] (t.block b).absent x.2 (addTo k (tget [] (t.block b).absent x.2))
          else (t.block b).absent } := by
    intro b
    rw [block_updBlock]
    by_cases hx : b = x.1
    · subst hx; rw [if_pos rfl, if_pos rfl]
    · rw [if_neg hx, if_neg hx]
  have hl : ∀ b l, (t.updBlock x.1 (fun y => { y with absent := tput [] y.absent x.2 (addTo k (tget [] y.absent x.2)) })).lane b l =
      t.lane b l := fun b l => by rw [State.lane_eq, hb]; rfl
  exact ⟨hout.trans ⟨rfl, fun b => by rw [hb], fun b l => by rw [hl]⟩, hjobs, fun b l => (hl b l).trans (hlane b l)⟩

/-! ## One job -/

/-- The job that lane `l` of the issuing batch hands over, with the lines that it clears and its order number. -/
def acceptedJob (s : State) (l : Nat) (lines : List (Nat × Nat)) (j : Job) (n : Nat) : Job :=
  { j with id := n, seq := n, die := s.cur.pier / 64, part := s.curLaunch.part, tag := s.curTag, blk := some s.cur.blk,
           lane := l, fib := (s.lane s.cur.blk l).fib, pier := s.cur.pier, pc := s.cur.pc,
           batch := nextBatch (s.lane s.cur.blk l).sealed, pasid := s.curLaunch.pasid, cleared := lines }

/-- From `t` to `u` each lane of a list has handed over its job: the jobs stand at the end in the lanes' order, at the lines that
each clears its number stands, and the lanes count them. -/
structure HandedOver (s : State) (lines : Nat → List (Nat × Nat)) (job : Nat → Job) (ls : List Nat) (t u : State) : Prop where
  out : JobsOut t u
  jobs : ∃ new : List Job, u.jobs = t.jobs ++ new ∧ new.map (·.lane) = ls ∧ ∀ j ∈ new,
    (∃ n, j = acceptedJob s j.lane (lines j.lane) (job j.lane) n) ∧ ∀ x ∈ j.cleared, j.id ∈ tget [] (u.block x.1).absent x.2
  absent : ∀ b ln i, i ∈ tget [] (t.block b).absent ln → i ∈ tget [] (u.block b).absent ln
  lane : ∀ b l, u.lane b l =
    if b = s.cur.blk ∧ l ∈ ls then { t.lane b l with unsealed := (t.lane b l).unsealed + 1 } else t.lane b l

section
variable {f : Fields} {s t u w : State} {lines : Nat → List (Nat × Nat)} {job : Nat → Job} {ls : List Nat} {l : Nat}

theorem handedOver_issueJob (h : JobsOut s t) : HandedOver s lines job [l] t (issueJob t l (lines l) (job l)) := by
  let j1 := acceptedJob s l (lines l) (job l) t.seq
  let v : State := { t with jobs := t.jobs ++ [j1], seq := t.seq + 1 }
  let c := clearLines v t.seq (lines l)
  have hy := h.lane s.cur.blk l
  have hfib : (t.lane s.cur.blk l).fib = (s.lane s.cur.blk l).fib := by rw [hy]
  have hsealed : (t.lane s.cur.blk l).sealed = (s.lane s.cur.blk l).sealed := by rw [hy]
  have hissue : issueJob t l (lines l) (job l) =
      c.updCurLane l (fun z => { z with unsealed := z.unsealed + 1 }) := by
    unfold issueJob
    simp only [h.cur, h.curLaunch, h.curTag, hfib, hsealed]
    rfl
  obtain ⟨hout, hjobs, hlane⟩ := clearLines_out t.seq (lines l) v
  have hcur : c.cur = s.cur := hout.cur.trans h.cur
  rw [hissue, State.updCurLane, hcur]
  have hup := LanesOf.updLane s.cur.blk l (fun z => { z with unsealed := z.unsealed + 1 }) c
  have hframe : c.updLane s.cur.blk l (fun z => { z with unsealed := z.unsealed + 1 }) =
      { c with blocks := (c.updLane s.cur.blk l (fun z => { z with unsealed := z.unsealed + 1 })).blocks } := rfl
  generalize c.updLane s.cur.blk l (fun z => { z with unsealed := z.unsealed + 1 }) = u at hup hframe
  have hblock : ∀ b, u.block b = { c.block b with lanes := (u.block b).lanes } := fun b => by
    by_cases hb : b = s.cur.blk
    · rw [hb]; exact hup.block
    · rw [hup.others b hb]
  have habs : ∀ b, (u.block b).absent = (c.block b).absent := fun b => by rw [hblock b]
  have hulane : ∀ b k, u.lane b k =
      if b = s.cur.blk ∧ k = l then { t.lane b k with unsealed := (t.lane b k).unsealed + 1 } else t.lane b k := fun b k => by
    by_cases hb : b = s.cur.blk
    · subst hb
      rw [hup.lane, hlane]
      simp only [true_and]
      rfl
    · rw [State.lane_eq, hup.others b hb, if_neg (fun h => hb h.1)]
      exact hlane b k
  have hclane : ∀ b k, u.lane b k = { c.lane b k with unsealed := (u.lane b k).unsealed } := fun b k => by
    rw [hulane, hlane]
    split <;> rfl
  have hv : JobsOut t v := ⟨rfl, fun _ => rfl, fun _ _ => rfl⟩
  have hc : JobsOut c u := ⟨by rw [hframe], fun b => by rw [hblock b], hclane⟩
  refine ⟨(hv.trans hout).trans hc, ⟨[j1], ?_, rfl, fun j hj => ?_⟩, fun b ln i hi => ?_, fun b k => ?_⟩
  · rw [hframe]; exact hjobs
  · obtain rfl := List.mem_singleton.mp hj
    refine ⟨⟨t.seq, rfl⟩, fun x hx => ?_⟩
    rw [habs, mem_absent_clearLines]
    exact .inr ⟨rfl, hx⟩
  · rw [habs, mem_absent_clearLines]
    exact .inl hi
  · simp only [hulane, List.mem_singleton]

theorem HandedOver.cons {a : Nat} (ha : a ∉ ls) (h : HandedOver s lines job [a] t u) (h' : HandedOver s lines job ls u w) :
    HandedOver s lines job (a :: ls) t w := by
  obtain ⟨new, hu, hnew, hj⟩ := h.jobs
  obtain ⟨new', hw, hnew', hj'⟩ := h'.jobs
  refine ⟨h.out.trans h'.out, ⟨new ++ new', ?_, ?_, fun j hm => ?_⟩, fun b ln i hi => h'.absent b ln i (h.absent b ln i hi),
    fun b l => ?_⟩
  · rw [hw, hu, List.append_assoc]
  · rw [List.map_append, hnew, hnew']; rfl
  · rcases List.mem_append.mp hm with hm | hm
    · obtain ⟨hacc, hcl⟩ := hj j hm
      exact ⟨hacc, fun x hx => h'.absent _ _ _ (hcl x hx)⟩
    · exact hj' j hm
  · rw [h'.lane, h.lane]
    by_cases hb : b = s.cur.blk
    · by_cases hl : l = a
      · subst hl; simp [ha, hb]
      · simp [hl, hb]
    · simp [hb]

/-- The lanes hand over their jobs one after the other. -/
theorem handedOver_foldl : ∀ (ls : List Nat) (t : State), ls.Nodup → JobsOut s t →
    HandedOver s lines job ls t (ls.foldl (fun t l => issueJob t l (lines l) (job l)) t)
  | [], t, _, _ => ⟨.refl t, ⟨[], by simp, rfl, fun _ h => absurd h List.not_mem_nil⟩, fun _ _ _ h => h, fun _ _ => by simp⟩
  | a :: ls, t, hn, ht => by
    obtain ⟨ha, hn⟩ := List.nodup_cons.mp hn
    have hone := handedOver_issueJob (lines := lines) (job := job) (l := a) ht
    exact hone.cons ha (handedOver_foldl ls _ hn (ht.trans hone.out))

/-- A job takes at most one place of its pier. -/
theorem HandedOver.pierJobs_le (h : HandedOver s lines job [l] t u) (p : Nat) : pierJobs u p ≤ pierJobs t p + 1 := by
  obtain ⟨new, hu, hnew, -⟩ := h.jobs
  have hlen : new.length = 1 := by rw [← List.length_map (f := (·.lane)), hnew]; rfl
  rw [h.out.pierJobs, pierJobs, pierJobs]
  dsimp only
  rw [hu, List.filter_append, List.length_append]
  have hle := List.length_filter_le (fun j : Job => j.pier == p &&
    (match j.blk with | some b => (t.block b).place != .saved | none => false)) new
  rw [hlen] at hle
  exact Nat.add_le_add_left hle _

/-- States that read alike differ in nothing that was handed over. -/
theorem HandedOver.readsAs (h : HandedOver s lines job ls t w) (hr : ReadsAs w u) : HandedOver s lines job ls t u := by
  obtain ⟨new, hw, hnew, hj⟩ := h.jobs
  have hjobs : u.jobs = w.jobs := by rw [hr.frame]
  have hlane : ∀ b l, u.lane b l = w.lane b l := fun b l => by rw [State.lane_eq, hr.block]; rfl
  refine ⟨⟨?_, fun b => ?_, fun b l => ?_⟩, ⟨new, hjobs.trans hw, hnew, fun j hm => ?_⟩, fun b ln i hi => ?_, fun b l => ?_⟩
  · rw [hr.frame, h.out.frame]
  · rw [hr.block]; exact h.out.block b
  · rw [hlane]; exact h.out.lane b l
  · simp only [hr.block]; exact hj j hm
  · rw [hr.block]; exact h.absent b ln i hi
  · rw [hlane]; exact h.lane b l

/-! ## The jobs of an instruction -/

/-- One lane of a job-issuing instruction: it faults, waits for a place, or hands over its job. -/
def jobStep (pier : Nat) (mk : State → Nat → Except LaneFault (List (Nat × Nat) × Job)) (acc : State × List Nat × List LaneFault)
    (l : Nat) : State × List Nat × List LaneFault :=
  match mk acc.1 l with
  | .error e => (acc.1, acc.2.1, acc.2.2 ++ [e])
  | .ok j =>
    if pierJobs acc.1 pier ≥ pierJobLimit then (acc.1, acc.2.1 ++ [l], acc.2.2) else (issueJob acc.1 l j.1 j.2, acc.2)

theorem jobLanes_eq (f : Fields) (s : State) (mk : State → Nat → Except LaneFault (List (Nat × Nat) × Job)) :
    jobLanes f s mk =
      let r := (activeLanes f s).foldl (jobStep s.cur.pier mk) (s, [], [])
      raiseHere (retryLanes r.1 r.2.1 .jobSlots) r.2.2 := rfl

/-- With a place for each lane's job, and no lane that faults, every lane hands over its job. -/
theorem foldl_jobStep {mk : State → Nat → Except LaneFault (List (Nat × Nat) × Job)} :
    ∀ (ls : List Nat) (t : State), JobsOut s t → pierJobs t s.cur.pier + ls.length ≤ 256 →
    (∀ l ∈ ls, ∀ t, JobsOut s t → mk t l = .ok (lines l, job l)) →
    ls.foldl (jobStep s.cur.pier mk) (t, [], []) = (ls.foldl (fun t l => issueJob t l (lines l) (job l)) t, [], [])
  | [], _, _, _, _ => rfl
  | a :: ls, t, ht, hroom, hmk => by
    have hone := handedOver_issueJob (lines := lines) (job := job) (l := a) ht
    have hle := hone.pierJobs_le s.cur.pier
    rw [List.length_cons] at hroom
    have hstep : jobStep s.cur.pier mk (t, [], []) a = (issueJob t a (lines a) (job a), [], []) := by
      unfold jobStep
      dsimp only
      rw [hmk a List.mem_cons_self t ht]
      exact if_neg (by rw [pierJobLimit]; omega)
    rw [List.foldl_cons, List.foldl_cons, hstep]
    exact foldl_jobStep ls _ (ht.trans hone.out) (by omega) (fun l hl => hmk l (List.mem_cons_of_mem a hl))

/-- An instruction whose every lane passes its checks adds a job for each. -/
theorem jobLanes_handedOver {mk : State → Nat → Except LaneFault (List (Nat × Nat) × Job)} (hroom : JobRoom f s)
    (hmk : ∀ l ∈ activeLanes f s, ∀ t, JobsOut s t → mk t l = .ok (lines l, job l)) :
    HandedOver s lines job (activeLanes f s) s (jobLanes f s mk) := by
  rw [jobLanes_eq, foldl_jobStep (activeLanes f s) s (.refl s) hroom hmk]
  exact (handedOver_foldl (activeLanes f s) s (activeLanes_nodup f s) (.refl s)).readsAs (readsAs_retryLanes_nil ..)

/-- What is said of the jobs that an instruction adds. -/
theorem HandedOver.addsJobs {P : Job → Prop} (h : HandedOver s lines job (activeLanes f s) s u)
    (hjob : ∀ l ∈ activeLanes f s, (job l).chan = f.sc.toNat ∧ (job l).st = .waiting)
    (hP : ∀ l ∈ activeLanes f s, ∀ n, P (acceptedJob s l (lines l) (job l) n)) : AddsJobs f s u P := by
  obtain ⟨new, hu, hnew, hj⟩ := h.jobs
  refine ⟨h.out.frame, ⟨new, hu, hnew, fun j hm => ?_⟩, fun b => ?_, fun b l => h.lane b l⟩
  · have hl : j.lane ∈ activeLanes f s := hnew ▸ List.mem_map_of_mem hm
    obtain ⟨⟨n, hacc⟩, hcl⟩ := hj j hm
    obtain ⟨hchan, hst⟩ := hjob _ hl
    have hPj := hP _ hl n
    rw [← hacc] at hPj
    refine ⟨?_, ?_, ?_, ?_, ?_, ?_, hcl, hPj⟩
    · rw [hacc]; rfl
    · rw [hacc]; rfl
    · rw [hacc]; exact hchan
    · rw [hacc]; rfl
    · rw [hacc]; exact hst
    · rw [hacc]; rfl
  · rw [h.out.block b]
    exact ⟨rfl, rfl⟩

end
end Sys2Proof.Machine

/-! The copy instructions (R177, R178, R180, R182). -/
namespace Sys2Proof.Claim
open Sys2Proof Sys2Proof.Machine

/-! ## Copies, gathers, scatters and fills -/

section
variable {f : Fields} {s : State}

theorem cpt_adds (hroom : JobRoom f s) {hw hr : Shape}
    (hsh : ∀ l ∈ activeLanes f s, shapeAt (s.src l).shapes (f.immBits 3 0) = some hw ∧
      shapeAt (s.src l).shapes (f.immBits 7 4) = some hr) (hcount : hw.count = hr.count) (hesz : hw.esz = hr.esz)
    (hok : ∀ l ∈ activeLanes f s,
      sidesFault s s.cur.blk l [sideD f s hw.span hw.esz l, sideA f s hr.span hr.esz l] none = none) :
    ∃ u, exec (.cpt f) s = .next u ∧ AddsJobs f s u (fun j => j.kind = .cpt ∧
      j.dst = recordPtr s s.cur.blk j.lane (pairD f s j.lane) ∧ j.src = recordPtr s s.cur.blk j.lane (pairA f s j.lane) ∧
      j.wshape = hw ∧ j.rshape = hr ∧ j.cleared = destLines s s.cur.blk (pairD f s j.lane) hw.span) := by
  let job (l : Nat) : Job :=
    { id := 0, kind := .cpt, die := 0, part := 0, chan := f.sc.toNat, dsp := f.subBits 37 35, ssp := f.subBits 34 32,
      dst := recordPtr s s.cur.blk l (pairD f s l), src := recordPtr s s.cur.blk l (pairA f s l), wshape := hw, rshape := hr }
  refine ⟨_, rfl, (jobLanes_handedOver (lines := fun l => destLines s s.cur.blk (pairD f s l) hw.span) (job := job) hroom
    (fun l hl t ht => ?_)).addsJobs (fun _ _ => ⟨rfl, rfl⟩) (fun _ _ _ => ⟨rfl, rfl, rfl, rfl, rfl, rfl⟩)⟩
  have hsame : ¬ (hw.count != hr.count || hw.esz != hr.esz) = true := by simp [hcount, hesz]
  have hpass := hok l hl
  simp only [sideD, sideA, pairD, pairA] at hpass
  simp only [(hsh l hl).1, (hsh l hl).2, if_neg hsame, ht.sidesFault, ht.cur, hpass, ht.destLines, enginePtr, ht.recordPtr]
  rfl

/-- What a gather or a scatter hands over for lane `l`: `box` bytes of its destination are cleared, and `room` bytes follow its
indexed base. -/
def indexedJob (gather : Bool) (f : Fields) (s : State) (l : Nat) : Job :=
  let n := f.immBits 23 0
  let esz := 2 ^ f.immBits 26 24
  let side := if gather then pairA f s l else pairD f s l
  { id := 0,
    room := (windowLimit s s.cur.blk (windowOf side)).getD (if windowOf side = .host then 2 ^ 56 else 2 ^ 63) -
      (match windowOf side with | .global => side.toNat | .host => ptrOff56 side | _ => limitOff side),
    kind := if gather then .gth else .sct, die := 0, part := 0, chan := f.sc.toNat, dsp := f.subBits 37 35,
    ssp := f.subBits 34 32, dst := recordPtr s s.cur.blk l (pairD f s l), src := recordPtr s s.cur.blk l (pairA f s l),
    idx := recordPtr s s.cur.blk l (pairB f s l), i64 := (if f.immBits 27 27 = 1 then 8 else 4) == 8,
    wshape := denseShape esz n, rshape := denseShape esz n }

/-- The bytes of its destination whose lines it clears. -/
def indexedBox (gather : Bool) (f : Fields) (s : State) (l : Nat) : Nat :=
  let n := f.immBits 23 0
  let esz := 2 ^ f.immBits 26 24
  let d := pairD f s l
  let left := (windowLimit s s.cur.blk (windowOf d)).getD 0 - ptrOff24 d
  if gather then n * esz else if (if f.immBits 27 27 = 1 then 8 else 4) = 8 then left else min (2 ^ 32 * esz) left

theorem issueIndexed_handedOver (gather : Bool) (hroom : JobRoom f s)
    (hok : ∀ l ∈ activeLanes f s,
      sidesFault s s.cur.blk l
        [sideD f s (if gather then f.immBits 23 0 * 2 ^ f.immBits 26 24 else 2 ^ f.immBits 26 24) (2 ^ f.immBits 26 24) l,
         sideA f s (if gather then 2 ^ f.immBits 26 24 else f.immBits 23 0 * 2 ^ f.immBits 26 24) (2 ^ f.immBits 26 24) l]
        (some (pairB f s l, if f.immBits 27 27 = 1 then 8 else 4, f.immBits 23 0)) = none) :
    HandedOver s (fun l => destLines s s.cur.blk (pairD f s l) (indexedBox gather f s l)) (indexedJob gather f s)
      (activeLanes f s) s (issueIndexed gather f s) := by
  unfold issueIndexed
  dsimp only
  refine jobLanes_handedOver hroom (fun l hl t ht => ?_)
  have hpass := hok l hl
  simp only [sideD, sideA, pairD, pairA, pairB] at hpass
  simp only [ht.sidesFault, ht.cur, hpass, ht.destLines, enginePtr, ht.recordPtr, ht.windowLimit]
  rfl

theorem count_denseShape (esz n : Nat) : (denseShape esz n).count = n := by
  simp [denseShape, Shape.count]

theorem cpfill_adds (hroom : JobRoom f s) {h : Shape}
    (hsh : ∀ l ∈ activeLanes f s, shapeAt (s.src l).shapes (f.immBits 3 0) = some h)
    (hal : fillAligned h.esz f.sa.toNat = true)
    (hok : ∀ l ∈ activeLanes f s, sidesFault s s.cur.blk l [sideD f s h.span h.esz l] none = none) :
    ∃ u, exec (.cpfill f) s = .next u ∧ AddsJobs f s u (fun j => j.kind = .fill ∧ j.wshape = h ∧
      j.dst = recordPtr s s.cur.blk j.lane (pairD f s j.lane) ∧ j.cleared = destLines s s.cur.blk (pairD f s j.lane) h.span ∧
      j.value = leBytes h.esz ((s.src j.lane).nat f.sa.toNat (max 1 (h.esz / 4)))) := by
  let job (l : Nat) : Job :=
    { id := 0, kind := .fill, die := 0, part := 0, chan := f.sc.toNat, dsp := f.subBits 37 35,
      dst := recordPtr s s.cur.blk l (pairD f s l), wshape := h,
      value := leBytes h.esz ((s.src l).nat f.sa.toNat (max 1 (h.esz / 4))) }
  refine ⟨_, rfl, (jobLanes_handedOver (lines := fun l => destLines s s.cur.blk (pairD f s l) h.span) (job := job) hroom
    (fun l hl t ht => ?_)).addsJobs (fun _ _ => ⟨rfl, rfl⟩) (fun _ _ _ => ⟨rfl, rfl, rfl, rfl, rfl⟩)⟩
  have hpass := hok l hl
  simp only [sideD, pairD] at hpass
  simp only [hsh l hl, hal, Bool.not_true, Bool.false_eq_true, if_false, ht.sidesFault, ht.cur, hpass, ht.destLines,
    enginePtr, ht.recordPtr]
  rfl

end

theorem copyJobs : CopyJobs := by
  intro f s hroom place n esz iw
  refine ⟨fun hw hr hsh hcount hesz hok => cpt_adds hroom hsh hcount hesz hok, fun hok => ?_, fun hok => ?_,
    fun h hsh hal hok => cpfill_adds hroom hsh hal hok⟩
  · refine ⟨_, rfl, (issueIndexed_handedOver true hroom hok).addsJobs (fun _ _ => ⟨rfl, rfl⟩) (fun _ _ _ => ?_)⟩
    exact ⟨rfl, rfl, rfl, rfl, rfl, count_denseShape .., rfl, rfl⟩
  · refine ⟨_, rfl, (issueIndexed_handedOver false hroom hok).addsJobs (fun _ _ => ⟨rfl, rfl⟩) (fun _ _ _ => ?_)⟩
    exact ⟨rfl, rfl, rfl, rfl, rfl, count_denseShape .., rfl⟩

/-! ## Chains and collectives -/

section
variable {f : Fields} {s : State}

/-- What CPCHAIN or CLJOB hands over for lane `l`. -/
def pointerJob (kind : JobKind) (f : Fields) (s : State) (l : Nat) : Job :=
  let q := recordPtr s s.cur.blk l (pairA f s l)
  { id := 0, kind := kind, die := 0, part := 0, chan := f.sc.toNat, src := q, recPtr := q }

theorem issuePointer_handedOver (kind : JobKind) (hroom : JobRoom f s)
    (hok : ∀ l ∈ activeLanes f s, codeMatches 0 (pairA f s l) = true ∧ (pairA f s l).toNat % 64 = 0) :
    HandedOver s (fun _ => []) (pointerJob kind f s) (activeLanes f s) s (issuePointer kind f s) := by
  refine jobLanes_handedOver hroom (fun l hl t ht => ?_)
  obtain ⟨hcode, hal⟩ := hok l hl
  simp only [pairA] at hcode hal
  simp only [hcode, hal, Bool.not_true, Bool.false_eq_true, if_false, bne_self_eq_false, enginePtr, ht.cur, ht.recordPtr]
  rfl

/-- The head of chain `j` stands in channel register `n` of the issuing block. -/
def headIn (n : Nat) (t : State) (j : Job) : State := t.updCurBlock (fun b => { b with chans := tput 0 b.chans n j.recPtr })

/-- Heads that go into the register one after the other: the last one stands there. -/
theorem foldl_headIn (n : Nat) : ∀ (js : List Job) (t : State),
    let u := js.foldl (headIn n) t
    u = { t with blocks := u.blocks } ∧ (∀ b, u.block b = { t.block b with chans := (u.block b).chans }) ∧
      ∀ j, js.getLast? = some j → tget 0 (u.block t.cur.blk).chans n = j.recPtr
  | [], t => ⟨rfl, fun _ => rfl, fun _ h => by cases h⟩
  | a :: js, t => by
    obtain ⟨hu, hb, hl⟩ := foldl_headIn n js (headIn n t a)
    have hv : ∀ b, (headIn n t a).block b = { t.block b with chans := ((headIn n t a).block b).chans } := fun b => by
      rw [headIn, State.updCurBlock, block_updBlock]
      split
      · next h => rw [h]
      · rfl
    refine ⟨blocksOnly_trans (t := headIn n t a) rfl hu, fun b => by rw [List.foldl_cons, hb b, hv b], fun j hj => ?_⟩
    rcases List.eq_nil_or_concat' js with rfl | ⟨r, x, rfl⟩
    · cases hj
      rw [List.foldl_cons, List.foldl_nil, headIn, block_updCurBlock]
      exact tget_tput_same ..
    · rw [← List.cons_append, List.getLast?_concat] at hj
      exact hl j (List.getLast?_concat.trans hj)

theorem exec_cpchain (f : Fields) (s : State) : exec (.cpchain f) s =
    .next (((issuePointer .chain f s).jobs.drop s.jobs.length).foldl (headIn f.sc.toNat) (issuePointer .chain f s)) := rfl

theorem cpchain_adds (hroom : JobRoom f s)
    (hok : ∀ l ∈ activeLanes f s, codeMatches 0 (pairA f s l) = true ∧ (pairA f s l).toNat % 64 = 0) :
    ∃ u, exec (.cpchain f) s = .next u ∧
      AddsJobs f s u (fun j => j.kind = .chain ∧ j.recPtr = recordPtr s s.cur.blk j.lane (pairA f s j.lane)) ∧
      ∀ l, (activeLanes f s).getLast? = some l →
        tget 0 (u.block s.cur.blk).chans f.sc.toNat = recordPtr s s.cur.blk l (pairA f s l) := by
  have hadds := (issuePointer_handedOver .chain hroom hok).addsJobs
    (P := fun j => j.kind = .chain ∧ j.recPtr = recordPtr s s.cur.blk j.lane (pairA f s j.lane)) (fun _ _ => ⟨rfl, rfl⟩)
    (fun _ _ _ => ⟨rfl, rfl⟩)
  have hexec := exec_cpchain f s
  generalize issuePointer .chain f s = t at hadds hexec
  obtain ⟨hframe, ⟨new, hnew, hlanes, hj⟩, hmem, hlane⟩ := hadds
  have hcur : t.cur = s.cur := by rw [hframe]
  rw [hnew, List.drop_left] at hexec
  obtain ⟨hu, hb, hlast⟩ := foldl_headIn f.sc.toNat new t
  generalize new.foldl (headIn f.sc.toNat) t = u at hexec hu hb hlast
  refine ⟨u, hexec, ⟨?_, ⟨new, by rw [hu]; exact hnew, hlanes, fun j hm => ?_⟩, fun b => ?_, fun b l => ?_⟩, fun l hl => ?_⟩
  · rw [hu, hframe]
  · obtain ⟨h1, h2, h3, h4, h5, h6, hcl, hP⟩ := hj j hm
    exact ⟨h1, h2, h3, h4, h5, h6, fun x hx => by rw [hb]; exact hcl x hx, hP⟩
  · rw [hb]; exact hmem b
  · rw [State.lane_eq, hb]; exact hlane b l
  · obtain ⟨j, hjl, rfl⟩ : ∃ j, new.getLast? = some j ∧ j.lane = l := by
      rw [← hlanes, List.getLast?_map, Option.map_eq_some_iff] at hl
      exact hl
    obtain ⟨-, -, -, -, -, -, -, -, hptr⟩ := hj j (List.mem_of_getLast? hjl)
    rw [← hcur, hlast j hjl, hcur]
    exact hptr

theorem chainAndCollectiveJobs : ChainAndCollectiveJobs := fun _ _ hroom hok =>
  ⟨⟨_, rfl, (issuePointer_handedOver .coll hroom hok).addsJobs (fun _ _ => ⟨rfl, rfl⟩) (fun _ _ _ => ⟨rfl, rfl⟩)⟩,
    cpchain_adds hroom hok⟩

end

end Sys2Proof.Claim

/-! The whole statement about the copy instructions. -/
namespace Sys2Proof.Claim
open Sys2Proof Sys2Proof.Machine

/-- Settles O25: the jobs of an instruction are handed over one after the other, lane by lane, and leave what the checks of the
later lanes read. -/
theorem copyInstructions : Obligations.CopyInstructions :=
  ⟨shapeDefinition, copyJobs, chainAndCollectiveJobs, copyBatches⟩

end Sys2Proof.Claim

/-! What the copy engine reads and writes, and its budgets (R178, R278, R279, R342, R343). -/
namespace Sys2Proof.Machine
open Sys2Proof Sys2Proof.Claim

/-! ## Budgets without a limit -/

/-- Of the state only the partitions' accounts may differ. -/
def ChargedFrom (s t : State) : Prop := (∃ ps, t = { s with parts := ps }) ∧ ∀ p, t.frozen p = s.frozen p

theorem newPeriods_reason (s : State) : ∀ (n : Nat) (x : Part), (newPeriods s n x).reason = x.reason
  | 0, _ => rfl
  | n + 1, x => newPeriods_reason s n (newPeriod s x)

theorem ChargedFrom.charge {s t : State} (h : ChargedFrom s t) (p k q n : Nat) : ChargedFrom s (charge t p k q n) := by
  obtain ⟨⟨ps, rfl⟩, hf⟩ := h
  refine ⟨⟨_, rfl⟩, fun j => (?_ : _ = _).trans (hf j)⟩
  have hr : ((Machine.charge { s with parts := ps } p k q n).part j).reason = (({ s with parts := ps } : State).part j).reason := by
    rw [Machine.charge, updSettled]
    by_cases hj : j = p
    · rw [hj, State.part_setPart]
      exact newPeriods_reason ..
    · rw [State.part_setPart_ne _ _ hj]
  rw [State.frozen, hr]
  rfl

/-- An activity without a limit admits every operation. -/
theorem budgetOk_free {s : State} {p : Nat} (h : NoLimits s p) (k q : Nat) : budgetOk s p k q = true := by
  have hlim : (settledPart s p).inForce.limits = [] := by
    rw [settledPart, newPeriods_inForce]
    exact h
  unfold budgetOk
  dsimp only
  rw [hlim]
  rfl

/-- What no limit holds back acts, and is charged. -/
theorem budgetAll_free {s : State} {p : Nat} (h : NoLimits s p) (q : Nat) (acts : List (Nat × Nat)) :
    ∃ t, (∀ act, budgetAll s p q acts act = act t) ∧ ChargedFrom s t := by
  have hf : acts.find? (fun a => a.2 != 0 && !budgetOk s p a.1 q) = none :=
    List.find?_eq_none.mpr (fun a _ => by rw [budgetOk_free h]; simp)
  refine ⟨_, fun act => by unfold budgetAll; rw [hf], ?_⟩
  refine List.foldlRecOn acts _ ⟨⟨_, rfl⟩, fun _ => rfl⟩ (fun t ht a _ => ?_)
  split
  · exact ht
  · exact ht.charge ..

theorem recordRead_free {s : State} {j : Job} (h : NoLimits s j.part) (p : Dword) (n miss : Nat) :
    ∃ t, (∀ act, recordRead s j p n miss act = act t) ∧ ChargedFrom s t := budgetAll_free h j.id _

/-! ## Reads -/

/-- A read asks for U of the leaves it used, and homes that hold a chunk have used it last: nothing else changes. -/
theorem readMark_from (s : State) (j : Job) (p : Dword) (n : Nat) :
    ∃ us qs, readMark s j p n = { s with uses := us, piers := qs } := by
  unfold readMark
  split
  · refine List.foldlRecOn (motive := fun t : State => ∃ us qs, t = { s with uses := us, piers := qs }) _ _ ⟨_, _, rfl⟩
      (fun t ht x _ => ?_)
    obtain ⟨us, qs, rfl⟩ := ht
    split
    · rw [setU_frame]
      exact ⟨_, _, rfl⟩
    · exact ⟨_, _, rfl⟩
  · exact ⟨_, _, rfl⟩

/-! ## Writes that lie in one chunk -/

/-- Bytes of one chunk are one piece. -/
theorem chunkPieces_one {p : Dword} {n : Nat} (h : p.toNat % 64 + n ≤ 64) :
    chunkPieces p n = [(p, n)] ∨ (n = 0 ∧ chunkPieces p n = []) := by
  unfold chunkPieces
  by_cases h0 : p.toNat % 64 + n = 0
  · rw [h0]
    exact .inr ⟨by omega, rfl⟩
  · rw [show (p.toNat % 64 + n + 63) / 64 = 1 by omega]
    refine .inl ?_
    simp only [List.range_one, List.map_cons, List.map_nil, Nat.mul_zero, Nat.add_zero, Nat.max_eq_left (Nat.div_mul_le_self ..),
      BitVec.ofNat_toNat, BitVec.setWidth_eq]
    rw [show min (p.toNat + n) (p.toNat / 64 * 64 + 64) - p.toNat = n by omega]

/-- A page of 2^k bytes keeps an address's place in its chunk. -/
theorem page_offset_mod {a o k : Nat} (hk : 6 ≤ k) (h : a % 2 ^ k = 0) : (a + o % 2 ^ k) % 64 = o % 64 := by
  have hd : 64 ∣ 2 ^ k := Nat.pow_dvd_pow 2 hk
  have ha : a % 64 = 0 := Nat.mod_eq_zero_of_dvd (hd.trans (Nat.dvd_of_mod_eq_zero h))
  rw [Nat.add_mod, ha, Nat.zero_add, Nat.mod_mod, Nat.mod_mod_of_dvd _ hd]

/-- A walk that ends at a leaf keeps an address's place in its chunk. -/
theorem walk_ok_mod {s : State} {die off pa : Nat} {lf : Leaf} : ∀ {lvl tbl : Nat} {res off_ bad : Bool},
    walk s die off lvl tbl res off_ bad = .ok pa lf → pa % 64 = off % 64
  | 0, _, _, _, _, h => by cases h
  | lvl + 1, tbl, res, off_, bad, h => by
    unfold walk at h
    extract_lets shift idx at_ e bad' addr off' res' at h
    have hshift : 6 ≤ shift := by
      dsimp only [shift]
      split <;> omega
    split at h
    · cases h
    · split at h
      · split at h
        · cases h
        · next hbad =>
          split at h
          · cases h
          · cases h
            simp only [Bool.or_eq_true, not_or, bne_iff_ne, ne_eq, Decidable.not_not] at hbad
            exact page_offset_mod hshift hbad.2
      · exact walk_ok_mod h

theorem xlatGlobal_ok_mod {s : State} {part n pa : Nat} {r : Option LaunchRec} {p : Dword} {k : AccKind} {lf : Leaf}
    (h : xlatGlobal s part r p n k = .ok pa lf) : pa % 64 = p.toNat % 64 := by
  have hw : walkRoot s (ptrDie p) part (ptrOff56 p) = .ok pa lf := by
    unfold xlatGlobal at h
    split at h
    · next hw =>
      rw [hw]
      repeat' split at h
      all_goals first | exact h | cases h
    · exact h
  have hoff : pa % 64 = ptrOff56 p % 64 := by
    unfold walkRoot at hw
    dsimp only at hw
    split at hw
    · cases hw
    · split at hw
      · cases hw
      · exact walk_ok_mod hw
  rw [hoff, ptrOff56, Nat.mod_mod_of_dvd _ (by decide)]

theorem engineDest_home {s : State} {j : Job} {p : Dword} {n pa : Nat} {lf : Leaf} (h : engineDest s j p n = .home pa lf) :
    windowOf p = .global ∧ pa % 64 = p.toNat % 64 := by
  unfold engineDest at h
  dsimp only at h
  split at h
  · next hw =>
    refine ⟨hw, ?_⟩
    split at h
    · cases h
    · split at h
      · next hx => cases h; exact xlatGlobal_ok_mod hx
      · cases h
      · cases h
  all_goals
    repeat' split at h
    all_goals cases h

/-- A write that lies in one chunk of a home goes there whole. -/
theorem engineDests_home {s : State} {j : Job} {p : Dword} {n pa : Nat} {lf : Leaf} (h : engineDest s j p n = .home pa lf)
    (hn : pa % 64 + n ≤ 64) :
    engineDests s j p n = [(.home pa lf, 0, n)] ∨ (n = 0 ∧ engineDests s j p n = []) := by
  obtain ⟨hw, hmod⟩ := engineDest_home h
  unfold engineDests
  rw [if_pos hw]
  refine (chunkPieces_one (p := p) (by omega)).imp (fun hp => ?_) (fun hp => ⟨hp.1, ?_⟩)
  · rw [hp, List.map_singleton, h, Nat.sub_self]
  · rw [hp.2, List.map_nil]

/-! ## Writes at a home -/

/-- A byte written under a condition. -/
theorem rdByte_wrByte_if (c : Prop) [Decidable c] (m : List Host.Cell) (x a : Nat) (v : Byte) :
    rdByte (if c then wrByte m x v else m) a = if c ∧ a = x then v else rdByte m a := by
  by_cases hc : c
  · rw [if_pos hc, rdByte_wrByte]
    exact if_congr (by simp [hc]) rfl rfl
  · rw [if_neg hc, if_neg (fun h => hc h.1)]

/-- A chunk's bytes written under a mask. -/
theorem rdByte_foldl_masked (on : Nat → Prop) [DecidablePred on] (g : Nat → Byte) (m : List Host.Cell) (b a : Nat) : ∀ n : Nat,
    rdByte ((List.range n).foldl (fun m i => if on i then wrByte m (b + i) (g i) else m) m) a =
      if b ≤ a ∧ a < b + n ∧ on (a - b) then g (a - b) else rdByte m a
  | 0 => by
    rw [if_neg (by omega)]
    rfl
  | n + 1 => by
    rw [List.range_succ, List.foldl_append, List.foldl_cons, List.foldl_nil, rdByte_wrByte_if,
      rdByte_foldl_masked on g m b a n]
    by_cases ha : a = b + n
    · subst ha
      rw [Nat.add_sub_cancel_left, if_neg (c := _ ∧ _ < b + n ∧ _) (by omega)]
      exact if_congr ⟨fun h => ⟨by omega, by omega, h.1⟩, fun h => ⟨h.2.2, rfl⟩⟩ rfl rfl
    · rw [if_neg (c := _ ∧ a = b + n) (fun h => ha h.2)]
      exact if_congr ⟨fun h => ⟨h.1, by omega, h.2.2⟩, fun h => ⟨h.1, by omega, h.2.2⟩⟩ rfl rfl

/-- The mask of `n` bytes from byte `r` of a chunk, byte by byte. -/
theorem getLsbD_foldl_beMask (r : Nat) {i : Nat} (hi : i < 64) : ∀ n : Nat,
    ((List.range n).foldl (fun (m : BitVec 64) k => m ||| beMask (r + k) 1) 0).getLsbD i = decide (r ≤ i ∧ i < r + n)
  | 0 => by simp
  | n + 1 => by
    rw [List.range_succ, List.foldl_append, List.foldl_cons, List.foldl_nil, BitVec.getLsbD_or, getLsbD_foldl_beMask r hi n,
      beMask, show (2 ^ 1 - 1) * 2 ^ (r + n) = 2 ^ (r + n) by omega, getLsbD_ofNat_two_pow hi, ← Bool.decide_or]
    exact decide_eq_decide.mpr (by omega)

/-- Byte `k` of a number that is moved up by `r` bytes. -/
theorem byte_shifted {w r n k v : Nat} (hv : v < 256 ^ n) (hn : 8 * (r + n) ≤ w) :
    BitVec.ofNat 8 ((BitVec.ofNat w (v * 2 ^ (8 * r))).toNat >>> (8 * (r + k))) = BitVec.ofNat 8 (v / 256 ^ k) := by
  have hlt : v * 2 ^ (8 * r) < 2 ^ w := calc
    _ < 256 ^ n * 2 ^ (8 * r) := Nat.mul_lt_mul_of_pos_right hv (Nat.two_pow_pos _)
    _ = 2 ^ (8 * n + 8 * r) := by rw [show 256 = 2 ^ 8 from rfl, ← Nat.pow_mul, ← Nat.pow_add]
    _ ≤ 2 ^ w := Nat.pow_le_pow_right (by omega) (by omega)
  rw [BitVec.toNat_ofNat, Nat.mod_eq_of_lt hlt, Nat.shiftRight_eq_div_pow, Nat.mul_add, Nat.pow_add,
    ← Nat.div_div_eq_div_mul, Nat.mul_div_cancel _ (Nat.two_pow_pos _), Nat.pow_mul 2 8 k]

/-- Of the state only what a write at a home changes may differ. -/
def HomeWritten (s u : State) : Prop :=
  u = { s with mem := u.mem, memPoison := u.memPoison, hostLines := u.hostLines, cores := u.cores, dir := u.dir, uses := u.uses }

theorem leNat_lt : ∀ bs : List Byte, leNat bs < 256 ^ bs.length
  | [] => by simp [leNat]
  | b :: bs => by
    have := leNat_lt bs
    have := b.isLt
    rw [leNat, List.length_cons, Nat.pow_succ]
    omega

/-- Nothing is stored where no byte is written. -/
theorem stored_none (m : List Host.Cell) (pa v : Nat) : Stored m m pa 0 v := fun _ => (if_neg (by omega)).symm

/-- Bytes of one chunk, all admitted, are stored at their home. -/
theorem enginePut_stored {s : State} {pa : Nat} {lf : Leaf} {bs : List Byte} {on : Nat → Bool} (poison : Bool)
    (hn : pa % 64 + bs.length ≤ 64) (hon : ∀ i, on i = true) :
    Stored (enginePut s (.home pa lf) bs on poison).mem s.mem pa bs.length (leNat bs) := by
  intro a
  unfold enginePut homeWriteMasked
  simp only [hon, if_true]
  rw [rdByte_foldl_masked]
  by_cases ha : pa ≤ a ∧ a < pa + bs.length
  · obtain ⟨k, rfl⟩ := Nat.exists_eq_add_of_le ha.1
    have hbit : ((List.range bs.length).foldl (fun (m : BitVec 64) i => m ||| beMask (pa % 64 + i) 1) 0).getLsbD (pa % 64 + k) = true := by
      rw [getLsbD_foldl_beMask _ (by omega), decide_eq_true_eq]
      omega
    rw [if_pos ha, show pa + k - pa / 64 * 64 = pa % 64 + k by omega, if_pos ⟨by omega, by omega, hbit⟩,
      byte_shifted (leNat_lt bs) (by omega), Nat.add_sub_cancel_left]
  · rw [if_neg ha, if_neg]
    · rw [setU_frame]
      rfl
    · rintro ⟨h1, h2, hbit⟩
      rw [getLsbD_foldl_beMask _ (by omega), decide_eq_true_eq] at hbit
      omega

theorem enginePut_home (s : State) (pa : Nat) (lf : Leaf) (bs : List Byte) (on : Nat → Bool) (poison : Bool) :
    HomeWritten s (enginePut s (.home pa lf) bs on poison) := by
  unfold enginePut
  dsimp only
  rw [setU_frame]
  rfl

/-- A write of the engine that lies in one chunk of a home, where its words have no owner, is stored there. -/
theorem enginePuts_stored {s t : State} {j : Job} {p : Dword} {pa : Nat} {lf : Leaf} {bs : List Byte} {on : Nat → Bool}
    (h : engineDest t j p bs.length = .home pa lf) (hn : pa % 64 + bs.length ≤ 64) (hu : Unowned s (physWords pa bs.length))
    (hon : ∀ i, on i = true) (poison : Bool) :
    let u := enginePuts s (engineDests t j p bs.length) bs on poison
    Stored u.mem s.mem pa bs.length (leNat bs) ∧ HomeWritten s u := by
  obtain hd | ⟨h0, hd⟩ := engineDests_home h hn
  · obtain ⟨d, hdir⟩ := clearOwners_unowned hu
    rw [hd]
    simp only [enginePuts, List.foldl_cons, List.foldl_nil, List.drop_zero, List.take_length, Nat.zero_add, hdir]
    refine ⟨enginePut_stored poison hn hon, ?_⟩
    rw [enginePut_home]
    rfl
  · rw [hd, h0]
    exact ⟨stored_none s.mem pa (leNat bs), rfl⟩

end Sys2Proof.Machine

/-! Jobs of the engine: their places in the list, the lines they land, and the elements they write (R175, R178, R179). -/
namespace Sys2Proof.Machine
open Sys2Proof Sys2Proof.Claim

/-! ## A job by its number -/

theorem findJob_is {s : State} {k : Nat} {j : Job} (h : findJob s k = some j) : j.id = k ∧ s.frozen j.part = false := by
  simpa using List.find?_some h

theorem updJob_becomes (s : State) (k : Nat) (g : Job → Job) : JobBecomes s (updJob s k g) k g := by
  unfold JobBecomes updJob
  simp only [beq_iff_eq]

/-! ## Lines that land (R179) -/

/-- A line is present as far as job `k` is concerned. -/
def landLine (k : Nat) (s : State) (x : Nat × Nat) : State :=
  s.updBlock x.1 (fun b => { b with absent := tput [] b.absent x.2 ((tget [] b.absent x.2).filter (· != k)) })

theorem landLines_eq (s : State) (k : Nat) (ls : List (Nat × Nat)) :
    landLines s k ls = settleWaits (ls.foldl (landLine k) s) := rfl

/-- Of the blocks only the absent lines may differ. -/
def LinesOf (s t : State) : Prop :=
  t = { s with blocks := t.blocks } ∧ ∀ b, ∃ ab, t.block b = { s.block b with absent := ab }

theorem LinesOf.landLine {s t : State} (h : LinesOf s t) (k : Nat) (x : Nat × Nat) : LinesOf s (landLine k t x) := by
  obtain ⟨hf, hb⟩ := h
  refine ⟨blocksOnly_trans hf rfl, fun b => ?_⟩
  obtain ⟨ab, hab⟩ := hb b
  rw [Machine.landLine, block_updBlock]
  split
  · next hx =>
    rw [← hx, hab]
    exact ⟨_, rfl⟩
  · exact ⟨ab, hab⟩

theorem linesOf_landed (s : State) (k : Nat) (ls : List (Nat × Nat)) : LinesOf s (ls.foldl (landLine k) s) :=
  List.foldlRecOn ls _ ⟨rfl, fun _ => ⟨_, rfl⟩⟩ (fun _ ht x _ => ht.landLine k x)

theorem absent_landLine (k : Nat) (s : State) (x : Nat × Nat) (b ln : Nat) :
    tget [] ((landLine k s x).block b).absent ln =
      if b = x.1 ∧ ln = x.2 then (tget [] (s.block b).absent ln).filter (· != k) else tget [] (s.block b).absent ln := by
  rw [landLine, block_updBlock]
  by_cases hb : b = x.1
  · subst hb
    rw [if_pos rfl, tget_tput]
    by_cases hl : ln = x.2
    · subst hl
      rw [if_pos rfl, if_pos ⟨rfl, rfl⟩]
    · rw [if_neg hl, if_neg (fun h => hl h.2)]
  · rw [if_neg hb, if_neg (fun h => hb h.1)]

/-- Every landed line is present for the job. -/
theorem present_landed (s : State) (k : Nat) (ls : List (Nat × Nat)) :
    ∀ x ∈ ls, k ∉ tget [] ((ls.foldl (landLine k) s).block x.1).absent x.2 := by
  refine (foldl_each (I := fun _ => True) (P := fun (x : Nat × Nat) (t : State) => k ∉ tget [] (t.block x.1).absent x.2) trivial
    (fun x _ t _ => ⟨trivial, ?_, fun y hy => ?_⟩)).2.1
  · rw [absent_landLine, if_pos ⟨rfl, rfl⟩]
    simp
  · rw [absent_landLine]
    split
    · exact fun h => hy (List.mem_filter.mp h).1
    · exact hy

/-- Lines land: the blocks' absent lines and what jobs wait for may differ, and nothing else. -/
structure Landed (s u : State) : Prop where
  frame : u = { s with jobs := u.jobs, blocks := u.blocks }
  block : ∀ b, ∃ ab, u.block b = { s.block b with absent := ab }
  jobs : ∃ w : Job → List (Nat × Nat × Nat), u.jobs = s.jobs.map (fun j => { j with waits := w j })

theorem landed_landLines (s : State) (k : Nat) (ls : List (Nat × Nat)) : Landed s (landLines s k ls) := by
  obtain ⟨hf, hb⟩ := linesOf_landed s k ls
  rw [landLines_eq]
  refine ⟨?_, hb, ?_⟩
  · rw [settleWaits, hf]
  · rw [settleWaits, hf]
    exact ⟨_, rfl⟩

/-! ## An element is written (R178) -/

/-- Of the state only jobs and blocks may differ. -/
theorem markDone_frame (s : State) (k i o : Nat) :
    markDone s k i o = { s with jobs := (markDone s k i o).jobs, blocks := (markDone s k i o).blocks } := by
  unfold markDone
  dsimp only
  split
  · rfl
  · rw [(landed_landLines _ _ _).frame]
    rfl

theorem supplyChunks_frame (s : State) (j : Job) (p : Dword) (ds : List (Dest × Nat × Nat)) (o : Nat) :
    supplyChunks s j p ds o = { s with memPoison := (supplyChunks s j p ds o).memPoison } := by
  unfold supplyChunks
  split
  · rfl
  · refine List.foldlRecOn (motive := fun t : State => t = { s with memPoison := t.memPoison }) ds _ rfl (fun t ht d _ => ?_)
    split
    · dsimp only
      split
      · rw [ht]
      · exact ht
    · exact ht

/-- Where nothing is written yet, no later element has written a byte. -/
theorem lastWriter_fresh {j : Job} (h : j.done = []) (i o k : Nat) : lastWriter j i o k = true := by
  rw [lastWriter, h]
  rfl

/-- A write that lies in one chunk of a home is neither refused nor does it wait. -/
theorem engineDests_go {s : State} {j : Job} {p : Dword} {n pa : Nat} {lf : Leaf} (h : engineDest s j p n = .home pa lf)
    (hn : pa % 64 + n ≤ 64) : destBad (engineDests s j p n) = none ∧ destWaits (engineDests s j p n) = false := by
  obtain hd | ⟨-, hd⟩ := engineDests_home h hn
  · rw [hd]
    exact ⟨rfl, rfl⟩
  · rw [hd]
    exact ⟨rfl, rfl⟩

/-- An element that lies in one chunk of a home whose words have no owner is written whole. -/
theorem moveTo_stored {s : State} {j : Job} {i o pa : Nat} {base : Dword} {bs : List Byte} {lf : Leaf} (hlim : NoLimits s j.part)
    (hdone : j.done = []) (hd : engineDest s j (base + BitVec.ofNat 64 o) bs.length = .home pa lf)
    (hn : pa % 64 + bs.length ≤ 64) (hu : Unowned s (physWords pa bs.length)) (src : Option Dword) (miss : Nat) :
    let u := moveTo s j i base o src bs false miss
    Stored u.mem s.mem pa bs.length (leNat bs) ∧ u.hostMem = s.hostMem := by
  obtain ⟨hbad, hwait⟩ := engineDests_go hd hn
  unfold moveTo
  dsimp only
  rw [hbad, hwait]
  obtain ⟨t, hact, ⟨⟨ps, rfl⟩, -⟩⟩ := budgetAll_free hlim j.id
    (moveCharges bs.length miss src (some (base + BitVec.ofNat 64 o)) (destChunks (engineDests s j (base + BitVec.ofNat 64 o) bs.length)))
  obtain ⟨hst, hframe⟩ := enginePuts_stored (s := { s with parts := ps }) hd hn hu (lastWriter_fresh hdone i o) false
  simp only [Bool.false_eq_true, if_false]
  rw [hact, supplyChunks_frame, markDone_frame]
  exact ⟨hst, by rw [hframe]⟩

end Sys2Proof.Machine

namespace Sys2Proof.Claim
open Sys2Proof.Machine

/-- A job's turn to start on its channel. -/
theorem copyJobStart_ready {s : State} {k : Nat} {j : Job} (hj : findJob s k = some j) (hst : j.st = .waiting)
    (hheld : jobHeld s j = false) (hch : channelOk s j = true) (hrel : jobReleased s j = true) :
    (j.kind ≠ .chain → j.kind ≠ .coll → footprintWaits s j j.seq (jobFootprint s j) = false → padsHeld s j = false →
      execCopyJobStart k s = .next (updJob s k (fun x => { x with st := .running }))) ∧
    (j.kind = .chain → execCopyJobStart k s = .next (updJob s.tick k (fun x => { x with st := .running, recSeq := s.seq }))) := by
  have hready : (j.st != .waiting || jobHeld s j || !channelOk s j || !jobReleased s j) = false := by simp [hst, hheld, hch, hrel]
  unfold execCopyJobStart
  simp only [hj, hready, Bool.false_eq_true, if_false]
  refine ⟨fun hc hl hfp hpad => ?_, fun hc => ?_⟩
  · cases hk : j.kind with
    | chain => exact absurd hk hc
    | coll => exact absurd hk hl
    | cpt | gth | sct | fill => simp only [hfp, hpad, Bool.or_false, Bool.false_eq_true, if_false]
  · rw [hc]

/-- R175: a job whose turn it is starts. -/
theorem jobsStart {s : State} {k : Nat} {j : Job} (hj : findJob s k = some j) (hst : j.st = .waiting)
    (hheld : jobHeld s j = false) (hch : channelOk s j = true) (hrel : jobReleased s j = true) :
    (j.kind ≠ .chain → j.kind ≠ .coll → footprintWaits s j j.seq (jobFootprint s j) = false → padsHeld s j = false →
      ∃ u, exec (.copyJobStart k) s = .next u ∧ u = { s with jobs := u.jobs } ∧
        JobBecomes s u k (fun x => { x with st := .running })) ∧
    (j.kind = .chain → ∃ u, exec (.copyJobStart k) s = .next u ∧ u = { s with jobs := u.jobs, seq := u.seq } ∧
      JobBecomes s u k (fun x => { x with st := .running, recSeq := s.seq })) := by
  obtain ⟨hplain, hchain⟩ := copyJobStart_ready hj hst hheld hch hrel
  exact ⟨fun hc hl hfp hpad => ⟨_, hplain hc hl hfp hpad, rfl, updJob_becomes ..⟩,
    fun hc => ⟨_, hchain hc, rfl, updJob_becomes s.tick ..⟩⟩

/-- R178: an element that a copy moves is written whole at its destination. -/
theorem elementMoves {s : State} {k i miss pa : Nat} {j : Job} {bs : List Byte} {lf : Leaf} (hj : findJob s k = some j)
    (hk : j.kind = .cpt) (hst : j.st = .running) (hok : j.failed = none) (hi : i < j.wshape.count) (hdone : j.done = [])
    (hlim : NoLimits s j.part) (haw : awake s = true) :
    let p : Dword := j.src + BitVec.ofNat 64 (j.rshape.off i)
    let t := readMark s j p j.wshape.esz
    engineRead t j p j.wshape.esz = .bytes bs false miss →
    engineDest t j (j.dst + BitVec.ofNat 64 (j.wshape.off i)) bs.length = .home pa lf → pa % 64 + bs.length ≤ 64 →
    Unowned t (physWords pa bs.length) →
    ∃ u, takeTurn (.jobProgress k i) s = .next u ∧ Stored u.mem s.mem pa bs.length (leNat bs) ∧ u.hostMem = s.hostMem := by
  intro p t hread hdest hn hu
  have hgo : (j.st != .running || j.failed.isSome || decide (i ≥ jobCount j) || j.done.any (fun d => d.1 == i) ||
      (j.kind == .chain && !j.recLive)) = false := by
    have hc : jobCount j = j.wshape.count := by
      rw [jobCount, hk]
    have hik : ¬ i ≥ j.wshape.count := by omega
    simp [hst, hok, hdone, hk, hc, hik]
  obtain ⟨us, qs, ht⟩ := readMark_from s j p j.wshape.esz
  have hlim' : NoLimits t j.part := by
    rw [show t = _ from ht]
    exact hlim
  have hturn : jobProgress s k i = moveTo t j i j.dst (j.wshape.off i) (some p) bs false miss := by
    unfold jobProgress
    rw [hj]
    dsimp only
    rw [hgo, hk]
    simp only [Bool.false_eq_true, if_false, withBytes]
    rw [hread]
  obtain ⟨hmem, hhost⟩ := moveTo_stored (i := i) hlim' hdone hdest hn hu (some p) miss
  have hm : t.mem = s.mem ∧ t.hostMem = s.hostMem := by
    rw [show t = _ from ht]
    exact ⟨rfl, rfl⟩
  refine ⟨_, ?_, hm.1 ▸ hmem, hhost.trans hm.2⟩
  show Host.Outcome.next (if awake s = true then jobProgress s k i else s) = _
  rw [if_pos haw, hturn]

end Sys2Proof.Claim

/-! Jobs that leave the engine (R179, R181, R183). -/
namespace Sys2Proof.Machine
open Sys2Proof Sys2Proof.Claim

/-! ## Lanes that go on -/

/-- Lanes go on: of the blocks only lanes may differ, and no lane's batches; caches, outstanding operations and numbers may
differ besides. -/
structure Woken (s u : State) : Prop where
  frame : u = { s with blocks := u.blocks, cores := u.cores, memops := u.memops, seq := u.seq }
  block : ∀ b, u.block b = { s.block b with lanes := (u.block b).lanes }
  batches : ∀ b l, (u.lane b l).batches = (s.lane b l).batches

theorem lane_updLane (x : Block) (l k : Nat) (g : Lane → Lane) :
    (x.updLane l g).lane k = if k = l then g (x.lane l) else x.lane k := tget_tput ..

namespace Woken

theorem refl (s : State) : Woken s s := ⟨rfl, fun _ => rfl, fun _ _ => rfl⟩

variable {s t u : State}

theorem trans (h : Woken s t) (h' : Woken t u) : Woken s u where
  frame := by rw [h'.frame, h.frame]
  block := fun b => by rw [h'.block b, h.block b]
  batches := fun b l => (h'.batches b l).trans (h.batches b l)

/-- What changes no block and nothing else that a woken lane may not change. -/
theorem of_blocks (hb : u.blocks = s.blocks) (hf : u = { s with cores := u.cores, memops := u.memops, seq := u.seq }) : Woken s u where
  frame := by
    rw [hf]
  block := fun b => by rw [block_of_blocks hb]
  batches := fun b l => by rw [State.lane_eq, block_of_blocks hb, State.lane_eq]

theorem updBlock (b : Nat) {g : Block → Block} (hg : ∀ x, g x = { x with lanes := (g x).lanes })
    (hbat : ∀ x l, ((g x).lane l).batches = (x.lane l).batches) : Woken s (s.updBlock b g) where
  frame := rfl
  block := fun c => by
    rw [block_updBlock]
    split
    · next hc => rw [hc, hg]
    · rfl
  batches := fun c l => by
    rw [State.lane_eq, block_updBlock]
    split
    · next hc => rw [hc, hbat, State.lane_eq]
    · rfl

theorem updLane (b l : Nat) {g : Lane → Lane} (hg : ∀ x, (g x).batches = x.batches) : Woken s (s.updLane b l g) :=
  updBlock b (fun _ => rfl) (fun x k => by
    rw [lane_updLane]
    split
    · next hk => rw [hk, hg]
    · rfl)

theorem acquireSg (s : State) (b l q : Nat) (pc : Dword) : Woken s (acquireSg s b l q pc) := by
  unfold Machine.acquireSg
  split
  · unfold Machine.acquireAt
    dsimp only
    split
    · exact (of_blocks rfl rfl : Woken s (s.tick.updCore _ acquireCore)).trans (updLane b l (fun _ => rfl))
    · exact of_blocks rfl rfl
  · exact of_blocks rfl rfl

theorem wakeCpwait (s : State) (b l : Nat) : Woken s (wakeCpwait s b l) := by
  unfold Machine.wakeCpwait
  dsimp only
  split
  · split
    · exact (updLane b l (g := fun y => { y with park := .run }) (fun _ => rfl)).trans (acquireSg ..)
    · exact refl s
  · exact refl s

theorem wakeJobSlots (s : State) (pier : Nat) : Woken s (wakeJobSlots s pier) := by
  unfold Machine.wakeJobSlots
  split
  · exact refl s
  · refine List.foldlRecOn (motive := Woken s) _ _ (refl s) (fun t ht b _ => ht.trans ?_)
    refine updBlock b.1 (fun x => overLanes_eq ..) (fun x l => ?_)
    rw [overLanes_lane _ (blockLanes_nodup x)]
    split
    · split <;> rfl
    · rfl

end Woken

/-! ## The end of a job -/

theorem finishDiscard_kept {s : State} {b : Nat} (h : (s.block b).dropping = false) : finishDiscard s b = s := by
  unfold finishDiscard
  simp [h]

/-- A job of block `b` that is neither a chain's nor a packet's has left the engine: its lines are present, `moved` is what it
added to CNTRD.cpb, and its batch has counted it. -/
structure JobEnded (s u : State) (j : Job) (b : Nat) (err : Bool) : Prop where
  frame : u = { s with jobs := u.jobs, blocks := u.blocks, cores := u.cores, memops := u.memops, seq := u.seq }
  gone : JobGone s u j.id
  present : ∀ x ∈ j.cleared, j.id ∉ tget [] (u.block x.1).absent x.2
  cpb : (u.block b).cpb = (s.block b).cpb + BitVec.ofNat 64 (if err then 0 else j.moved + j.done.length * jobEsz j)
  batches : (u.lane b j.lane).batches = ((s.lane b j.lane).jobEnds j.batch err).batches

/-- What leaves the engine's list leaves the others as they stand, but for what they wait for. -/
theorem Landed.gone {s u : State} {k : Nat} (h : Landed { s with jobs := s.jobs.filter (fun x => x.id != k) } u) : JobGone s u k := by
  obtain ⟨w, hw⟩ := h.jobs
  rw [JobGone, hw, List.map_map]
  rfl

/-- The counts of a job that ends: its block's bytes, and its batch in its lane. -/
def countJob (s : State) (j : Job) (b : Nat) (err : Bool) : State :=
  (s.updBlock b (fun x => { x with cpb := x.cpb + BitVec.ofNat 64 (if err then 0 else j.moved + j.done.length * jobEsz j) })).updLane
    b j.lane (fun l => l.jobEnds j.batch err)

/-- What lanes do that go on when a job has been counted. -/
def wokenBy (s : State) (j : Job) (b : Nat) : State := wakeJobSlots (wakeCpwait s b j.lane) j.pier

theorem woken_wokenBy (s : State) (j : Job) (b : Nat) : Woken s (wokenBy s j b) := (Woken.wakeCpwait ..).trans (.wakeJobSlots ..)

/-- The block after a job of it has been counted. -/
theorem countJob_block (s : State) (j : Job) (b : Nat) (err : Bool) (c : Nat) :
    (countJob s j b err).block c = if c = b then
      ({ s.block b with cpb := (s.block b).cpb + BitVec.ofNat 64 (if err then 0 else j.moved + j.done.length * jobEsz j) } : Block).updLane
        j.lane (fun l => l.jobEnds j.batch err) else s.block c := by
  rw [countJob, State.updLane_eq, block_setBlock_ite, block_updBlock, block_updBlock, if_pos rfl]
  split <;> rfl

/-- The engine's list without a job, its lines landed. -/
def withoutJob (s : State) (j : Job) : State :=
  landLines { s with jobs := s.jobs.filter (fun x => x.id != j.id) } j.id j.cleared

theorem endJob_eq {s : State} {j : Job} {b : Nat} (err : Bool) (hb : j.blk = some b) (hp : j.packet = none) (hk : j.kind ≠ .chain)
    (hdrop : (s.block b).dropping = false) (hlive : (s.lane b j.lane).live = true) (hfib : (s.lane b j.lane).fib = j.fib) :
    endJob s j err = wokenBy (countJob (withoutJob s j) j b err) j b := by
  obtain ⟨ab, hab⟩ := (landed_landLines { s with jobs := s.jobs.filter (fun x => x.id != j.id) } j.id j.cleared).block b
  have hlane : ∀ n : BitVec 64, (((withoutJob s j).updBlock b (fun x => { x with cpb := x.cpb + n })).lane b j.lane) =
      s.lane b j.lane := fun n => by
    rw [State.lane_eq, block_updBlock, if_pos rfl, withoutJob, hab]
    rfl
  have hkept : ((wokenBy (countJob (withoutJob s j) j b err) j b).block b).dropping = false := by
    rw [(woken_wokenBy ..).block, countJob_block, if_pos rfl, withoutJob, hab]
    exact hdrop
  unfold endJob
  rw [hb, hp]
  dsimp only
  rw [← withoutJob, hlane, hfib, hlive]
  simp only [beq_self_eq_true, Bool.and_self, if_true, beq_iff_eq, hk, if_false]
  exact finishDiscard_kept hkept

theorem jobEnded_endJob {s : State} {j : Job} {b : Nat} (err : Bool) (hb : j.blk = some b) (hp : j.packet = none) (hk : j.kind ≠ .chain)
    (hdrop : (s.block b).dropping = false) (hlive : (s.lane b j.lane).live = true) (hfib : (s.lane b j.lane).fib = j.fib) :
    JobEnded s (endJob s j err) j b err := by
  rw [endJob_eq err hb hp hk hdrop hlive hfib]
  have hl := landed_landLines { s with jobs := s.jobs.filter (fun x => x.id != j.id) } j.id j.cleared
  have hw := woken_wokenBy (countJob (withoutJob s j) j b err) j b
  obtain ⟨ab, hab⟩ := hl.block b
  constructor
  · rw [hw.frame, show countJob (withoutJob s j) j b err = { withoutJob s j with blocks := (countJob (withoutJob s j) j b err).blocks }
      from rfl, withoutJob, hl.frame]
  · have hjobs : (wokenBy (countJob (withoutJob s j) j b err) j b).jobs = (withoutJob s j).jobs := by
      rw [hw.frame]
      rfl
    rw [JobGone, hjobs]
    exact hl.gone
  · intro x hx
    have habs : ((wokenBy (countJob (withoutJob s j) j b err) j b).block x.1).absent = ((withoutJob s j).block x.1).absent := by
      rw [hw.block, countJob_block]
      split
      · next hxb => rw [hxb]; rfl
      · rfl
    rw [habs, withoutJob, landLines_eq]
    exact present_landed _ _ _ x hx
  · rw [hw.block, countJob_block, if_pos rfl, withoutJob, hab]
    rfl
  · rw [hw.batches, State.lane_eq, countJob_block, if_pos rfl, lane_updLane, if_pos rfl, withoutJob, hab]
    rfl

end Sys2Proof.Machine

namespace Sys2Proof.Claim
open Sys2Proof.Machine

/-- R178, R183: a job that has written every element leaves the engine, and its batch counts it. -/
theorem jobCompletes {s : State} {k b : Nat} {j : Job} (hj : findJob s k = some j) (hc : j.kind ≠ .chain) (hl : j.kind ≠ .coll)
    (hb : j.blk = some b) (hp : j.packet = none) (hdrop : (s.block b).dropping = false) (hlive : (s.lane b j.lane).live = true)
    (hfib : (s.lane b j.lane).fib = j.fib) (hst : j.st = .running) (hok : j.failed = none) (hall : allDone j = true) :
    ∃ u, exec (.copyJobComplete k) s = .next u ∧ JobGone s u k ∧
      (∀ x ∈ j.cleared, j.id ∉ tget [] (u.block x.1).absent x.2) ∧ u.mem = s.mem ∧
      (u.block b).cpb = (s.block b).cpb + BitVec.ofNat 64 (j.moved + j.done.length * jobEsz j) ∧
      (u.lane b j.lane).batches = ((s.lane b j.lane).jobEnds j.batch false).batches := by
  have hexec : exec (.copyJobComplete k) s = .next (endJob s j false) := by
    show execCopyJobComplete k s = _
    unfold execCopyJobComplete
    simp only [hj, hst, hok, bne_self_eq_false, Option.isSome_none, Bool.or_self, Bool.false_eq_true, if_false]
    cases hk : j.kind with
    | chain => exact absurd hk hc
    | coll => exact absurd hk hl
    | cpt | gth | sct | fill => simp only [hall, if_true]
  obtain ⟨hframe, hgone, hpresent, hcpb, hbat⟩ := jobEnded_endJob false hb hp hc hdrop hlive hfib
  exact ⟨_, hexec, (findJob_is hj).1 ▸ hgone, hpresent, by rw [hframe], hcpb, hbat⟩

theorem reportJob_from (s : State) (j : Job) (c : BitVec 8) (a : Dword) : ReportedFrom s (reportJob s j c a) := by
  unfold reportJob
  split
  · exact ⟨_, _, _, _, rfl⟩
  · exact report_from ..

/-- R181, R183: a failed job is reported in its launch's fault record, and its batch counts it as failed. -/
theorem jobFails {s : State} {k b : Nat} {j : Job} {c : BitVec 8} {a : Dword} (hj : findJob s k = some j) (hc : j.kind ≠ .chain)
    (hl : j.kind ≠ .coll) (hb : j.blk = some b) (hp : j.packet = none) (hdrop : (s.block b).dropping = false)
    (hlive : (s.lane b j.lane).live = true) (hfib : (s.lane b j.lane).fib = j.fib) (hbad : j.failed = some (c, a))
    (hused : (s.launch j.tag).used = true) :
    ∃ u, exec (.copyJobFail k) s = .next u ∧ JobGone s u k ∧
      (u.launch j.tag).count = min ((s.launch j.tag).count + 1) (2 ^ 32 - 1) ∧
      (u.block b).cpb = (s.block b).cpb ∧
      (u.lane b j.lane).batches = ((s.lane b j.lane).jobEnds j.batch true).batches := by
  have hexec : exec (.copyJobFail k) s = .next (endJob (reportJob s j c a) j true) := by
    show execCopyJobFail k s = _
    unfold execCopyJobFail
    simp only [hj, hbad, beq_iff_eq, hc, hl, Bool.and_eq_true, false_and, if_false]
  have hcount : ((reportJob s j c a).launch j.tag).count = min ((s.launch j.tag).count + 1) (2 ^ 32 - 1) := by
    unfold reportJob
    rw [hb]
    dsimp only
    rw [report_launch hused]
  obtain ⟨_, _, _, _, hrep⟩ := reportJob_from s j c a
  have hblocks : (reportJob s j c a).blocks = s.blocks := by rw [hrep]
  have hblk := block_of_blocks hblocks b
  rw [State.lane_eq, ← hblk] at hlive hfib
  obtain ⟨hframe, hgone, -, hcpb, hbat⟩ := jobEnded_endJob true hb hp hc (hblk ▸ hdrop) hlive hfib
  refine ⟨_, hexec, ?_, ?_, ?_, ?_⟩
  · rw [JobGone, ← (findJob_is hj).1, hgone, hrep]
  · rw [← hcount, hframe]
    rfl
  · rw [hcpb, hblk]
    exact BitVec.add_zero _
  · rw [hbat, State.lane_eq, hblk, State.lane_eq]

theorem jobsRun : JobsRun := fun _ _ _ hj =>
  ⟨fun hst hheld hch hrel => jobsStart hj hst hheld hch hrel,
    fun _ hc hl hb hp hdrop hlive hfib => ⟨fun hst hok hall => jobCompletes hj hc hl hb hp hdrop hlive hfib hst hok hall,
      fun _ _ hbad hused => jobFails hj hc hl hb hp hdrop hlive hfib hbad hused⟩,
    fun _ _ _ _ _ hk hst hok hi hdone hlim haw => elementMoves hj hk hst hok hi hdone hlim haw⟩

end Sys2Proof.Claim

/-! Records of a chain that start (R180, R185, R187). -/
namespace Sys2Proof.Machine
open Sys2Proof Sys2Proof.Claim

/-- No block that a job reaches is saved where none is. -/
theorem padsHeld_none {s : State} (h : NoneSaved s) (j : Job) : padsHeld s j = false := by
  refine List.any_eq_false.mpr (fun c _ => ?_)
  obtain hc | hc := tget_default_or_mem ({} : Block) s.blocks c
  · rw [State.block, hc]
    simp
  · obtain ⟨hsaved, hsaving⟩ := h _ hc
    split
    · next p hp => exact absurd hp (hsaving p)
    · next hp => exact absurd hp hsaved
    · simp

/-- A footprint waits for nothing where its job is the only one, without a record of its own, and no quadrant is held. -/
theorem footprintWaits_alone {s : State} {j j1 : Job} (hjobs : s.jobs = [j]) (hid : j1.id = j.id) (hlive : j.recLive = false)
    (hq : ∀ b ∈ s.blocks, quadPier b.2 = none) (arrival : Nat) (fp : Footprint) : footprintWaits s j1 arrival fp = false := by
  unfold footprintWaits waitsForJobs
  dsimp only
  rw [Bool.or_eq_false_iff, Bool.or_eq_false_iff, hjobs]
  refine ⟨⟨?_, ?_⟩, List.any_eq_false.mpr (fun b hb => ?_)⟩
  · simp [hid]
  · simp [hlive]
  · rw [hq b hb]
    simp

/-- The pointer of a job as the engine uses it depends on blocks and launches alone. -/
theorem jobPtr_congr {s t : State} (hb : t.blocks = s.blocks) (hl : t.launches = s.launches) (j : Job) (p : Dword) :
    jobPtr t j p = jobPtr s j p := by
  unfold jobPtr recordPtr State.launch
  simp only [block_of_blocks hb, hl]

theorem clearLines_frame (s : State) (k : Nat) (ls : List (Nat × Nat)) :
    clearLines s k ls = { s with blocks := (clearLines s k ls).blocks } :=
  List.foldlRecOn (motive := fun t : State => t = { s with blocks := t.blocks }) ls _ rfl
    (fun _ ht _ _ => blocksOnly_trans ht rfl)

/-- Job `j` with the record whose bytes are `bs`, of shape `h`, as its current one. -/
def recordJob (s : State) (j : Job) (bs : List Byte) (h : Shape) : Job :=
  let w (i : Nat) : Dword := BitVec.ofNat 64 (leNat ((bs.drop i).take 8))
  { j with recLive := true, recCtl := w 24, recCwp := w 56, recNext := w 0, dst := jobPtr s j (w 8), src := jobPtr s j (w 16),
           wshape := h, rshape := h, done := [], failed := none }

/-- A sound record that waits for nothing starts. -/
theorem startRecord_goes {s : State} {j : Job} {bs : List Byte} {h : Shape}
    (hfp : footprintWaits s (recordJob s j bs h) j.recSeq (jobFootprint s (recordJob s j bs h)) = false)
    (hpad : padsHeld s (recordJob s j bs h) = false) :
    ∃ ls bl, startRecord s j bs (some h) none =
      { updJob s j.id (fun _ => { recordJob s j bs h with cleared := ls }) with blocks := bl } := by
  unfold startRecord
  extract_lets w sh j1 lines s1
  rw [if_neg (by
    rw [show j1 = recordJob s j bs h from rfl, hfp, hpad]
    simp)]
  have hs1 : s1 = { updJob s j.id (fun _ => { recordJob s j bs h with cleared := lines }) with blocks := s1.blocks } :=
    clearLines_frame ..
  split
  · exact ⟨lines, _, by rw [hs1]; rfl⟩
  · exact ⟨lines, _, hs1⟩

/-- The only job's record starts where no block is saved or holds a quadrant. -/
theorem startRecord_alone {s t : State} {j : Job} (hb : t.blocks = s.blocks) (hl : t.launches = s.launches) (hjobs : t.jobs = [j])
    (hlive : j.recLive = false) (hs : NoneSaved s) (hq : ∀ b ∈ s.blocks, quadPier b.2 = none) (bs : List Byte) (h : Shape) :
    ∃ ls bl, startRecord t j bs (some h) none = { t with jobs := [{ recordJob s j bs h with cleared := ls }], blocks := bl } := by
  obtain ⟨ls, bl, hstart⟩ := startRecord_goes (s := t) (j := j) (bs := bs) (h := h)
    (footprintWaits_alone hjobs rfl hlive (hb ▸ hq) _ _) (padsHeld_none (by rw [NoneSaved, hb]; exact hs) _)
  refine ⟨ls, bl, ?_⟩
  rw [hstart, recordJob, jobPtr_congr hb hl, jobPtr_congr hb hl, updJob, hjobs]
  simp [recordJob]

end Sys2Proof.Machine

namespace Sys2Proof.Claim
open Sys2Proof.Machine

/-- The only job of an engine is found where its partition runs. -/
theorem findJob_only {s t : State} {k : Nat} {x : Job} (hjobs : t.jobs = [x]) (hparts : t.parts = s.parts)
    (hpack : t.package = s.package) (hid : x.id = k) (hfr : s.frozen x.part = false) : findJob t k = some x := by
  have hfr' : t.frozen x.part = false := by
    rw [State.frozen, State.part, hparts, hpack]
    exact hfr
  rw [findJob, hjobs]
  exact List.find?_cons_of_pos (by simp [hid, hfr'])

/-- What a chain does with the bytes of its record: one that the engine does not own, and one with inline fields. -/
theorem chainRecordStart_reads {s t : State} {k miss : Nat} {j : Job} {bs : List Byte} (hj : findJob s k = some j)
    (hk : j.kind = .chain) (hst : j.st = .running) (hlive : j.recLive = false) (hend : j.chainEnd = false)
    (hheld : jobHeld s j = false) (hptr : recordPtrOk j j.recPtr = true) (ht : readMark s j j.recPtr 64 = t)
    (hread : engineRead t j j.recPtr 64 = .bytes bs false miss) :
    ((leNat ((bs.drop 24).take 8)).testBit 0 = false → execChainRecordStart k s =
      .next (recordRead t j j.recPtr 64 miss (fun u => updJob u k (fun x => { x with chainEnd := true })))) ∧
    ∀ h f, (leNat ((bs.drop 24).take 8)).testBit 0 = true → recShape bs = .inline h → recFault t j bs h = f →
      (findJob (startRecord t j bs h f) k).any (·.recLive) = true →
      execChainRecordStart k s = .next (recordRead t j j.recPtr 64 miss (fun u => startRecord u j bs h f)) := by
  have hgo : (j.kind != .chain || j.st != .running || j.recLive || j.chainEnd || jobHeld s j) = false := by
    simp [hk, hst, hlive, hend, hheld]
  unfold execChainRecordStart
  simp only [hj, hgo, hptr, ht, hread, Bool.not_true, Bool.false_eq_true, if_false]
  refine ⟨fun hown => ?_, fun h f hown hsh hf hst => ?_⟩
  · rw [hown]
    rfl
  · rw [hown, hsh]
    simp only [Bool.not_true, Bool.false_eq_true, if_false, hf]
    rw [if_pos hst]

/-- R180: a chain at a record whose OWN is 0 has ended, and at a sound one with inline fields it starts it. -/
theorem chainRecordStarts {s : State} {k miss : Nat} {j : Job} {bs : List Byte} (hj : findJob s k = some j) (hk : j.kind = .chain)
    (hst : j.st = .running) (hlive : j.recLive = false) (hend : j.chainEnd = false) (hheld : jobHeld s j = false)
    (hptr : recordPtrOk j j.recPtr = true) (hlim : NoLimits s j.part) :
    let t := readMark s j j.recPtr 64
    engineRead t j j.recPtr 64 = .bytes bs false miss →
    let ctl := leNat ((bs.drop 24).take 8)
    (ctl.testBit 0 = false → ∃ u, exec (.chainRecordStart k) s = .next u ∧ u = { t with jobs := u.jobs, parts := u.parts } ∧
      JobBecomes s u k (fun x => { x with chainEnd := true })) ∧
    ∀ h, ctl.testBit 0 = true → recShape bs = .inline (some h) → recFault t j bs (some h) = none → s.jobs = [j] →
      NoneSaved s → (∀ b ∈ s.blocks, quadPier b.2 = none) →
      ∃ u j', exec (.chainRecordStart k) s = .next u ∧ u.jobs = [j'] ∧ j'.recLive = true ∧ j'.wshape = h ∧ j'.rshape = h ∧
        j'.dst = jobPtr s j (BitVec.ofNat 64 (leNat ((bs.drop 8).take 8))) ∧
        j'.src = jobPtr s j (BitVec.ofNat 64 (leNat ((bs.drop 16).take 8))) ∧ j'.done = [] ∧ j'.failed = none := by
  intro t hread ctl
  have hread0 : readMark s j j.recPtr 64 = t := rfl
  clear_value t
  obtain ⟨us, qs, ht⟩ := readMark_from s j j.recPtr 64
  rw [hread0] at ht
  obtain ⟨hown0, hown1⟩ := chainRecordStart_reads hj hk hst hlive hend hheld hptr hread0 hread
  have hlim' : NoLimits t j.part := by
    rw [ht]
    exact hlim
  refine ⟨fun hown => ?_, fun h hown hsh hsound hjobs hs hq => ?_⟩
  · obtain ⟨_, hact, ⟨⟨ps, rfl⟩, -⟩⟩ := recordRead_free hlim' j.recPtr 64 miss
    refine ⟨_, (hown0 hown).trans (congrArg _ (hact _)), rfl, ?_⟩
    rw [ht]
    exact updJob_becomes { s with uses := us, piers := qs, parts := ps } ..
  · have hstarts : ∀ v : State, v.jobs = s.jobs → v.blocks = s.blocks → v.launches = s.launches → ∃ ls bl,
        startRecord v j bs (some h) none = { v with jobs := [{ recordJob s j bs h with cleared := ls }], blocks := bl } :=
      fun v hvj hvb hvl => startRecord_alone hvb hvl (hvj.trans hjobs) hlive hs hq bs h
    obtain ⟨hid, hfr⟩ := findJob_is hj
    have hfound : (findJob (startRecord t j bs (some h) none) k).any (·.recLive) = true := by
      obtain ⟨ls, bl, h0⟩ := hstarts t (by rw [ht]) (by rw [ht]) (by rw [ht])
      rw [findJob_only (s := s) (x := { recordJob s j bs h with cleared := ls }) (by rw [h0]) (by rw [h0, ht]) (by rw [h0, ht]) hid hfr]
      rfl
    obtain ⟨_, hact, ⟨⟨ps, rfl⟩, -⟩⟩ := recordRead_free hlim' j.recPtr 64 miss
    obtain ⟨ls, bl, hu⟩ := hstarts { t with parts := ps } (by rw [ht]) (by rw [ht]) (by rw [ht])
    exact ⟨_, _, (hown1 (some h) none hown hsh hsound hfound).trans (congrArg _ ((hact _).trans hu)),
      rfl, rfl, rfl, rfl, rfl, rfl, rfl, rfl⟩

end Sys2Proof.Claim

/-! Records of a chain that are given back (R180). -/
namespace Sys2Proof.Machine
open Sys2Proof Sys2Proof.Claim

/-- A word of the engine that lies in one chunk of a home is stored there, and what follows goes on without a refusal. -/
theorem afterWords_one {s : State} {j : Job} {p : Dword} {bs : List Byte} {pa : Nat} {lf : Leaf}
    (hd : engineDest s j p bs.length = .home pa lf) (hn : pa % 64 + bs.length ≤ 64) (hu : Unowned s (physWords pa bs.length))
    (hlim : NoLimits s j.part) :
    ∃ u, (∀ act, afterWords s j [(p, bs)] act = act u none) ∧ Stored u.mem s.mem pa bs.length (leNat bs) ∧ u.jobs = s.jobs := by
  obtain ⟨hbad, hwait⟩ := engineDests_go hd hn
  obtain ⟨_, hact, ⟨⟨ps, rfl⟩, -⟩⟩ := budgetAll_free hlim j.id (wordCharges [(engineDests s j p bs.length, bs)])
  obtain ⟨hst, hframe⟩ := enginePuts_stored (s := { s with parts := ps }) (on := fun _ => true) hd hn hu (fun _ => rfl) false
  refine ⟨_, fun act => ?_, hst, by rw [hframe]⟩
  unfold afterWords engineWords
  simp only [List.map_cons, List.map_nil, List.any_cons, List.any_nil, hwait, Bool.or_self, Bool.false_eq_true, if_false,
    List.foldl_cons, List.foldl_nil, List.findSome?_cons, List.findSome?_nil, hbad, Option.isSome_none]
  exact hact _

/-- The job of a chain whose record is given back, as it goes on at pointer `p` or ends. -/
def givenBack (j : Job) (p : Dword) (q : Nat) (x : Job) : Job :=
  { x with failed := x.failed <|> none, moved := x.moved + j.done.length * jobEsz j, recLive := false, chainEnd := j.recNext == 0,
           recPtr := if j.recNext == 0 then x.recPtr else p, recSeq := q, wshape := {}, rshape := {}, done := [], cleared := [] }

/-- A record without a completion word, its bytes all written, is given back with OWN 0. -/
theorem chainRecordFinish_gives {s : State} {k pa : Nat} {j : Job} {lf : Leaf} (hj : findJob s k = some j) (hk : j.kind = .chain)
    (hlive : j.recLive = true) (hok : j.failed = none) (hall : allDone j = true) (hcwp : j.recCwp = 0)
    (hd : engineDest s j (j.recPtr + 24) 8 = .home pa lf) (hn : pa % 64 + 8 ≤ 64) (hu : Unowned s (physWords pa 8))
    (hlim : NoLimits s j.part) :
    ∃ t p q u, execChainRecordFinish k s = .next u ∧
      u = { updJob (landLines t k j.cleared) k (givenBack j p q) with blocks := u.blocks } ∧
      Stored t.mem s.mem pa 8 (j.recCtl &&& ~~~(0x10001#64)).toNat ∧ t.jobs = s.jobs := by
  have hlen := leBytes_length 8 (j.recCtl &&& ~~~(0x10001#64)).toNat
  have hval : leNat (leBytes 8 (j.recCtl &&& ~~~(0x10001#64)).toNat) = (j.recCtl &&& ~~~(0x10001#64)).toNat := by
    rw [leNat_leBytes]
    exact Nat.mod_eq_of_lt (BitVec.isLt _)
  have hword : cwpWord j s j.recCwp (BitVec.ofNat 32 (j.recCtl.toNat >>> 32)) = [] := by
    rw [hcwp]
    rfl
  unfold execChainRecordFinish
  simp only [hj, hk, hlive, hok, hall, hword, bne_self_eq_false, Bool.not_true, Option.isSome_none, Bool.false_or, Bool.or_self,
    Bool.false_eq_true, if_false, List.append_nil, BitVec.ofNat_eq_ofNat, BitVec.or_zero]
  obtain ⟨u, hact, hst, hjobs⟩ := afterWords_one (bs := leBytes 8 (j.recCtl &&& ~~~(0x10001#64)).toNat) (hlen.symm ▸ hd)
    (hlen.symm ▸ hn) (hlen.symm ▸ hu) hlim
  rw [hlen, hval] at hst
  refine ⟨u.tick, jobPtr u j j.recNext, u.seq, _, congrArg _ (hact _), ?_, hst, hjobs⟩
  split
  · rfl
  · rfl

end Sys2Proof.Machine

namespace Sys2Proof.Claim
open Sys2Proof.Machine

/-- R180: a record whose bytes are all written is given back, and its chain goes on to the next or ends. -/
theorem chainRecordFinishes {s : State} {k pa : Nat} {j : Job} {lf : Leaf} (hj : findJob s k = some j) (hk : j.kind = .chain)
    (hlive : j.recLive = true) (hok : j.failed = none) (hall : allDone j = true) (hcwp : j.recCwp = 0)
    (hd : engineDest s j (j.recPtr + 24) 8 = .home pa lf) (hn : pa % 64 + 8 ≤ 64) (hu : Unowned s (physWords pa 8))
    (hlim : NoLimits s j.part) :
    ∃ u, exec (.chainRecordFinish k) s = .next u ∧
      Stored u.mem s.mem pa 8 (j.recCtl &&& ~~~(0x10001#64)).toNat ∧
      ∀ j' ∈ u.jobs, j'.id = k → j'.recLive = false ∧ j'.chainEnd = (j.recNext == 0) ∧
        (s.jobs = [j] → j'.moved = j.moved + j.done.length * jobEsz j) := by
  obtain ⟨t, p, q, u, hexec, hframe, hst, hjobs⟩ := chainRecordFinish_gives hj hk hlive hok hall hcwp hd hn hu hlim
  have hl := landed_landLines t k j.cleared
  obtain ⟨w, hw⟩ := hl.jobs
  refine ⟨_, hexec, ?_, fun j' hj' hid => ?_⟩
  · rw [hframe]
    show Stored (landLines t k j.cleared).mem _ _ _ _
    rw [hl.frame]
    exact hst
  · rw [hframe] at hj'
    obtain ⟨x, hx, rfl⟩ : ∃ x ∈ (landLines t k j.cleared).jobs, (if x.id == k then givenBack j p q x else x) = j' :=
      List.mem_map.mp hj'
    rw [hw, hjobs] at hx
    obtain ⟨y, hy, rfl⟩ := List.mem_map.mp hx
    have hyk : y.id = k := by
      by_contra hne
      rw [if_neg (by simpa using hne)] at hid
      exact hne hid
    rw [if_pos (by simpa using hyk)]
    refine ⟨rfl, rfl, fun hone => ?_⟩
    rw [hone, List.mem_singleton] at hy
    rw [hy]
    rfl

end Sys2Proof.Claim

/-! Collectives that meet at their orrery (R182). -/
namespace Sys2Proof.Machine
open Sys2Proof Sys2Proof.Claim

theorem cardsAgree_iff {a b : Card} :
    cardsAgree a b = true ↔ a.kind = b.kind ∧ a.ty = b.ty ∧ a.op = b.op ∧ a.p = b.p ∧ a.n = b.n := by
  simp [cardsAgree, and_assoc]

/-- Cards that all agree with one agree with one another. -/
theorem cardsAgree_of_common {a b c : Card} (ha : cardsAgree a c = true) (hb : cardsAgree b c = true) : cardsAgree a b = true := by
  rw [cardsAgree_iff] at *
  obtain ⟨h1, h2, h3, h4, h5⟩ := ha
  obtain ⟨g1, g2, g3, g4, g5⟩ := hb
  exact ⟨h1.trans g1.symm, h2.trans g2.symm, h3.trans g3.symm, h4.trans g4.symm, h5.trans g5.symm⟩

/-- One turn of a job's meeting: the collectives stand, and each job keeps its number and, once it has `Q`, that; the job named
has `Q`. -/
structure Settles (Q : Job → Prop) (k : Nat) (t u : State) : Prop where
  colls : u.colls = t.colls
  jobs : ∀ y ∈ u.jobs, ∃ z ∈ t.jobs, z.id = y.id ∧ (Q z → Q y)
  named : ∀ y ∈ u.jobs, y.id = k → Q y

/-- A job that is changed at its place. -/
theorem settles_updJob {Q : Job → Prop} {g : Job → Job} (hid : ∀ y, (g y).id = y.id) (hq : ∀ y, Q (g y)) (t : State) (k : Nat) :
    Settles Q k t (updJob t k g) where
  colls := rfl
  jobs := fun y hy => by
    obtain ⟨z, hz, rfl⟩ := List.mem_map.mp hy
    refine ⟨z, hz, ?_⟩
    split
    · exact ⟨(hid z).symm, fun _ => hq z⟩
    · exact ⟨rfl, id⟩
  named := fun y hy hk => by
    obtain ⟨z, hz, rfl⟩ := List.mem_map.mp hy
    split
    · exact hq z
    · next hne =>
      rw [if_neg hne] at hk
      exact absurd (by simpa using hk) hne

/-- After a turn for each of some jobs every one of them has `Q`. -/
theorem settles_foldl {Q : Job → Prop} {F : State → Job → State}
    (hF : ∀ t x, Settles Q x.id t (F t x)) (xs : List Job) (s : State) :
    (xs.foldl F s).colls = s.colls ∧
      ∀ y ∈ (xs.foldl F s).jobs, (∃ z ∈ s.jobs, z.id = y.id) ∧ ((∃ x ∈ xs, x.id = y.id) → Q y) := by
  obtain ⟨⟨hc, hj⟩, hP, -⟩ := foldl_each (as := xs) (x := s) (g := F)
    (I := fun t => t.colls = s.colls ∧ ∀ y ∈ t.jobs, ∃ z ∈ s.jobs, z.id = y.id)
    (P := fun x t => ∀ y ∈ t.jobs, y.id = x.id → Q y) ⟨rfl, fun y hy => ⟨y, hy, rfl⟩⟩ (fun x _ t ⟨hc, hj⟩ => by
      obtain ⟨hcolls, hjobs, hnamed⟩ := hF t x
      refine ⟨⟨hcolls.trans hc, fun y hy => ?_⟩, hnamed, fun w hw y hy hid => ?_⟩
      · obtain ⟨z, hz, hzy, -⟩ := hjobs y hy
        obtain ⟨v, hv, hvz⟩ := hj z hz
        exact ⟨v, hv, hvz.trans hzy⟩
      · obtain ⟨z, hz, hzy, hQ⟩ := hjobs y hy
        exact hQ (hw z hz (hzy.trans hid)))
  exact ⟨hc, fun y hy => ⟨hj y hy, fun ⟨x, hx, hid⟩ => hP x hx y hy hid.symm⟩⟩

/-- A job whose collective starts goes on. -/
def setRunning (s : State) (x : Job) : State := updJob s x.id (fun y => { y with st := .running })

theorem settles_setRunning (t : State) (x : Job) : Settles (fun y => y.st = .running) x.id t (setRunning t x) :=
  settles_updJob (g := fun y => { y with st := .running }) (fun _ => rfl) (fun _ => rfl) t x.id

/-- A job of a collective whose cards do not agree goes on as a failed one. -/
def setFailed (s : State) (x : Job) : State := setRunning (markFailed s x.id Code.shapeInvalid x.recPtr) x

/-- What becomes of such a job. -/
def failing (x y : Job) : Job := { y with failed := some (y.failed.getD (Code.shapeInvalid, x.recPtr)), st := .running }

theorem settles_setFailed (t : State) (x : Job) :
    Settles (fun y => y.st = .running ∧ y.failed.isSome = true) x.id t (setFailed t x) := by
  have h : setFailed t x = updJob t x.id (failing x) := by
    unfold setFailed setRunning markFailed updJob
    simp only [List.map_map]
    refine congrArg (fun js => { t with jobs := js }) (List.map_congr_left (fun y _ => ?_))
    by_cases hy : y.id = x.id <;> simp [hy, failing]
  rw [h]
  exact settles_updJob (g := failing x) (fun _ => rfl) (fun _ => ⟨rfl, rfl⟩) t x.id

/-! ## The turn of a job that meets -/

/-- The collective that a first job opens, of order number `q` on die `d`. -/
def openedColl (j : Job) (d q : Nat) : Coll :=
  { id := q, die := d, part := j.part, name := j.card.name, jobs := [j.id], started := j.card.p == 1 }

/-- The collective with the last of its jobs. -/
def joinLast (c : Coll) (k : Nat) (x : Coll) : Coll := if x.id == c.id then { x with jobs := x.jobs ++ [k], started := true } else x

/-- The jobs of a collective that have arrived. -/
def metJobs (s : State) (c : Coll) : List Job := s.jobs.filter (fun x => c.jobs.contains x.id)

section
variable {s : State} {k : Nat} {j : Job} (hj : findJob s k = some j) (hst : j.st = .meeting) (hinst : j.inst = 0)
  (hb : budgetOk s j.part 6 k = true)
include hj hst hinst hb

/-- The first job of a name opens its collective. -/
theorem rendezvous_opens (hnone : s.colls.find? (fun c => c.part == j.part && c.name == j.card.name) = none) :
    ∃ u d q, execCollectiveRendezvous k s = .next u ∧ u.colls = s.colls ++ [openedColl j d q] := by
  have hnone' : (charge s j.part 6 k 1).colls.find? (fun c => c.part == j.part && c.name == j.card.name) = none := hnone
  obtain ⟨hid, -⟩ := findJob_is hj
  unfold execCollectiveRendezvous budgeted
  simp only [hj, hst, hinst, hb, bne_self_eq_false, Bool.or_self, Bool.false_eq_true, if_false, if_true, hnone']
  rw [← hid]
  exact ⟨_, _, _, rfl, rfl⟩

/-- The last job of a collective starts it, or fails all of them where their cards do not agree. -/
theorem rendezvous_last {c : Coll} (hc : s.colls.find? (fun c => c.part == j.part && c.name == j.card.name) = some c)
    (hopen : c.started = false) (hrank : ∀ x ∈ metJobs s c, x.card.rank ≠ j.card.rank)
    (hall : ((metJobs s c).head?.map (·.card.p)) = some ((metJobs s c).length + 1)) :
    ∃ t : State, t.jobs = s.jobs ∧
      ((∀ x ∈ metJobs s c, cardsAgree x.card j.card = true) → execCollectiveRendezvous k s =
        .next ((metJobs s c ++ [j]).foldl setRunning
          (updJob { t with colls := s.colls.map (joinLast c k) } k (fun x => { x with inst := c.id })))) ∧
      ((∃ x ∈ metJobs s c, cardsAgree x.card j.card = false) → execCollectiveRendezvous k s =
        .next ((metJobs s c ++ [j]).foldl setFailed { t with colls := s.colls.filter (fun x => x.id != c.id) })) := by
  have hc' : (charge s j.part 6 k 1).colls.find? (fun c => c.part == j.part && c.name == j.card.name) = some c := hc
  have hlast : ((metJobs s c ++ [j]).length == ((metJobs s c).head?.map (·.card.p)).getD 0) = true := by simp [hall]
  have hranks : (metJobs s c).any (fun x => x.card.rank == j.card.rank) = false := by simpa using hrank
  have hjs : (charge s j.part 6 k 1).jobs.filter (fun x => c.jobs.contains x.id) = metJobs s c := rfl
  refine ⟨charge s j.part 6 k 1, rfl, fun hagree => ?_, fun hbad => ?_⟩
  · have hone : (metJobs s c ++ [j]).any (fun x => (metJobs s c ++ [j]).any (fun y => !cardsAgree x.card y.card)) = false := by
      have hwith : ∀ x ∈ metJobs s c ++ [j], cardsAgree x.card j.card = true := fun x hx => by
        rcases List.mem_append.mp hx with hx | hx
        · exact hagree x hx
        · rw [List.mem_singleton.mp hx]
          exact cardsAgree_iff.mpr ⟨rfl, rfl, rfl, rfl, rfl⟩
      refine List.any_eq_false.mpr (fun x hx => ?_)
      rw [Bool.not_eq_true]
      refine List.any_eq_false.mpr (fun y hy => ?_)
      rw [cardsAgree_of_common (hwith x hx) (hwith y hy)]
      simp
    unfold execCollectiveRendezvous budgeted
    simp only [hj, hst, hinst, hb, bne_self_eq_false, Bool.or_self, Bool.false_eq_true, if_false, if_true, hc', hopen, hjs, hranks,
      hlast, hone, Bool.and_false]
    rfl
  · have hone : (metJobs s c ++ [j]).any (fun x => (metJobs s c ++ [j]).any (fun y => !cardsAgree x.card y.card)) = true := by
      obtain ⟨x, hx, hxj⟩ := hbad
      refine List.any_eq_true.mpr ⟨x, List.mem_append_left _ hx,
        List.any_eq_true.mpr ⟨j, List.mem_append_right _ List.mem_cons_self, ?_⟩⟩
      rw [hxj]
      rfl
    unfold execCollectiveRendezvous budgeted
    simp only [hj, hst, hinst, hb, bne_self_eq_false, Bool.or_self, Bool.false_eq_true, if_false, if_true, hc', hopen, hjs, hranks,
      hlast, hone, Bool.and_true]
    rfl

end

end Sys2Proof.Machine

namespace Sys2Proof.Claim
open Sys2Proof.Machine

/-- A job of the engine that a collective counts, or that joins it, is one of those that arrived or the one that joins. -/
theorem met_or_joins {s : State} {c : Coll} {k : Nat} {j y z : Job} (hj : findJob s k = some j) (hz : z ∈ s.jobs) (hzy : z.id = y.id)
    (hy : c.jobs.contains y.id = true ∨ y.id = k) : ∃ x ∈ metJobs s c ++ [j], x.id = y.id := by
  rcases hy with hy | hy
  · exact ⟨z, List.mem_append_left _ (List.mem_filter.mpr ⟨hz, hzy ▸ hy⟩), hzy⟩
  · exact ⟨j, List.mem_append_right _ List.mem_cons_self, (findJob_is hj).1.trans hy.symm⟩

/-- R182: a collective's first job opens it, and its last one starts it or fails all of them. -/
theorem collectivesMeet {s : State} {k : Nat} {j : Job} (hj : findJob s k = some j) (hst : j.st = .meeting) (hinst : j.inst = 0)
    (hb : budgetOk s j.part 6 k = true) :
    (s.colls.find? (fun c => c.part == j.part && c.name == j.card.name) = none →
      ∃ u c, exec (.collectiveRendezvous k) s = .next u ∧ u.colls = s.colls ++ [c] ∧ c.part = j.part ∧ c.name = j.card.name ∧
        c.jobs = [k] ∧ c.started = (j.card.p == 1)) ∧
    ∀ c, s.colls.find? (fun c => c.part == j.part && c.name == j.card.name) = some c → c.started = false →
      let js := s.jobs.filter (fun x => c.jobs.contains x.id)
      (∀ x ∈ js, x.card.rank ≠ j.card.rank) → (js.head?.map (·.card.p)) = some (js.length + 1) →
      ((∀ x ∈ js, cardsAgree x.card j.card = true) → ∃ u, exec (.collectiveRendezvous k) s = .next u ∧
        (∀ x ∈ u.jobs, c.jobs.contains x.id = true ∨ x.id = k → x.st = .running) ∧
        ∀ x ∈ u.colls, x.id = c.id → x.started = true) ∧
      ((∃ x ∈ js, cardsAgree x.card j.card = false) → ∃ u, exec (.collectiveRendezvous k) s = .next u ∧
        (∀ x ∈ u.jobs, c.jobs.contains x.id = true ∨ x.id = k → x.st = .running ∧ x.failed.isSome = true) ∧
        ∀ x ∈ u.colls, x.id ≠ c.id) := by
  refine ⟨fun hnone => ?_, fun c hc hopen => ?_⟩
  · obtain ⟨u, d, q, hexec, hcolls⟩ := rendezvous_opens hj hst hinst hb hnone
    exact ⟨u, _, hexec, hcolls, rfl, rfl, congrArg (fun n => [n]) (findJob_is hj).1, rfl⟩
  · intro js hrank hall
    obtain ⟨t, hjobs, hstarts, hfails⟩ := rendezvous_last hj hst hinst hb hc hopen hrank hall
    refine ⟨fun hagree => ⟨_, hstarts hagree, ?_⟩, fun hbad => ⟨_, hfails hbad, ?_⟩⟩
    · obtain ⟨hcolls, hQ⟩ := settles_foldl settles_setRunning (metJobs s c ++ [j])
        (updJob { t with colls := s.colls.map (joinLast c k) } k (fun x => { x with inst := c.id }))
      refine ⟨fun y hy hin => ?_, fun x hx hid => ?_⟩
      · obtain ⟨⟨z, hz, hzy⟩, hrun⟩ := hQ y hy
        obtain ⟨w, hw, hwz, -⟩ := (settles_updJob (Q := fun _ => True) (g := fun x => { x with inst := c.id }) (fun _ => rfl)
          (fun _ => trivial) _ k).jobs z hz
        exact hrun (met_or_joins hj (hjobs ▸ hw) (hwz.trans hzy) hin)
      · rw [hcolls] at hx
        obtain ⟨w, hw, rfl⟩ : ∃ w ∈ s.colls, joinLast c k w = x := List.mem_map.mp hx
        unfold joinLast at hid ⊢
        split
        · rfl
        · next hne =>
          rw [if_neg hne] at hid
          exact absurd (by simpa using hid) hne
    · obtain ⟨hcolls, hQ⟩ := settles_foldl settles_setFailed (metJobs s c ++ [j])
        { t with colls := s.colls.filter (fun x => x.id != c.id) }
      refine ⟨fun y hy hin => ?_, fun x hx => ?_⟩
      · obtain ⟨⟨z, hz, hzy⟩, hrun⟩ := hQ y hy
        exact hrun (met_or_joins hj (hjobs ▸ hz) hzy hin)
      · rw [hcolls] at hx
        simpa using (List.mem_filter.mp hx).2

end Sys2Proof.Claim

/-! What leaves the engine's jobs and the orreries' collectives as they are (R175, R182). -/
namespace Sys2Proof.Machine
open Sys2Proof Sys2Proof.Claim

/-- The engine's jobs and the orreries' collectives stand. -/
def SameWork (s u : State) : Prop := u.jobs = s.jobs ∧ u.colls = s.colls

namespace SameWork

theorem refl (s : State) : SameWork s s := ⟨rfl, rfl⟩

variable {s t u : State}

theorem trans (h : SameWork s t) (h' : SameWork t u) : SameWork s u := ⟨h'.1.trans h.1, h'.2.trans h.2⟩

theorem foldl {α : Type} {g : State → α → State} (hg : ∀ t a, SameWork t (g t a)) (as : List α) (s : State) :
    SameWork s (as.foldl g s) :=
  List.foldlRecOn (motive := SameWork s) as g (refl s) (fun _ ht a _ => ht.trans (hg _ a))

theorem woken (h : Woken s u) : SameWork s u := ⟨by rw [h.frame], by rw [h.frame]⟩

theorem reported (h : ReportedFrom s u) : SameWork s u := by
  obtain ⟨_, _, _, _, rfl⟩ := h
  exact ⟨rfl, rfl⟩

theorem charged (h : ChargedFrom s u) : SameWork s u := by
  obtain ⟨⟨_, rfl⟩, -⟩ := h
  exact ⟨rfl, rfl⟩

theorem setU (s : State) (lf : Leaf) : SameWork s (setU s lf) := by
  rw [setU_frame]
  exact ⟨rfl, rfl⟩

theorem updBlock (s : State) (b : Nat) (g : Block → Block) : SameWork s (s.updBlock b g) := ⟨rfl, rfl⟩

/-! ## Drains and revokes -/

theorem refuseEntry (s : State) (core : Nat) (e : Entry) (c : BitVec 8) (k : Nat) : SameWork s (refuseEntry s core e c k) := by
  unfold Machine.refuseEntry
  split
  · exact ⟨rfl, rfl⟩
  · exact (show SameWork s (freeEntry s core e.id) from ⟨rfl, rfl⟩).trans (reported (report_from ..))

theorem drainAlloc (s : State) (core : Nat) (e : Entry) (pa page : Nat) : SameWork s (drainAlloc s core e pa page) := by
  unfold Machine.drainAlloc
  split
  · exact ⟨rfl, rfl⟩
  · split
    · unfold sliceFill
      dsimp only
      split
      · exact ⟨rfl, rfl⟩
      · exact ⟨rfl, rfl⟩
    · exact refl s

theorem drainEntry (s : State) (core : Nat) (e : Entry) (pa page : Nat) : SameWork s (drainEntry s core e pa page) := by
  unfold Machine.drainEntry
  dsimp only
  split
  · exact (drainAlloc s core e pa page).trans ⟨rfl, rfl⟩
  · exact (drainAlloc s core e pa page).trans ⟨rfl, rfl⟩

theorem budgetAll (p q : Nat) (acts : List (Nat × Nat)) {act : State → State} (ha : ∀ t, SameWork t (act t)) (s : State) :
    SameWork s (budgetAll s p q acts act) := by
  unfold Machine.budgetAll
  split
  · exact ⟨rfl, rfl⟩
  · refine (foldl (fun t a => ?_) acts s).trans (ha _)
    split
    · exact refl t
    · exact ⟨rfl, rfl⟩

theorem drainNow (s : State) (core : Nat) (e : Entry) : SameWork s (drainNow s core e) := by
  unfold Machine.drainNow
  split
  · exact refuseEntry ..
  · exact refl s
  · split
    · refine budgetAll _ _ _ (fun t => ?_) s
      split
      · exact (setU t _).trans (drainEntry ..)
      · exact drainEntry ..
    · exact ⟨rfl, rfl⟩

theorem drainHolders (core : Nat) : ∀ (xs : List (Entry × Nat)) {s t : State}, drainHolders core xs s = some t → SameWork s t
  | [], s, _, h => by
    cases h
    exact refl s
  | x :: xs, s, t, h => by
    unfold Machine.drainHolders at h
    split at h
    · exact drainHolders core xs h
    · split at h
      · exact (drainNow ..).trans (drainHolders core xs h)
      · cases h

theorem dropResv (s : State) (core pw : Nat) : SameWork s (dropResv s core pw) := by
  unfold Machine.dropResv
  split
  · exact refl s
  · split
    · split
      · exact ⟨rfl, rfl⟩
      · exact refl s
    · exact refl s

theorem revokeAt (s : State) (core pw : Nat) : SameWork s (revokeAt s core pw) := by
  unfold Machine.revokeAt
  dsimp only
  split
  · next hd => exact ((dropResv s core pw).trans (drainHolders _ _ hd)).trans ⟨rfl, rfl⟩
  · refine (dropResv s core pw).trans (.trans ?_
      (foldl (g := fun (st : State) (x : Entry × Nat) => setRequested st core x.1.id [x.2]) (fun _ _ => ⟨rfl, rfl⟩) _ _))
    exact ⟨rfl, rfl⟩

theorem clearOwner (s : State) (w : Nat) : SameWork s (clearOwner s w) := by
  refine (foldl (g := fun (t : State) (c : Nat × Core) => if c.2.owned.any (fun o => o.2 == w) then Machine.revokeAt t c.1 w else t)
    (fun t c => ?_) s.cores s).trans ⟨rfl, rfl⟩
  split
  · exact revokeAt ..
  · exact refl t

theorem clearOwners (s : State) (ws : List Nat) : SameWork s (clearOwners s ws) := foldl clearOwner ws s

/-! ## Writes of the engine -/

theorem enginePut (s : State) (d : Dest) (bs : List Byte) (on : Nat → Bool) (poison : Bool) :
    SameWork s (enginePut s d bs on poison) := by
  cases d with
  | home pa lf =>
    rw [enginePut_home]
    exact ⟨rfl, rfl⟩
  | host key => exact ⟨rfl, rfl⟩
  | waits => exact refl s
  | bad c a => exact refl s
  | pad b o acc =>
    unfold Machine.enginePut
    dsimp only
    split
    · exact ⟨rfl, rfl⟩
    · refine foldl (fun t x => ?_) _ s
      split
      · exact ⟨rfl, rfl⟩
      · exact refl t

theorem enginePuts (s : State) (ds : List (Dest × Nat × Nat)) (bs : List Byte) (on : Nat → Bool) (poison : Bool) :
    SameWork s (enginePuts s ds bs on poison) := by
  refine foldl (fun t d => ?_) ds s
  refine .trans ?_ (enginePut ..)
  split
  · exact clearOwners ..
  · exact refl t

/-! ## The end of a job -/

theorem finishDiscard (s : State) (b : Nat) : SameWork s (finishDiscard s b) := by
  unfold Machine.finishDiscard
  dsimp only
  split
  · exact refl s
  · exact ⟨rfl, rfl⟩

theorem packetDone (s : State) (q : Nat) (seq : Word) (st : Nat) : SameWork s (packetDone s q seq st) := by
  unfold Machine.packetDone
  split
  · exact refl s
  · dsimp only
    split
    · exact ⟨rfl, rfl⟩
    · exact ⟨rfl, rfl⟩

end SameWork

/-- The end of a job takes it off the engine's list, and leaves the rest of the work. -/
theorem endJob_work (s : State) (j : Job) (err : Bool) : SameWork (withoutJob s j) (endJob s j err) := by
  unfold endJob
  rw [← withoutJob]
  generalize withoutJob s j = t
  cases j.blk with
  | none =>
    dsimp only
    split
    · exact .packetDone ..
    · exact .refl t
  | some b =>
    dsimp only
    generalize hend : finishDiscard _ b = u
    have hu : SameWork t u := by
      rw [← hend]
      refine .trans (.trans ?_ (.woken (.wakeJobSlots ..))) (.finishDiscard ..)
      have hcpwait : ∀ (v w : State) (c : Prop) [Decidable c], SameWork t v → SameWork t w →
          SameWork t (if c then wakeCpwait v b j.lane else w) := fun v w c _ hv hw => by
        split
        · exact hv.trans (.woken (.wakeCpwait ..))
        · exact hw
      have hmoved := SameWork.updBlock t b (fun x =>
        { x with cpb := x.cpb + BitVec.ofNat 64 (if err then 0 else j.moved + j.done.length * jobEsz j) })
      split
      · exact .trans (hcpwait _ _ _ (hmoved.trans (.updBlock ..)) hmoved) (.updBlock ..)
      · exact hcpwait _ _ _ (hmoved.trans (.updBlock ..)) hmoved
    split
    · exact hu.trans (.packetDone ..)
    · exact hu

/-- Job `k` is off the engine's list, on which no other job is new; the orreries' collectives stand. -/
def Leaves (s u : State) (k : Nat) : Prop := u.colls = s.colls ∧ ∀ y ∈ u.jobs, y.id ≠ k ∧ ∃ z ∈ s.jobs, z.id = y.id

theorem endJob_leaves {s t : State} {j : Job} (h : SameWork s t) (err : Bool) : Leaves s (endJob t j err) j.id := by
  obtain ⟨hjobs, hcolls⟩ := endJob_work t j err
  obtain ⟨w, hw⟩ := (landed_landLines { t with jobs := t.jobs.filter (fun x => x.id != j.id) } j.id j.cleared).jobs
  have hc : (withoutJob t j).colls = t.colls := by
    rw [withoutJob, (landed_landLines ..).frame]
  refine ⟨(hcolls.trans hc).trans h.2, fun y hy => ?_⟩
  rw [hjobs, withoutJob, hw, h.1] at hy
  obtain ⟨z, hz, rfl⟩ := List.mem_map.mp hy
  obtain ⟨hmem, hne⟩ := List.mem_filter.mp hz
  exact ⟨by simpa using hne, z, hmem, rfl⟩

theorem reportJob_work (s : State) (j : Job) (c : BitVec 8) (a : Dword) : SameWork s (reportJob s j c a) :=
  .reported (reportJob_from ..)

/-! ## The words of a complete collective -/

/-- Words that wait for nothing are written, or refused, and what follows goes on from the same work. -/
theorem afterWords_goes {s : State} {j : Job} {ws : List (Dword × List Byte)}
    (hwait : ∀ d ∈ engineWords s j ws, destWaits d.1 = false) (hlim : NoLimits s j.part)
    (act : State → Option (BitVec 8 × Dword) → State) :
    ∃ t e, afterWords s j ws act = act t e ∧ SameWork s t := by
  have hany : (engineWords s j ws).any (fun d => destWaits d.1) = false :=
    List.any_eq_false.mpr (fun d hd => by rw [hwait d hd]; simp)
  obtain ⟨t, hact, hcharged⟩ := budgetAll_free hlim j.id (wordCharges (engineWords s j ws))
  unfold afterWords
  dsimp only
  rw [hany]
  simp only [Bool.false_eq_true, if_false]
  refine ⟨_, _, hact _, (SameWork.charged hcharged).trans (.foldl (fun t d => ?_) _ _)⟩
  split
  · exact .refl t
  · exact .enginePuts ..

/-- A complete job's words are written, and it ends: failed where its words were refused. -/
def wordsEnd (s : State) (j : Job) : State :=
  afterWords s j (cardWords s j false) (fun t e =>
    match e with | some e => endJob (reportJob t j e.1 e.2) j true | none => endJob t j false)

theorem wordsEnd_leaves {s : State} {j : Job} (hwait : ∀ d ∈ engineWords s j (cardWords s j false), destWaits d.1 = false)
    (hlim : NoLimits s j.part) : Leaves s (wordsEnd s j) j.id := by
  obtain ⟨t, e, hact, hwork⟩ := afterWords_goes hwait hlim (fun t e =>
    match e with | some e => endJob (reportJob t j e.1 e.2) j true | none => endJob t j false)
  rw [wordsEnd, hact]
  cases e with
  | some e => exact endJob_leaves (hwork.trans (reportJob_work ..)) true
  | none => exact endJob_leaves hwork false

/-- After the words of some jobs none of them is on the engine's list, and no job is new. -/
theorem wordsEnd_all : ∀ {js : List Job} {s : State}, WordsGo s js →
    (js.foldl wordsEnd s).colls = s.colls ∧
      ∀ y ∈ (js.foldl wordsEnd s).jobs, (∃ z ∈ s.jobs, z.id = y.id) ∧ ∀ j ∈ js, y.id ≠ j.id
  | [], s, _ => ⟨rfl, fun y hy => ⟨⟨y, hy, rfl⟩, fun _ h => (by cases h)⟩⟩
  | j :: js, s, h => by
    obtain ⟨hwait, hlim, hrest⟩ := h
    obtain ⟨hcolls, hleft⟩ := wordsEnd_leaves hwait hlim
    obtain ⟨hcolls', hall⟩ := wordsEnd_all (s := wordsEnd s j) hrest
    refine ⟨hcolls'.trans hcolls, fun y hy => ?_⟩
    obtain ⟨⟨z, hz, hzy⟩, hnone⟩ := hall y hy
    obtain ⟨hne, v, hv, hvz⟩ := hleft z hz
    refine ⟨⟨v, hv, hvz.trans hzy⟩, fun i hi => ?_⟩
    rcases List.mem_cons.mp hi with rfl | hi
    · exact hzy ▸ hne
    · exact hnone i hi

end Sys2Proof.Machine

namespace Sys2Proof.Claim
open Sys2Proof.Machine

/-- R182: a complete collective leaves its orrery, and its jobs the engine. -/
theorem collectiveCompletes {s : State} {d k : Nat} {c : Coll} (hc : s.colls.find? (fun x => x.id == k && x.die == d) = some c)
    (hstart : c.started = true) (hfr : s.frozen c.part = false)
    (hdone : ∀ j ∈ s.jobs, c.jobs.contains j.id = true → j.failed = none ∧ allDone j = true)
    (hgo : WordsGo s (s.jobs.filter (fun x => c.jobs.contains x.id))) :
    ∃ u, exec (.collectiveComplete d k) s = .next u ∧ u.colls = s.colls.filter (fun x => x.id != k) ∧
      ∀ x ∈ u.jobs, c.jobs.contains x.id = false := by
  have hready : (!c.started || s.frozen c.part || (metJobs s c).any (fun j => j.failed.isSome || !allDone j)) = false := by
    have hany : (metJobs s c).any (fun j => j.failed.isSome || !allDone j) = false :=
      List.any_eq_false.mpr (fun j hj => by
      obtain ⟨hmem, hin⟩ := List.mem_filter.mp hj
      obtain ⟨hok, hall⟩ := hdone j hmem hin
      simp [hok, hall])
    rw [hstart, hfr, hany]
    rfl
  obtain ⟨hcolls, hall⟩ := wordsEnd_all (js := metJobs s c) hgo
  have hgone : ∀ y ∈ ((metJobs s c).foldl wordsEnd s).jobs, c.jobs.contains y.id = false := fun y hy => by
    obtain ⟨⟨z, hz, hzy⟩, hne⟩ := hall y hy
    by_contra hin
    exact hne z (List.mem_filter.mpr ⟨hz, by simpa [hzy] using hin⟩) hzy.symm
  have hnone : ((metJobs s c).foldl wordsEnd s).jobs.any (fun x => c.jobs.contains x.id) = false :=
    List.any_eq_false.mpr (fun y hy => by rw [hgone y hy]; simp)
  have hexec : execCollectiveComplete d k s = .next { (metJobs s c).foldl wordsEnd s with
      colls := ((metJobs s c).foldl wordsEnd s).colls.filter (fun x => x.id != k) } := by
    unfold execCollectiveComplete
    rw [hc]
    dsimp only
    rw [← metJobs, hready]
    exact congrArg _ ((if_neg Bool.false_ne_true).trans
      (if_neg (c := ((metJobs s c).foldl wordsEnd s).jobs.any (fun x => c.jobs.contains x.id) = true) (by rw [hnone]; simp)))
  refine ⟨_, hexec, ?_, hgone⟩
  show ((metJobs s c).foldl wordsEnd s).colls.filter (fun x => x.id != k) = _
  rw [hcolls]

theorem chainsAndCollectivesRun : ChainsAndCollectivesRun :=
  ⟨fun _ _ _ _ _ hj hk hst hlive hend hheld hptr hlim => chainRecordStarts hj hk hst hlive hend hheld hptr hlim,
    fun _ _ _ _ _ hj hk hlive hok hall hcwp hd hn hu hlim => chainRecordFinishes hj hk hlive hok hall hcwp hd hn hu hlim,
    fun _ _ _ hj hst hinst hb => collectivesMeet hj hst hinst hb,
    fun _ _ _ _ hc hstart hfr hdone hgo => collectiveCompletes hc hstart hfr hdone hgo⟩

end Sys2Proof.Claim

namespace Sys2Proof.Claim

/-- Settles O31: a job starts by its conditions alone; its end lands its lines, counts it and wakes lanes, none of which touches
memory; a record's last word and a collective's words go through the one way that the engine writes at a home; and a
collective's jobs leave the engine one after the other, which leaves the orreries' collectives as they are. -/
theorem engineJobs : Obligations.EngineJobs := ⟨jobsRun, chainsAndCollectivesRun⟩

end Sys2Proof.Claim
